-- ==== Sys2Proof/Word.lean ====
section
/-! DEFINITION. The words of the Eraux Torvas (spec/00_scope.md R2, spec/02 R30). -/
namespace Sys2Proof

/-- A byte of memory (R2). -/
abbrev Byte := BitVec 8
/-- A 64-bit word: an instruction word (R30), a special register (R16), a token payload (R133). -/
abbrev Word64 := BitVec 64

end Sys2Proof
end

