-- ==== Sys2Proof/Machine/Bits.lean ====
section
/-! DEFINITION. The plain arithmetic that the spec's pseudocode uses (spec/00 R2, R9, R10): extensions, bit slices, bytes, integer
square roots, and finite maps as sorted lists. -/
namespace Sys2Proof.Machine

/-- `zext(x, n)` of R10: the unsigned integer `x[n−1:0]`. -/
def zext (x n : Nat) : Nat := x % 2 ^ n

/-- `sext(x, n)` of R10: the integer whose `n`-bit two's complement form is `x[n−1:0]`; 0 when `n = 0`. -/
def sext (x n : Nat) : Int :=
  if n = 0 then 0
  else if x % 2 ^ n < 2 ^ (n - 1) then ((x % 2 ^ n : Nat) : Int) else ((x % 2 ^ n : Nat) : Int) - ((2 ^ n : Nat) : Int)

/-- An exact integer reduced modulo `2^n` (R41, R61). -/
def wrap (x : Int) (n : Nat) : Nat := (x % ((2 ^ n : Nat) : Int)).toNat

/-- `x` clamped to the range from `lo` to `hi` (R61). -/
def clamp (x lo hi : Int) : Int := if x < lo then lo else if x > hi then hi else x

/-- Bits `[hi:lo]` of a number (R2). -/
def bits (x hi lo : Nat) : Nat := x / 2 ^ lo % 2 ^ (hi + 1 - lo)

/-- Bit `i` of a number. -/
def bit (x i : Nat) : Bool := x / 2 ^ i % 2 == 1

/-- A truth value as 1 or 0 (R37). -/
def b2n (b : Bool) : Nat := if b then 1 else 0

/-- The field of `len` bits at `lo` replaced by the low bits of `v`. -/
def setBits (x lo len v : Nat) : Nat :=
  x / 2 ^ (lo + len) * 2 ^ (lo + len) + (v % 2 ^ len) * 2 ^ lo + x % 2 ^ lo

/-- The number of one bits among the low `n` bits. -/
def popCount (x : Nat) : Nat → Nat
  | 0 => 0
  | n + 1 => b2n (bit x n) + popCount x n

/-- The low `n` bits in reverse order (R88, BREV). -/
def reverseBits (x : Nat) : Nat → Nat
  | 0 => 0
  | n + 1 => reverseBits (x / 2) n + b2n (bit x 0) * 2 ^ n

/-- The number of leading zero bits of `x` in `n` bits (R88, CLZ). -/
def leadingZeros (x : Nat) : Nat → Nat
  | 0 => 0
  | n + 1 => if bit x n then 0 else 1 + leadingZeros x n

/-- `⌊√x⌋`, for `x < 4^n`, by trying the bits from the top. -/
def isqrtFrom (x : Nat) : Nat → Nat → Nat
  | 0, acc => acc
  | n + 1, acc => if (acc + 2 ^ n) * (acc + 2 ^ n) ≤ x then isqrtFrom x n (acc + 2 ^ n) else isqrtFrom x n acc

/-- `⌊√x⌋` for `x < 4^n`. -/
def isqrt (n x : Nat) : Nat := isqrtFrom x n 0

/-- A number from its little-endian bytes (R2). -/
def ofBytes : List Byte → Nat
  | [] => 0
  | b :: r => b.toNat + 256 * ofBytes r

/-- The `n` little-endian bytes of a number (R2). -/
def toBytes (x : Nat) : Nat → List Byte
  | 0 => []
  | n + 1 => BitVec.ofNat 8 x :: toBytes (x / 256) n

/-- The numbers `lo`, `lo + 1`, …, `n` of them. -/
def upFrom (lo : Nat) : Nat → List Nat
  | 0 => []
  | n + 1 => lo :: upFrom (lo + 1) n

/-- The numbers below `n` whose bit is set in `x`, ascending. -/
def setBitsOf (x n : Nat) : List Nat := (upFrom 0 n).filter fun i => bit x i

/-- Rounds up to a multiple of `n`. -/
def alignUp (x n : Nat) : Nat := (x + (n - 1)) / n * n

/-- A finite map with number keys: a list with rising keys. -/
abbrev SMap (α : Type) := List (Nat × α)

/-- The value at a key. -/
def SMap.get? {α : Type} : SMap α → Nat → Option α
  | [], _ => none
  | (j, v) :: r, k => if k = j then some v else SMap.get? r k

/-- The value at a key, with a default. -/
def SMap.getD {α : Type} (m : SMap α) (k : Nat) (d : α) : α := (m.get? k).getD d

/-- The map with the value at a key replaced. -/
def SMap.set {α : Type} : SMap α → Nat → α → SMap α
  | [], k, v => [(k, v)]
  | (j, u) :: r, k, v => if k < j then (k, v) :: (j, u) :: r else if k = j then (k, v) :: r else (j, u) :: SMap.set r k v

/-- The map without a key. -/
def SMap.del {α : Type} : SMap α → Nat → SMap α
  | [], _ => []
  | (j, u) :: r, k => if k = j then r else (j, u) :: SMap.del r k

/-- The map with the value at a key changed where the key is present. -/
def SMap.mod {α : Type} (m : SMap α) (k : Nat) (f : α → α) : SMap α :=
  m.map fun p => if p.1 = k then (p.1, f p.2) else p

/-- The element of a list replaced. -/
def setAt {α : Type} : List α → Nat → α → List α
  | [], _, _ => []
  | _ :: r, 0, v => v :: r
  | x :: r, n + 1, v => x :: setAt r n v

/-- The element of a list changed by a function. -/
def modAt {α : Type} : List α → Nat → (α → α) → List α
  | [], _, _ => []
  | x :: r, 0, f => f x :: r
  | x :: r, n + 1, f => x :: modAt r n f

/-- A pair inserted in an agenda ordered by time, after those of the same time. -/
def insertTime {α : Type} : List (Nat × α) → Nat → α → List (Nat × α)
  | [], t, v => [(t, v)]
  | (u, w) :: r, t, v => if t < u then (t, v) :: (u, w) :: r else (u, w) :: insertTime r t v

end Sys2Proof.Machine
end

