-- ==== Sys2Proof/Config.lean ====
section
/-! DEFINITION. What an implementation fixes and the free values: opaque constants without a body, applied to a counter of State
or to the operands they depend on. No proof can see what they are (notes/assumptions/6.md). -/
namespace Sys2Proof.Config

/-- A time that R443 (spec/17) leaves open, in cycles: device accesses, far atomics, engine rates. DESIGN CHOICE: notes/assumptions/64.md. -/
opaque freeDelay : Nat → Nat
/-- Whether a translation cache still holds an entry it has read (spec/18 R347). -/
opaque cacheKeeps : Nat → Bool
/-- Whether a route through a spare element takes a cycle more (spec/07 R173), by its two elements. DESIGN CHOICE: notes/assumptions/16.md. -/
opaque spareCycle : Nat → Nat → Bool
/-- Which line a full instruction cache gives up (spec/01 R21 names no policy). -/
opaque icacheVictim : Nat → Nat
/-- Whether a core's fabric has a fault that scan runs find, and the signature that a pattern then obtains on it (spec/22 R393), by pattern and core.
DEDUCED: notes/assumptions/29.md. -/
opaque fabricFaulty : Nat → Bool
opaque scanSignature : Nat → Nat → BitVec 32
/-- A byte of another package's memory (spec/24 R424), per access. DESIGN CHOICE: notes/assumptions/39.md. -/
opaque remoteByte : Nat → BitVec 8
/-- The fault, if any, that another package answers (spec/24 R424 steps 2 and 3), as a cause code; 0 is none. DESIGN CHOICE: notes/assumptions/39.md. -/
opaque remoteFault : Nat → BitVec 10
/-- Whether another package leaves a request unanswered (spec/24 R426), per request. DESIGN CHOICE: notes/assumptions/39.md. -/
opaque remoteSilent : Nat → Bool
/-- The port and the number of hops of the path to another package, which the firmware's routing tables give (spec/24 R422), by draw.
DESIGN CHOICE: notes/assumptions/53.md. -/
opaque portRoute : Nat → Nat
opaque portHops : Nat → Nat
/-- Whether the members that other packages have in a domain collective bring other parameters than this package's (spec/24 R425), and the elements of their
sources, by draw. DESIGN CHOICE: notes/assumptions/39.md. -/
opaque peerDiffers : Nat → Bool
opaque peerElement : Nat → BitVec 64
/-- The bits of a flit that its way over the lanes changes (spec/24 R417), per flit. DESIGN CHOICE: notes/assumptions/53.md. -/
opaque wireError : Nat → BitVec 256
/-- The mean current of a string's layer over an interval, in mA (spec/08 R180). -/
opaque layerCurrent : Nat → Nat
/-- The package power in W averaged over 1 ms, and its peak sample in an interval (spec/08 R185). -/
opaque averagePower : Nat → Nat
opaque peakPower : Nat → Nat
/-- A sensor's reading in 1/16 °C (spec/08 R187). -/
opaque sensorReading : Nat → Int
/-- A string's leakage in mA (spec/08 R188). -/
opaque leakageCurrent : Nat → Nat
/-- The package power in W after a lease is suspended (spec/08 R185). -/
opaque projectedPower : Nat → Nat
/-- A byte of the firmware log in the fatal dump (spec/23 R411). -/
opaque firmwareLog : Nat → BitVec 8
/-- The firmware's error threshold of an Eraux port (spec/24 R422). DEDUCED: notes/assumptions/53.md. -/
opaque portThreshold : Nat
/-- The CAUSE field of a token whose status is cancelled or aborted (spec/17 R317 names no cause). -/
opaque freeCause : Nat → BitVec 10
/-- A poisoned accumulator entry that MNORM.max scales beyond 48 bits (spec/11 R232 states no value), by draw and entry.
DEDUCED: notes/assumptions/58.md. -/
opaque freeEntry : Nat → Nat → BitVec 48
/-- $EVAL of a trap for which the spec names none: DMAS on a bank or stream (spec/17 R326); and ARG1 of a BKPT_HALT record that no BKPT made (spec/23 R408).
DESIGN CHOICE: notes/assumptions/18.md. -/
opaque freeEval : Nat → BitVec 64
/-- Whether a debug agent has enabled debug halt for a core, per core start (spec/23 R408 names no register). DESIGN CHOICE: notes/assumptions/24.md. -/
opaque debugHalt : Nat → Bool
/-- Where the search for a free media frame begins (spec/18 R354 names no choice). DESIGN CHOICE: notes/assumptions/40.md. -/
opaque frameFrom : Nat → Nat
/-- The step at which a repeated bring-up fails, if it is one from 3 to 7 (spec/26 R441). DEDUCED: notes/assumptions/48.md. -/
opaque bootFails : Nat → Nat
/-- The revision field of the ID register (spec/26 R433 names no value). -/
opaque revision : BitVec 8

end Sys2Proof.Config
end

