-- ==== Sys2Proof/Syntax.lean ====
section
/-! DEFINITION. The steps of the machine as data: operands, modifiers and the ONE inductive `Instr`, with one constructor per row
of spec/opcode_table.json: the 192 instructions of spec/02 R50 and the 101 further steps of spec/95. -/
namespace Sys2Proof

/-- An operand field (spec/02 R34, R35). `cnt` is the number of slices minus 1. -/
inductive Operand where
  | slice (start : BitVec 7) (cnt : BitVec 4)
  | inChan (ch : BitVec 3) (keep : Bool)
  | outChan (ch : BitVec 3) (kind : BitVec 2)
  | pass (q : BitVec 2) (out : Bool)
  | pred (p : BitVec 3)
  | imm (v : BitVec 8)
  | sreg (n : BitVec 8)
  | port (k : BitVec 2) (out : Bool)
  | res (r : BitVec 3)
deriving DecidableEq, Repr

/-- The rounding modifier (spec/02 R33). -/
inductive Rounding where
  | rne | rtz | rup | rdn | rsr
deriving DecidableEq, Repr

/-- The lane-width modifier (spec/02 R33). -/
inductive Lane where
  | l4 | l8 | l16 | l32 | l64
deriving DecidableEq, Repr

/-- The lane width in bits (spec/09 R203). -/
def Lane.width : Lane → Nat
  | .l4 => 4 | .l8 => 8 | .l16 => 16 | .l32 => 32 | .l64 => 64

/-- The lane-and-sign modifier (spec/09 R204). -/
structure LaneSign where
  ln : Lane
  unsigned : Bool
deriving DecidableEq, Repr

/-- The L formats as a modifier (spec/05 R108, spec/11 R230). -/
inductive LFmt where
  | l6 | l8 | l12
deriving DecidableEq, Repr

/-- Where operand A of the MMAC family comes from (spec/11 R227): the row bus with a scale operand, or group `g` of the store. -/
inductive MmacSrc where
  | bus (scale : Operand)
  | store (g : BitVec 3)
deriving DecidableEq, Repr

/-- The agent whose step it is: the control core of physical core `k`, or context `c` of element `e` (stripe · 16 + column) of
core `k`, firing card slot `slot`. The model's own data (notes/assumptions/1.md). -/
inductive Site where
  | cc (k : Nat)
  | ctx (k e c slot : Nat)
deriving DecidableEq, Repr

/-- The mean layer currents that the balancers of a string report (spec/08 R180). -/
structure Meas where
  core : Nat
  str : Nat
  mA : List Nat
deriving DecidableEq, Repr

/-- Where an uncorrectable error is detected (spec/21 R389). `region` names the region that holds the part, 8 the control core; any other number
names none (spec/23 R411). -/
inductive ErrorSite where
  | corrected (die : Nat) (cls : Nat)
  | tileUnit (core : Nat) (addr : Nat)
  | accEntry (core elem row col : Nat)
  | storeCode (core elem idx : Nat)
  | slice (core region : Nat)
  | cardStore (core region : Nat)
  | fabric (core region : Nat)
  | media (core : Nat) (tier : Nat) (addr : Nat)
  | correctedAtom (die : Nat) (addr : Nat)
  | verifyAtom (core : Nat) (addr : Nat)
deriving DecidableEq, Repr

/-- One scan pattern of the signed pattern set (spec/05 R124). -/
structure ScanPattern where
  num : Nat
  runUs : Nat
  expected : BitVec 32
deriving DecidableEq, Repr

/-- The operating-point data of one string (spec/08 R187, R188): its sensor, its leakage thresholds and its table of 21 temperature
bins by 8 leakage bins in mV, row by row. -/
structure OpTable where
  core : Nat
  str : Nat
  sensor : Nat
  thresholds : List Nat
  mV : List Nat
deriving DecidableEq, Repr

/-- The signed repair and trim record (spec/26 R441 step 3). `faultyM` marks M-elements replaced by the spare, `badStrings` strings
out of the logical map (spec/07 R173), `laneSpares` lanes carried by spares from bring-up (spec/24 R421). -/
structure TrimRecord where
  opTables : List OpTable
  patterns : List ScanPattern
  faultyM : List (Nat × Nat)
  badStrings : List (Nat × Nat)
  laneSpares : List (Nat × Nat × Nat)
deriving DecidableEq, Repr

/-- What bring-up takes from outside the package (spec/26 R441): the step that fails, 0 for none; whether it starts at power-on; the
trim record; the indirection entries that the firmware builds; the module's number in its domain. -/
structure BringUp where
  fails : Nat
  trim : TrimRecord
  indirection : List (Nat × BitVec 32)
  ownPkg : Nat
deriving DecidableEq, Repr


/-- One step of the machine: an instruction of spec/02 R50 with its guard field `g` and its operands, or a further step of spec/95. -/
inductive Instr where
  | add (g : BitVec 16) (d : Operand) (a : Operand) (b : Operand)
  | sub (g : BitVec 16) (d : Operand) (a : Operand) (b : Operand)
  | adds (g : BitVec 16) (d : Operand) (a : Operand) (b : Operand)
  | subs (g : BitVec 16) (d : Operand) (a : Operand) (b : Operand)
  | addz (g : BitVec 16) (d : Operand) (a : Operand) (b : Operand)
  | subz (g : BitVec 16) (d : Operand) (a : Operand) (b : Operand)
  | neg (g : BitVec 16) (d : Operand) (a : Operand)
  | abs (g : BitVec 16) (d : Operand) (a : Operand)
  | mins (g : BitVec 16) (d : Operand) (a : Operand) (b : Operand)
  | minz (g : BitVec 16) (d : Operand) (a : Operand) (b : Operand)
  | maxs (g : BitVec 16) (d : Operand) (a : Operand) (b : Operand)
  | maxz (g : BitVec 16) (d : Operand) (a : Operand) (b : Operand)
  | addc (g : BitVec 16) (d : Operand) (a : Operand) (b : Operand) (p : BitVec 3)
  | subb (g : BitVec 16) (d : Operand) (a : Operand) (b : Operand) (p : BitVec 3)
  | mul (g : BitVec 16) (d : Operand) (a : Operand) (b : Operand)
  | mulhs (g : BitVec 16) (d : Operand) (a : Operand) (b : Operand)
  | mulhz (g : BitVec 16) (d : Operand) (a : Operand) (b : Operand)
  | mad (g : BitVec 16) (d : Operand) (a : Operand) (b : Operand)
  | divs (g : BitVec 16) (d : Operand) (a : Operand) (b : Operand)
  | divz (g : BitVec 16) (d : Operand) (a : Operand) (b : Operand)
  | rems (g : BitVec 16) (d : Operand) (a : Operand) (b : Operand)
  | remz (g : BitVec 16) (d : Operand) (a : Operand) (b : Operand)
  | and (g : BitVec 16) (d : Operand) (a : Operand) (b : Operand)
  | or (g : BitVec 16) (d : Operand) (a : Operand) (b : Operand)
  | xor (g : BitVec 16) (d : Operand) (a : Operand) (b : Operand)
  | andn (g : BitVec 16) (d : Operand) (a : Operand) (b : Operand)
  | not (g : BitVec 16) (d : Operand) (a : Operand)
  | shl (g : BitVec 16) (d : Operand) (a : Operand) (b : Operand)
  | shrz (g : BitVec 16) (d : Operand) (a : Operand) (b : Operand)
  | shrs (g : BitVec 16) (d : Operand) (a : Operand) (b : Operand)
  | rotl (g : BitVec 16) (d : Operand) (a : Operand) (b : Operand)
  | clz (g : BitVec 16) (d : Operand) (a : Operand)
  | popc (g : BitVec 16) (d : Operand) (a : Operand)
  | brev (g : BitVec 16) (d : Operand) (a : Operand)
  | mov (g : BitVec 16) (d : Operand) (a : Operand)
  | movi (g : BitVec 16) (d : Operand) (imm : BitVec 28)
  | movhi (g : BitVec 16) (d : Operand) (imm : BitVec 28)
  | sext (g : BitVec 16) (d : Operand) (a : Operand) (b : Operand)
  | zext (g : BitVec 16) (d : Operand) (a : Operand) (b : Operand)
  | slext (g : BitVec 16) (d : Operand) (a : Operand) (b : Operand)
  | slins (g : BitVec 16) (d : Operand) (a : Operand) (b : Operand)
  | pack (g : BitVec 16) (d : Operand) (a : Operand) (b : Operand)
  | unpk (g : BitVec 16) (d : Operand) (a : Operand) (b : Operand)
  | swap (g : BitVec 16) (d : Operand) (a : Operand)
  | slclr (g : BitVec 16) (d : Operand) (a : Operand)
  | ceq (g : BitVec 16) (d : Operand) (a : Operand) (b : Operand)
  | cne (g : BitVec 16) (d : Operand) (a : Operand) (b : Operand)
  | clts (g : BitVec 16) (d : Operand) (a : Operand) (b : Operand)
  | cltz (g : BitVec 16) (d : Operand) (a : Operand) (b : Operand)
  | cles (g : BitVec 16) (d : Operand) (a : Operand) (b : Operand)
  | clez (g : BitVec 16) (d : Operand) (a : Operand) (b : Operand)
  | fceq (g : BitVec 16) (d : Operand) (a : Operand) (b : Operand)
  | fclt (g : BitVec 16) (d : Operand) (a : Operand) (b : Operand)
  | fcle (g : BitVec 16) (d : Operand) (a : Operand) (b : Operand)
  | fcun (g : BitVec 16) (d : Operand) (a : Operand) (b : Operand)
  | pmov (g : BitVec 16) (d : Operand) (a : Operand)
  | pand (g : BitVec 16) (d : Operand) (a : Operand) (b : Operand)
  | por (g : BitVec 16) (d : Operand) (a : Operand) (b : Operand)
  | pxor (g : BitVec 16) (d : Operand) (a : Operand) (b : Operand)
  | pnot (g : BitVec 16) (d : Operand) (a : Operand)
  | selp (g : BitVec 16) (d : Operand) (a : Operand) (b : Operand) (p : BitVec 3)
  | fadd (g : BitVec 16) (d : Operand) (a : Operand) (b : Operand) (rm : Rounding)
  | fsub (g : BitVec 16) (d : Operand) (a : Operand) (b : Operand) (rm : Rounding)
  | fmul (g : BitVec 16) (d : Operand) (a : Operand) (b : Operand) (rm : Rounding)
  | fma (g : BitVec 16) (d : Operand) (a : Operand) (b : Operand) (rm : Rounding)
  | fnma (g : BitVec 16) (d : Operand) (a : Operand) (b : Operand) (rm : Rounding)
  | fmin (g : BitVec 16) (d : Operand) (a : Operand) (b : Operand)
  | fmax (g : BitVec 16) (d : Operand) (a : Operand) (b : Operand)
  | fabs (g : BitVec 16) (d : Operand) (a : Operand)
  | fneg (g : BitVec 16) (d : Operand) (a : Operand)
  | frcp (g : BitVec 16) (d : Operand) (a : Operand) (rm : Rounding)
  | frsq (g : BitVec 16) (d : Operand) (a : Operand) (rm : Rounding)
  | fexp2 (g : BitVec 16) (d : Operand) (a : Operand) (rm : Rounding)
  | flog2 (g : BitVec 16) (d : Operand) (a : Operand) (rm : Rounding)
  | fdiv (g : BitVec 16) (d : Operand) (a : Operand) (b : Operand) (rm : Rounding)
  | fsqrt (g : BitVec 16) (d : Operand) (a : Operand) (rm : Rounding)
  | fscale (g : BitVec 16) (d : Operand) (a : Operand) (b : Operand) (rm : Rounding)
  | fcvts (g : BitVec 16) (d : Operand) (a : Operand) (rm : Rounding)
  | fcvtz (g : BitVec 16) (d : Operand) (a : Operand) (rm : Rounding)
  | ftois (g : BitVec 16) (d : Operand) (a : Operand) (rm : Rounding)
  | ftoiz (g : BitVec 16) (d : Operand) (a : Operand) (rm : Rounding)
  | frnd (g : BitVec 16) (d : Operand) (a : Operand) (rm : Rounding)
  | fnorm (g : BitVec 16) (d : Operand) (a : Operand)
  | fgete (g : BitVec 16) (d : Operand) (a : Operand)
  | fgetm (g : BitVec 16) (d : Operand) (a : Operand)
  | fsete (g : BitVec 16) (d : Operand) (a : Operand) (b : Operand) (rm : Rounding)
  | ftol (g : BitVec 16) (d : Operand) (a : Operand) (f : LFmt)
  | ltof (g : BitVec 16) (d : Operand) (a : Operand) (f : LFmt)
  | f32w (g : BitVec 16) (d : Operand) (a : Operand)
  | wf32 (g : BitVec 16) (d : Operand) (a : Operand) (rm : Rounding)
  | br (g : BitVec 16) (off : BitVec 36)
  | jmp (g : BitVec 16) (a : Operand)
  | jal (g : BitVec 16) (d : Operand) (off : BitVec 24)
  | jalr (g : BitVec 16) (d : Operand) (a : Operand)
  | loop (g : BitVec 16) (d : Operand) (a : Operand)
  | waitp (g : BitVec 16) (a : Operand)
  | halt (g : BitVec 16)
  | nop (g : BitVec 16)
  | trap (g : BitVec 16) (a : Operand) (b : Operand)
  | eret (g : BitVec 16)
  | srd (g : BitVec 16) (d : Operand) (a : Operand)
  | swr (g : BitVec 16) (d : Operand) (a : Operand)
  | cfence (g : BitVec 16)
  | wfe (g : BitVec 16) (d : Operand) (a : Operand) (b : Operand)
  | bkpt (g : BitVec 16) (a : Operand)
  | emit (g : BitVec 16) (d : Operand) (a : Operand) (b : Option Operand)
  | deq (g : BitVec 16) (a : Operand)
  | peekk (g : BitVec 16) (d : Operand) (a : Operand)
  | ctok (g : BitVec 16) (d : Operand) (a : Operand) (b : Option Operand)
  | pass (g : BitVec 16) (d : Operand) (a : Operand)
  | retire (g : BitVec 16) (x : Bool)
  | exit (g : BitVec 16) (a : Operand) (b : Option Operand) (nv : BitVec 3)
  | eow (g : BitVec 16) (d : Option Operand) (a : Operand)
  | tidx (g : BitVec 16) (d : Operand) (a : Operand) (b : Operand)
  | idle (g : BitVec 16) (a : Operand)
  | vadd (g : BitVec 16) (d : Operand) (a : Operand) (b : Operand) (ln : Lane)
  | vsub (g : BitVec 16) (d : Operand) (a : Operand) (b : Operand) (ln : Lane)
  | vadds (g : BitVec 16) (d : Operand) (a : Operand) (b : Operand) (ln : LaneSign)
  | vmin (g : BitVec 16) (d : Operand) (a : Operand) (b : Operand) (ln : LaneSign)
  | vmax (g : BitVec 16) (d : Operand) (a : Operand) (b : Operand) (ln : LaneSign)
  | vaddmin (g : BitVec 16) (d : Operand) (a : Operand) (b : Operand) (ln : LaneSign)
  | vaddmax (g : BitVec 16) (d : Operand) (a : Operand) (b : Operand) (ln : LaneSign)
  | vmul (g : BitVec 16) (d : Operand) (a : Operand) (b : Operand) (ln : Lane)
  | vsel (g : BitVec 16) (d : Operand) (a : Operand) (b : Operand) (ln : Lane)
  | lshl (g : BitVec 16) (d : Operand) (a : Operand) (b : Operand) (ln : Lane)
  | lshr (g : BitVec 16) (d : Operand) (a : Operand) (b : Operand) (ln : Lane)
  | vred (g : BitVec 16) (d : Operand) (a : Operand) (b : Operand) (ln : LaneSign)
  | vscan (g : BitVec 16) (d : Operand) (a : Operand) (b : Operand) (ln : LaneSign)
  | vbcast (g : BitVec 16) (d : Operand) (a : Operand) (b : Operand) (ln : Lane)
  | vcmp (g : BitVec 16) (d : Operand) (a : Operand) (b : Operand) (ln : LaneSign)
  | vdot (g : BitVec 16) (d : Operand) (a : Operand) (b : Operand) (ln : LaneSign)
  | mzero (g : BitVec 16) (a : Operand)
  | mmac (g : BitVec 16) (src : MmacSrc) (b : Operand)
  | mmac8 (g : BitVec 16) (src : MmacSrc) (b : Operand)
  | mmac12 (g : BitVec 16) (src : MmacSrc) (b : Operand)
  | mmacw (g : BitVec 16) (q : BitVec 2)
  | mdown (g : BitVec 16) (f : LFmt)
  | mread (g : BitVec 16) (d : Operand) (a : Operand) (b : Operand) (rm : Rounding)
  | mnorm (g : BitVec 16) (a : Option Operand)
  | mxget (g : BitVec 16) (d : Operand) (a : Operand)
  | mtask (g : BitVec 16) (d : Option Operand) (a : Operand) (b : Operand) (p : BitVec 2)
  | mpois (g : BitVec 16) (a : Operand) (x : Bool)
  | ld (g : BitVec 16) (d : Operand) (a : Operand) (b : Operand) (m : BitVec 4)
  | st (g : BitVec 16) (d : Operand) (a : Operand) (b : Operand) (m : BitVec 4)
  | ldf (g : BitVec 16) (d : Operand) (a : Operand) (b : Operand) (m : BitVec 4)
  | stf (g : BitVec 16) (d : Operand) (a : Operand) (b : Operand) (m : BitVec 4)
  | aadd (g : BitVec 16) (d : Operand) (a : Operand) (b : Operand) (m : BitVec 4)
  | amin (g : BitVec 16) (d : Operand) (a : Operand) (b : Operand) (m : BitVec 4)
  | amax (g : BitVec 16) (d : Operand) (a : Operand) (b : Operand) (m : BitVec 4)
  | aand (g : BitVec 16) (d : Operand) (a : Operand) (b : Operand) (m : BitVec 4)
  | aor (g : BitVec 16) (d : Operand) (a : Operand) (b : Operand) (m : BitVec 4)
  | axor (g : BitVec 16) (d : Operand) (a : Operand) (b : Operand) (m : BitVec 4)
  | axchg (g : BitVec 16) (d : Operand) (a : Operand) (b : Operand) (m : BitVec 4)
  | acas (g : BitVec 16) (d : Operand) (a : Operand) (b : Operand) (m : BitVec 4)
  | afadd (g : BitVec 16) (d : Operand) (a : Operand) (b : Operand) (m : BitVec 4)
  | fence (g : BitVec 16) (d : Option Operand) (a : Operand)
  | join (g : BitVec 16) (d : Operand) (a : Operand) (b : Operand)
  | fork (g : BitVec 16) (d : Operand) (a : Operand)
  | csetb (g : BitVec 16) (d : Operand) (a : Operand) (b : Operand)
  | candp (g : BitVec 16) (d : Operand) (a : Operand) (b : Operand)
  | cgetb (g : BitVec 16) (d : Operand) (a : Operand)
  | cgetl (g : BitVec 16) (d : Operand) (a : Operand)
  | cgetp (g : BitVec 16) (d : Operand) (a : Operand)
  | ctest (g : BitVec 16) (d : Operand) (a : Operand) (b : Operand)
  | cmov (g : BitVec 16) (d : Operand) (a : Operand)
  | cldc (g : BitVec 16) (d : Operand) (a : Operand) (b : Operand)
  | cstc (g : BitVec 16) (d : Operand) (a : Operand) (b : Operand)
  | cclr (g : BitVec 16) (d : Operand) (a : Operand)
  | csub (g : BitVec 16) (d : Operand) (a : Operand) (b : Operand)
  | dma (g : BitVec 16) (d : Operand) (a : Operand) (b : Operand) (m : BitVec 4)
  | dmas (g : BitVec 16) (d : Operand) (a : Operand) (b : Operand) (m : BitVec 4)
  | gath (g : BitVec 16) (d : Operand) (a : Operand) (b : Operand) (m : BitVec 4)
  | scat (g : BitVec 16) (d : Operand) (a : Operand) (b : Operand) (m : BitVec 4)
  | stage (g : BitVec 16) (d : Operand) (a : Operand) (b : Operand) (m : BitVec 4)
  | coll (g : BitVec 16) (d : Operand) (a : Operand) (b : Operand) (m : BitVec 4)
  | msg (g : BitVec 16) (d : Operand) (a : Operand) (b : Operand) (m : BitVec 4)
  | mrecv (g : BitVec 16) (d : Operand) (a : Operand) (b : Operand) (m : BitVec 4)
  | bankt (g : BitVec 16) (a : Operand) (b : Operand)
  | launch (g : BitVec 16) (d : Operand) (a : Operand) (b : Operand) (m : BitVec 4)
  | gbar (g : BitVec 16) (a : Operand)
  | epoll (g : BitVec 16) (d : Operand) (a : Operand)
  | ecancel (g : BitVec 16) (a : Operand)
  | qwait (g : BitVec 16) (d : Operand) (a : Operand) (b : Operand)
  | lease (g : BitVec 16) (d : Operand) (a : Operand) (b : Operand)
  | lrel (g : BitVec 16)
  | pwrq (g : BitVec 16) (d : Operand) (a : Operand) (b : Operand)
  | tstamp (g : BitVec 16) (d : Operand)
  | mark (g : BitVec 16) (a : Operand) (b : Operand)
  | dstop (g : BitVec 16) (d : Operand) (a : Operand)
  | scant (g : BitVec 16) (d : Operand) (a : Operand)
  | scanq (g : BitVec 16) (d : Operand) (a : Operand)
  | lcmap (g : BitVec 16) (d : Operand) (a : Operand) (b : Operand)
  | writeBack (s : Site) (id : Nat)
  | trapEntry (k : Nat)
  | asynchronousTrap (k : Nat)
  | instructionCacheFill (k : Nat)
  | wfeTimeout (k : Nat)
  | tokenTransfer (k : Nat) (net : Nat) (link : Nat)
  | busPacketDiscard (k : Nat) (col : Bool) (bus : Nat)
  | fillerFiring (k : Nat) (e : Nat)
  | leaseExpiry (p : Nat)
  | passStart (k : Nat) (r : Nat)
  | entryTokenSend (k : Nat) (r : Nat)
  | pickLoad (k : Nat) (r : Nat) (row : Nat) (pick : Nat)
  | restoreComplete (k : Nat) (r : Nat) (row : Nat)
  | eviction (k : Nat) (r : Nat) (row : Nat)
  | spillComplete (k : Nat) (r : Nat) (row : Nat)
  | wrapDelivery (k : Nat) (r : Nat)
  | wrapOverflow (k : Nat) (r : Nat) (e : Nat)
  | initialRecordAppend (k : Nat) (r : Nat)
  | streamRead (k : Nat) (n : Nat) (s : Nat)
  | streamWrite (k : Nat) (n : Nat) (s : Nat)
  | nodeRequest (k : Nat) (n : Nat) (s : Nat)
  | streamRetry (k : Nat) (n : Nat) (s : Nat)
  | engineUnit (k : Nat) (id : Nat)
  | engineCompletion (k : Nat) (id : Nat)
  | segmentHandover (k : Nat) (id : Nat) (seg : Nat)
  | messageDelivery (k : Nat) (id : Nat)
  | messageTake (k : Nat)
  | recordEnqueue (k : Nat) (id : Nat)
  | farAtomicCompletion (k : Nat) (id : Nat)
  | recordCheck (p : Nat) (q : Nat)
  | memberPlacement (p : Nat) (q : Nat)
  | stagingFill (l : Nat) (m : Nat)
  | memberStart (l : Nat) (m : Nat)
  | launchCompletion (p : Nat) (q : Nat)
  | drain (k : Nat) (r : Nat)
  | freezeWave (k : Nat) (r : Nat)
  | freezeEnd (k : Nat) (r : Nat)
  | preemption (p : Nat) (q : Nat)
  | restore (l : Nat) (m : Nat)
  | gangAbort (l : Nat) (m : Nat) (cause : BitVec 10)
  | criticalPathStep (k : Nat)
  | regionStop (k : Nat) (r : Nat)
  | scanComplete (k : Nat)
  | reinitialisationEnd (k : Nat)
  | edgeValueArrival (k : Nat) (e : Nat)
  | acknowledgeTimer (g : Nat)
  | laneMapResend (g : Nat)
  | laneMapSwitch (g : Nat)
  | shootdownAck (p : Nat) (id : Nat) (cache : Nat)
  | shootdownComplete (p : Nat) (id : Nat)
  | shootdownTimeout (p : Nat) (id : Nat) (pkg : Nat)
  | trackerPeriod (stack : Nat)
  | blockSwitch (blk : Nat)
  | intervalStart
  | tokenInstalment
  | intervalEnd (ms : List Meas)
  | powerCapAction (avg : Nat) (peak : Nat)
  | sensorSample (die : Nat) (rd : List Int)
  | leakageMeasurement (k : Nat) (str : Nat) (mA : Nat)
  | oppoint (k : Nat) (str : Nat)
  | collTimeout (l : Nat) (tag : Nat)
  | barrierTimeout (l : Nat) (n : Nat)
  | uncorrectableError (e : ErrorSite)
  | fatalDump (cause : BitVec 10) (die : Nat)
  | flitReceive (g : Nat) (raw : BitVec 256)
  | portRetrain (n : Nat)
  | domainTimeout (pkg : Nat)
  | parkedReplay (blk : Nat)
  | atomRemap (tier : Nat) (media : Nat)
  | bar2Read (f : Nat) (off : Nat) (n : Nat)
  | bar2Write (f : Nat) (off : Nat) (data : List Byte)
  | bar0ReadFlush (f : Nat) (off : Nat)
  | submit (f : Nat) (v : Word64)
  | skip (f : Nat) (q : Nat)
  | retry (f : Nat) (q : Nat)
  | queueKill (f : Nat) (q : Nat)
  | shoot (f : Nat) (v : Word64)
  | regionAbort (f : Nat) (lc : Nat) (r : Nat)
  | imgfree (f : Nat) (off : Nat)
  | debugResume (f : Nat) (lc : Nat)
  | debugResumeAtDbgpc (f : Nat) (lc : Nat)
  | regionResume (f : Nat) (lc : Nat) (r : Nat)
  | regionImageWrite (f : Nat) (lc : Nat) (r : Nat)
  | eqctlWrite (f : Nat) (v : Word64)
  | registerWrite (f : Nat) (off : Nat) (v : Word64)
  | errorCounterRead (die : Nat)
  | laneStatusRead
  | partitionCreate
  | partitionDestroy
  | partitionReset
  | partitionResetComplete (p : Nat)
  | functionLevelReset (f : Nat)
  | vfDisable (n : Nat)
  | coreReset (k : Nat)
  | packageReset
  | fundamentalReset
  | dumpRelease
  | irqTimer (f : Nat)
  | bringUp (b : BringUp)
  | portRetrainEnd (n : Nat)
  | domainRebuild (own : Nat)
deriving DecidableEq, Repr

end Sys2Proof
end

