-- ==== Sys2Proof/Machine/Num.lean ====
section
/-! DEFINITION. Integers of any width (spec/03 R61 to R64) and the wide internal float W40 (spec/03 R65 to R73, R78): exact values,
rounding, and the results with their flags. -/
namespace Sys2Proof.Machine

/-- The signedness of an opcode (R40). -/
inductive Sgn where
  | s | z
deriving DecidableEq, Repr

/-- The least value of width `w` (R61). -/
def loOf (g : Sgn) (w : Nat) : Int :=
  match g with
  | .s => -((2 ^ (w - 1) : Nat) : Int)
  | .z => 0

/-- The greatest value of width `w` (R61). -/
def hiOf (g : Sgn) (w : Nat) : Int :=
  match g with
  | .s => ((2 ^ (w - 1) : Nat) : Int) - 1
  | .z => ((2 ^ w : Nat) : Int) - 1

/-- A pattern of `w` bits read in a signedness (R40, R61). -/
def readAs (g : Sgn) (x w : Nat) : Int :=
  match g with
  | .s => sext x w
  | .z => (zext x w : Nat)

/-- A result narrowed to `w` bits, clamped when the instruction saturates (R41, R61). -/
def narrow (sat : Bool) (g : Sgn) (x : Int) (w : Nat) : Nat :=
  if sat then wrap (clamp x (loOf g w) (hiOf g w)) w else wrap x w

/-- R62: the quotient at width `w`. -/
def quotient (g : Sgn) (a b : Int) (w : Nat) : Int :=
  match g with
  | .s => if b = 0 then -1 else a.tdiv b
  | .z => if b = 0 then ((2 ^ w : Nat) : Int) - 1 else a.tdiv b

/-- R62: the remainder, with the sign of the dividend. -/
def remainder (a b : Int) : Int := if b = 0 then a else a.tmod b

/-- R67: W40 words with a name. -/
def wNaN : Nat := 0x4000000002
def wScaleNaN : Nat := 0x4000000003
def wZero (s : Bool) : Nat := b2n s * 2 ^ 39 + 0x4000000000
def wInf (s : Bool) : Nat := b2n s * 2 ^ 39 + 0x4000000001
def wMax (s : Bool) : Nat := b2n s * 2 ^ 39 + 0x3FFFFFFFFF
def wMin (s : Bool) : Nat := b2n s * 2 ^ 39 + 0x4018000000
def wOne : Nat := 0x0008000000

/-- What a W40 word denotes (R66): a finite value `(−1)^s · m · 2^k`, an infinity, or a NaN with its significand. -/
inductive Real40 where
  | fin (s : Bool) (m : Nat) (k : Int)
  | inf (s : Bool)
  | nan (s : Bool) (m : Nat)
deriving DecidableEq, Repr

/-- R66: the value of the low 40 bits of a word. -/
def readW (x : Nat) : Real40 :=
  let s := bit x 39
  let e := sext (bits x 38 28) 11
  let m := bits x 27 0
  if e = -1024 then
    if m = 0 then .fin s 0 0 else if m = 1 then .inf s else .nan s m
  else .fin s m (e - 27)

/-- The flag bits of R74. -/
def fNV : Nat := 16
def fDZ : Nat := 8
def fOF : Nat := 4
def fUF : Nat := 2
def fNX : Nat := 1

/-- A result with the flags that it raises (R74). -/
structure Flagged where
  val : Nat
  fl : Nat := 0
deriving DecidableEq, Repr

/-- A nonzero magnitude `(n + δ) · 2^k` with `δ = 0`, or `0 < δ < 1` when `more`; `n` then has at least 45 bits. -/
structure Mag where
  n : Nat
  k : Int
  more : Bool := false
deriving DecidableEq, Repr

/-- R70: `⌊log2⌋` of a magnitude. -/
def Mag.exp (x : Mag) : Int := (x.n.log2 : Nat) + x.k

/-- R70: the significand rounded to `p` bits (28 for W40, fewer for a subnormal of binary32), before renormalisation: the rounded
integer and whether it differs from `y`. `d` is the number of bits dropped. -/
def roundDrop (mode : Rounding) (h : Nat) (s : Bool) (n d : Nat) (more : Bool) : Nat × Bool :=
  let q := n / 2 ^ d
  let r := n % 2 ^ d
  let inexact := r != 0 || more
  let up : Nat := q + b2n inexact
  let n' := match mode with
    | .rne => if 2 ^ d < 2 * r || (2 * r == 2 ^ d && (more || q % 2 == 1)) then q + 1 else q
    | .rtz => q
    | .rsr => (n * 65536 + h * 2 ^ d) / 2 ^ (d + 16)
    | .rup => if s then q else up
    | .rdn => if s then up else q
  (n', inexact)

/-- R72: the result of an overflow; `mx` and `inf` are the format's largest finite value and infinity. -/
def overflowTo (mode : Rounding) (s : Bool) (mx inf : Nat) : Nat :=
  match mode with
  | .rne => inf
  | .rtz => mx
  | .rsr => mx
  | .rup => if s then mx else inf
  | .rdn => if s then inf else mx

/-- R70, R72, R73: a nonzero exact value rounded to W40. `h` is the offset of R71. -/
def roundW (mode : Rounding) (h : Nat) (s : Bool) (x : Mag) : Flagged :=
  let l := x.n.log2
  let (n, nx) := if l ≤ 27 then (x.n * 2 ^ (27 - l), x.more) else roundDrop mode h s x.n (l - 27) x.more
  let e := x.exp + (if n = 2 ^ 28 then 1 else 0)
  let n := if n = 2 ^ 28 then 2 ^ 27 else n
  if e > 1023 then { val := overflowTo mode s (wMax s) (wInf s), fl := fOF + fNX }
  else if e < -1023 then
    { val := match mode with
        | .rup => if s then wZero s else wMin s
        | .rdn => if s then wMin s else wZero s
        | _ => wZero s
      fl := fUF + fNX }
  else { val := b2n s * 2 ^ 39 + wrap e 11 * 2 ^ 28 + n, fl := if nx then fNX else 0 }

/-- R67: a NaN as it is written. -/
def normNaN (s : Bool) (m : Nat) : Nat := b2n s * 2 ^ 39 + 0x4000000000 + (if m = 2 || m = 3 then m else 2)

/-- R70, R73: a finite value rounded to W40; `zs` is the sign of an exact zero. -/
def roundFin (mode : Rounding) (h : Nat) (s : Bool) (m : Nat) (k : Int) (zs : Bool) : Flagged :=
  if m = 0 then { val := wZero zs } else roundW mode h s { n := m, k := k }

/-- R68: the first NaN among the sources, normalised. -/
def firstNaN : List Real40 → Option Nat
  | [] => none
  | .nan s m :: _ => some (normNaN s m)
  | _ :: r => firstNaN r

/-- R68: an invalid operation. -/
def invalid : Flagged := { val := wNaN, fl := fNV }

/-- The sign of a value. -/
def Real40.sign : Real40 → Bool
  | .fin s _ _ => s
  | .inf s => s
  | .nan s _ => s

/-- A value with its sign changed (FSUB, FNMA; R73). -/
def Real40.neg : Real40 → Real40
  | .fin s m k => .fin (!s) m k
  | .inf s => .inf (!s)
  | .nan s m => .nan s m

/-- A finite value as a signed integer at scale `k`, for `k` at most its own. -/
def scaled (s : Bool) (m : Nat) (k k' : Int) : Int :=
  let v : Int := (m * 2 ^ (k - k').toNat : Nat)
  if s then -v else v

/-- R70, R73: the exact sum of two finite values, rounded once. -/
def sumFin (mode : Rounding) (h : Nat) (s₁ : Bool) (m₁ : Nat) (k₁ : Int) (s₂ : Bool) (m₂ : Nat) (k₂ : Int) : Flagged :=
  if m₁ = 0 && m₂ = 0 then { val := wZero (if s₁ = s₂ then s₁ else mode == .rdn) }
  else if m₁ = 0 then roundFin mode h s₂ m₂ k₂ s₂
  else if m₂ = 0 then roundFin mode h s₁ m₁ k₁ s₁
  else
    let k := min k₁ k₂
    let v := scaled s₁ m₁ k₁ k + scaled s₂ m₂ k₂ k
    roundFin mode h (v < 0) v.natAbs k (mode == .rdn)

/-- FADD (R102): also FSUB with the second source's sign changed. `b` has no NaN that the first source's does not precede (R68). -/
def addReal (mode : Rounding) (h : Nat) (a b : Real40) : Flagged :=
  match firstNaN [a, b] with
  | some w => { val := w }
  | none =>
    match a, b with
    | .inf s, .inf t => if s = t then { val := wInf s } else invalid
    | .inf s, _ => { val := wInf s }
    | _, .inf t => { val := wInf t }
    | .fin s₁ m₁ k₁, .fin s₂ m₂ k₂ => sumFin mode h s₁ m₁ k₁ s₂ m₂ k₂
    | _, _ => invalid

/-- FMUL (R102). -/
def mulReal (mode : Rounding) (h : Nat) (a b : Real40) : Flagged :=
  match firstNaN [a, b] with
  | some w => { val := w }
  | none =>
    match a, b with
    | .fin s₁ m₁ k₁, .fin s₂ m₂ k₂ => roundFin mode h (s₁ != s₂) (m₁ * m₂) (k₁ + k₂) (s₁ != s₂)
    | .fin _ m _, .inf t => if m = 0 then invalid else { val := wInf (a.sign != t) }
    | .inf s, .fin _ m _ => if m = 0 then invalid else { val := wInf (s != b.sign) }
    | .inf s, .inf t => { val := wInf (s != t) }
    | _, _ => invalid

/-- The product inside FMA: `0 · ∞` (R68). DEDUCED: notes/assumptions/58.md. -/
def zeroTimesInf (a b : Real40) : Bool :=
  match a, b with
  | .fin _ m _, .inf _ => m == 0
  | .inf _, .fin _ m _ => m == 0
  | _, _ => false

/-- FMA and FNMA (R102): `±a · b + c`, rounded once; `sub` changes the sign of the product. -/
def fmaReal (mode : Rounding) (h : Nat) (sub : Bool) (a b c : Real40) : Flagged :=
  match firstNaN [a, b] with
  | some w => { val := w }
  | none =>
    if zeroTimesInf a b then invalid
    else match firstNaN [c] with
      | some w => { val := w }
      | none =>
        let ps := (a.sign != b.sign) != sub
        match a, b, c with
        | .fin _ m₁ k₁, .fin _ m₂ k₂, .fin s₃ m₃ k₃ => sumFin mode h ps (m₁ * m₂) (k₁ + k₂) s₃ m₃ k₃
        | .fin .., .fin .., .inf t => { val := wInf t }
        | _, _, .inf t => if ps = t then { val := wInf t } else invalid
        | _, _, _ => { val := wInf ps }

/-- A quotient of nonzero magnitudes to at least 63 bits, with what is left over. -/
def quotMag (m₁ : Nat) (k₁ : Int) (m₂ : Nat) (k₂ : Int) : Mag :=
  let n := m₁ * 2 ^ 92
  { n := n / m₂, k := k₁ - k₂ - 92, more := n % m₂ != 0 }

/-- FDIV (R102, R103). -/
def divReal (mode : Rounding) (h : Nat) (a b : Real40) : Flagged :=
  match firstNaN [a, b] with
  | some w => { val := w }
  | none =>
    let s := a.sign != b.sign
    match a, b with
    | .fin _ m₁ k₁, .fin _ m₂ k₂ =>
      if m₁ = 0 && m₂ = 0 then invalid
      else if m₂ = 0 then { val := wInf s, fl := fDZ }
      else if m₁ = 0 then { val := wZero s }
      else roundW mode h s (quotMag m₁ k₁ m₂ k₂)
    | .inf _, .inf _ => invalid
    | .inf _, _ => { val := wInf s }
    | _, _ => { val := wZero s }

/-- A root of a nonzero magnitude `m · 2^k` to at least 45 bits: `k` is made even first. -/
def sqrtMag (m : Nat) (k : Int) : Mag :=
  let odd : Nat := (k % 2).toNat
  let x := m * 2 ^ odd * 2 ^ 100
  let r := isqrt 70 x
  { n := r, k := (k - odd) / 2 - 50, more := r * r != x }

/-- FSQRT (R102, R103). -/
def sqrtReal (mode : Rounding) (h : Nat) (a : Real40) : Flagged :=
  match a with
  | .nan s m => { val := normNaN s m }
  | .inf s => if s then invalid else { val := wInf false }
  | .fin s m k => if m = 0 then { val := wZero s } else if s then invalid else roundW mode h false (sqrtMag m k)

/-- FRCP (R102, R103). -/
def rcpReal (mode : Rounding) (h : Nat) (a : Real40) : Flagged :=
  match a with
  | .nan s m => { val := normNaN s m }
  | .inf s => { val := wZero s }
  | .fin s m k => if m = 0 then { val := wInf s, fl := fDZ } else roundW mode h s (quotMag 1 0 m k)

/-- `1 / √(m · 2^k)` to at least 50 bits. -/
def rsqrtMag (m : Nat) (k : Int) : Mag :=
  let odd : Nat := (k % 2).toNat
  let x := m * 2 ^ odd
  let r := isqrt 70 (2 ^ 136 / x)
  { n := r, k := -((k - odd) / 2) - 68, more := r * r * x != 2 ^ 136 }

/-- FRSQ (R102, R103). -/
def rsqReal (mode : Rounding) (h : Nat) (a : Real40) : Flagged :=
  match a with
  | .nan s m => { val := normNaN s m }
  | .inf s => if s then invalid else { val := wZero false }
  | .fin s m k =>
    if m = 0 then { val := wInf s, fl := fDZ } else if s then invalid else roundW mode h false (rsqrtMag m k)

/-- `⌊2^160 · ln 2⌋`. -/
def ln2Fix : Nat := 0xb17217f7d1cf79abc9e3b39803f2f6af40f34326

/-- Terms of the series of `e^z`, at scale `2^160`, each rounded down. -/
def expTerms (z : Nat) : Nat → Nat → Nat → Nat → Nat
  | 0, _, _, acc => acc
  | n + 1, i, t, acc =>
    let t' := t * z / (2 ^ 160 * i)
    expTerms z n (i + 1) t' (acc + t')

/-- A lower bound of `2^f` at scale `2^160`, for `0 ≤ f < 1` given at scale `2^160`; the true value is less than `2^12` units above. -/
def exp2Fix (f : Nat) : Nat := expTerms (f * ln2Fix / 2 ^ 160) 48 1 (2 ^ 160) (2 ^ 160)

/-- `⌊t · 2^−d⌋` for a value `t` that lies in `[n, n + w]`, with `w ≤ 2^d`: `below v` says whether `t < v · 2^d`. -/
def floorBetween (n w d : Nat) (below : Nat → Bool) : Nat :=
  if n / 2 ^ d = (n + w) / 2 ^ d then n / 2 ^ d else if below (n / 2 ^ d + 1) then n / 2 ^ d else n / 2 ^ d + 1

/-- R70: an irrational magnitude that lies in `[n, n + w] · 2^k` rounded once: 61 of its bits are exact, since `below v j` says whether it is less
than `v · 2^j`, and the rest lies strictly between 0 and 1. -/
def roundIrrational (mode : Rounding) (h : Nat) (s : Bool) (n w : Nat) (k : Int) (below : Nat → Int → Bool) : Flagged :=
  let d := n.log2 - 60
  roundW mode h s { n := max 1 (floorBetween n w d fun v => below v (k + d)), k := k + d, more := true }

/-- `2^(u / 2^j) < v · 2^c`, exactly, for `v` not 0. -/
def exp2Below (u : Int) (j v : Nat) (c : Int) : Bool :=
  let e := u - c * ((2 ^ j : Nat) : Int)
  e < 0 || 2 ^ e.toNat < v ^ 2 ^ j

/-- `|log2 (m · 2^k)| < v · 2^c`, exactly, for `c ≤ 0` and a logarithm that is not 0; `neg` says that it is negative. -/
def log2Below (m : Nat) (k : Int) (neg : Bool) (v : Nat) (c : Int) : Bool :=
  let q : Nat := 2 ^ (-c).toNat
  let e : Int := if neg then k * (q : Int) + v else k * (q : Int) - v
  -- m^q · 2^e against 1
  if neg then (if 0 ≤ e then 1 < m ^ q * 2 ^ e.toNat else 2 ^ (-e).toNat < m ^ q)
  else (if 0 ≤ e then m ^ q * 2 ^ e.toNat < 1 else m ^ q < 2 ^ (-e).toNat)

/-- FEXP2 (R102, R103): `2^A`, exact where A is an integer, else irrational. `a` is the operand's word. -/
def exp2Real (mode : Rounding) (h : Nat) (a : Nat) : Flagged :=
  match readW a with
  | .nan s m => { val := normNaN s m }
  | .inf s => if s then { val := wZero false } else { val := wInf false }
  | .fin s m k =>
    if m = 0 then { val := wOne }
    else if ({ n := m, k := k } : Mag).exp ≥ 12 then roundW mode h false { n := 1, k := if s then -5000 else 5000 }
    else if ({ n := m, k := k } : Mag).exp < -60 then
      if s then roundW mode h false { n := 2 ^ 61 - 1, k := -61, more := true }
      else roundW mode h false { n := 2 ^ 60, k := -60, more := true }
    else
      let v : Int := if 0 ≤ k then scaled s m k 0 * 2 ^ 160 else
        let u : Int := (m * 2 ^ (160 + k).toNat : Nat)
        if s then -u else u
      let i := v / 2 ^ 160
      let f := (v % 2 ^ 160).toNat
      if f = 0 then roundW mode h false { n := 1, k := i }
      else roundIrrational mode h false (exp2Fix f) (2 ^ 12) (i - 160) (exp2Below (scaled s m 0 0) (-k).toNat)

/-- The first `n` binary digits of `log2 t` for `1 ≤ t < 2` given at scale `2^256`, by repeated squaring. -/
def log2Digits : Nat → Nat → Nat → Nat
  | 0, _, acc => acc
  | n + 1, t, acc =>
    let q := t * t / 2 ^ 256
    if q ≥ 2 ^ 257 then log2Digits n (q / 2) (2 * acc + 1) else log2Digits n q (2 * acc)

/-- FLOG2 (R102, R103): exact where A is a power of two, else irrational. -/
def log2Real (mode : Rounding) (h : Nat) (a : Nat) : Flagged :=
  match readW a with
  | .nan s m => { val := normNaN s m }
  | .inf s => if s then invalid else { val := wInf false }
  | .fin s m k =>
    if m = 0 then { val := wInf true, fl := fDZ }
    else if s then invalid
    else
      let e := ({ n := m, k := k } : Mag).exp
      if m = 2 ^ m.log2 then roundFin mode h (e < 0) e.natAbs 0 false
      else
        let d := log2Digits 112 (m * 2 ^ (256 - m.log2)) 0
        let v : Int := e * 2 ^ 112 + d
        -- the true value lies within 16 units of v at scale 2^112
        roundIrrational mode h (e < 0) (v.natAbs - 16) 32 (-112) (log2Below m k (e < 0))

/-- FSCALE (R102, R103). -/
def scaleReal (mode : Rounding) (h : Nat) (a : Real40) (n : Int) : Flagged :=
  match a with
  | .nan s m => { val := normNaN s m }
  | .inf s => { val := wInf s }
  | .fin s m k => roundFin mode h s m (k + n) s

/-- R67, R104: a value normalised without a flag; below `2^−1023` it becomes a zero of its sign. -/
def normQuiet (a : Real40) : Nat :=
  match a with
  | .nan s m => normNaN s m
  | .inf s => wInf s
  | .fin s m k => (roundFin .rtz 0 s m k s).val

/-- Orders two finite or infinite values as real numbers: −1, 0 or 1 (R98). -/
def cmpReal (a b : Real40) : Int :=
  match a, b with
  | .inf s, .inf t => if s = t then 0 else if s then -1 else 1
  | .inf s, _ => if s then -1 else 1
  | _, .inf t => if t then 1 else -1
  | .fin s₁ m₁ k₁, .fin s₂ m₂ k₂ =>
    let k := min k₁ k₂
    (scaled s₁ m₁ k₁ k - scaled s₂ m₂ k₂ k).sign
  | _, _ => 0

def Real40.isNaN : Real40 → Bool
  | .nan .. => true
  | _ => false

/-- R69: FMIN (`mx = false`) and FMAX. -/
def minmaxReal (mx : Bool) (a b : Real40) : Nat :=
  if a.isNaN then (if b.isNaN then normQuiet a else normQuiet b)
  else if b.isNaN then normQuiet a
  else
    let c := cmpReal a b
    -- −0 orders below +0
    let aLess := c < 0 || (c == 0 && a.sign && !b.sign)
    if aLess != mx then normQuiet a
    else if c == 0 && a.sign == b.sign then normQuiet a else normQuiet b

/-- R104: FABS and FNEG. -/
def absReal (a : Real40) : Nat :=
  match a with
  | .nan _ m => normNaN false m
  | .inf _ => wInf false
  | .fin _ m k => normQuiet (.fin false m k)
def negReal (a : Real40) : Nat :=
  match a with
  | .nan s m => normNaN (!s) m
  | .inf s => wInf (!s)
  | .fin s m k => normQuiet (.fin (!s) m k)

/-- R105: a finite value rounded to an integer, with whether it differs. -/
def roundInt (mode : Rounding) (h : Nat) (s : Bool) (m : Nat) (k : Int) : Int × Bool :=
  if 0 ≤ k then (scaled s m k 0, false)
  else
    let d := (-k).toNat
    let v : Int := if s then -(m : Int) else m
    let p : Int := ((2 ^ d : Nat) : Int)
    let fl := v / p
    let r := v % p
    let n := match mode with
      | .rne => if p < 2 * r || (2 * r == p && fl % 2 == 1) then fl + 1 else fl
      | .rtz => if s && r != 0 then fl + 1 else fl
      | .rup => if r != 0 then fl + 1 else fl
      | .rdn => fl
      | .rsr => (v * 65536 + h * p) / (p * 65536)
    (n, r != 0)

/-- R105: FTOIS and FTOIZ at the destination width. -/
def toIntReal (g : Sgn) (mode : Rounding) (h : Nat) (a : Real40) (w : Nat) : Flagged :=
  match a with
  | .nan .. => { val := 0, fl := fNV }
  | .inf s => { val := wrap (if s then loOf g w else hiOf g w) w, fl := fNV }
  | .fin s m k =>
    let (n, nx) := roundInt mode h s m k
    if n < loOf g w || n > hiOf g w then { val := wrap (clamp n (loOf g w) (hiOf g w)) w, fl := fNV }
    else { val := wrap n w, fl := if nx then fNX else 0 }

/-- R105: FCVTS and FCVTZ. -/
def ofIntReal (mode : Rounding) (h : Nat) (v : Int) : Flagged := roundFin mode h (v < 0) v.natAbs 0 false

/-- R106: FRND. -/
def rndReal (mode : Rounding) (h : Nat) (a : Real40) : Flagged :=
  match a with
  | .nan s m => { val := normNaN s m }
  | .inf s => { val := wInf s }
  | .fin s m k =>
    if m = 0 then { val := wZero s }
    else
      let (n, nx) := roundInt mode h s m k
      let r := roundFin .rne 0 (n < 0) n.natAbs 0 s
      { val := r.val, fl := if nx then fNX else 0 }

/-- R106: FNORM. -/
def normReal (a : Real40) : Flagged :=
  match a with
  | .nan s m => { val := normNaN s m }
  | .inf s => { val := wInf s }
  | .fin s m k => roundFin .rne 0 s m k s

/-- R107: FGETE. -/
def getExp (a : Real40) : Int :=
  match a with
  | .fin _ m k => if m = 0 then -2048 else ({ n := m, k := k } : Mag).exp
  | _ => 2047

/-- R107: FGETM. -/
def getSig (a : Real40) : Nat :=
  match a with
  | .fin _ m _ => if m = 0 then 0 else m * 2 ^ (27 - m.log2)
  | .inf _ => 1
  | .nan _ m => m

/-- R107: FSETE. -/
def setExp (mode : Rounding) (h : Nat) (a : Real40) (b : Int) : Flagged :=
  match a with
  | .nan s m => { val := normNaN s m }
  | .inf s => { val := wInf s }
  | .fin s m _ => if m = 0 then { val := wZero s } else roundW mode h s { n := m * 2 ^ (27 - m.log2), k := b - 27 }

/-- R78, R109: a binary32 value as W40. -/
def ofBinary32 (x : Nat) : Nat :=
  let s := bit x 31
  let b := bits x 30 23
  let f := bits x 22 0
  if b = 255 then (if f = 0 then wInf s else normNaN s 2)
  else if b = 0 then (roundFin .rne 0 s f (-149) s).val
  else b2n s * 2 ^ 39 + wrap ((b : Int) - 127) 11 * 2 ^ 28 + (2 ^ 27 + f * 16)

/-- R109: W40 rounded to binary32, with gradual underflow. -/
def toBinary32 (mode : Rounding) (h : Nat) (a : Real40) : Flagged :=
  match a with
  | .nan s _ => { val := b2n s * 2 ^ 31 + 0x7FC00000 }
  | .inf s => { val := b2n s * 2 ^ 31 + 0x7F800000 }
  | .fin s m k =>
    let sg := b2n s * 2 ^ 31
    if m = 0 then { val := sg }
    else
      let e := ({ n := m, k := k } : Mag).exp
      -- the unit in the last place of the result: 2^(e − 23), at least 2^−149
      let ulp := max (e - 23) (-149)
      let (n, nx) := if ulp ≤ k then (m * 2 ^ (k - ulp).toNat, false) else roundDrop mode h s m (ulp - k).toNat false
      let tiny := e < -126
      let fl := (if nx then fNX else 0) + (if tiny && nx then fUF else 0)
      -- n · 2^ulp with n ≤ 2^24
      let biased : Int := ulp + 150
      let v : Nat := if n < 2 ^ 23 then n else (biased.toNat * 2 ^ 23 + (n - 2 ^ 23))
      if v ≥ 0x7F800000 then { val := sg + overflowTo mode s 0x7F7FFFFF 0x7F800000, fl := fOF + fNX }
      else { val := sg + v, fl := fl }

/-- R71: the stochastic offset. -/
def rsrOffset (thread block elemno idx : Nat) : Nat :=
  let key := zext thread 32 * 2 ^ 32 + zext block 16 * 2 ^ 16 + zext elemno 12 * 2 ^ 4
  let z := (key + (zext idx 32 + 1) * 0x9E3779B97F4A7C15) % 2 ^ 64
  let z := (z ^^^ (z / 2 ^ 30)) * 0xBF58476D1CE4E5B9 % 2 ^ 64
  let z := (z ^^^ (z / 2 ^ 27)) * 0x94D049BB133111EB % 2 ^ 64
  let z := z ^^^ (z / 2 ^ 31)
  z / 2 ^ 48

end Sys2Proof.Machine
end

