-- ==== Sys2Proof/WellFormed.lean ====
section
/-! DEFINITION. When a word is legal: guards (spec/02 R46, R48), operand positions (R36, R38, R39, R80, R101, R193, R206, R222, R279,
R292, R316), modifiers (R33) and sites (R51). -/
namespace Sys2Proof

/-- Where an instruction stands (spec/02 R51). -/
inductive SiteKind where
  | cc | vElem | mElem
deriving DecidableEq, Repr

/-- The failures of R52, in the order in which they are checked. -/
inductive Illegal where
  | opcode | guard | operand
deriving DecidableEq, Repr

namespace Wf

/-- R39: a slice operand within the bank. -/
def sliceOk : Operand → Bool
  | .slice s c => s.toNat + c.toNat + 1 ≤ 128
  | _ => false

/-- R36: any source position. -/
def srcOk (k : SiteKind) : Operand → Bool
  | .slice s c => s.toNat + c.toNat + 1 ≤ 128
  | .inChan _ _ => k != .cc
  | .pass _ out => k != .cc && !out
  | .pred p => k == .cc || p.toNat < 4
  | .imm _ => true
  | .port _ out => k != .cc && !out
  | _ => false

/-- R36: any destination position. -/
def dstOk (k : SiteKind) : Operand → Bool
  | .slice s c => s.toNat + c.toNat + 1 ≤ 128
  | .outChan _ _ => k != .cc
  | .pass _ out => k != .cc && out
  | .pred p => k == .cc || p.toNat < 4
  | .port _ out => k != .cc && out
  | _ => false

/-- R38: a capability-typed operand. -/
def capOk : Operand → Bool
  | .slice s c => s.toNat % 32 == 0 && c.toNat == 15
  | _ => false

/-- R119: a completion token. -/
def tokOk : Operand → Bool
  | .slice s c => s.toNat + c.toNat + 1 ≤ 128 && c.toNat == 15
  | _ => false

/-- R101: a slice operand of 10 to 16 slices. -/
def w40Slice : Operand → Bool
  | .slice s c => s.toNat + c.toNat + 1 ≤ 128 && 9 ≤ c.toNat
  | _ => false

/-- R101: a W40 source. -/
def w40Src (k : SiteKind) : Operand → Bool
  | .slice s c => s.toNat + c.toNat + 1 ≤ 128 && 9 ≤ c.toNat
  | .inChan _ _ => k != .cc
  | .pass _ out => k != .cc && !out
  | _ => false

/-- R101: a W40 destination. -/
def w40Dst (k : SiteKind) : Operand → Bool
  | .slice s c => s.toNat + c.toNat + 1 ≤ 128 && 9 ≤ c.toNat
  | .outChan _ _ => k != .cc
  | .pass _ out => k != .cc && out
  | _ => false

/-- R206: a slice, input channel or in pass register. -/
def wideSrc (k : SiteKind) : Operand → Bool
  | .slice s c => s.toNat + c.toNat + 1 ≤ 128
  | .inChan _ _ => k != .cc
  | .pass _ out => k != .cc && !out
  | _ => false

/-- R80: SLCLR's destination, one slice. -/
def oneSlice : Operand → Bool
  | .slice _ c => c.toNat == 0
  | _ => false

/-- The own width of an operand in bits (R36). -/
def width : Operand → Nat
  | .slice _ c => 4 * (c.toNat + 1)
  | .pred _ => 1
  | .port _ _ => 1
  | .imm _ => 8
  | _ => 64

/-- R203: the width is a multiple of the lane width; a predicate or control port never is. -/
def lanes (l : Lane) (o : Operand) : Bool := width o % l.width == 0

def isImm : Operand → Bool
  | .imm _ => true
  | _ => false
def isIn : Operand → Bool
  | .inChan _ _ => true
  | _ => false
def keeps : Operand → Bool
  | .inChan _ b => b
  | _ => false
def isOut : Operand → Bool
  | .outChan _ _ => true
  | _ => false
/-- R193: EOW's destination, an output channel of kind end-of-wave. -/
def isEowOut : Operand → Bool
  | .outChan _ kd => kd == 1
  | _ => false
def isPortIn : Operand → Bool
  | .port _ out => !out
  | _ => false
def isPortOut : Operand → Bool
  | .port _ out => out
  | _ => false
def isRes : Operand → Bool
  | .res _ => true
  | _ => false
/-- An unused field, 0x000 (R32). It reads as the slice operand s0:1 where the position also takes slices (notes/assumptions/7.md). -/
def isNone : Operand → Bool
  | .slice s c => s == 0 && c == 0
  | _ => false
def immIn (o : Operand) (lo hi : Int) : Bool :=
  match o with
  | .imm v => lo ≤ v.toInt && v.toInt ≤ hi
  | _ => false
def optAll (p : Operand → Bool) : Option Operand → Bool
  | none => true
  | some o => p o

/-- R131: the special registers of an element, which only MOV names. -/
def elemReg (k : SiteKind) : Operand → Bool
  | .sreg n => k != .cc && (n == 0x02 || n == 0x03 || n == 0x04 || n == 0x05 || n == 0x06 || n == 0x10)
  | _ => false

/-- R16: the special registers of the control core. -/
def ccReg : Operand → Bool
  | .sreg n => n == 0x00 || n == 0x01 || n == 0x02 || n == 0x08 || n == 0x09 || n == 0x0A || n == 0x10 || n == 0x18 || n == 0x19
      || n == 0x20 || n == 0x21 || n == 0x22
  | _ => false

/-- R16: an SRD names a listed register, and reads a capability register only into a capability-typed operand. -/
def srdOk (k : SiteKind) (d a : Operand) : Bool :=
  dstOk k d && ccReg a && (if a == .sreg 0x18 || a == .sreg 0x19 then capOk d else true)

/-- R112: WAITP names a slice operand or a predicate. -/
def waitable (k : SiteKind) : Operand → Bool
  | .slice s c => s.toNat + c.toNat + 1 ≤ 128
  | .pred p => k == .cc || p.toNat < 4
  | _ => false

/-- R193: PASS writes any destination but the out pass register whose number srcA names. -/
def passOk (k : SiteKind) (d a : Operand) : Bool :=
  match a with
  | .pass q false => dstOk k d && d != .pass q true
  | _ => false

/-- R199: EXIT's values. -/
def exitOk (k : SiteKind) (b : Option Operand) (nv : BitVec 3) : Bool :=
  match b with
  | none => nv == 0
  | some o => if nv.toNat ≤ 1 then nv == 1 && srcOk k o else
      match o with
      | .slice s c => c.toNat == 15 && s.toNat + 16 * nv.toNat ≤ 128
      | _ => false

/-- R223: a scale operand. -/
def scaleOk : Operand → Bool
  | .slice s c => s.toNat % 32 == 0 && c.toNat == 15
  | .imm _ => true
  | _ => false
def mmacOk : MmacSrc → Bool
  | .bus o => scaleOk o
  | .store _ => true
/-- R227: the group lies below `n`. -/
def groupOk (s : MmacSrc) (n : Nat) : Bool :=
  match s with
  | .bus _ => true
  | .store g => g.toNat < n

/-- R279: 2, 4, 8 or 16 slices. -/
def memSlice : Operand → Bool
  | .slice s c => s.toNat + c.toNat + 1 ≤ 128 && (c.toNat == 1 || c.toNat == 3 || c.toNat == 7 || c.toNat == 15)
  | _ => false
/-- R284: ACAS takes twice 8, 16 or 32 bits. -/
def casSlice : Operand → Bool
  | .slice s c => s.toNat + c.toNat + 1 ≤ 128 && (c.toNat == 3 || c.toNat == 7 || c.toNat == 15)
  | _ => false
/-- R284: AFADD takes 32 or 64 bits. -/
def fltSlice : Operand → Bool
  | .slice s c => s.toNat + c.toNat + 1 ≤ 128 && (c.toNat == 7 || c.toNat == 15)
  | _ => false

end Wf

/-- R46, R48: the guard field is well formed at this site. -/
def guardOk (k : SiteKind) (g : BitVec 16) : Bool :=
  match k with
  | .cc => g.extractLsb' 0 11 == 0 && (g.getLsbD 15 || g == 0)
  | _ =>
    let ce := g.getLsbD 7
    let ke := g.getLsbD 3
    let cp := g.getLsbD 0
    (!ke || ce) && (!cp || (!ce && !ke && g.extractLsb' 1 2 == 0)) && (ce || cp || g.extractLsb' 1 6 == 0)
      && (!ce || ke || g.extractLsb' 1 2 == 0)

/-- R51: the sites of a code. -/
def siteOk (k : SiteKind) (op : Nat) : Bool :=
  match k with
  | .cc => op < 0x90 || (0xC0 ≤ op && op ≤ 0xCD) || 0xD0 ≤ op
  | .vElem => op < 0x70 || op == 0x77 || (0x90 ≤ op && op < 0xB0) || (0xC0 ≤ op && op < 0xE0)
  | .mElem => op < 0x50 || op == 0x77 || (0x90 ≤ op && op < 0xA0) || (0xB0 ≤ op && op < 0xC0) || (0xCD ≤ op && op ≤ 0xCF)

open Wf in
/-- R52: the operand fields of an instruction are legal at this site. A step of spec/95 has none. -/
def Instr.operandsOk (k : SiteKind) : Instr → Bool
  | .add _ d a b => dstOk k d && srcOk k a && srcOk k b
  | .sub _ d a b => dstOk k d && srcOk k a && srcOk k b
  | .adds _ d a b => dstOk k d && srcOk k a && srcOk k b
  | .subs _ d a b => dstOk k d && srcOk k a && srcOk k b
  | .addz _ d a b => dstOk k d && srcOk k a && srcOk k b
  | .subz _ d a b => dstOk k d && srcOk k a && srcOk k b
  | .neg _ d a => dstOk k d && srcOk k a
  | .abs _ d a => dstOk k d && srcOk k a
  | .mins _ d a b => dstOk k d && srcOk k a && srcOk k b
  | .minz _ d a b => dstOk k d && srcOk k a && srcOk k b
  | .maxs _ d a b => dstOk k d && srcOk k a && srcOk k b
  | .maxz _ d a b => dstOk k d && srcOk k a && srcOk k b
  | .addc _ d a b _ => dstOk k d && srcOk k a && srcOk k b
  | .subb _ d a b _ => dstOk k d && srcOk k a && srcOk k b
  | .mul _ d a b => dstOk k d && srcOk k a && srcOk k b
  | .mulhs _ d a b => dstOk k d && srcOk k a && srcOk k b
  | .mulhz _ d a b => dstOk k d && srcOk k a && srcOk k b
  | .mad _ d a b => sliceOk d && srcOk k a && srcOk k b
  | .divs _ d a b => dstOk k d && srcOk k a && srcOk k b
  | .divz _ d a b => dstOk k d && srcOk k a && srcOk k b
  | .rems _ d a b => dstOk k d && srcOk k a && srcOk k b
  | .remz _ d a b => dstOk k d && srcOk k a && srcOk k b
  | .and _ d a b => dstOk k d && srcOk k a && srcOk k b
  | .or _ d a b => dstOk k d && srcOk k a && srcOk k b
  | .xor _ d a b => dstOk k d && srcOk k a && srcOk k b
  | .andn _ d a b => dstOk k d && srcOk k a && srcOk k b
  | .not _ d a => dstOk k d && srcOk k a
  | .shl _ d a b => dstOk k d && srcOk k a && srcOk k b
  | .shrz _ d a b => dstOk k d && srcOk k a && srcOk k b
  | .shrs _ d a b => dstOk k d && srcOk k a && srcOk k b
  | .rotl _ d a b => dstOk k d && srcOk k a && srcOk k b
  | .clz _ d a => dstOk k d && srcOk k a
  | .popc _ d a => dstOk k d && srcOk k a
  | .brev _ d a => dstOk k d && srcOk k a
  | .mov _ d a => (dstOk k d || elemReg k d) && (srcOk k a || elemReg k a)
  | .movi _ d _ => dstOk k d
  | .movhi _ d _ => dstOk k d
  | .sext _ d a b => dstOk k d && srcOk k a && srcOk k b
  | .zext _ d a b => dstOk k d && srcOk k a && srcOk k b
  | .slext _ d a b => dstOk k d && sliceOk a && srcOk k b
  | .slins _ d a b => sliceOk d && srcOk k a && srcOk k b
  | .pack _ d a b => dstOk k d && srcOk k a && srcOk k b
  | .unpk _ d a b => dstOk k d && sliceOk a && srcOk k b
  | .swap _ d a => sliceOk d && sliceOk a
  | .slclr _ d a => oneSlice d && srcOk k a
  | .ceq _ d a b => dstOk k d && srcOk k a && srcOk k b
  | .cne _ d a b => dstOk k d && srcOk k a && srcOk k b
  | .clts _ d a b => dstOk k d && srcOk k a && srcOk k b
  | .cltz _ d a b => dstOk k d && srcOk k a && srcOk k b
  | .cles _ d a b => dstOk k d && srcOk k a && srcOk k b
  | .clez _ d a b => dstOk k d && srcOk k a && srcOk k b
  | .fceq _ d a b => dstOk k d && w40Src k a && w40Src k b
  | .fclt _ d a b => dstOk k d && w40Src k a && w40Src k b
  | .fcle _ d a b => dstOk k d && w40Src k a && w40Src k b
  | .fcun _ d a b => dstOk k d && w40Src k a && w40Src k b
  | .pmov _ d a => dstOk k d && srcOk k a
  | .pand _ d a b => dstOk k d && srcOk k a && srcOk k b
  | .por _ d a b => dstOk k d && srcOk k a && srcOk k b
  | .pxor _ d a b => dstOk k d && srcOk k a && srcOk k b
  | .pnot _ d a => dstOk k d && srcOk k a
  | .selp _ d a b _ => dstOk k d && srcOk k a && srcOk k b
  | .fadd _ d a b _ => w40Dst k d && w40Src k a && w40Src k b
  | .fsub _ d a b _ => w40Dst k d && w40Src k a && w40Src k b
  | .fmul _ d a b _ => w40Dst k d && w40Src k a && w40Src k b
  | .fma _ d a b _ => w40Slice d && w40Src k a && w40Src k b
  | .fnma _ d a b _ => w40Slice d && w40Src k a && w40Src k b
  | .fmin _ d a b => w40Dst k d && w40Src k a && w40Src k b
  | .fmax _ d a b => w40Dst k d && w40Src k a && w40Src k b
  | .fabs _ d a => w40Dst k d && w40Src k a
  | .fneg _ d a => w40Dst k d && w40Src k a
  | .frcp _ d a _ => w40Dst k d && w40Src k a
  | .frsq _ d a _ => w40Dst k d && w40Src k a
  | .fexp2 _ d a _ => w40Dst k d && w40Src k a
  | .flog2 _ d a _ => w40Dst k d && w40Src k a
  | .fdiv _ d a b _ => w40Dst k d && w40Src k a && w40Src k b
  | .fsqrt _ d a _ => w40Dst k d && w40Src k a
  | .fscale _ d a b _ => w40Dst k d && w40Src k a && srcOk k b
  | .fcvts _ d a _ => w40Dst k d && srcOk k a
  | .fcvtz _ d a _ => w40Dst k d && srcOk k a
  | .ftois _ d a _ => dstOk k d && w40Src k a
  | .ftoiz _ d a _ => dstOk k d && w40Src k a
  | .frnd _ d a _ => w40Dst k d && w40Src k a
  | .fnorm _ d a => w40Dst k d && w40Src k a
  | .fgete _ d a => dstOk k d && w40Src k a
  | .fgetm _ d a => dstOk k d && w40Src k a
  | .fsete _ d a b _ => w40Dst k d && w40Src k a && srcOk k b
  | .ftol _ d a _ => dstOk k d && w40Src k a
  | .ltof _ d a _ => w40Dst k d && srcOk k a
  | .f32w _ d a => w40Dst k d && srcOk k a
  | .wf32 _ d a _ => dstOk k d && w40Src k a
  | .br _ _ => true
  | .jmp _ a => srcOk k a
  | .jal _ d _ => dstOk k d
  | .jalr _ d a => dstOk k d && srcOk k a
  | .loop _ d a => sliceOk d && isImm a
  | .waitp _ a => waitable k a
  | .halt _ => true
  | .nop _ => true
  | .trap _ a b => immIn a 0 63 && srcOk k b
  | .eret _ => true
  | .srd _ d a => srdOk k d a
  | .swr _ d a => ccReg d && srcOk k a
  | .cfence _ => true
  | .wfe _ d a b => dstOk k d && srcOk k a && srcOk k b
  | .bkpt _ a => immIn a 0 127
  | .emit _ d a b => isOut d && srcOk k a && optAll (srcOk k) b
  | .deq _ a => (isIn a && !keeps a) || isPortIn a
  | .peekk _ d a => dstOk k d && isPortIn a
  | .ctok _ d a b => isPortOut d && srcOk k a && optAll (srcOk k) b
  | .pass _ d a => passOk k d a
  | .retire _ _ => true
  | .exit _ a b nv => srcOk k a && exitOk k b nv
  | .eow _ d a => optAll isEowOut d && isIn a && !keeps a
  | .tidx _ d a b => dstOk k d && srcOk k a && srcOk k b
  | .idle _ a => srcOk k a
  | .vadd _ d a b ln => dstOk k d && lanes ln d && srcOk k a && srcOk k b
  | .vsub _ d a b ln => dstOk k d && lanes ln d && srcOk k a && srcOk k b
  | .vadds _ d a b ln => dstOk k d && lanes ln.ln d && srcOk k a && srcOk k b
  | .vmin _ d a b ln => dstOk k d && lanes ln.ln d && srcOk k a && srcOk k b
  | .vmax _ d a b ln => dstOk k d && lanes ln.ln d && srcOk k a && srcOk k b
  | .vaddmin _ d a b ln => sliceOk d && lanes ln.ln d && srcOk k a && srcOk k b
  | .vaddmax _ d a b ln => sliceOk d && lanes ln.ln d && srcOk k a && srcOk k b
  | .vmul _ d a b ln => dstOk k d && lanes ln d && srcOk k a && srcOk k b
  | .vsel _ d a b ln => sliceOk d && lanes ln d && srcOk k a && srcOk k b
  | .lshl _ d a b ln => dstOk k d && lanes ln d && srcOk k a && srcOk k b
  | .lshr _ d a b ln => dstOk k d && lanes ln d && srcOk k a && srcOk k b
  | .vred _ d a b ln => dstOk k d && wideSrc k a && lanes ln.ln a && immIn b 0 6
  | .vscan _ d a b ln => dstOk k d && lanes ln.ln d && srcOk k a && immIn b 0 6
  | .vbcast _ d a b ln => dstOk k d && lanes ln d && wideSrc k a && lanes ln a && srcOk k b
  | .vcmp _ d a b ln => dstOk k d && lanes ln.ln d && srcOk k a && srcOk k b
  | .vdot _ d a b ln => sliceOk d && wideSrc k a && lanes ln.ln a && srcOk k b
  | .mzero _ a => srcOk k a
  | .mmac _ src b => mmacOk src && scaleOk b
  | .mmac8 _ src b => mmacOk src && scaleOk b
  | .mmac12 _ src b => mmacOk src && scaleOk b
  | .mmacw _ _ => true
  | .mdown _ _ => true
  | .mread _ d a b _ => w40Dst k d && isRes a && srcOk k b
  | .mnorm _ a => optAll (srcOk k) a
  | .mxget _ d a => dstOk k d && immIn a 0 1
  | .mtask _ d a b _ => optAll (fun o => dstOk k o && !isNone o) d && isIn a && srcOk k b
  | .mpois _ a _ => srcOk k a
  | .ld _ d a b _ => if k = .cc then memSlice d && capOk a && srcOk k b else (isNone d || isPortOut d) && srcOk k a && isNone b
  | .st _ d a b _ => if k = .cc then memSlice d && capOk a && srcOk k b else (isNone d || isPortOut d) && srcOk k a && srcOk k b
  | .ldf _ d a b _ => if k = .cc then w40Dst k d && capOk a && srcOk k b else (isNone d || isPortOut d) && srcOk k a && isNone b
  | .stf _ d a b _ => if k = .cc then w40Src k d && capOk a && srcOk k b else (isNone d || isPortOut d) && srcOk k a && srcOk k b
  | .aadd _ d a b _ => if k = .cc then memSlice d && capOk a && srcOk k b else (isNone d || isPortOut d) && srcOk k a && srcOk k b
  | .amin _ d a b _ => if k = .cc then memSlice d && capOk a && srcOk k b else (isNone d || isPortOut d) && srcOk k a && srcOk k b
  | .amax _ d a b _ => if k = .cc then memSlice d && capOk a && srcOk k b else (isNone d || isPortOut d) && srcOk k a && srcOk k b
  | .aand _ d a b _ => if k = .cc then memSlice d && capOk a && srcOk k b else (isNone d || isPortOut d) && srcOk k a && srcOk k b
  | .aor _ d a b _ => if k = .cc then memSlice d && capOk a && srcOk k b else (isNone d || isPortOut d) && srcOk k a && srcOk k b
  | .axor _ d a b _ => if k = .cc then memSlice d && capOk a && srcOk k b else (isNone d || isPortOut d) && srcOk k a && srcOk k b
  | .axchg _ d a b _ => if k = .cc then memSlice d && capOk a && srcOk k b else (isNone d || isPortOut d) && srcOk k a && srcOk k b
  | .acas _ d a b _ => if k = .cc then casSlice d && capOk a && srcOk k b else (isNone d || isPortOut d) && srcOk k a && srcOk k b
  | .afadd _ d a b _ => if k = .cc then fltSlice d && capOk a && srcOk k b else (isNone d || isPortOut d) && srcOk k a && srcOk k b
  | .fence _ d a => (if k = .cc then d.isNone else optAll isPortOut d) && immIn a 0 11
  | .join _ d a b => isPortOut d && isPortIn a && isPortIn b && a != b
  | .fork _ d a => isPortOut d && isPortIn a
  | .csetb _ d a b => capOk d && capOk a && srcOk k b
  | .candp _ d a b => capOk d && capOk a && srcOk k b
  | .cgetb _ d a => dstOk k d && capOk a
  | .cgetl _ d a => dstOk k d && capOk a
  | .cgetp _ d a => dstOk k d && capOk a
  | .ctest _ d a b => dstOk k d && capOk a && srcOk k b
  | .cmov _ d a => capOk d && capOk a
  | .cldc _ d a b => k = .cc && capOk d && capOk a && srcOk k b
  | .cstc _ d a b => k = .cc && capOk d && capOk a && srcOk k b
  | .cclr _ d a => capOk d && capOk a
  | .csub _ d a b => capOk d && capOk a && srcOk k b
  | .dma _ d a b _ => tokOk d && capOk a && srcOk k b
  | .dmas _ d a b _ => tokOk d && capOk a && srcOk k b
  | .gath _ d a b _ => tokOk d && capOk a && srcOk k b
  | .scat _ d a b _ => tokOk d && capOk a && srcOk k b
  | .stage _ d a b _ => tokOk d && capOk a && srcOk k b
  | .coll _ d a b _ => tokOk d && capOk a && srcOk k b
  | .msg _ d a b _ => tokOk d && capOk a && srcOk k b
  | .mrecv _ d a b _ => capOk d && capOk a && srcOk k b
  | .bankt _ a b => srcOk k a && srcOk k b
  | .launch _ d a b _ => tokOk d && capOk a && srcOk k b
  | .gbar _ a => immIn a 0 3
  | .epoll _ d a => dstOk k d && tokOk a
  | .ecancel _ a => tokOk a
  | .qwait _ d a b => tokOk d && srcOk k a && srcOk k b
  | .lease _ d a b => tokOk d && srcOk k a && srcOk k b
  | .lrel _ => true
  | .pwrq _ d a b => dstOk k d && srcOk k a && srcOk k b
  | .tstamp _ d => dstOk k d
  | .mark _ a b => srcOk k a && srcOk k b
  | .dstop _ d a => tokOk d && srcOk k a
  | .scant _ d a => tokOk d && srcOk k a
  | .scanq _ d a => dstOk k d && srcOk k a
  | .lcmap _ d a b => tokOk d && srcOk k a && srcOk k b
  | .writeBack _ _ => false
  | .trapEntry _ => false
  | .asynchronousTrap _ => false
  | .instructionCacheFill _ => false
  | .wfeTimeout _ => false
  | .tokenTransfer _ _ _ => false
  | .busPacketDiscard _ _ _ => false
  | .fillerFiring _ _ => false
  | .intervalStart => false
  | .tokenInstalment => false
  | .intervalEnd _ => false
  | .powerCapAction _ _ => false
  | .leaseExpiry _ => false
  | .sensorSample _ _ => false
  | .leakageMeasurement _ _ _ => false
  | .oppoint _ _ => false
  | .passStart _ _ => false
  | .entryTokenSend _ _ => false
  | .pickLoad _ _ _ _ => false
  | .restoreComplete _ _ _ => false
  | .eviction _ _ _ => false
  | .spillComplete _ _ _ => false
  | .wrapDelivery _ _ => false
  | .wrapOverflow _ _ _ => false
  | .initialRecordAppend _ _ => false
  | .streamRead _ _ _ => false
  | .streamWrite _ _ _ => false
  | .nodeRequest _ _ _ => false
  | .streamRetry _ _ _ => false
  | .engineUnit _ _ => false
  | .engineCompletion _ _ => false
  | .segmentHandover _ _ _ => false
  | .collTimeout _ _ => false
  | .messageDelivery _ _ => false
  | .messageTake _ => false
  | .barrierTimeout _ _ => false
  | .recordEnqueue _ _ => false
  | .farAtomicCompletion _ _ => false
  | .recordCheck _ _ => false
  | .memberPlacement _ _ => false
  | .stagingFill _ _ => false
  | .memberStart _ _ => false
  | .launchCompletion _ _ => false
  | .drain _ _ => false
  | .freezeWave _ _ => false
  | .freezeEnd _ _ => false
  | .preemption _ _ => false
  | .restore _ _ => false
  | .gangAbort _ _ _ => false
  | .uncorrectableError _ => false
  | .criticalPathStep _ => false
  | .regionStop _ _ => false
  | .fatalDump _ _ => false
  | .scanComplete _ => false
  | .reinitialisationEnd _ => false
  | .edgeValueArrival _ _ => false
  | .flitReceive _ _ => false
  | .acknowledgeTimer _ => false
  | .laneMapResend _ => false
  | .laneMapSwitch _ => false
  | .portRetrain _ => false
  | .domainTimeout _ => false
  | .shootdownAck _ _ _ => false
  | .shootdownComplete _ _ => false
  | .shootdownTimeout _ _ _ => false
  | .trackerPeriod _ => false
  | .blockSwitch _ => false
  | .parkedReplay _ => false
  | .atomRemap _ _ => false
  | .bar2Read _ _ _ => false
  | .bar2Write _ _ _ => false
  | .bar0ReadFlush _ _ => false
  | .submit _ _ => false
  | .skip _ _ => false
  | .retry _ _ => false
  | .queueKill _ _ => false
  | .shoot _ _ => false
  | .regionAbort _ _ _ => false
  | .imgfree _ _ => false
  | .debugResume _ _ => false
  | .debugResumeAtDbgpc _ _ => false
  | .regionResume _ _ _ => false
  | .regionImageWrite _ _ _ => false
  | .eqctlWrite _ _ => false
  | .registerWrite _ _ _ => false
  | .errorCounterRead _ => false
  | .laneStatusRead => false
  | .partitionCreate => false
  | .partitionDestroy => false
  | .partitionReset => false
  | .partitionResetComplete _ => false
  | .functionLevelReset _ => false
  | .vfDisable _ => false
  | .coreReset _ => false
  | .packageReset => false
  | .fundamentalReset => false
  | .dumpRelease => false
  | .irqTimer _ => false
  | .bringUp _ => false
  | .portRetrainEnd _ => false
  | .domainRebuild _ => false

/-- R33, R79, R227, R279, R316: the modifier of an instruction is assigned at this site. -/
def Instr.modOk (k : SiteKind) : Instr → Bool
  | .addc _ _ _ _ p => k = .cc || p.toNat < 4
  | .subb _ _ _ _ p => k = .cc || p.toNat < 4
  | .selp _ _ _ _ p => k = .cc || p.toNat < 4
  | .mmac _ src _ => Wf.groupOk src 2
  | .mmac8 _ src _ => Wf.groupOk src 4
  | .mmac12 _ src _ => Wf.groupOk src 8
  | .ld _ _ _ _ m => if k = .cc then m.toNat < 8 else m.toNat < 2
  | .st _ _ _ _ m => if k = .cc then m.toNat / 4 % 2 == 0 else m.toNat < 2
  | .ldf _ _ _ _ m => if k = .cc then m.toNat < 15 else m.toNat < 2
  | .stf _ _ _ _ m => if k = .cc then m.toNat < 15 else m.toNat < 2
  | .aadd _ _ _ _ m => k = .cc || m.toNat < 2
  | .amin _ _ _ _ m => k = .cc || m.toNat < 2
  | .amax _ _ _ _ m => k = .cc || m.toNat < 2
  | .aand _ _ _ _ m => k = .cc || m.toNat < 2
  | .aor _ _ _ _ m => k = .cc || m.toNat < 2
  | .axor _ _ _ _ m => k = .cc || m.toNat < 2
  | .axchg _ _ _ _ m => k = .cc || m.toNat < 2
  | .acas _ _ _ _ m => k = .cc || m.toNat < 2
  | .afadd _ _ _ _ m => k = .cc || m.toNat < 2
  | .msg _ _ _ _ m => m.toNat / 4 % 2 == 0
  | .mrecv _ _ _ _ m => m.toNat < 8
  | .launch _ _ _ _ m => m.toNat / 4 % 2 == 0
  | _ => true

/-- The opcode of an instruction (R50); a step of spec/95 has none. -/
def Instr.code : Instr → Option Nat
  | .add _ _ _ _ => some 0x00
  | .sub _ _ _ _ => some 0x01
  | .adds _ _ _ _ => some 0x02
  | .subs _ _ _ _ => some 0x03
  | .addz _ _ _ _ => some 0x04
  | .subz _ _ _ _ => some 0x05
  | .neg _ _ _ => some 0x06
  | .abs _ _ _ => some 0x07
  | .mins _ _ _ _ => some 0x08
  | .minz _ _ _ _ => some 0x09
  | .maxs _ _ _ _ => some 0x0A
  | .maxz _ _ _ _ => some 0x0B
  | .addc _ _ _ _ _ => some 0x0C
  | .subb _ _ _ _ _ => some 0x0D
  | .mul _ _ _ _ => some 0x10
  | .mulhs _ _ _ _ => some 0x11
  | .mulhz _ _ _ _ => some 0x12
  | .mad _ _ _ _ => some 0x13
  | .divs _ _ _ _ => some 0x14
  | .divz _ _ _ _ => some 0x15
  | .rems _ _ _ _ => some 0x16
  | .remz _ _ _ _ => some 0x17
  | .and _ _ _ _ => some 0x20
  | .or _ _ _ _ => some 0x21
  | .xor _ _ _ _ => some 0x22
  | .andn _ _ _ _ => some 0x23
  | .not _ _ _ => some 0x24
  | .shl _ _ _ _ => some 0x25
  | .shrz _ _ _ _ => some 0x26
  | .shrs _ _ _ _ => some 0x27
  | .rotl _ _ _ _ => some 0x28
  | .clz _ _ _ => some 0x29
  | .popc _ _ _ => some 0x2A
  | .brev _ _ _ => some 0x2B
  | .mov _ _ _ => some 0x30
  | .movi _ _ _ => some 0x31
  | .movhi _ _ _ => some 0x32
  | .sext _ _ _ _ => some 0x33
  | .zext _ _ _ _ => some 0x34
  | .slext _ _ _ _ => some 0x35
  | .slins _ _ _ _ => some 0x36
  | .pack _ _ _ _ => some 0x37
  | .unpk _ _ _ _ => some 0x38
  | .swap _ _ _ => some 0x39
  | .slclr _ _ _ => some 0x3A
  | .ceq _ _ _ _ => some 0x40
  | .cne _ _ _ _ => some 0x41
  | .clts _ _ _ _ => some 0x42
  | .cltz _ _ _ _ => some 0x43
  | .cles _ _ _ _ => some 0x44
  | .clez _ _ _ _ => some 0x45
  | .fceq _ _ _ _ => some 0x46
  | .fclt _ _ _ _ => some 0x47
  | .fcle _ _ _ _ => some 0x48
  | .fcun _ _ _ _ => some 0x49
  | .pmov _ _ _ => some 0x4A
  | .pand _ _ _ _ => some 0x4B
  | .por _ _ _ _ => some 0x4C
  | .pxor _ _ _ _ => some 0x4D
  | .pnot _ _ _ => some 0x4E
  | .selp _ _ _ _ _ => some 0x4F
  | .fadd _ _ _ _ _ => some 0x50
  | .fsub _ _ _ _ _ => some 0x51
  | .fmul _ _ _ _ _ => some 0x52
  | .fma _ _ _ _ _ => some 0x53
  | .fnma _ _ _ _ _ => some 0x54
  | .fmin _ _ _ _ => some 0x55
  | .fmax _ _ _ _ => some 0x56
  | .fabs _ _ _ => some 0x57
  | .fneg _ _ _ => some 0x58
  | .frcp _ _ _ _ => some 0x59
  | .frsq _ _ _ _ => some 0x5A
  | .fexp2 _ _ _ _ => some 0x5B
  | .flog2 _ _ _ _ => some 0x5C
  | .fdiv _ _ _ _ _ => some 0x5D
  | .fsqrt _ _ _ _ => some 0x5E
  | .fscale _ _ _ _ _ => some 0x5F
  | .fcvts _ _ _ _ => some 0x60
  | .fcvtz _ _ _ _ => some 0x61
  | .ftois _ _ _ _ => some 0x62
  | .ftoiz _ _ _ _ => some 0x63
  | .frnd _ _ _ _ => some 0x64
  | .fnorm _ _ _ => some 0x65
  | .fgete _ _ _ => some 0x66
  | .fgetm _ _ _ => some 0x67
  | .fsete _ _ _ _ _ => some 0x68
  | .ftol _ _ _ _ => some 0x69
  | .ltof _ _ _ _ => some 0x6A
  | .f32w _ _ _ => some 0x6B
  | .wf32 _ _ _ _ => some 0x6C
  | .br _ _ => some 0x70
  | .jmp _ _ => some 0x71
  | .jal _ _ _ => some 0x72
  | .jalr _ _ _ => some 0x73
  | .loop _ _ _ => some 0x74
  | .waitp _ _ => some 0x75
  | .halt _ => some 0x76
  | .nop _ => some 0x77
  | .trap _ _ _ => some 0x80
  | .eret _ => some 0x81
  | .srd _ _ _ => some 0x82
  | .swr _ _ _ => some 0x83
  | .cfence _ => some 0x84
  | .wfe _ _ _ _ => some 0x85
  | .bkpt _ _ => some 0x86
  | .emit _ _ _ _ => some 0x90
  | .deq _ _ => some 0x91
  | .peekk _ _ _ => some 0x92
  | .ctok _ _ _ _ => some 0x93
  | .pass _ _ _ => some 0x94
  | .retire _ _ => some 0x95
  | .exit _ _ _ _ => some 0x96
  | .eow _ _ _ => some 0x97
  | .tidx _ _ _ _ => some 0x98
  | .idle _ _ => some 0x99
  | .vadd _ _ _ _ _ => some 0xA0
  | .vsub _ _ _ _ _ => some 0xA1
  | .vadds _ _ _ _ _ => some 0xA2
  | .vmin _ _ _ _ _ => some 0xA3
  | .vmax _ _ _ _ _ => some 0xA4
  | .vaddmin _ _ _ _ _ => some 0xA5
  | .vaddmax _ _ _ _ _ => some 0xA6
  | .vmul _ _ _ _ _ => some 0xA7
  | .vsel _ _ _ _ _ => some 0xA8
  | .lshl _ _ _ _ _ => some 0xA9
  | .lshr _ _ _ _ _ => some 0xAA
  | .vred _ _ _ _ _ => some 0xAB
  | .vscan _ _ _ _ _ => some 0xAC
  | .vbcast _ _ _ _ _ => some 0xAD
  | .vcmp _ _ _ _ _ => some 0xAE
  | .vdot _ _ _ _ _ => some 0xAF
  | .mzero _ _ => some 0xB0
  | .mmac _ _ _ => some 0xB1
  | .mmac8 _ _ _ => some 0xB2
  | .mmac12 _ _ _ => some 0xB3
  | .mmacw _ _ => some 0xB4
  | .mdown _ _ => some 0xB5
  | .mread _ _ _ _ _ => some 0xB6
  | .mnorm _ _ => some 0xB7
  | .mxget _ _ _ => some 0xB8
  | .mtask _ _ _ _ _ => some 0xB9
  | .mpois _ _ _ => some 0xBA
  | .ld _ _ _ _ _ => some 0xC0
  | .st _ _ _ _ _ => some 0xC1
  | .ldf _ _ _ _ _ => some 0xC2
  | .stf _ _ _ _ _ => some 0xC3
  | .aadd _ _ _ _ _ => some 0xC4
  | .amin _ _ _ _ _ => some 0xC5
  | .amax _ _ _ _ _ => some 0xC6
  | .aand _ _ _ _ _ => some 0xC7
  | .aor _ _ _ _ _ => some 0xC8
  | .axor _ _ _ _ _ => some 0xC9
  | .axchg _ _ _ _ _ => some 0xCA
  | .acas _ _ _ _ _ => some 0xCB
  | .afadd _ _ _ _ _ => some 0xCC
  | .fence _ _ _ => some 0xCD
  | .join _ _ _ _ => some 0xCE
  | .fork _ _ _ => some 0xCF
  | .csetb _ _ _ _ => some 0xD0
  | .candp _ _ _ _ => some 0xD1
  | .cgetb _ _ _ => some 0xD2
  | .cgetl _ _ _ => some 0xD3
  | .cgetp _ _ _ => some 0xD4
  | .ctest _ _ _ _ => some 0xD5
  | .cmov _ _ _ => some 0xD6
  | .cldc _ _ _ _ => some 0xD7
  | .cstc _ _ _ _ => some 0xD8
  | .cclr _ _ _ => some 0xD9
  | .csub _ _ _ _ => some 0xDA
  | .dma _ _ _ _ _ => some 0xE0
  | .dmas _ _ _ _ _ => some 0xE1
  | .gath _ _ _ _ _ => some 0xE2
  | .scat _ _ _ _ _ => some 0xE3
  | .stage _ _ _ _ _ => some 0xE4
  | .coll _ _ _ _ _ => some 0xE5
  | .msg _ _ _ _ _ => some 0xE6
  | .mrecv _ _ _ _ _ => some 0xE7
  | .bankt _ _ _ => some 0xE8
  | .launch _ _ _ _ _ => some 0xE9
  | .gbar _ _ => some 0xEA
  | .epoll _ _ _ => some 0xEB
  | .ecancel _ _ => some 0xEC
  | .qwait _ _ _ _ => some 0xED
  | .lease _ _ _ _ => some 0xF0
  | .lrel _ => some 0xF1
  | .pwrq _ _ _ _ => some 0xF2
  | .tstamp _ _ => some 0xF3
  | .mark _ _ _ => some 0xF4
  | .dstop _ _ _ => some 0xF5
  | .scant _ _ _ => some 0xF6
  | .scanq _ _ _ => some 0xF7
  | .lcmap _ _ _ _ => some 0xF8
  | .writeBack _ _ => none
  | .trapEntry _ => none
  | .asynchronousTrap _ => none
  | .instructionCacheFill _ => none
  | .wfeTimeout _ => none
  | .tokenTransfer _ _ _ => none
  | .busPacketDiscard _ _ _ => none
  | .fillerFiring _ _ => none
  | .intervalStart => none
  | .tokenInstalment => none
  | .intervalEnd _ => none
  | .powerCapAction _ _ => none
  | .leaseExpiry _ => none
  | .sensorSample _ _ => none
  | .leakageMeasurement _ _ _ => none
  | .oppoint _ _ => none
  | .passStart _ _ => none
  | .entryTokenSend _ _ => none
  | .pickLoad _ _ _ _ => none
  | .restoreComplete _ _ _ => none
  | .eviction _ _ _ => none
  | .spillComplete _ _ _ => none
  | .wrapDelivery _ _ => none
  | .wrapOverflow _ _ _ => none
  | .initialRecordAppend _ _ => none
  | .streamRead _ _ _ => none
  | .streamWrite _ _ _ => none
  | .nodeRequest _ _ _ => none
  | .streamRetry _ _ _ => none
  | .engineUnit _ _ => none
  | .engineCompletion _ _ => none
  | .segmentHandover _ _ _ => none
  | .collTimeout _ _ => none
  | .messageDelivery _ _ => none
  | .messageTake _ => none
  | .barrierTimeout _ _ => none
  | .recordEnqueue _ _ => none
  | .farAtomicCompletion _ _ => none
  | .recordCheck _ _ => none
  | .memberPlacement _ _ => none
  | .stagingFill _ _ => none
  | .memberStart _ _ => none
  | .launchCompletion _ _ => none
  | .drain _ _ => none
  | .freezeWave _ _ => none
  | .freezeEnd _ _ => none
  | .preemption _ _ => none
  | .restore _ _ => none
  | .gangAbort _ _ _ => none
  | .uncorrectableError _ => none
  | .criticalPathStep _ => none
  | .regionStop _ _ => none
  | .fatalDump _ _ => none
  | .scanComplete _ => none
  | .reinitialisationEnd _ => none
  | .edgeValueArrival _ _ => none
  | .flitReceive _ _ => none
  | .acknowledgeTimer _ => none
  | .laneMapResend _ => none
  | .laneMapSwitch _ => none
  | .portRetrain _ => none
  | .domainTimeout _ => none
  | .shootdownAck _ _ _ => none
  | .shootdownComplete _ _ => none
  | .shootdownTimeout _ _ _ => none
  | .trackerPeriod _ => none
  | .blockSwitch _ => none
  | .parkedReplay _ => none
  | .atomRemap _ _ => none
  | .bar2Read _ _ _ => none
  | .bar2Write _ _ _ => none
  | .bar0ReadFlush _ _ => none
  | .submit _ _ => none
  | .skip _ _ => none
  | .retry _ _ => none
  | .queueKill _ _ => none
  | .shoot _ _ => none
  | .regionAbort _ _ _ => none
  | .imgfree _ _ => none
  | .debugResume _ _ => none
  | .debugResumeAtDbgpc _ _ => none
  | .regionResume _ _ _ => none
  | .regionImageWrite _ _ _ => none
  | .eqctlWrite _ _ => none
  | .registerWrite _ _ _ => none
  | .errorCounterRead _ => none
  | .laneStatusRead => none
  | .partitionCreate => none
  | .partitionDestroy => none
  | .partitionReset => none
  | .partitionResetComplete _ => none
  | .functionLevelReset _ => none
  | .vfDisable _ => none
  | .coreReset _ => none
  | .packageReset => none
  | .fundamentalReset => none
  | .dumpRelease => none
  | .irqTimer _ => none
  | .bringUp _ => none
  | .portRetrainEnd _ => none
  | .domainRebuild _ => none

/-- The guard field of an instruction (R30); 0 for a step of spec/95. -/
def Instr.guard : Instr → BitVec 16
  | .add g _ _ _ => g
  | .sub g _ _ _ => g
  | .adds g _ _ _ => g
  | .subs g _ _ _ => g
  | .addz g _ _ _ => g
  | .subz g _ _ _ => g
  | .neg g _ _ => g
  | .abs g _ _ => g
  | .mins g _ _ _ => g
  | .minz g _ _ _ => g
  | .maxs g _ _ _ => g
  | .maxz g _ _ _ => g
  | .addc g _ _ _ _ => g
  | .subb g _ _ _ _ => g
  | .mul g _ _ _ => g
  | .mulhs g _ _ _ => g
  | .mulhz g _ _ _ => g
  | .mad g _ _ _ => g
  | .divs g _ _ _ => g
  | .divz g _ _ _ => g
  | .rems g _ _ _ => g
  | .remz g _ _ _ => g
  | .and g _ _ _ => g
  | .or g _ _ _ => g
  | .xor g _ _ _ => g
  | .andn g _ _ _ => g
  | .not g _ _ => g
  | .shl g _ _ _ => g
  | .shrz g _ _ _ => g
  | .shrs g _ _ _ => g
  | .rotl g _ _ _ => g
  | .clz g _ _ => g
  | .popc g _ _ => g
  | .brev g _ _ => g
  | .mov g _ _ => g
  | .movi g _ _ => g
  | .movhi g _ _ => g
  | .sext g _ _ _ => g
  | .zext g _ _ _ => g
  | .slext g _ _ _ => g
  | .slins g _ _ _ => g
  | .pack g _ _ _ => g
  | .unpk g _ _ _ => g
  | .swap g _ _ => g
  | .slclr g _ _ => g
  | .ceq g _ _ _ => g
  | .cne g _ _ _ => g
  | .clts g _ _ _ => g
  | .cltz g _ _ _ => g
  | .cles g _ _ _ => g
  | .clez g _ _ _ => g
  | .fceq g _ _ _ => g
  | .fclt g _ _ _ => g
  | .fcle g _ _ _ => g
  | .fcun g _ _ _ => g
  | .pmov g _ _ => g
  | .pand g _ _ _ => g
  | .por g _ _ _ => g
  | .pxor g _ _ _ => g
  | .pnot g _ _ => g
  | .selp g _ _ _ _ => g
  | .fadd g _ _ _ _ => g
  | .fsub g _ _ _ _ => g
  | .fmul g _ _ _ _ => g
  | .fma g _ _ _ _ => g
  | .fnma g _ _ _ _ => g
  | .fmin g _ _ _ => g
  | .fmax g _ _ _ => g
  | .fabs g _ _ => g
  | .fneg g _ _ => g
  | .frcp g _ _ _ => g
  | .frsq g _ _ _ => g
  | .fexp2 g _ _ _ => g
  | .flog2 g _ _ _ => g
  | .fdiv g _ _ _ _ => g
  | .fsqrt g _ _ _ => g
  | .fscale g _ _ _ _ => g
  | .fcvts g _ _ _ => g
  | .fcvtz g _ _ _ => g
  | .ftois g _ _ _ => g
  | .ftoiz g _ _ _ => g
  | .frnd g _ _ _ => g
  | .fnorm g _ _ => g
  | .fgete g _ _ => g
  | .fgetm g _ _ => g
  | .fsete g _ _ _ _ => g
  | .ftol g _ _ _ => g
  | .ltof g _ _ _ => g
  | .f32w g _ _ => g
  | .wf32 g _ _ _ => g
  | .br g _ => g
  | .jmp g _ => g
  | .jal g _ _ => g
  | .jalr g _ _ => g
  | .loop g _ _ => g
  | .waitp g _ => g
  | .halt g => g
  | .nop g => g
  | .trap g _ _ => g
  | .eret g => g
  | .srd g _ _ => g
  | .swr g _ _ => g
  | .cfence g => g
  | .wfe g _ _ _ => g
  | .bkpt g _ => g
  | .emit g _ _ _ => g
  | .deq g _ => g
  | .peekk g _ _ => g
  | .ctok g _ _ _ => g
  | .pass g _ _ => g
  | .retire g _ => g
  | .exit g _ _ _ => g
  | .eow g _ _ => g
  | .tidx g _ _ _ => g
  | .idle g _ => g
  | .vadd g _ _ _ _ => g
  | .vsub g _ _ _ _ => g
  | .vadds g _ _ _ _ => g
  | .vmin g _ _ _ _ => g
  | .vmax g _ _ _ _ => g
  | .vaddmin g _ _ _ _ => g
  | .vaddmax g _ _ _ _ => g
  | .vmul g _ _ _ _ => g
  | .vsel g _ _ _ _ => g
  | .lshl g _ _ _ _ => g
  | .lshr g _ _ _ _ => g
  | .vred g _ _ _ _ => g
  | .vscan g _ _ _ _ => g
  | .vbcast g _ _ _ _ => g
  | .vcmp g _ _ _ _ => g
  | .vdot g _ _ _ _ => g
  | .mzero g _ => g
  | .mmac g _ _ => g
  | .mmac8 g _ _ => g
  | .mmac12 g _ _ => g
  | .mmacw g _ => g
  | .mdown g _ => g
  | .mread g _ _ _ _ => g
  | .mnorm g _ => g
  | .mxget g _ _ => g
  | .mtask g _ _ _ _ => g
  | .mpois g _ _ => g
  | .ld g _ _ _ _ => g
  | .st g _ _ _ _ => g
  | .ldf g _ _ _ _ => g
  | .stf g _ _ _ _ => g
  | .aadd g _ _ _ _ => g
  | .amin g _ _ _ _ => g
  | .amax g _ _ _ _ => g
  | .aand g _ _ _ _ => g
  | .aor g _ _ _ _ => g
  | .axor g _ _ _ _ => g
  | .axchg g _ _ _ _ => g
  | .acas g _ _ _ _ => g
  | .afadd g _ _ _ _ => g
  | .fence g _ _ => g
  | .join g _ _ _ => g
  | .fork g _ _ => g
  | .csetb g _ _ _ => g
  | .candp g _ _ _ => g
  | .cgetb g _ _ => g
  | .cgetl g _ _ => g
  | .cgetp g _ _ => g
  | .ctest g _ _ _ => g
  | .cmov g _ _ => g
  | .cldc g _ _ _ => g
  | .cstc g _ _ _ => g
  | .cclr g _ _ => g
  | .csub g _ _ _ => g
  | .dma g _ _ _ _ => g
  | .dmas g _ _ _ _ => g
  | .gath g _ _ _ _ => g
  | .scat g _ _ _ _ => g
  | .stage g _ _ _ _ => g
  | .coll g _ _ _ _ => g
  | .msg g _ _ _ _ => g
  | .mrecv g _ _ _ _ => g
  | .bankt g _ _ => g
  | .launch g _ _ _ _ => g
  | .gbar g _ => g
  | .epoll g _ _ => g
  | .ecancel g _ => g
  | .qwait g _ _ _ => g
  | .lease g _ _ _ => g
  | .lrel g => g
  | .pwrq g _ _ _ => g
  | .tstamp g _ => g
  | .mark g _ _ => g
  | .dstop g _ _ => g
  | .scant g _ _ => g
  | .scanq g _ _ => g
  | .lcmap g _ _ _ => g
  | _ => 0

/-- An instruction that may stand at this site: R51, R33, the guard rules and the operand rules. -/
def Instr.wf (k : SiteKind) (i : Instr) : Bool :=
  (match i.code with
   | some op => siteOk k op
   | none => false) && i.modOk k && guardOk k i.guard && i.operandsOk k

end Sys2Proof
end

