-- ==== Sys2Proof/Decode.lean ====
section
/-! DEFINITION. Decoding and encoding of the 64-bit instruction word (spec/02 R30 to R35, R50 to R53). `decode` is total: it rejects
a word by the first check of R52 that fails. -/
namespace Sys2Proof

/-- The fields of the basic form (R30). -/
structure Fields where
  guard : BitVec 16
  op : BitVec 8
  dest : BitVec 12
  srcA : BitVec 12
  srcB : BitVec 12
  mod : BitVec 4
deriving DecidableEq, Repr

/-- R30: the fields of a word. -/
def fieldsOf (w : Word64) : Fields :=
  { guard := w.extractLsb' 48 16, op := w.extractLsb' 40 8, dest := w.extractLsb' 28 12, srcA := w.extractLsb' 16 12,
    srcB := w.extractLsb' 4 12, mod := w.extractLsb' 0 4 }

/-- R30: the word of the fields. -/
def wordOf (f : Fields) : Word64 := f.guard ++ (f.op ++ (f.dest ++ (f.srcA ++ (f.srcB ++ f.mod))))

/-- R34, R35: an operand field; `none` where reserved bits are not 0. -/
def operandOf (x : BitVec 12) : Option Operand :=
  if x.getLsbD 11 = false then some (.slice (x.extractLsb' 4 7) (x.extractLsb' 0 4))
  else match (x.extractLsb' 8 3).toNat with
    | 0 => if x.extractLsb' 0 4 = 0 then some (.inChan (x.extractLsb' 5 3) (x.getLsbD 4)) else none
    | 1 => if x.extractLsb' 0 3 = 0 then some (.outChan (x.extractLsb' 5 3) (x.extractLsb' 3 2)) else none
    | 2 => if x.extractLsb' 0 5 = 0 then some (.pass (x.extractLsb' 6 2) (x.getLsbD 5)) else none
    | 3 => if x.extractLsb' 0 5 = 0 then some (.pred (x.extractLsb' 5 3)) else none
    | 4 => some (.imm (x.extractLsb' 0 8))
    | 5 => some (.sreg (x.extractLsb' 0 8))
    | 6 => if x.extractLsb' 0 5 = 0 then some (.port (x.extractLsb' 6 2) (x.getLsbD 5)) else none
    | _ => if x.extractLsb' 3 5 = 0 then some (.res (x.extractLsb' 0 3)) else none

/-- R34, R35: the field of an operand. -/
def Operand.enc : Operand → BitVec 12
  | .slice s c => (0#1 ++ s) ++ c
  | .inChan ch kp => ((0x8#4 ++ ch) ++ BitVec.ofBool kp) ++ 0#4
  | .outChan ch kd => ((0x9#4 ++ ch) ++ kd) ++ 0#3
  | .pass q out => ((0xA#4 ++ q) ++ BitVec.ofBool out) ++ 0#5
  | .pred p => (0xB#4 ++ p) ++ 0#5
  | .imm v => 0xC#4 ++ v
  | .sreg n => 0xD#4 ++ n
  | .port k out => ((0xE#4 ++ k) ++ BitVec.ofBool out) ++ 0#5
  | .res r => (0xF#4 ++ 0#5) ++ r

/-- R33: the rounding modifier. -/
def roundingOf (m : BitVec 4) : Option Rounding :=
  match m.toNat with
  | 0 => some .rne | 1 => some .rtz | 2 => some .rup | 3 => some .rdn | 4 => some .rsr | _ => none
def Rounding.enc : Rounding → BitVec 4
  | .rne => 0 | .rtz => 1 | .rup => 2 | .rdn => 3 | .rsr => 4

/-- R33: the lane-width modifier. -/
def laneOf (m : BitVec 4) : Option Lane :=
  match m.toNat with
  | 0 => some .l4 | 1 => some .l8 | 2 => some .l16 | 3 => some .l32 | 4 => some .l64 | _ => none
def Lane.enc : Lane → BitVec 4
  | .l4 => 0 | .l8 => 1 | .l16 => 2 | .l32 => 3 | .l64 => 4

/-- R204: the lane-and-sign modifier. -/
def laneSignOf (m : BitVec 4) : Option LaneSign :=
  (laneOf (0#1 ++ m.extractLsb' 0 3)).map fun l => { ln := l, unsigned := m.getLsbD 3 }
def LaneSign.enc (l : LaneSign) : BitVec 4 := BitVec.ofBool l.unsigned ++ l.ln.enc.extractLsb' 0 3

/-- R108, R230: the L-format modifier. -/
def lfmtOf (m : BitVec 4) : Option LFmt :=
  match m.toNat with
  | 0 => some .l6 | 1 => some .l8 | 2 => some .l12 | _ => none
def LFmt.enc : LFmt → BitVec 4
  | .l6 => 0 | .l8 => 1 | .l12 => 2

/-- The modifier kinds of R33 and of the member tables. -/
inductive ModKind where
  | none | rounding | lane | laneSign | lfmt | pred | pred2 | flag | nval | quad | mmac | any
deriving DecidableEq, Repr

/-- R33: the modifier holds a value that the kind assigns, whatever the site. -/
def ModKind.ok (m : BitVec 4) : ModKind → Bool
  | .none => m == 0
  | .rounding => m.toNat ≤ 4
  | .lane => m.toNat ≤ 4
  | .laneSign => m.toNat % 8 ≤ 4
  | .lfmt => m.toNat ≤ 2
  | .pred => m.toNat < 8
  | .pred2 => m.toNat < 4
  | .flag => m.toNat < 2
  | .nval => m.toNat < 8
  | .quad => m.toNat < 4
  | .mmac => m == 0 || 8 ≤ m.toNat
  | .any => true

/-- R50: the modifier kind of an assigned code; the I28 and B36 forms have no modifier. `none` where the code is unassigned. -/
def modKindOf (op : Nat) : Option ModKind :=
  match op with
  | 0x00 | 0x01 | 0x02 | 0x03 | 0x04 | 0x05 | 0x06 | 0x07 | 0x08 | 0x09 | 0x0A | 0x0B | 0x10 | 0x11 => some .none
  | 0x12 | 0x13 | 0x14 | 0x15 | 0x16 | 0x17 | 0x20 | 0x21 | 0x22 | 0x23 | 0x24 | 0x25 | 0x26 | 0x27 => some .none
  | 0x28 | 0x29 | 0x2A | 0x2B | 0x30 | 0x33 | 0x34 | 0x35 | 0x36 | 0x37 | 0x38 | 0x39 | 0x3A | 0x40 => some .none
  | 0x41 | 0x42 | 0x43 | 0x44 | 0x45 | 0x46 | 0x47 | 0x48 | 0x49 | 0x4A | 0x4B | 0x4C | 0x4D | 0x4E => some .none
  | 0x55 | 0x56 | 0x57 | 0x58 | 0x65 | 0x66 | 0x67 | 0x6B | 0x71 | 0x72 | 0x73 | 0x74 | 0x75 | 0x76 => some .none
  | 0x77 | 0x80 | 0x81 | 0x82 | 0x83 | 0x84 | 0x85 | 0x86 | 0x91 | 0x92 | 0x94 | 0x98 | 0x99 | 0xB0 => some .none
  | 0xB8 | 0xCD | 0xCE | 0xCF | 0xD0 | 0xD1 | 0xD2 | 0xD3 | 0xD4 | 0xD5 | 0xD6 | 0xD7 | 0xD8 | 0xD9 => some .none
  | 0xDA | 0xE8 | 0xEA | 0xEB | 0xEC | 0xED | 0xF0 | 0xF1 | 0xF2 | 0xF3 | 0xF4 | 0xF5 | 0xF6 | 0xF7 => some .none
  | 0xF8 => some .none
  | 0x0C | 0x0D | 0x4F => some .pred
  | 0x31 | 0x32 | 0x70 | 0xC0 | 0xC1 | 0xC2 | 0xC3 | 0xC4 | 0xC5 | 0xC6 | 0xC7 | 0xC8 | 0xC9 | 0xCA => some .any
  | 0xCB | 0xCC | 0xE0 | 0xE1 | 0xE2 | 0xE3 | 0xE4 | 0xE5 | 0xE6 | 0xE7 | 0xE9 => some .any
  | 0x50 | 0x51 | 0x52 | 0x53 | 0x54 | 0x59 | 0x5A | 0x5B | 0x5C | 0x5D | 0x5E | 0x5F | 0x60 | 0x61 => some .rounding
  | 0x62 | 0x63 | 0x64 | 0x68 | 0x6C | 0xB6 => some .rounding
  | 0x69 | 0x6A | 0xB5 => some .lfmt
  | 0x90 | 0x93 | 0x95 | 0x97 | 0xB7 | 0xBA => some .flag
  | 0x96 => some .nval
  | 0xA0 | 0xA1 | 0xA7 | 0xA8 | 0xA9 | 0xAA | 0xAD => some .lane
  | 0xA2 | 0xA3 | 0xA4 | 0xA5 | 0xA6 | 0xAB | 0xAC | 0xAE | 0xAF => some .laneSign
  | 0xB1 | 0xB2 | 0xB3 => some .mmac
  | 0xB4 => some .quad
  | 0xB9 => some .pred2
  | _ => Option.none

/-- An optional operand: absent under `c` with the field 0 (R32), present otherwise. DEDUCED: notes/assumptions/7.md. -/
def optField (c : Bool) (x : BitVec 12) : Option (Option Operand) :=
  if c then (if x = 0 then some none else none) else (operandOf x).map some
def optEnc : Option Operand → BitVec 12
  | none => 0
  | some o => o.enc

/-- R227: operand A of the MMAC family; with mod[3] = 1 srcA is unused. -/
def mmacSrcOf (m : BitVec 4) (x : BitVec 12) : Option MmacSrc :=
  if m.getLsbD 3 then (if x = 0 then some (.store (m.extractLsb' 0 3)) else none) else (operandOf x).map .bus
def MmacSrc.encA : MmacSrc → BitVec 12
  | .bus o => o.enc
  | .store _ => 0
def MmacSrc.encMod : MmacSrc → BitVec 4
  | .bus _ => 0
  | .store g => 1#1 ++ g

/-- The modifier values that a site leaves unassigned (R79, R227, R279, R316). -/
def siteMod (k : SiteKind) (f : Fields) : Bool :=
  match f.op.toNat with
  | 0x0C | 0x0D | 0x4F => k == .cc || f.mod.toNat < 4
  | 0xB1 => f.mod.toNat < 10
  | 0xB2 => f.mod.toNat < 12
  | 0xC0 => if k = .cc then f.mod.toNat < 8 else f.mod.toNat < 2
  | 0xC1 => if k = .cc then f.mod.toNat / 4 % 2 == 0 else f.mod.toNat < 2
  | 0xC2 | 0xC3 => if k = .cc then f.mod.toNat < 15 else f.mod.toNat < 2
  | 0xC4 | 0xC5 | 0xC6 | 0xC7 | 0xC8 | 0xC9 | 0xCA | 0xCB | 0xCC => k == .cc || f.mod.toNat < 2
  | 0xE6 | 0xE9 => f.mod.toNat / 4 % 2 == 0
  | 0xE7 => f.mod.toNat < 8
  | _ => true

/-- Builds an instruction from its fields once the code and the modifier are assigned (R31, R32): `none` where an operand field is
not legal or an unused field is not 0. A BR whose modifier is not 0 is an illegal operand: DESIGN CHOICE, notes/assumptions/58.md. The dest 0x000 of MTASK is
an absent operand: DESIGN CHOICE, notes/assumptions/7.md. -/
def build (f : Fields) : Option Instr :=
  match f.op.toNat with
  | 0x00 => (operandOf f.dest).bind fun d => (operandOf f.srcA).bind fun a => (operandOf f.srcB).bind fun b => some (.add f.guard d a b)
  | 0x01 => (operandOf f.dest).bind fun d => (operandOf f.srcA).bind fun a => (operandOf f.srcB).bind fun b => some (.sub f.guard d a b)
  | 0x02 => (operandOf f.dest).bind fun d => (operandOf f.srcA).bind fun a => (operandOf f.srcB).bind fun b => some (.adds f.guard d a b)
  | 0x03 => (operandOf f.dest).bind fun d => (operandOf f.srcA).bind fun a => (operandOf f.srcB).bind fun b => some (.subs f.guard d a b)
  | 0x04 => (operandOf f.dest).bind fun d => (operandOf f.srcA).bind fun a => (operandOf f.srcB).bind fun b => some (.addz f.guard d a b)
  | 0x05 => (operandOf f.dest).bind fun d => (operandOf f.srcA).bind fun a => (operandOf f.srcB).bind fun b => some (.subz f.guard d a b)
  | 0x06 => if f.srcB = 0 then (operandOf f.dest).bind fun d => (operandOf f.srcA).bind fun a => some (.neg f.guard d a) else none
  | 0x07 => if f.srcB = 0 then (operandOf f.dest).bind fun d => (operandOf f.srcA).bind fun a => some (.abs f.guard d a) else none
  | 0x08 => (operandOf f.dest).bind fun d => (operandOf f.srcA).bind fun a => (operandOf f.srcB).bind fun b => some (.mins f.guard d a b)
  | 0x09 => (operandOf f.dest).bind fun d => (operandOf f.srcA).bind fun a => (operandOf f.srcB).bind fun b => some (.minz f.guard d a b)
  | 0x0A => (operandOf f.dest).bind fun d => (operandOf f.srcA).bind fun a => (operandOf f.srcB).bind fun b => some (.maxs f.guard d a b)
  | 0x0B => (operandOf f.dest).bind fun d => (operandOf f.srcA).bind fun a => (operandOf f.srcB).bind fun b => some (.maxz f.guard d a b)
  | 0x0C => (operandOf f.dest).bind fun d => (operandOf f.srcA).bind fun a => (operandOf f.srcB).bind fun b => some (.addc f.guard d a b (f.mod.extractLsb' 0 3))
  | 0x0D => (operandOf f.dest).bind fun d => (operandOf f.srcA).bind fun a => (operandOf f.srcB).bind fun b => some (.subb f.guard d a b (f.mod.extractLsb' 0 3))
  | 0x10 => (operandOf f.dest).bind fun d => (operandOf f.srcA).bind fun a => (operandOf f.srcB).bind fun b => some (.mul f.guard d a b)
  | 0x11 => (operandOf f.dest).bind fun d => (operandOf f.srcA).bind fun a => (operandOf f.srcB).bind fun b => some (.mulhs f.guard d a b)
  | 0x12 => (operandOf f.dest).bind fun d => (operandOf f.srcA).bind fun a => (operandOf f.srcB).bind fun b => some (.mulhz f.guard d a b)
  | 0x13 => (operandOf f.dest).bind fun d => (operandOf f.srcA).bind fun a => (operandOf f.srcB).bind fun b => some (.mad f.guard d a b)
  | 0x14 => (operandOf f.dest).bind fun d => (operandOf f.srcA).bind fun a => (operandOf f.srcB).bind fun b => some (.divs f.guard d a b)
  | 0x15 => (operandOf f.dest).bind fun d => (operandOf f.srcA).bind fun a => (operandOf f.srcB).bind fun b => some (.divz f.guard d a b)
  | 0x16 => (operandOf f.dest).bind fun d => (operandOf f.srcA).bind fun a => (operandOf f.srcB).bind fun b => some (.rems f.guard d a b)
  | 0x17 => (operandOf f.dest).bind fun d => (operandOf f.srcA).bind fun a => (operandOf f.srcB).bind fun b => some (.remz f.guard d a b)
  | 0x20 => (operandOf f.dest).bind fun d => (operandOf f.srcA).bind fun a => (operandOf f.srcB).bind fun b => some (.and f.guard d a b)
  | 0x21 => (operandOf f.dest).bind fun d => (operandOf f.srcA).bind fun a => (operandOf f.srcB).bind fun b => some (.or f.guard d a b)
  | 0x22 => (operandOf f.dest).bind fun d => (operandOf f.srcA).bind fun a => (operandOf f.srcB).bind fun b => some (.xor f.guard d a b)
  | 0x23 => (operandOf f.dest).bind fun d => (operandOf f.srcA).bind fun a => (operandOf f.srcB).bind fun b => some (.andn f.guard d a b)
  | 0x24 => if f.srcB = 0 then (operandOf f.dest).bind fun d => (operandOf f.srcA).bind fun a => some (.not f.guard d a) else none
  | 0x25 => (operandOf f.dest).bind fun d => (operandOf f.srcA).bind fun a => (operandOf f.srcB).bind fun b => some (.shl f.guard d a b)
  | 0x26 => (operandOf f.dest).bind fun d => (operandOf f.srcA).bind fun a => (operandOf f.srcB).bind fun b => some (.shrz f.guard d a b)
  | 0x27 => (operandOf f.dest).bind fun d => (operandOf f.srcA).bind fun a => (operandOf f.srcB).bind fun b => some (.shrs f.guard d a b)
  | 0x28 => (operandOf f.dest).bind fun d => (operandOf f.srcA).bind fun a => (operandOf f.srcB).bind fun b => some (.rotl f.guard d a b)
  | 0x29 => if f.srcB = 0 then (operandOf f.dest).bind fun d => (operandOf f.srcA).bind fun a => some (.clz f.guard d a) else none
  | 0x2A => if f.srcB = 0 then (operandOf f.dest).bind fun d => (operandOf f.srcA).bind fun a => some (.popc f.guard d a) else none
  | 0x2B => if f.srcB = 0 then (operandOf f.dest).bind fun d => (operandOf f.srcA).bind fun a => some (.brev f.guard d a) else none
  | 0x30 => if f.srcB = 0 then (operandOf f.dest).bind fun d => (operandOf f.srcA).bind fun a => some (.mov f.guard d a) else none
  | 0x31 => (operandOf f.dest).bind fun d => some (.movi f.guard d ((f.srcA ++ f.srcB) ++ f.mod))
  | 0x32 => (operandOf f.dest).bind fun d => some (.movhi f.guard d ((f.srcA ++ f.srcB) ++ f.mod))
  | 0x33 => (operandOf f.dest).bind fun d => (operandOf f.srcA).bind fun a => (operandOf f.srcB).bind fun b => some (.sext f.guard d a b)
  | 0x34 => (operandOf f.dest).bind fun d => (operandOf f.srcA).bind fun a => (operandOf f.srcB).bind fun b => some (.zext f.guard d a b)
  | 0x35 => (operandOf f.dest).bind fun d => (operandOf f.srcA).bind fun a => (operandOf f.srcB).bind fun b => some (.slext f.guard d a b)
  | 0x36 => (operandOf f.dest).bind fun d => (operandOf f.srcA).bind fun a => (operandOf f.srcB).bind fun b => some (.slins f.guard d a b)
  | 0x37 => (operandOf f.dest).bind fun d => (operandOf f.srcA).bind fun a => (operandOf f.srcB).bind fun b => some (.pack f.guard d a b)
  | 0x38 => (operandOf f.dest).bind fun d => (operandOf f.srcA).bind fun a => (operandOf f.srcB).bind fun b => some (.unpk f.guard d a b)
  | 0x39 => if f.srcB = 0 then (operandOf f.dest).bind fun d => (operandOf f.srcA).bind fun a => some (.swap f.guard d a) else none
  | 0x3A => if f.srcB = 0 then (operandOf f.dest).bind fun d => (operandOf f.srcA).bind fun a => some (.slclr f.guard d a) else none
  | 0x40 => (operandOf f.dest).bind fun d => (operandOf f.srcA).bind fun a => (operandOf f.srcB).bind fun b => some (.ceq f.guard d a b)
  | 0x41 => (operandOf f.dest).bind fun d => (operandOf f.srcA).bind fun a => (operandOf f.srcB).bind fun b => some (.cne f.guard d a b)
  | 0x42 => (operandOf f.dest).bind fun d => (operandOf f.srcA).bind fun a => (operandOf f.srcB).bind fun b => some (.clts f.guard d a b)
  | 0x43 => (operandOf f.dest).bind fun d => (operandOf f.srcA).bind fun a => (operandOf f.srcB).bind fun b => some (.cltz f.guard d a b)
  | 0x44 => (operandOf f.dest).bind fun d => (operandOf f.srcA).bind fun a => (operandOf f.srcB).bind fun b => some (.cles f.guard d a b)
  | 0x45 => (operandOf f.dest).bind fun d => (operandOf f.srcA).bind fun a => (operandOf f.srcB).bind fun b => some (.clez f.guard d a b)
  | 0x46 => (operandOf f.dest).bind fun d => (operandOf f.srcA).bind fun a => (operandOf f.srcB).bind fun b => some (.fceq f.guard d a b)
  | 0x47 => (operandOf f.dest).bind fun d => (operandOf f.srcA).bind fun a => (operandOf f.srcB).bind fun b => some (.fclt f.guard d a b)
  | 0x48 => (operandOf f.dest).bind fun d => (operandOf f.srcA).bind fun a => (operandOf f.srcB).bind fun b => some (.fcle f.guard d a b)
  | 0x49 => (operandOf f.dest).bind fun d => (operandOf f.srcA).bind fun a => (operandOf f.srcB).bind fun b => some (.fcun f.guard d a b)
  | 0x4A => if f.srcB = 0 then (operandOf f.dest).bind fun d => (operandOf f.srcA).bind fun a => some (.pmov f.guard d a) else none
  | 0x4B => (operandOf f.dest).bind fun d => (operandOf f.srcA).bind fun a => (operandOf f.srcB).bind fun b => some (.pand f.guard d a b)
  | 0x4C => (operandOf f.dest).bind fun d => (operandOf f.srcA).bind fun a => (operandOf f.srcB).bind fun b => some (.por f.guard d a b)
  | 0x4D => (operandOf f.dest).bind fun d => (operandOf f.srcA).bind fun a => (operandOf f.srcB).bind fun b => some (.pxor f.guard d a b)
  | 0x4E => if f.srcB = 0 then (operandOf f.dest).bind fun d => (operandOf f.srcA).bind fun a => some (.pnot f.guard d a) else none
  | 0x4F => (operandOf f.dest).bind fun d => (operandOf f.srcA).bind fun a => (operandOf f.srcB).bind fun b => some (.selp f.guard d a b (f.mod.extractLsb' 0 3))
  | 0x50 => (operandOf f.dest).bind fun d => (operandOf f.srcA).bind fun a => (operandOf f.srcB).bind fun b => (roundingOf f.mod).bind fun rm => some (.fadd f.guard d a b rm)
  | 0x51 => (operandOf f.dest).bind fun d => (operandOf f.srcA).bind fun a => (operandOf f.srcB).bind fun b => (roundingOf f.mod).bind fun rm => some (.fsub f.guard d a b rm)
  | 0x52 => (operandOf f.dest).bind fun d => (operandOf f.srcA).bind fun a => (operandOf f.srcB).bind fun b => (roundingOf f.mod).bind fun rm => some (.fmul f.guard d a b rm)
  | 0x53 => (operandOf f.dest).bind fun d => (operandOf f.srcA).bind fun a => (operandOf f.srcB).bind fun b => (roundingOf f.mod).bind fun rm => some (.fma f.guard d a b rm)
  | 0x54 => (operandOf f.dest).bind fun d => (operandOf f.srcA).bind fun a => (operandOf f.srcB).bind fun b => (roundingOf f.mod).bind fun rm => some (.fnma f.guard d a b rm)
  | 0x55 => (operandOf f.dest).bind fun d => (operandOf f.srcA).bind fun a => (operandOf f.srcB).bind fun b => some (.fmin f.guard d a b)
  | 0x56 => (operandOf f.dest).bind fun d => (operandOf f.srcA).bind fun a => (operandOf f.srcB).bind fun b => some (.fmax f.guard d a b)
  | 0x57 => if f.srcB = 0 then (operandOf f.dest).bind fun d => (operandOf f.srcA).bind fun a => some (.fabs f.guard d a) else none
  | 0x58 => if f.srcB = 0 then (operandOf f.dest).bind fun d => (operandOf f.srcA).bind fun a => some (.fneg f.guard d a) else none
  | 0x59 => if f.srcB = 0 then (operandOf f.dest).bind fun d => (operandOf f.srcA).bind fun a => (roundingOf f.mod).bind fun rm => some (.frcp f.guard d a rm) else none
  | 0x5A => if f.srcB = 0 then (operandOf f.dest).bind fun d => (operandOf f.srcA).bind fun a => (roundingOf f.mod).bind fun rm => some (.frsq f.guard d a rm) else none
  | 0x5B => if f.srcB = 0 then (operandOf f.dest).bind fun d => (operandOf f.srcA).bind fun a => (roundingOf f.mod).bind fun rm => some (.fexp2 f.guard d a rm) else none
  | 0x5C => if f.srcB = 0 then (operandOf f.dest).bind fun d => (operandOf f.srcA).bind fun a => (roundingOf f.mod).bind fun rm => some (.flog2 f.guard d a rm) else none
  | 0x5D => (operandOf f.dest).bind fun d => (operandOf f.srcA).bind fun a => (operandOf f.srcB).bind fun b => (roundingOf f.mod).bind fun rm => some (.fdiv f.guard d a b rm)
  | 0x5E => if f.srcB = 0 then (operandOf f.dest).bind fun d => (operandOf f.srcA).bind fun a => (roundingOf f.mod).bind fun rm => some (.fsqrt f.guard d a rm) else none
  | 0x5F => (operandOf f.dest).bind fun d => (operandOf f.srcA).bind fun a => (operandOf f.srcB).bind fun b => (roundingOf f.mod).bind fun rm => some (.fscale f.guard d a b rm)
  | 0x60 => if f.srcB = 0 then (operandOf f.dest).bind fun d => (operandOf f.srcA).bind fun a => (roundingOf f.mod).bind fun rm => some (.fcvts f.guard d a rm) else none
  | 0x61 => if f.srcB = 0 then (operandOf f.dest).bind fun d => (operandOf f.srcA).bind fun a => (roundingOf f.mod).bind fun rm => some (.fcvtz f.guard d a rm) else none
  | 0x62 => if f.srcB = 0 then (operandOf f.dest).bind fun d => (operandOf f.srcA).bind fun a => (roundingOf f.mod).bind fun rm => some (.ftois f.guard d a rm) else none
  | 0x63 => if f.srcB = 0 then (operandOf f.dest).bind fun d => (operandOf f.srcA).bind fun a => (roundingOf f.mod).bind fun rm => some (.ftoiz f.guard d a rm) else none
  | 0x64 => if f.srcB = 0 then (operandOf f.dest).bind fun d => (operandOf f.srcA).bind fun a => (roundingOf f.mod).bind fun rm => some (.frnd f.guard d a rm) else none
  | 0x65 => if f.srcB = 0 then (operandOf f.dest).bind fun d => (operandOf f.srcA).bind fun a => some (.fnorm f.guard d a) else none
  | 0x66 => if f.srcB = 0 then (operandOf f.dest).bind fun d => (operandOf f.srcA).bind fun a => some (.fgete f.guard d a) else none
  | 0x67 => if f.srcB = 0 then (operandOf f.dest).bind fun d => (operandOf f.srcA).bind fun a => some (.fgetm f.guard d a) else none
  | 0x68 => (operandOf f.dest).bind fun d => (operandOf f.srcA).bind fun a => (operandOf f.srcB).bind fun b => (roundingOf f.mod).bind fun rm => some (.fsete f.guard d a b rm)
  | 0x69 => if f.srcB = 0 then (operandOf f.dest).bind fun d => (operandOf f.srcA).bind fun a => (lfmtOf f.mod).bind fun lf => some (.ftol f.guard d a lf) else none
  | 0x6A => if f.srcB = 0 then (operandOf f.dest).bind fun d => (operandOf f.srcA).bind fun a => (lfmtOf f.mod).bind fun lf => some (.ltof f.guard d a lf) else none
  | 0x6B => if f.srcB = 0 then (operandOf f.dest).bind fun d => (operandOf f.srcA).bind fun a => some (.f32w f.guard d a) else none
  | 0x6C => if f.srcB = 0 then (operandOf f.dest).bind fun d => (operandOf f.srcA).bind fun a => (roundingOf f.mod).bind fun rm => some (.wf32 f.guard d a rm) else none
  | 0x70 => if f.mod = 0 then some (.br f.guard ((f.dest ++ f.srcA) ++ f.srcB)) else none
  | 0x71 => if f.dest = 0 ∧ f.srcB = 0 then (operandOf f.srcA).bind fun a => some (.jmp f.guard a) else none
  | 0x72 => (operandOf f.dest).bind fun d => some (.jal f.guard d (f.srcA ++ f.srcB))
  | 0x73 => if f.srcB = 0 then (operandOf f.dest).bind fun d => (operandOf f.srcA).bind fun a => some (.jalr f.guard d a) else none
  | 0x74 => if f.srcB = 0 then (operandOf f.dest).bind fun d => (operandOf f.srcA).bind fun a => some (.loop f.guard d a) else none
  | 0x75 => if f.dest = 0 ∧ f.srcB = 0 then (operandOf f.srcA).bind fun a => some (.waitp f.guard a) else none
  | 0x76 => if f.dest = 0 ∧ f.srcA = 0 ∧ f.srcB = 0 then some (.halt f.guard) else none
  | 0x77 => if f.dest = 0 ∧ f.srcA = 0 ∧ f.srcB = 0 then some (.nop f.guard) else none
  | 0x80 => if f.dest = 0 then (operandOf f.srcA).bind fun a => (operandOf f.srcB).bind fun b => some (.trap f.guard a b) else none
  | 0x81 => if f.dest = 0 ∧ f.srcA = 0 ∧ f.srcB = 0 then some (.eret f.guard) else none
  | 0x82 => if f.srcB = 0 then (operandOf f.dest).bind fun d => (operandOf f.srcA).bind fun a => some (.srd f.guard d a) else none
  | 0x83 => if f.srcB = 0 then (operandOf f.dest).bind fun d => (operandOf f.srcA).bind fun a => some (.swr f.guard d a) else none
  | 0x84 => if f.dest = 0 ∧ f.srcA = 0 ∧ f.srcB = 0 then some (.cfence f.guard) else none
  | 0x85 => (operandOf f.dest).bind fun d => (operandOf f.srcA).bind fun a => (operandOf f.srcB).bind fun b => some (.wfe f.guard d a b)
  | 0x86 => if f.dest = 0 ∧ f.srcB = 0 then (operandOf f.srcA).bind fun a => some (.bkpt f.guard a) else none
  | 0x90 => (operandOf f.dest).bind fun d => (operandOf f.srcA).bind fun a => (optField (f.mod == 0) f.srcB).bind fun b => some (.emit f.guard d a b)
  | 0x91 => if f.dest = 0 ∧ f.srcB = 0 then (operandOf f.srcA).bind fun a => some (.deq f.guard a) else none
  | 0x92 => if f.srcB = 0 then (operandOf f.dest).bind fun d => (operandOf f.srcA).bind fun a => some (.peekk f.guard d a) else none
  | 0x93 => (operandOf f.dest).bind fun d => (operandOf f.srcA).bind fun a => (optField (f.mod == 0) f.srcB).bind fun b => some (.ctok f.guard d a b)
  | 0x94 => if f.srcB = 0 then (operandOf f.dest).bind fun d => (operandOf f.srcA).bind fun a => some (.pass f.guard d a) else none
  | 0x95 => if f.dest = 0 ∧ f.srcA = 0 ∧ f.srcB = 0 then some (.retire f.guard (f.mod == 1)) else none
  | 0x96 => if f.dest = 0 then (operandOf f.srcA).bind fun a => (optField (f.mod.extractLsb' 0 3 == 0) f.srcB).bind fun b => some (.exit f.guard a b (f.mod.extractLsb' 0 3)) else none
  | 0x97 => if f.srcB = 0 then (optField (f.mod == 1) f.dest).bind fun d => (operandOf f.srcA).bind fun a => some (.eow f.guard d a) else none
  | 0x98 => (operandOf f.dest).bind fun d => (operandOf f.srcA).bind fun a => (operandOf f.srcB).bind fun b => some (.tidx f.guard d a b)
  | 0x99 => if f.dest = 0 ∧ f.srcB = 0 then (operandOf f.srcA).bind fun a => some (.idle f.guard a) else none
  | 0xA0 => (operandOf f.dest).bind fun d => (operandOf f.srcA).bind fun a => (operandOf f.srcB).bind fun b => (laneOf f.mod).bind fun ln => some (.vadd f.guard d a b ln)
  | 0xA1 => (operandOf f.dest).bind fun d => (operandOf f.srcA).bind fun a => (operandOf f.srcB).bind fun b => (laneOf f.mod).bind fun ln => some (.vsub f.guard d a b ln)
  | 0xA2 => (operandOf f.dest).bind fun d => (operandOf f.srcA).bind fun a => (operandOf f.srcB).bind fun b => (laneSignOf f.mod).bind fun ln => some (.vadds f.guard d a b ln)
  | 0xA3 => (operandOf f.dest).bind fun d => (operandOf f.srcA).bind fun a => (operandOf f.srcB).bind fun b => (laneSignOf f.mod).bind fun ln => some (.vmin f.guard d a b ln)
  | 0xA4 => (operandOf f.dest).bind fun d => (operandOf f.srcA).bind fun a => (operandOf f.srcB).bind fun b => (laneSignOf f.mod).bind fun ln => some (.vmax f.guard d a b ln)
  | 0xA5 => (operandOf f.dest).bind fun d => (operandOf f.srcA).bind fun a => (operandOf f.srcB).bind fun b => (laneSignOf f.mod).bind fun ln => some (.vaddmin f.guard d a b ln)
  | 0xA6 => (operandOf f.dest).bind fun d => (operandOf f.srcA).bind fun a => (operandOf f.srcB).bind fun b => (laneSignOf f.mod).bind fun ln => some (.vaddmax f.guard d a b ln)
  | 0xA7 => (operandOf f.dest).bind fun d => (operandOf f.srcA).bind fun a => (operandOf f.srcB).bind fun b => (laneOf f.mod).bind fun ln => some (.vmul f.guard d a b ln)
  | 0xA8 => (operandOf f.dest).bind fun d => (operandOf f.srcA).bind fun a => (operandOf f.srcB).bind fun b => (laneOf f.mod).bind fun ln => some (.vsel f.guard d a b ln)
  | 0xA9 => (operandOf f.dest).bind fun d => (operandOf f.srcA).bind fun a => (operandOf f.srcB).bind fun b => (laneOf f.mod).bind fun ln => some (.lshl f.guard d a b ln)
  | 0xAA => (operandOf f.dest).bind fun d => (operandOf f.srcA).bind fun a => (operandOf f.srcB).bind fun b => (laneOf f.mod).bind fun ln => some (.lshr f.guard d a b ln)
  | 0xAB => (operandOf f.dest).bind fun d => (operandOf f.srcA).bind fun a => (operandOf f.srcB).bind fun b => (laneSignOf f.mod).bind fun ln => some (.vred f.guard d a b ln)
  | 0xAC => (operandOf f.dest).bind fun d => (operandOf f.srcA).bind fun a => (operandOf f.srcB).bind fun b => (laneSignOf f.mod).bind fun ln => some (.vscan f.guard d a b ln)
  | 0xAD => (operandOf f.dest).bind fun d => (operandOf f.srcA).bind fun a => (operandOf f.srcB).bind fun b => (laneOf f.mod).bind fun ln => some (.vbcast f.guard d a b ln)
  | 0xAE => (operandOf f.dest).bind fun d => (operandOf f.srcA).bind fun a => (operandOf f.srcB).bind fun b => (laneSignOf f.mod).bind fun ln => some (.vcmp f.guard d a b ln)
  | 0xAF => (operandOf f.dest).bind fun d => (operandOf f.srcA).bind fun a => (operandOf f.srcB).bind fun b => (laneSignOf f.mod).bind fun ln => some (.vdot f.guard d a b ln)
  | 0xB0 => if f.dest = 0 ∧ f.srcB = 0 then (operandOf f.srcA).bind fun a => some (.mzero f.guard a) else none
  | 0xB1 => if f.dest = 0 then (mmacSrcOf f.mod f.srcA).bind fun ms => (operandOf f.srcB).bind fun b => some (.mmac f.guard ms b) else none
  | 0xB2 => if f.dest = 0 then (mmacSrcOf f.mod f.srcA).bind fun ms => (operandOf f.srcB).bind fun b => some (.mmac8 f.guard ms b) else none
  | 0xB3 => if f.dest = 0 then (mmacSrcOf f.mod f.srcA).bind fun ms => (operandOf f.srcB).bind fun b => some (.mmac12 f.guard ms b) else none
  | 0xB4 => if f.dest = 0 ∧ f.srcA = 0 ∧ f.srcB = 0 then some (.mmacw f.guard (f.mod.extractLsb' 0 2)) else none
  | 0xB5 => if f.dest = 0 ∧ f.srcA = 0 ∧ f.srcB = 0 then (lfmtOf f.mod).bind fun lf => some (.mdown f.guard lf) else none
  | 0xB6 => (operandOf f.dest).bind fun d => (operandOf f.srcA).bind fun a => (operandOf f.srcB).bind fun b => (roundingOf f.mod).bind fun rm => some (.mread f.guard d a b rm)
  | 0xB7 => if f.dest = 0 ∧ f.srcB = 0 then (optField (f.mod == 1) f.srcA).bind fun a => some (.mnorm f.guard a) else none
  | 0xB8 => if f.srcB = 0 then (operandOf f.dest).bind fun d => (operandOf f.srcA).bind fun a => some (.mxget f.guard d a) else none
  | 0xB9 => (optField (f.dest == 0) f.dest).bind fun d => (operandOf f.srcA).bind fun a => (operandOf f.srcB).bind fun b => some (.mtask f.guard d a b (f.mod.extractLsb' 0 2))
  | 0xBA => if f.dest = 0 ∧ f.srcB = 0 then (operandOf f.srcA).bind fun a => some (.mpois f.guard a (f.mod == 1)) else none
  | 0xC0 => (operandOf f.dest).bind fun d => (operandOf f.srcA).bind fun a => (operandOf f.srcB).bind fun b => some (.ld f.guard d a b f.mod)
  | 0xC1 => (operandOf f.dest).bind fun d => (operandOf f.srcA).bind fun a => (operandOf f.srcB).bind fun b => some (.st f.guard d a b f.mod)
  | 0xC2 => (operandOf f.dest).bind fun d => (operandOf f.srcA).bind fun a => (operandOf f.srcB).bind fun b => some (.ldf f.guard d a b f.mod)
  | 0xC3 => (operandOf f.dest).bind fun d => (operandOf f.srcA).bind fun a => (operandOf f.srcB).bind fun b => some (.stf f.guard d a b f.mod)
  | 0xC4 => (operandOf f.dest).bind fun d => (operandOf f.srcA).bind fun a => (operandOf f.srcB).bind fun b => some (.aadd f.guard d a b f.mod)
  | 0xC5 => (operandOf f.dest).bind fun d => (operandOf f.srcA).bind fun a => (operandOf f.srcB).bind fun b => some (.amin f.guard d a b f.mod)
  | 0xC6 => (operandOf f.dest).bind fun d => (operandOf f.srcA).bind fun a => (operandOf f.srcB).bind fun b => some (.amax f.guard d a b f.mod)
  | 0xC7 => (operandOf f.dest).bind fun d => (operandOf f.srcA).bind fun a => (operandOf f.srcB).bind fun b => some (.aand f.guard d a b f.mod)
  | 0xC8 => (operandOf f.dest).bind fun d => (operandOf f.srcA).bind fun a => (operandOf f.srcB).bind fun b => some (.aor f.guard d a b f.mod)
  | 0xC9 => (operandOf f.dest).bind fun d => (operandOf f.srcA).bind fun a => (operandOf f.srcB).bind fun b => some (.axor f.guard d a b f.mod)
  | 0xCA => (operandOf f.dest).bind fun d => (operandOf f.srcA).bind fun a => (operandOf f.srcB).bind fun b => some (.axchg f.guard d a b f.mod)
  | 0xCB => (operandOf f.dest).bind fun d => (operandOf f.srcA).bind fun a => (operandOf f.srcB).bind fun b => some (.acas f.guard d a b f.mod)
  | 0xCC => (operandOf f.dest).bind fun d => (operandOf f.srcA).bind fun a => (operandOf f.srcB).bind fun b => some (.afadd f.guard d a b f.mod)
  | 0xCD => if f.srcB = 0 then (optField (f.dest == 0) f.dest).bind fun d => (operandOf f.srcA).bind fun a => some (.fence f.guard d a) else none
  | 0xCE => (operandOf f.dest).bind fun d => (operandOf f.srcA).bind fun a => (operandOf f.srcB).bind fun b => some (.join f.guard d a b)
  | 0xCF => if f.srcB = 0 then (operandOf f.dest).bind fun d => (operandOf f.srcA).bind fun a => some (.fork f.guard d a) else none
  | 0xD0 => (operandOf f.dest).bind fun d => (operandOf f.srcA).bind fun a => (operandOf f.srcB).bind fun b => some (.csetb f.guard d a b)
  | 0xD1 => (operandOf f.dest).bind fun d => (operandOf f.srcA).bind fun a => (operandOf f.srcB).bind fun b => some (.candp f.guard d a b)
  | 0xD2 => if f.srcB = 0 then (operandOf f.dest).bind fun d => (operandOf f.srcA).bind fun a => some (.cgetb f.guard d a) else none
  | 0xD3 => if f.srcB = 0 then (operandOf f.dest).bind fun d => (operandOf f.srcA).bind fun a => some (.cgetl f.guard d a) else none
  | 0xD4 => if f.srcB = 0 then (operandOf f.dest).bind fun d => (operandOf f.srcA).bind fun a => some (.cgetp f.guard d a) else none
  | 0xD5 => (operandOf f.dest).bind fun d => (operandOf f.srcA).bind fun a => (operandOf f.srcB).bind fun b => some (.ctest f.guard d a b)
  | 0xD6 => if f.srcB = 0 then (operandOf f.dest).bind fun d => (operandOf f.srcA).bind fun a => some (.cmov f.guard d a) else none
  | 0xD7 => (operandOf f.dest).bind fun d => (operandOf f.srcA).bind fun a => (operandOf f.srcB).bind fun b => some (.cldc f.guard d a b)
  | 0xD8 => (operandOf f.dest).bind fun d => (operandOf f.srcA).bind fun a => (operandOf f.srcB).bind fun b => some (.cstc f.guard d a b)
  | 0xD9 => if f.srcB = 0 then (operandOf f.dest).bind fun d => (operandOf f.srcA).bind fun a => some (.cclr f.guard d a) else none
  | 0xDA => (operandOf f.dest).bind fun d => (operandOf f.srcA).bind fun a => (operandOf f.srcB).bind fun b => some (.csub f.guard d a b)
  | 0xE0 => (operandOf f.dest).bind fun d => (operandOf f.srcA).bind fun a => (operandOf f.srcB).bind fun b => some (.dma f.guard d a b f.mod)
  | 0xE1 => (operandOf f.dest).bind fun d => (operandOf f.srcA).bind fun a => (operandOf f.srcB).bind fun b => some (.dmas f.guard d a b f.mod)
  | 0xE2 => (operandOf f.dest).bind fun d => (operandOf f.srcA).bind fun a => (operandOf f.srcB).bind fun b => some (.gath f.guard d a b f.mod)
  | 0xE3 => (operandOf f.dest).bind fun d => (operandOf f.srcA).bind fun a => (operandOf f.srcB).bind fun b => some (.scat f.guard d a b f.mod)
  | 0xE4 => (operandOf f.dest).bind fun d => (operandOf f.srcA).bind fun a => (operandOf f.srcB).bind fun b => some (.stage f.guard d a b f.mod)
  | 0xE5 => (operandOf f.dest).bind fun d => (operandOf f.srcA).bind fun a => (operandOf f.srcB).bind fun b => some (.coll f.guard d a b f.mod)
  | 0xE6 => (operandOf f.dest).bind fun d => (operandOf f.srcA).bind fun a => (operandOf f.srcB).bind fun b => some (.msg f.guard d a b f.mod)
  | 0xE7 => (operandOf f.dest).bind fun d => (operandOf f.srcA).bind fun a => (operandOf f.srcB).bind fun b => some (.mrecv f.guard d a b f.mod)
  | 0xE8 => if f.dest = 0 then (operandOf f.srcA).bind fun a => (operandOf f.srcB).bind fun b => some (.bankt f.guard a b) else none
  | 0xE9 => (operandOf f.dest).bind fun d => (operandOf f.srcA).bind fun a => (operandOf f.srcB).bind fun b => some (.launch f.guard d a b f.mod)
  | 0xEA => if f.dest = 0 ∧ f.srcB = 0 then (operandOf f.srcA).bind fun a => some (.gbar f.guard a) else none
  | 0xEB => if f.srcB = 0 then (operandOf f.dest).bind fun d => (operandOf f.srcA).bind fun a => some (.epoll f.guard d a) else none
  | 0xEC => if f.dest = 0 ∧ f.srcB = 0 then (operandOf f.srcA).bind fun a => some (.ecancel f.guard a) else none
  | 0xED => (operandOf f.dest).bind fun d => (operandOf f.srcA).bind fun a => (operandOf f.srcB).bind fun b => some (.qwait f.guard d a b)
  | 0xF0 => (operandOf f.dest).bind fun d => (operandOf f.srcA).bind fun a => (operandOf f.srcB).bind fun b => some (.lease f.guard d a b)
  | 0xF1 => if f.dest = 0 ∧ f.srcA = 0 ∧ f.srcB = 0 then some (.lrel f.guard) else none
  | 0xF2 => (operandOf f.dest).bind fun d => (operandOf f.srcA).bind fun a => (operandOf f.srcB).bind fun b => some (.pwrq f.guard d a b)
  | 0xF3 => if f.srcA = 0 ∧ f.srcB = 0 then (operandOf f.dest).bind fun d => some (.tstamp f.guard d) else none
  | 0xF4 => if f.dest = 0 then (operandOf f.srcA).bind fun a => (operandOf f.srcB).bind fun b => some (.mark f.guard a b) else none
  | 0xF5 => if f.srcB = 0 then (operandOf f.dest).bind fun d => (operandOf f.srcA).bind fun a => some (.dstop f.guard d a) else none
  | 0xF6 => if f.srcB = 0 then (operandOf f.dest).bind fun d => (operandOf f.srcA).bind fun a => some (.scant f.guard d a) else none
  | 0xF7 => if f.srcB = 0 then (operandOf f.dest).bind fun d => (operandOf f.srcA).bind fun a => some (.scanq f.guard d a) else none
  | 0xF8 => (operandOf f.dest).bind fun d => (operandOf f.srcA).bind fun a => (operandOf f.srcB).bind fun b => some (.lcmap f.guard d a b)
  | _ => none

/-- R52: the instruction that a word holds at a site, or the first check that fails: opcode and modifier, then guard, then operand
fields. DEDUCED: notes/assumptions/58.md. -/
def decode (k : SiteKind) (w : Word64) : Except Illegal Instr :=
  let f := fieldsOf w
  match modKindOf f.op.toNat with
  | none => .error .opcode
  | some mk =>
    if !(mk.ok f.mod && siteOk k f.op.toNat && siteMod k f) then .error .opcode
    else if !guardOk k f.guard then .error .guard
    else match build f with
      | none => .error .operand
      | some i => if i.operandsOk k then .ok i else .error .operand

/-- The words of an instruction, from the same tables: `none` for a step of spec/95, which has no word. -/
def encode : Instr → Option Word64
  | .add g d a b => some (wordOf { guard := g, op := 0x00, dest := d.enc, srcA := a.enc, srcB := b.enc, mod := 0 })
  | .sub g d a b => some (wordOf { guard := g, op := 0x01, dest := d.enc, srcA := a.enc, srcB := b.enc, mod := 0 })
  | .adds g d a b => some (wordOf { guard := g, op := 0x02, dest := d.enc, srcA := a.enc, srcB := b.enc, mod := 0 })
  | .subs g d a b => some (wordOf { guard := g, op := 0x03, dest := d.enc, srcA := a.enc, srcB := b.enc, mod := 0 })
  | .addz g d a b => some (wordOf { guard := g, op := 0x04, dest := d.enc, srcA := a.enc, srcB := b.enc, mod := 0 })
  | .subz g d a b => some (wordOf { guard := g, op := 0x05, dest := d.enc, srcA := a.enc, srcB := b.enc, mod := 0 })
  | .neg g d a => some (wordOf { guard := g, op := 0x06, dest := d.enc, srcA := a.enc, srcB := 0, mod := 0 })
  | .abs g d a => some (wordOf { guard := g, op := 0x07, dest := d.enc, srcA := a.enc, srcB := 0, mod := 0 })
  | .mins g d a b => some (wordOf { guard := g, op := 0x08, dest := d.enc, srcA := a.enc, srcB := b.enc, mod := 0 })
  | .minz g d a b => some (wordOf { guard := g, op := 0x09, dest := d.enc, srcA := a.enc, srcB := b.enc, mod := 0 })
  | .maxs g d a b => some (wordOf { guard := g, op := 0x0A, dest := d.enc, srcA := a.enc, srcB := b.enc, mod := 0 })
  | .maxz g d a b => some (wordOf { guard := g, op := 0x0B, dest := d.enc, srcA := a.enc, srcB := b.enc, mod := 0 })
  | .addc g d a b p => some (wordOf { guard := g, op := 0x0C, dest := d.enc, srcA := a.enc, srcB := b.enc, mod := 0#1 ++ p })
  | .subb g d a b p => some (wordOf { guard := g, op := 0x0D, dest := d.enc, srcA := a.enc, srcB := b.enc, mod := 0#1 ++ p })
  | .mul g d a b => some (wordOf { guard := g, op := 0x10, dest := d.enc, srcA := a.enc, srcB := b.enc, mod := 0 })
  | .mulhs g d a b => some (wordOf { guard := g, op := 0x11, dest := d.enc, srcA := a.enc, srcB := b.enc, mod := 0 })
  | .mulhz g d a b => some (wordOf { guard := g, op := 0x12, dest := d.enc, srcA := a.enc, srcB := b.enc, mod := 0 })
  | .mad g d a b => some (wordOf { guard := g, op := 0x13, dest := d.enc, srcA := a.enc, srcB := b.enc, mod := 0 })
  | .divs g d a b => some (wordOf { guard := g, op := 0x14, dest := d.enc, srcA := a.enc, srcB := b.enc, mod := 0 })
  | .divz g d a b => some (wordOf { guard := g, op := 0x15, dest := d.enc, srcA := a.enc, srcB := b.enc, mod := 0 })
  | .rems g d a b => some (wordOf { guard := g, op := 0x16, dest := d.enc, srcA := a.enc, srcB := b.enc, mod := 0 })
  | .remz g d a b => some (wordOf { guard := g, op := 0x17, dest := d.enc, srcA := a.enc, srcB := b.enc, mod := 0 })
  | .and g d a b => some (wordOf { guard := g, op := 0x20, dest := d.enc, srcA := a.enc, srcB := b.enc, mod := 0 })
  | .or g d a b => some (wordOf { guard := g, op := 0x21, dest := d.enc, srcA := a.enc, srcB := b.enc, mod := 0 })
  | .xor g d a b => some (wordOf { guard := g, op := 0x22, dest := d.enc, srcA := a.enc, srcB := b.enc, mod := 0 })
  | .andn g d a b => some (wordOf { guard := g, op := 0x23, dest := d.enc, srcA := a.enc, srcB := b.enc, mod := 0 })
  | .not g d a => some (wordOf { guard := g, op := 0x24, dest := d.enc, srcA := a.enc, srcB := 0, mod := 0 })
  | .shl g d a b => some (wordOf { guard := g, op := 0x25, dest := d.enc, srcA := a.enc, srcB := b.enc, mod := 0 })
  | .shrz g d a b => some (wordOf { guard := g, op := 0x26, dest := d.enc, srcA := a.enc, srcB := b.enc, mod := 0 })
  | .shrs g d a b => some (wordOf { guard := g, op := 0x27, dest := d.enc, srcA := a.enc, srcB := b.enc, mod := 0 })
  | .rotl g d a b => some (wordOf { guard := g, op := 0x28, dest := d.enc, srcA := a.enc, srcB := b.enc, mod := 0 })
  | .clz g d a => some (wordOf { guard := g, op := 0x29, dest := d.enc, srcA := a.enc, srcB := 0, mod := 0 })
  | .popc g d a => some (wordOf { guard := g, op := 0x2A, dest := d.enc, srcA := a.enc, srcB := 0, mod := 0 })
  | .brev g d a => some (wordOf { guard := g, op := 0x2B, dest := d.enc, srcA := a.enc, srcB := 0, mod := 0 })
  | .mov g d a => some (wordOf { guard := g, op := 0x30, dest := d.enc, srcA := a.enc, srcB := 0, mod := 0 })
  | .movi g d imm => some (wordOf { guard := g, op := 0x31, dest := d.enc, srcA := imm.extractLsb' 16 12, srcB := imm.extractLsb' 4 12, mod := imm.extractLsb' 0 4 })
  | .movhi g d imm => some (wordOf { guard := g, op := 0x32, dest := d.enc, srcA := imm.extractLsb' 16 12, srcB := imm.extractLsb' 4 12, mod := imm.extractLsb' 0 4 })
  | .sext g d a b => some (wordOf { guard := g, op := 0x33, dest := d.enc, srcA := a.enc, srcB := b.enc, mod := 0 })
  | .zext g d a b => some (wordOf { guard := g, op := 0x34, dest := d.enc, srcA := a.enc, srcB := b.enc, mod := 0 })
  | .slext g d a b => some (wordOf { guard := g, op := 0x35, dest := d.enc, srcA := a.enc, srcB := b.enc, mod := 0 })
  | .slins g d a b => some (wordOf { guard := g, op := 0x36, dest := d.enc, srcA := a.enc, srcB := b.enc, mod := 0 })
  | .pack g d a b => some (wordOf { guard := g, op := 0x37, dest := d.enc, srcA := a.enc, srcB := b.enc, mod := 0 })
  | .unpk g d a b => some (wordOf { guard := g, op := 0x38, dest := d.enc, srcA := a.enc, srcB := b.enc, mod := 0 })
  | .swap g d a => some (wordOf { guard := g, op := 0x39, dest := d.enc, srcA := a.enc, srcB := 0, mod := 0 })
  | .slclr g d a => some (wordOf { guard := g, op := 0x3A, dest := d.enc, srcA := a.enc, srcB := 0, mod := 0 })
  | .ceq g d a b => some (wordOf { guard := g, op := 0x40, dest := d.enc, srcA := a.enc, srcB := b.enc, mod := 0 })
  | .cne g d a b => some (wordOf { guard := g, op := 0x41, dest := d.enc, srcA := a.enc, srcB := b.enc, mod := 0 })
  | .clts g d a b => some (wordOf { guard := g, op := 0x42, dest := d.enc, srcA := a.enc, srcB := b.enc, mod := 0 })
  | .cltz g d a b => some (wordOf { guard := g, op := 0x43, dest := d.enc, srcA := a.enc, srcB := b.enc, mod := 0 })
  | .cles g d a b => some (wordOf { guard := g, op := 0x44, dest := d.enc, srcA := a.enc, srcB := b.enc, mod := 0 })
  | .clez g d a b => some (wordOf { guard := g, op := 0x45, dest := d.enc, srcA := a.enc, srcB := b.enc, mod := 0 })
  | .fceq g d a b => some (wordOf { guard := g, op := 0x46, dest := d.enc, srcA := a.enc, srcB := b.enc, mod := 0 })
  | .fclt g d a b => some (wordOf { guard := g, op := 0x47, dest := d.enc, srcA := a.enc, srcB := b.enc, mod := 0 })
  | .fcle g d a b => some (wordOf { guard := g, op := 0x48, dest := d.enc, srcA := a.enc, srcB := b.enc, mod := 0 })
  | .fcun g d a b => some (wordOf { guard := g, op := 0x49, dest := d.enc, srcA := a.enc, srcB := b.enc, mod := 0 })
  | .pmov g d a => some (wordOf { guard := g, op := 0x4A, dest := d.enc, srcA := a.enc, srcB := 0, mod := 0 })
  | .pand g d a b => some (wordOf { guard := g, op := 0x4B, dest := d.enc, srcA := a.enc, srcB := b.enc, mod := 0 })
  | .por g d a b => some (wordOf { guard := g, op := 0x4C, dest := d.enc, srcA := a.enc, srcB := b.enc, mod := 0 })
  | .pxor g d a b => some (wordOf { guard := g, op := 0x4D, dest := d.enc, srcA := a.enc, srcB := b.enc, mod := 0 })
  | .pnot g d a => some (wordOf { guard := g, op := 0x4E, dest := d.enc, srcA := a.enc, srcB := 0, mod := 0 })
  | .selp g d a b p => some (wordOf { guard := g, op := 0x4F, dest := d.enc, srcA := a.enc, srcB := b.enc, mod := 0#1 ++ p })
  | .fadd g d a b rm => some (wordOf { guard := g, op := 0x50, dest := d.enc, srcA := a.enc, srcB := b.enc, mod := rm.enc })
  | .fsub g d a b rm => some (wordOf { guard := g, op := 0x51, dest := d.enc, srcA := a.enc, srcB := b.enc, mod := rm.enc })
  | .fmul g d a b rm => some (wordOf { guard := g, op := 0x52, dest := d.enc, srcA := a.enc, srcB := b.enc, mod := rm.enc })
  | .fma g d a b rm => some (wordOf { guard := g, op := 0x53, dest := d.enc, srcA := a.enc, srcB := b.enc, mod := rm.enc })
  | .fnma g d a b rm => some (wordOf { guard := g, op := 0x54, dest := d.enc, srcA := a.enc, srcB := b.enc, mod := rm.enc })
  | .fmin g d a b => some (wordOf { guard := g, op := 0x55, dest := d.enc, srcA := a.enc, srcB := b.enc, mod := 0 })
  | .fmax g d a b => some (wordOf { guard := g, op := 0x56, dest := d.enc, srcA := a.enc, srcB := b.enc, mod := 0 })
  | .fabs g d a => some (wordOf { guard := g, op := 0x57, dest := d.enc, srcA := a.enc, srcB := 0, mod := 0 })
  | .fneg g d a => some (wordOf { guard := g, op := 0x58, dest := d.enc, srcA := a.enc, srcB := 0, mod := 0 })
  | .frcp g d a rm => some (wordOf { guard := g, op := 0x59, dest := d.enc, srcA := a.enc, srcB := 0, mod := rm.enc })
  | .frsq g d a rm => some (wordOf { guard := g, op := 0x5A, dest := d.enc, srcA := a.enc, srcB := 0, mod := rm.enc })
  | .fexp2 g d a rm => some (wordOf { guard := g, op := 0x5B, dest := d.enc, srcA := a.enc, srcB := 0, mod := rm.enc })
  | .flog2 g d a rm => some (wordOf { guard := g, op := 0x5C, dest := d.enc, srcA := a.enc, srcB := 0, mod := rm.enc })
  | .fdiv g d a b rm => some (wordOf { guard := g, op := 0x5D, dest := d.enc, srcA := a.enc, srcB := b.enc, mod := rm.enc })
  | .fsqrt g d a rm => some (wordOf { guard := g, op := 0x5E, dest := d.enc, srcA := a.enc, srcB := 0, mod := rm.enc })
  | .fscale g d a b rm => some (wordOf { guard := g, op := 0x5F, dest := d.enc, srcA := a.enc, srcB := b.enc, mod := rm.enc })
  | .fcvts g d a rm => some (wordOf { guard := g, op := 0x60, dest := d.enc, srcA := a.enc, srcB := 0, mod := rm.enc })
  | .fcvtz g d a rm => some (wordOf { guard := g, op := 0x61, dest := d.enc, srcA := a.enc, srcB := 0, mod := rm.enc })
  | .ftois g d a rm => some (wordOf { guard := g, op := 0x62, dest := d.enc, srcA := a.enc, srcB := 0, mod := rm.enc })
  | .ftoiz g d a rm => some (wordOf { guard := g, op := 0x63, dest := d.enc, srcA := a.enc, srcB := 0, mod := rm.enc })
  | .frnd g d a rm => some (wordOf { guard := g, op := 0x64, dest := d.enc, srcA := a.enc, srcB := 0, mod := rm.enc })
  | .fnorm g d a => some (wordOf { guard := g, op := 0x65, dest := d.enc, srcA := a.enc, srcB := 0, mod := 0 })
  | .fgete g d a => some (wordOf { guard := g, op := 0x66, dest := d.enc, srcA := a.enc, srcB := 0, mod := 0 })
  | .fgetm g d a => some (wordOf { guard := g, op := 0x67, dest := d.enc, srcA := a.enc, srcB := 0, mod := 0 })
  | .fsete g d a b rm => some (wordOf { guard := g, op := 0x68, dest := d.enc, srcA := a.enc, srcB := b.enc, mod := rm.enc })
  | .ftol g d a f => some (wordOf { guard := g, op := 0x69, dest := d.enc, srcA := a.enc, srcB := 0, mod := f.enc })
  | .ltof g d a f => some (wordOf { guard := g, op := 0x6A, dest := d.enc, srcA := a.enc, srcB := 0, mod := f.enc })
  | .f32w g d a => some (wordOf { guard := g, op := 0x6B, dest := d.enc, srcA := a.enc, srcB := 0, mod := 0 })
  | .wf32 g d a rm => some (wordOf { guard := g, op := 0x6C, dest := d.enc, srcA := a.enc, srcB := 0, mod := rm.enc })
  | .br g off => some (wordOf { guard := g, op := 0x70, dest := off.extractLsb' 24 12, srcA := off.extractLsb' 12 12, srcB := off.extractLsb' 0 12, mod := 0 })
  | .jmp g a => some (wordOf { guard := g, op := 0x71, dest := 0, srcA := a.enc, srcB := 0, mod := 0 })
  | .jal g d off => some (wordOf { guard := g, op := 0x72, dest := d.enc, srcA := off.extractLsb' 12 12, srcB := off.extractLsb' 0 12, mod := 0 })
  | .jalr g d a => some (wordOf { guard := g, op := 0x73, dest := d.enc, srcA := a.enc, srcB := 0, mod := 0 })
  | .loop g d a => some (wordOf { guard := g, op := 0x74, dest := d.enc, srcA := a.enc, srcB := 0, mod := 0 })
  | .waitp g a => some (wordOf { guard := g, op := 0x75, dest := 0, srcA := a.enc, srcB := 0, mod := 0 })
  | .halt g => some (wordOf { guard := g, op := 0x76, dest := 0, srcA := 0, srcB := 0, mod := 0 })
  | .nop g => some (wordOf { guard := g, op := 0x77, dest := 0, srcA := 0, srcB := 0, mod := 0 })
  | .trap g a b => some (wordOf { guard := g, op := 0x80, dest := 0, srcA := a.enc, srcB := b.enc, mod := 0 })
  | .eret g => some (wordOf { guard := g, op := 0x81, dest := 0, srcA := 0, srcB := 0, mod := 0 })
  | .srd g d a => some (wordOf { guard := g, op := 0x82, dest := d.enc, srcA := a.enc, srcB := 0, mod := 0 })
  | .swr g d a => some (wordOf { guard := g, op := 0x83, dest := d.enc, srcA := a.enc, srcB := 0, mod := 0 })
  | .cfence g => some (wordOf { guard := g, op := 0x84, dest := 0, srcA := 0, srcB := 0, mod := 0 })
  | .wfe g d a b => some (wordOf { guard := g, op := 0x85, dest := d.enc, srcA := a.enc, srcB := b.enc, mod := 0 })
  | .bkpt g a => some (wordOf { guard := g, op := 0x86, dest := 0, srcA := a.enc, srcB := 0, mod := 0 })
  | .emit g d a b => some (wordOf { guard := g, op := 0x90, dest := d.enc, srcA := a.enc, srcB := optEnc b, mod := (if b.isSome then 1 else 0) })
  | .deq g a => some (wordOf { guard := g, op := 0x91, dest := 0, srcA := a.enc, srcB := 0, mod := 0 })
  | .peekk g d a => some (wordOf { guard := g, op := 0x92, dest := d.enc, srcA := a.enc, srcB := 0, mod := 0 })
  | .ctok g d a b => some (wordOf { guard := g, op := 0x93, dest := d.enc, srcA := a.enc, srcB := optEnc b, mod := (if b.isSome then 1 else 0) })
  | .pass g d a => some (wordOf { guard := g, op := 0x94, dest := d.enc, srcA := a.enc, srcB := 0, mod := 0 })
  | .retire g x => some (wordOf { guard := g, op := 0x95, dest := 0, srcA := 0, srcB := 0, mod := (if x then 1 else 0) })
  | .exit g a b nv => some (wordOf { guard := g, op := 0x96, dest := 0, srcA := a.enc, srcB := optEnc b, mod := 0#1 ++ nv })
  | .eow g d a => some (wordOf { guard := g, op := 0x97, dest := optEnc d, srcA := a.enc, srcB := 0, mod := (if d.isNone then 1 else 0) })
  | .tidx g d a b => some (wordOf { guard := g, op := 0x98, dest := d.enc, srcA := a.enc, srcB := b.enc, mod := 0 })
  | .idle g a => some (wordOf { guard := g, op := 0x99, dest := 0, srcA := a.enc, srcB := 0, mod := 0 })
  | .vadd g d a b ln => some (wordOf { guard := g, op := 0xA0, dest := d.enc, srcA := a.enc, srcB := b.enc, mod := ln.enc })
  | .vsub g d a b ln => some (wordOf { guard := g, op := 0xA1, dest := d.enc, srcA := a.enc, srcB := b.enc, mod := ln.enc })
  | .vadds g d a b ln => some (wordOf { guard := g, op := 0xA2, dest := d.enc, srcA := a.enc, srcB := b.enc, mod := ln.enc })
  | .vmin g d a b ln => some (wordOf { guard := g, op := 0xA3, dest := d.enc, srcA := a.enc, srcB := b.enc, mod := ln.enc })
  | .vmax g d a b ln => some (wordOf { guard := g, op := 0xA4, dest := d.enc, srcA := a.enc, srcB := b.enc, mod := ln.enc })
  | .vaddmin g d a b ln => some (wordOf { guard := g, op := 0xA5, dest := d.enc, srcA := a.enc, srcB := b.enc, mod := ln.enc })
  | .vaddmax g d a b ln => some (wordOf { guard := g, op := 0xA6, dest := d.enc, srcA := a.enc, srcB := b.enc, mod := ln.enc })
  | .vmul g d a b ln => some (wordOf { guard := g, op := 0xA7, dest := d.enc, srcA := a.enc, srcB := b.enc, mod := ln.enc })
  | .vsel g d a b ln => some (wordOf { guard := g, op := 0xA8, dest := d.enc, srcA := a.enc, srcB := b.enc, mod := ln.enc })
  | .lshl g d a b ln => some (wordOf { guard := g, op := 0xA9, dest := d.enc, srcA := a.enc, srcB := b.enc, mod := ln.enc })
  | .lshr g d a b ln => some (wordOf { guard := g, op := 0xAA, dest := d.enc, srcA := a.enc, srcB := b.enc, mod := ln.enc })
  | .vred g d a b ln => some (wordOf { guard := g, op := 0xAB, dest := d.enc, srcA := a.enc, srcB := b.enc, mod := ln.enc })
  | .vscan g d a b ln => some (wordOf { guard := g, op := 0xAC, dest := d.enc, srcA := a.enc, srcB := b.enc, mod := ln.enc })
  | .vbcast g d a b ln => some (wordOf { guard := g, op := 0xAD, dest := d.enc, srcA := a.enc, srcB := b.enc, mod := ln.enc })
  | .vcmp g d a b ln => some (wordOf { guard := g, op := 0xAE, dest := d.enc, srcA := a.enc, srcB := b.enc, mod := ln.enc })
  | .vdot g d a b ln => some (wordOf { guard := g, op := 0xAF, dest := d.enc, srcA := a.enc, srcB := b.enc, mod := ln.enc })
  | .mzero g a => some (wordOf { guard := g, op := 0xB0, dest := 0, srcA := a.enc, srcB := 0, mod := 0 })
  | .mmac g src b => some (wordOf { guard := g, op := 0xB1, dest := 0, srcA := src.encA, srcB := b.enc, mod := src.encMod })
  | .mmac8 g src b => some (wordOf { guard := g, op := 0xB2, dest := 0, srcA := src.encA, srcB := b.enc, mod := src.encMod })
  | .mmac12 g src b => some (wordOf { guard := g, op := 0xB3, dest := 0, srcA := src.encA, srcB := b.enc, mod := src.encMod })
  | .mmacw g q => some (wordOf { guard := g, op := 0xB4, dest := 0, srcA := 0, srcB := 0, mod := 0#2 ++ q })
  | .mdown g f => some (wordOf { guard := g, op := 0xB5, dest := 0, srcA := 0, srcB := 0, mod := f.enc })
  | .mread g d a b rm => some (wordOf { guard := g, op := 0xB6, dest := d.enc, srcA := a.enc, srcB := b.enc, mod := rm.enc })
  | .mnorm g a => some (wordOf { guard := g, op := 0xB7, dest := 0, srcA := optEnc a, srcB := 0, mod := (if a.isNone then 1 else 0) })
  | .mxget g d a => some (wordOf { guard := g, op := 0xB8, dest := d.enc, srcA := a.enc, srcB := 0, mod := 0 })
  | .mtask g d a b p => some (wordOf { guard := g, op := 0xB9, dest := optEnc d, srcA := a.enc, srcB := b.enc, mod := 0#2 ++ p })
  | .mpois g a x => some (wordOf { guard := g, op := 0xBA, dest := 0, srcA := a.enc, srcB := 0, mod := (if x then 1 else 0) })
  | .ld g d a b m => some (wordOf { guard := g, op := 0xC0, dest := d.enc, srcA := a.enc, srcB := b.enc, mod := m })
  | .st g d a b m => some (wordOf { guard := g, op := 0xC1, dest := d.enc, srcA := a.enc, srcB := b.enc, mod := m })
  | .ldf g d a b m => some (wordOf { guard := g, op := 0xC2, dest := d.enc, srcA := a.enc, srcB := b.enc, mod := m })
  | .stf g d a b m => some (wordOf { guard := g, op := 0xC3, dest := d.enc, srcA := a.enc, srcB := b.enc, mod := m })
  | .aadd g d a b m => some (wordOf { guard := g, op := 0xC4, dest := d.enc, srcA := a.enc, srcB := b.enc, mod := m })
  | .amin g d a b m => some (wordOf { guard := g, op := 0xC5, dest := d.enc, srcA := a.enc, srcB := b.enc, mod := m })
  | .amax g d a b m => some (wordOf { guard := g, op := 0xC6, dest := d.enc, srcA := a.enc, srcB := b.enc, mod := m })
  | .aand g d a b m => some (wordOf { guard := g, op := 0xC7, dest := d.enc, srcA := a.enc, srcB := b.enc, mod := m })
  | .aor g d a b m => some (wordOf { guard := g, op := 0xC8, dest := d.enc, srcA := a.enc, srcB := b.enc, mod := m })
  | .axor g d a b m => some (wordOf { guard := g, op := 0xC9, dest := d.enc, srcA := a.enc, srcB := b.enc, mod := m })
  | .axchg g d a b m => some (wordOf { guard := g, op := 0xCA, dest := d.enc, srcA := a.enc, srcB := b.enc, mod := m })
  | .acas g d a b m => some (wordOf { guard := g, op := 0xCB, dest := d.enc, srcA := a.enc, srcB := b.enc, mod := m })
  | .afadd g d a b m => some (wordOf { guard := g, op := 0xCC, dest := d.enc, srcA := a.enc, srcB := b.enc, mod := m })
  | .fence g d a => some (wordOf { guard := g, op := 0xCD, dest := optEnc d, srcA := a.enc, srcB := 0, mod := 0 })
  | .join g d a b => some (wordOf { guard := g, op := 0xCE, dest := d.enc, srcA := a.enc, srcB := b.enc, mod := 0 })
  | .fork g d a => some (wordOf { guard := g, op := 0xCF, dest := d.enc, srcA := a.enc, srcB := 0, mod := 0 })
  | .csetb g d a b => some (wordOf { guard := g, op := 0xD0, dest := d.enc, srcA := a.enc, srcB := b.enc, mod := 0 })
  | .candp g d a b => some (wordOf { guard := g, op := 0xD1, dest := d.enc, srcA := a.enc, srcB := b.enc, mod := 0 })
  | .cgetb g d a => some (wordOf { guard := g, op := 0xD2, dest := d.enc, srcA := a.enc, srcB := 0, mod := 0 })
  | .cgetl g d a => some (wordOf { guard := g, op := 0xD3, dest := d.enc, srcA := a.enc, srcB := 0, mod := 0 })
  | .cgetp g d a => some (wordOf { guard := g, op := 0xD4, dest := d.enc, srcA := a.enc, srcB := 0, mod := 0 })
  | .ctest g d a b => some (wordOf { guard := g, op := 0xD5, dest := d.enc, srcA := a.enc, srcB := b.enc, mod := 0 })
  | .cmov g d a => some (wordOf { guard := g, op := 0xD6, dest := d.enc, srcA := a.enc, srcB := 0, mod := 0 })
  | .cldc g d a b => some (wordOf { guard := g, op := 0xD7, dest := d.enc, srcA := a.enc, srcB := b.enc, mod := 0 })
  | .cstc g d a b => some (wordOf { guard := g, op := 0xD8, dest := d.enc, srcA := a.enc, srcB := b.enc, mod := 0 })
  | .cclr g d a => some (wordOf { guard := g, op := 0xD9, dest := d.enc, srcA := a.enc, srcB := 0, mod := 0 })
  | .csub g d a b => some (wordOf { guard := g, op := 0xDA, dest := d.enc, srcA := a.enc, srcB := b.enc, mod := 0 })
  | .dma g d a b m => some (wordOf { guard := g, op := 0xE0, dest := d.enc, srcA := a.enc, srcB := b.enc, mod := m })
  | .dmas g d a b m => some (wordOf { guard := g, op := 0xE1, dest := d.enc, srcA := a.enc, srcB := b.enc, mod := m })
  | .gath g d a b m => some (wordOf { guard := g, op := 0xE2, dest := d.enc, srcA := a.enc, srcB := b.enc, mod := m })
  | .scat g d a b m => some (wordOf { guard := g, op := 0xE3, dest := d.enc, srcA := a.enc, srcB := b.enc, mod := m })
  | .stage g d a b m => some (wordOf { guard := g, op := 0xE4, dest := d.enc, srcA := a.enc, srcB := b.enc, mod := m })
  | .coll g d a b m => some (wordOf { guard := g, op := 0xE5, dest := d.enc, srcA := a.enc, srcB := b.enc, mod := m })
  | .msg g d a b m => some (wordOf { guard := g, op := 0xE6, dest := d.enc, srcA := a.enc, srcB := b.enc, mod := m })
  | .mrecv g d a b m => some (wordOf { guard := g, op := 0xE7, dest := d.enc, srcA := a.enc, srcB := b.enc, mod := m })
  | .bankt g a b => some (wordOf { guard := g, op := 0xE8, dest := 0, srcA := a.enc, srcB := b.enc, mod := 0 })
  | .launch g d a b m => some (wordOf { guard := g, op := 0xE9, dest := d.enc, srcA := a.enc, srcB := b.enc, mod := m })
  | .gbar g a => some (wordOf { guard := g, op := 0xEA, dest := 0, srcA := a.enc, srcB := 0, mod := 0 })
  | .epoll g d a => some (wordOf { guard := g, op := 0xEB, dest := d.enc, srcA := a.enc, srcB := 0, mod := 0 })
  | .ecancel g a => some (wordOf { guard := g, op := 0xEC, dest := 0, srcA := a.enc, srcB := 0, mod := 0 })
  | .qwait g d a b => some (wordOf { guard := g, op := 0xED, dest := d.enc, srcA := a.enc, srcB := b.enc, mod := 0 })
  | .lease g d a b => some (wordOf { guard := g, op := 0xF0, dest := d.enc, srcA := a.enc, srcB := b.enc, mod := 0 })
  | .lrel g => some (wordOf { guard := g, op := 0xF1, dest := 0, srcA := 0, srcB := 0, mod := 0 })
  | .pwrq g d a b => some (wordOf { guard := g, op := 0xF2, dest := d.enc, srcA := a.enc, srcB := b.enc, mod := 0 })
  | .tstamp g d => some (wordOf { guard := g, op := 0xF3, dest := d.enc, srcA := 0, srcB := 0, mod := 0 })
  | .mark g a b => some (wordOf { guard := g, op := 0xF4, dest := 0, srcA := a.enc, srcB := b.enc, mod := 0 })
  | .dstop g d a => some (wordOf { guard := g, op := 0xF5, dest := d.enc, srcA := a.enc, srcB := 0, mod := 0 })
  | .scant g d a => some (wordOf { guard := g, op := 0xF6, dest := d.enc, srcA := a.enc, srcB := 0, mod := 0 })
  | .scanq g d a => some (wordOf { guard := g, op := 0xF7, dest := d.enc, srcA := a.enc, srcB := 0, mod := 0 })
  | .lcmap g d a b => some (wordOf { guard := g, op := 0xF8, dest := d.enc, srcA := a.enc, srcB := b.enc, mod := 0 })
  | _ => none

/-- The instruction that the model's decoder reads from a 64-bit word whose bits are `w` (the table gives no row bits, so every
row's `nbits` is that of the one word, spec/02 R30): first as a control-core word, then as an element's (R51). -/
def decodeTableWord (_nbits w : Nat) : Option Instr :=
  match decode .cc (BitVec.ofNat 64 w) with
  | .ok i => some i
  | .error _ =>
    match decode .vElem (BitVec.ofNat 64 w) with
    | .ok i => some i
    | .error _ =>
      match decode .mElem (BitVec.ofNat 64 w) with
      | .ok i => some i
      | .error _ => none

end Sys2Proof
end

