-- ==== Sys2Proof/Machine/State.lean ====
section
/-! DEFINITION. The state of the package as plain data: every piece of state that the spec names (INVENTORY.md, ## State), the reasons a
step can stop, and the state after package reset (spec/00 R8). -/
namespace Sys2Proof.Machine

/-- Reasons for which the machine stops. -/
inductive Fault where
  /-- A turn of the model runs an instruction word that may not stand at its site. Raised by `run`; safe: the decoder and the pick
  load refuse such a word before it can act (spec/02 R52). -/
  | illFormed
deriving DecidableEq, Repr

/-- Reasons for which a step has no meaning. -/
inductive Refusal where
  /-- Raised by an arm of `exec` whose instruction has no meaning yet; safe. -/
  | notModelled (mnemonic : String)
deriving DecidableEq, Repr

/-- A capability with its tag (spec/13 R258). -/
structure Cap where
  raw : BitVec 128 := 0
  tag : Bool := false
deriving DecidableEq, Repr

/-- What an element's instruction places at its write-back (spec/06 R129, spec/09 R199, spec/11 R230). -/
inductive Out where
  | token (ch : Nat) (kind ctx : Nat) (payload : Word64) (wrap : Bool)
  | ctok (port : Nat) (val : Bool) (ctx : Nat) (wrap : Bool)
  | pass (q : Nat) (val : Word64) (ctx : Nat) (wrap : Bool)
  | request (op : Nat) (stream : Nat) (pos : Option Nat) (val : Word64) (ctx : Nat) (port : Option Nat)
  | record (block : Nat) (words : List Word64)
  | store (fmt : LFmt) (codes : List Nat) (e : Int)
deriving DecidableEq, Repr

/-- An instruction that has issued or fired and not yet written back (spec/01 R14, R15). `left` counts cycles, or layer cycles in an
element; `none` for the completion token of an asynchronous command, which the engine resolves. `own` and `pown` mask the bank
bits of the slices and the predicates that it still owns. -/
structure Flight where
  id : Nat
  left : Option Nat
  own : BitVec 512 := 0
  data : BitVec 512 := 0
  cap : Option (Nat × Bool) := none
  pown : BitVec 8 := 0
  pval : BitVec 8 := 0
  flags : Nat := 0
  sreg : Option (BitVec 8 × Word64) := none
  outs : List Out := []
  /-- IDLE: no slot of the context is eligible meanwhile (spec/09 R202). -/
  hold : Bool := false
  /-- The firing sequence number of its instruction (spec/23 R402). -/
  seq : Nat := 0
  /-- A FENCE of an element: it writes back only when the context's requests are performed (spec/14 R291). -/
  fence : Bool := false
  /-- Its slices are a completion token, whose write sets latch E1 (spec/05 R117, R119). -/
  token : Bool := false
  /-- It has written back, and its ordering token is still to be sent (spec/14 R289). -/
  owed : Bool := false
  /-- The cycle in which it fired (spec/23 R403). -/
  at_ : Nat := 0
deriving DecidableEq, Repr

/-- What a control core and a trigger context have in common: bank, tags, predicates, flags, in-flight instructions (spec/01 R11,
spec/06 R128). DESIGN CHOICE: notes/assumptions/2.md. -/
structure Regs where
  bank : BitVec 512 := 0
  tags : BitVec 4 := 0
  preds : BitVec 8 := 0
  fflags : Word64 := 0
  flights : List Flight := []
deriving DecidableEq, Repr

/-- The run states of a control core (spec/01 R28). -/
inductive RunState where
  | off | idle | running | waiting | halted
deriving DecidableEq, Repr

/-- What a waiting control core waits for. -/
inductive WaitFor where
  | nothing
  /-- WFE (spec/05 R117): the mask, the destination and the cycle of its timeout. -/
  | event (mask : BitVec 4) (dest : Operand) (until? : Option Nat)
  /-- WAITP (spec/05 R112): the slices and predicates. -/
  | pending (slices : BitVec 512) (preds : BitVec 8)
  /-- A debug halt (spec/23 R408). -/
  | debug
deriving DecidableEq, Repr

/-- A trap that waits for earlier write-backs (spec/01 R18). -/
structure TrapInfo where
  cause : Nat
  eval : Word64
  epc : BitVec 32
deriving DecidableEq, Repr

/-- A line of the instruction cache (spec/01 R21): 128 bytes of code at an address of a code segment. -/
structure Line where
  va : Nat
  root : Nat
  words : List Word64
deriving DecidableEq, Repr

/-- A control core (spec/01 R11, R16, R27 to R29; spec/05 R117; spec/21 R372). DESIGN CHOICE: notes/assumptions/2.md. -/
structure ControlCore where
  run : RunState := .idle
  wait : WaitFor := .nothing
  regs : Regs := {}
  pc : BitVec 32 := 0
  coreid : Word64 := 0
  epc : Word64 := 0
  cause : Word64 := 0
  eval : Word64 := 0
  codecap : Cap := {}
  tilecap : Cap := {}
  latches : BitVec 4 := 0
  /-- The first cycle in which it may issue again (spec/05 R114). -/
  nextIssue : Nat := 0
  /-- HALT has issued and earlier instructions still write back (R113). -/
  halting : Bool := false
  trapping : Option TrapInfo := none
  /-- Held reports of R372: cause, value and the cycle of arrival. -/
  reports : List (Nat × Word64 × Nat) := []
  /-- The return-prediction stack, newest first (R27). -/
  ras : List (BitVec 32) := []
  icache : List Line := []
  /-- The line address that it has asked for (R22). -/
  fill : Option Nat := none
  /-- A fault that the last fill raised: the PC and the cause and value (R22). -/
  fillFault : Option (BitVec 32 × Nat × Word64) := none
  /-- The launch and member that it runs for (spec/12 R247). -/
  member : Option (Nat × Nat) := none
  /-- The GBAR number that holds the issue stage (spec/17 R338). -/
  gbar : Option Nat := none
  /-- Debug halt enabled (spec/05 R118). -/
  debugHalt : Bool := false
  /-- A breakpoint has halted it while it waits: the wait's end leaves it halted (spec/23 R408). -/
  stall : Bool := false
deriving DecidableEq, Repr

/-- A token in a latch of the switch network (spec/06 R133, R135): `at` is the cycle in which it entered its latch. -/
structure Token where
  payload : Word64
  ctx : Nat
  kind : Nat
  arrived : Nat
  origin : Nat := 0
  /-- The load of the row whose element sent it; 0 for the controller, a node or the wrap buffer (spec/07 R165). -/
  load : Nat := 0
  /-- The cycle in which its sender fired (spec/23 R403). -/
  fired : Nat := 0
deriving DecidableEq, Repr

/-- A channel of the switch or control network, named by its receiving port: its latches from the receiver's side (R135, R140). -/
structure Link where
  stages : List (List Token) := []
  /-- By latch: the cycle in which tokens last left it, and how many left in that cycle (R138). -/
  freed : SMap (Nat × Nat) := []
deriving DecidableEq, Repr

/-- A pass-register link, named by its receiving element and number (R139). -/
structure PassLink where
  val : Option Token := none
  /-- A read has emptied it in cycle `freedAt` (R139). -/
  freedAt : Nat := 0
  freed : Bool := false
deriving DecidableEq, Repr

/-- A bus packet in its latch (R142, R143) with the elements that have consumed it (R225). -/
structure Packet where
  body : BitVec 256
  rowid : Nat
  colid : Nat
  ctx : Nat
  arrived : Nat
  taken : List Nat := []
  /-- The memory node that sent it (R224). -/
  node : Nat := 0
deriving DecidableEq, Repr

/-- What a context's history keeps of one firing (spec/23 R403). -/
structure Firing where
  desc : Word64
  seq : Nat
  cls : Nat
  /-- The cycle in which its last condition was met, and the cycle in which it fired. -/
  met : Nat
  cycle : Nat
  origin : Nat
deriving DecidableEq, Repr

/-- A trigger context (spec/06 R128, R200, R402, R403). DESIGN CHOICE: notes/assumptions/2.md. -/
structure Ctx where
  regs : Regs := {}
  rsr : BitVec 32 := 0
  thread : Option (BitVec 32) := none
  eows : Nat := 0
  seq : BitVec 32 := 0
  history : List Firing := []
  /-- For each slice and, from 128 on, predicate: the cycle of its last write and the sequence number of its writer (R403). -/
  written : SMap (Nat × Nat) := []
  /-- The cycle in which it last took a thread (R134). -/
  threadAt : Nat := 0
  /-- The cycle in which its last thread left it (R198). -/
  leftAt : Nat := 0
  /-- Tile steps, and requests to each stream, of the thread in this pass (spec/23 R409). -/
  steps : Nat := 0
  reqs : List Nat := [0, 0]
deriving DecidableEq, Repr

/-- The accumulator tile of an M-element (spec/10 R217): 64 entries, poison bits, shared exponent. -/
structure Acc where
  entries : List Int := List.replicate 64 0
  poison : BitVec 64 := 0
  x : Int := 0
deriving DecidableEq, Repr

/-- The down-conversion store (spec/11 R226). -/
structure DownStore where
  fmt : LFmt := .l6
  codes : List Nat := List.replicate 64 0x10
  e : Int := 0
deriving DecidableEq, Repr

/-- An element (spec/06 R128, R145; spec/07 R156). DESIGN CHOICE: notes/assumptions/2.md. -/
structure Elem where
  used : Bool := false
  card : List Word64 := []
  rowid : Nat := 0xFF
  colid : Nat := 0xFF
  oroute : List (BitVec 16) := []
  kroute : List (BitVec 16) := []
  live : List (BitVec 128) := []
  ptr : Nat := 0
  ctxs : SMap Ctx := []
  acc : Acc := {}
  store : DownStore := {}
deriving DecidableEq, Repr

/-- A string of four layers (spec/08 R176 to R190). Lists run over the layers. DESIGN CHOICE: notes/assumptions/2.md. -/
structure Str where
  react : List Nat := [0, 0, 0, 0]
  /-- The throttle level by quotas and unmet filler (R181), and with the thermal raise (R189). -/
  base : Nat := 0
  level : Nat := 0
  quota : List Nat := [0, 0, 0, 0]
  filler : List Nat := [0, 0, 0, 0]
  fillPtr : List Nat := [0, 0, 0, 0]
  div : List Nat := [1, 1, 1, 1]
  /-- The divisors that the next layer-cycle boundary brings (R181), and the cycle of that boundary (R127). -/
  want : List Nat := [1, 1, 1, 1]
  next : List Nat := [0, 0, 0, 0]
  /-- The boundary before the last one (spec/23 R403). -/
  prev : List Nat := [0, 0, 0, 0]
  /-- The last interval ended with unmet filler for lack of tokens (R181). -/
  unmet : Bool := false
  /-- The layers that have met no token for their filler in this interval (R181). -/
  starved : List Nat := []
  /-- By layer, the filler firings of this interval that no region, a freeze or a release has kept from being made (R190). -/
  barred : List Nat := [0, 0, 0, 0]
  heavy : Nat := 0
  light : Nat := 0
  /-- The budgets of this interval (R183). -/
  heavyGrant : Nat := 0
  lightGrant : Nat := 0
  heavySince : Nat := 0
  lightSince : Nat := 0
  imbalance : Nat := 0
  leakage : Nat := 0
  leakBin : Nat := 7
  tempBin : Nat := 0
  /-- The voltage at the start of the last slew, the voltage that it goes to, and the cycle of its start (R188). -/
  mV : Nat := 720
  target : Nat := 720
  slewAt : Nat := 0
  /-- The cycle in which something last fired in the string (R188). -/
  lastFire : Nat := 0
  /-- Its leakage has been measured since (R188). -/
  measured : Bool := false
  /-- Intervals of the throttle episode so far (R190). -/
  episode : Nat := 0
  lastMet : Bool := true
deriving DecidableEq, Repr

/-- A request in a stream's queue (spec/14 R287, R288): the opcode, the position, the operand, the requester and the control port of
its ordering token. -/
structure NodeReq where
  op : Nat
  pos : Option Nat
  val : Word64
  elem : Nat
  ctx : Nat
  port : Option Nat
  flight : Nat
  thread : Nat
  /-- The cycle in which it entered the queue (spec/15 R301). -/
  entered : Nat := 0
deriving DecidableEq, Repr

/-- A token, packet or response that a stream has read and not yet sent (spec/13 R264, R265): the cycle from which it may leave, the position of
its first element, its context and its body. -/
structure Ahead where
  at_ : Nat
  pos : Nat
  ctx : Nat
  body : BitVec 256
deriving DecidableEq, Repr

/-- A stream of a memory node (spec/13 R259 to R270; spec/14 R288). DESIGN CHOICE: notes/assumptions/2.md. -/
structure Stream where
  words : List Word64 := [0, 0, 0, 0]
  /-- The capability as it was read at the pick load or the last retry (spec/21 R374). -/
  cap : Cap := {}
  pos : Nat := 0
  done : Bool := false
  stopped : Bool := false
  cause : Nat := 0
  faultPos : Nat := 0
  /-- The uncorrectable unit of a MACHINE_CHECK, by its number in the tile (spec/21 R374). -/
  faultUnit : Option Nat := none
  fnan : Bool := false
  ahead : List Ahead := []
  /-- The elements of the next token that are read so far, and the position of the first. -/
  part : List Nat := []
  partPos : Nat := 0
  /-- The bank of its last access (spec/17 R327). -/
  bank : Option Nat := none
  /-- The cycle of its last access to each bank (spec/17 R327). -/
  banked : SMap Nat := []
  /-- The lines of the access in progress that have been served in earlier cycles, with their bytes (R254). -/
  held : List (Nat × List Byte) := []
  queue : List NodeReq := []
deriving DecidableEq, Repr

/-- A memory node. -/
structure Node where
  s0 : Stream := {}
  s1 : Stream := {}
deriving DecidableEq, Repr

/-- The states of a row (spec/07 R163). -/
inductive RowState where
  | empty | loading | active | passed | evicting
deriving DecidableEq, Repr

/-- A row of a region. -/
structure Row where
  st : RowState := .empty
  pick : Nat := 0
  eowmask : Nat := 0
  cls0 : Nat := 0
  cls1 : Nat := 0
  div : Nat := 1
  acc : Bool := false
  /-- The wave that the row runs, counted from its load (R200). -/
  wave : Nat := 1
  /-- The cycle in which it entered its state: what follows is judged from the next cycle on. -/
  since : Nat := 0
  /-- Bytes that its spill or restore has still to move (R168). -/
  bytes : Nat := 0
  /-- Its load is not the first: the saved record is restored (R168). -/
  restored : Bool := false
  /-- The number of its load among the region's, from 1 (R165). -/
  load : Nat := 0
deriving DecidableEq, Repr

/-- A block of a region's image (spec/07 R152, R158, R159, R161). The queue's records stand in tile memory from `qbase`. -/
structure Block where
  qcap : Nat
  npick : Nat
  entcol : Nat
  entch : Nat
  pickoff : Nat
  wave : Nat
  xtok : Nat
  qbase : Nat
  head : Nat := 0
  count : Nat := 0
  skip : Nat := 0
deriving DecidableEq, Repr

/-- An entry of the wrap buffer (spec/07 R166): the block and pick that sent it, and its place in the buffer. Its 16 bytes stand in tile
memory. -/
structure WrapEntry where
  block : Nat
  pick : Nat
  slot : Nat
deriving DecidableEq, Repr

/-- A card in the card store (spec/07 R153): its index in the image, its words, and the cycle of its fill. -/
structure CardEntry where
  idx : Nat
  words : List Word64
  filled : Nat := 0
deriving DecidableEq, Repr

/-- Why a region freezes (spec/21 R377): drain, pre-emption, gang abort (with ERR for the failing member), kill, partition reset, fatal dump
(spec/23 R411). -/
inductive Why where
  | drain (cause place pick : Nat)
  | preempt
  | abort (err : Bool)
  | kill
  | reset
  | dump
deriving DecidableEq, Repr

/-- The stage of a freeze (spec/21 R377): requested; the wave has passed and the region comes to its halt. -/
inductive FreezeStage where
  | none
  | requested (w : Why)
  | halting (w : Why)
deriving DecidableEq, Repr

/-- A region of a core (spec/07 R149 to R169; spec/21 R373 to R377; spec/23 R400 to R405). -/
structure Region where
  launch : Nat
  member : Nat
  row0 : Nat
  height : Nat
  half : Nat
  wide : Bool
  /-- The image's device address. -/
  image : Nat
  ncard : Nat := 0
  /-- The cards that its picks have filled into the card store (R153). -/
  cards : List CardEntry := []
  blocks : List Block := []
  rows : List Row := []
  pass : Nat := 0
  cur : Option Nat := none
  /-- The block chosen next while the rows of the present one are evicted (R162). -/
  nextBlock : Option Nat := none
  /-- The next pick of the block in progress to load. -/
  nextPick : Nat := 0
  /-- Picks that have loaded into the region (R165). -/
  loads : Nat := 0
  /-- Entry tokens still to send in this pass. -/
  entry : List Token := []
  /-- The cycle from which entry tokens may be sent: after row 0 has become Active, and after a wave of a resident block is chosen (R162, R163). -/
  sendAt : Nat := 0
  /-- Waves of the block in progress since its rows began to load (R162). -/
  waves : Nat := 1
  /-- The four end-of-wave tokens of the current wave have been sent. -/
  eowSent : Bool := true
  /-- Records still in the wave and not yet turned into tokens. -/
  records : List (List Word64) := []
  waveSize : Nat := 0
  /-- A rejected pick: the controller loads nothing further (R157). -/
  closed : Bool := false
  /-- Bytes from the tile allocation: spill area, and the wrap buffer after the slots. -/
  spillBase : Nat := 0
  wrapBase : Nat := 0
  /-- The entries that the block in progress may hold, and the places of the whole buffer. -/
  wrapCap : Nat := 0
  wrapRing : Nat := 0
  wrap : List WrapEntry := []
  /-- The next place of the wrap buffer to write (spec/21 R380, WWR). -/
  wrapNext : Nat := 0
  /-- The last cycle in which a delivery gave a full buffer a place, or delivered the last entry of a pick (spec/23 R403). -/
  wrapAt : Nat := 0
  det : Bool := false
  /-- Faults of streams that nothing has resolved, oldest first: node, stream and cause, bits [16:3] of its record's ARG0, and its pick (spec/21 R376); node 32 for a pick load,
  33 for a wrap overflow. -/
  unresolved : List (Nat × Nat × Nat × Nat × Nat) := []
  /-- The cycle in which the drain timer runs out. -/
  drainAt : Option Nat := none
  /-- Stateful picks that have a spill record, as (block, pick). -/
  saved : List (Nat × Nat) := []
  /-- Initial records still due, and the number of the next (R247). -/
  due : Nat := 0
  nextThread : Nat := 0
  started : Bool := false
  cver : BitVec 32 := 0
  /-- The cycle of the last advance of CVER (spec/23 R400). -/
  cverAt : Option Nat := none
  firings : Nat := 0
  samples : Nat := 0
  stopped : Bool := false
  stopReqs : List Nat := []
  /-- The tokens of the DSTOPs that wait: in-flight number and start slice (spec/05 R123). -/
  stopToks : List (Nat × Nat) := []
  freeze : FreezeStage := .none
  /-- Nothing more fires in the region (R166, R376). -/
  frozen : Bool := false
  /-- Its launch is complete: nothing more fires or loads, and its stores are performed (spec/12 R248). -/
  ended : Bool := false
  /-- Rows whose picks a restore has still to load again (spec/21 R382). -/
  reloading : List Nat := []
deriving DecidableEq, Repr

/-- A gang member (spec/12 R241, R247; spec/21 R383, R388). -/
structure Member where
  core : Nat
  region : Option Nat := none
  bank : Nat := 0
  /-- Its banks are allocated and its table is written (R247 step 1), and its tile regions are filled (step 3). -/
  placed : Bool := false
  filled : Bool := false
  started : Bool := false
  /-- The number of the next command when its staging step reached the STAGE loader of its core (spec/17 R315). -/
  staged : Nat := 0
  /-- It is frozen whole, or its control core alone is (spec/21 R377). -/
  frozen : Bool := false
  /-- The number of its image (spec/21 R379). -/
  image : Option Nat := none
  /-- Far atomics that it has issued and that have been applied, by aligned 8-byte unit (spec/23 R409). -/
  farIssued : SMap Nat := []
  farApplied : SMap Nat := []
deriving DecidableEq, Repr

/-- A gang barrier (spec/17 R338): arrivals, generation, waiting members, and the cycle of the timeout. `rem` keeps what was left of a timeout
when the launch was frozen (spec/21 R378). -/
structure Bar where
  count : Nat := 0
  gen : Nat := 0
  waiters : List Nat := []
  due : Option Nat := none
  rem : Option Nat := none
deriving DecidableEq, Repr

/-- A long edge (spec/24 R412, R413), with the number of its entry in the source member's table (R415). `flying` holds values on their way: the cycle of
arrival, the value and its context. -/
structure LEdge where
  idx : Nat
  src : Nat
  tgt : Nat
  blk : Nat
  spick : Nat
  tpick : Nat
  scol : Nat
  tcol : Nat
  sq : Nat
  tq : Nat
  flying : List (Nat × Word64 × Nat) := []
  /-- Values whose flits have still to cross a link between dies, oldest first (spec/24 R414, R420). -/
  crossing : List (Nat × Word64 × Nat) := []
  queue : List (Word64 × Nat) := []
  /-- For each value of the queue the cycle from which it could be read at the head, and its origin; and the origins of the values on their way
  (spec/23 R403). -/
  noted : List (Nat × Nat) := []
  sent : List Nat := []
  /-- The last cycle in which a read made room in a full queue (spec/23 R403). -/
  roomAt : Nat := 0
  /-- The last cycle in which values were read from the queue, and how many: their places count from the writer's first edge after it (spec/06 R139). -/
  readAt : Nat := 0
  reads : Nat := 0
deriving DecidableEq, Repr

/-- R139, R413: the places of the queue that reads of a cycle have freed, which count from the next cycle. -/
def LEdge.freeing (g : LEdge) (cycle : Nat) : Nat := if g.readAt = cycle then g.reads else 0

/-- What the loader keeps of a configuration image (spec/07 R151, R152). -/
structure ImageHdr where
  ncard : Nat
  nblk : Nat
  draft : Bool
  cardOff : Nat
  crcOff : Nat
  blkOff : Nat
deriving DecidableEq, Repr

/-- An entry of a stage list (spec/13 R267): source offset, length, destination offset, and whether it fills with zero bytes. -/
structure StageEntry where
  src : Nat
  len : Nat
  dst : Nat
  zero : Bool
deriving DecidableEq, Repr

/-- A launch (spec/12 R237, R247, R248). -/
structure Launch where
  part : Nat
  queue : Nat
  words : List Word64
  members : List Member := []
  hdr : Option ImageHdr := none
  blocks : List Block := []
  /-- The slots of the stateful picks: block, pick, offset in the spill area and size (spec/07 R169). -/
  slots : List (Nat × Nat × Nat × Nat) := []
  /-- A draft as the loader has placed it (R174): by block · 256 + pick, its pick images and the column of each of the draft's columns. -/
  placed : SMap (List Byte) := []
  cols : SMap (List Nat) := []
  stage : List StageEntry := []
  /-- The launch capability table as it was read (R238). -/
  table : List (BitVec 128) := []
  edges : List LEdge := []
  bars : List Bar := [{}, {}, {}, {}]
  /-- The cycle in which its first member started (spec/21 R384). -/
  startedAt : Option Nat := none
  /-- Threads ended (R198, R199). -/
  ended : Nat := 0
  /-- The flag summary gathered so far (R132). -/
  flags : Nat := 0
  /-- The cause with which it fails. -/
  failing : Option Nat := none
  /-- It is being frozen, or stands frozen, for pre-emption (spec/21 R384). -/
  preempted : Bool := false
  /-- A gang abort in progress: its cause, the failing member and the cycle at which it ends (spec/21 R388). -/
  abort : Option (Nat × Nat × Nat) := none
  /-- The logical core of the member that made it fail (spec/12 R249). -/
  failLcore : Option Nat := none
  /-- Victims have been chosen for it (spec/21 R384). -/
  preempting : Bool := false
  /-- Those victims (spec/21 R384). -/
  prey : List Nat := []
  /-- The cores whose scan runs have been aborted for it (spec/22 R395). -/
  aborted : List Nat := []
  /-- Some image of it did not fit (spec/21 R379). -/
  lost : Bool := false
deriving DecidableEq, Repr

/-- A far atomic in flight (spec/14 R285, R286): the in-flight number of its token, the opcode, the checked address, the width in bytes,
its operand, and its order and scope bits. `at_` is the cycle in which it may complete. -/
structure Far where
  id : Nat
  op : Nat
  space : Nat
  addr : Nat
  bytes : Nat
  val : Nat
  order : Nat
  scope : Nat
  issued : Nat
  at_ : Nat := 0
  /-- Its number among the far atomics of the member to its unit (spec/23 R409). -/
  turn : Nat := 0
  parked : Bool := false
  /-- The start slice of its token, for its fault record. -/
  dst : Nat := 0
deriving DecidableEq, Repr

/-- An engine command (spec/17 R315 to R317, R324). `words` holds P0 to P3, or the words that its rule names; `order` and `scope` are its
modifier's. -/
structure Cmd where
  /-- The in-flight number of its token. -/
  id : Nat
  op : Nat
  dst : Nat
  order : Nat
  scope : Nat
  issued : Nat
  /-- The launch and member that issued it: it goes on in Halted and past the next core start (spec/01 R28). -/
  owner : Option (Nat × Nat) := none
  c0 : Cap := {}
  c1 : Cap := {}
  words : List Word64 := []
  /-- Units performed, and the cycle from which the next may be. -/
  prog : Nat := 0
  at_ : Nat := 0
  /-- It has ended with a status and a cause and its token is still to be written. -/
  fin : Option (Nat × Nat) := none
  /-- What it holds of the unit in progress: the bytes done of a DMA's row or of a stream FIFO; the address and the bytes of a GATH's or SCAT's row; the
bytes done of a STAGE's entry and the number of entries; the source, then the results, of a COLL. -/
  data : List Nat := []
  /-- DMAS: the state of each segment: 0 the engine's, 1 handed to the region, 2 reached by the stream (R327). -/
  segs : List Nat := []
  /-- DMAS: the cycle in which each segment last went to the region (R327). -/
  handed : List Nat := []
  /-- The bytes that the unit in progress has read and not written, or has still to write, where its lines are served in several cycles (R254). -/
  held : List Nat := []
  /-- DMA: the row in progress; GATH: the lines of the row that are written; STAGE: the entry in progress; COLL: its phase. -/
  sub : Nat := 0
deriving DecidableEq, Repr

/-- A member's inbox (spec/17 R332): the ring of `size` slots, its head, its count of slots in use, the messages received, and, for each
slot in use, its sender and the capability that unit 0 travelled as. `from_` counts the messages placed by member (spec/23 R409). -/
structure Inbox where
  /-- The launch whose member it belongs to. -/
  launch : Nat := 0
  base : Nat
  size : Nat
  head : Nat := 0
  slots : List (Nat × Option (BitVec 128)) := []
  received : BitVec 32 := 0
  from_ : SMap Nat := []
  /-- The core and the command whose message is in the slot at the tail in part (spec/13 R254). -/
  filling : Option (Nat × Nat) := none
deriving DecidableEq, Repr

/-- A scan run (spec/22 R394): the pattern, the cycles of its start and its end, its token with its start slice, and its launch. -/
structure Scan where
  pattern : Nat
  start : Nat
  finish : Nat
  tok : Nat
  dst : Nat := 0
  launch : Nat
  runUs : Nat
  expected : BitVec 32
deriving DecidableEq, Repr

/-- A critical-path walk (spec/23 R404): the next firing to name and the CVER and cycle of the walk. -/
structure Walk where
  region : Nat
  step : Nat
  elem : Nat
  ctx : Nat
  seq : Nat
  after : Nat
  at_ : Nat
  launch : Nat := 0
  cver : Nat := 0
deriving DecidableEq, Repr

/-- A core: its control core, its fabric and the units around it. Elements are named by stripe · 16 + column, channels by their receiving
element · 8 + channel, control links by element · 4 + port, pass links by element · 4 + number, nodes and row buses by
stripe · 2 + half, column buses by region · 16 + column. -/
structure Core where
  /-- The partition that the core belongs to and its logical number there (spec/26 R437). -/
  part : Option Nat := none
  lcore : Nat := 0
  cc : ControlCore := {}
  elems : SMap Elem := []
  links : SMap Link := []
  klinks : SMap Link := []
  plinks : SMap PassLink := []
  rbus : SMap Packet := []
  cbus : SMap Packet := []
  nodes : SMap Node := []
  regions : SMap Region := []
  strings : SMap Str := []
  /-- Bank tokens: bank to holder, a region number or 8 for the control core; absent in the free pool (spec/13 R268). -/
  bankTok : SMap Nat := []
  /-- Bank tokens moved in cycle `tokAt`, with their former holders (R268: a move gates from the next cycle). -/
  tokAt : Nat := 0
  tokMoves : List (Nat × Option Nat) := []
  /-- Banks allocated to a launch (spec/12 R241). -/
  bankOwner : SMap Nat := []
  /-- The first cycle in which each bank is free of the accesses of memory nodes and engines (spec/13 R254). -/
  bankTill : SMap Nat := []
  /-- The first cycle in which the control core's own accesses leave a bank free (R254). -/
  ccBusy : SMap Nat := []
  /-- The first cycle in which an acquire access of the control core lets later ones issue (spec/14 R281). -/
  acquired : Nat := 0
  /-- The elements that stand for a faulty M-element (spec/07 R173). -/
  spares : List Nat := []
  fillCount : Word64 := 0
  throtCount : BitVec 32 := 0
  /-- The controller's rotating region pointers: pick loads, spill and restore traffic (spec/07 R164). -/
  loadPtr : Nat := 0
  movePtr : Nat := 0
  fbkp : List Word64 := [0, 0, 0, 0]
  /-- The cycle in which the function last wrote each of them (R407). -/
  fbkpAt : List Nat := [0, 0, 0, 0]
  /-- Far atomics in flight, oldest first (spec/14 R285). -/
  far : List Far := []
  /-- Far atomics and commands that have faulted before commit and that no release has met, oldest first, with their causes and the addresses that faulted (spec/15
  R307). -/
  broken : List (Nat × Nat × Nat) := []
  /-- Engine commands in flight: DMA engines 0 and 1, the STAGE loader, the message unit, the port (spec/17 R315). -/
  engines : List (List Cmd) := [[], [], [], [], []]
  /-- The commands that the two DMA engines served last. -/
  served : List Nat := [0, 0]
  /-- The inbox that the message unit serves, and those of other members on the core (spec/17 R332). -/
  inbox : Option Inbox := none
  others : List Inbox := []
  scan : Option Scan := none
  /-- The cycle in which a reinitialisation ends (spec/22 R393). -/
  reinit : Option Nat := none
  /-- It follows a scan run (spec/22 R395). -/
  reran : Bool := false
  /-- The maintenance launch whose scan has quarantined the core (spec/22 R397). -/
  quarantine : Option Nat := none
  walks : List Walk := []
deriving DecidableEq, Repr

/-- An event record on its way to a partition's event queue (spec/08 R190). -/
structure EventRec where
  part : Nat
  type : Nat
  die : Nat := 0
  lcore : Option Nat := none
  str : Nat := 0xFF
  arg0 : Nat := 0
  arg1 : Nat := 0
deriving DecidableEq, Repr

/-- A trace record on its way to a partition's trace ring (spec/23 R401). -/
structure TraceRec where
  core : Nat
  type : Nat
  cc : Bool := false
  reg : Nat := 0
  cver : Nat := 0
  arg0 : Nat := 0
  arg1 : Nat := 0
deriving DecidableEq, Repr

/-- A record of a queue (spec/12 R239; spec/17 R337): its words, the address that SUBMIT read it from, and the RIGHTS that a submitting
launch holds. -/
structure QRec where
  words : List Word64
  src : Option Nat := none
  rights : Nat := 7
deriving DecidableEq, Repr

/-- The states of a queue (spec/12 R239). -/
inductive QState where
  | empty | waiting | placing | running | stopped
deriving DecidableEq, Repr

/-- A hardware queue (spec/12 R239). -/
structure Queue where
  st : QState := .empty
  recs : List QRec := []
  /-- The head record has passed its checks (R245), and its launch. -/
  checked : Bool := false
  launch : Option Nat := none
  done : BitVec 32 := 0
  /-- The cause of the refusal that stopped it. -/
  cause : Nat := 0
deriving DecidableEq, Repr

/-- A boost lease (spec/08 R186): percent, µs left, the cycles of the µs in progress, and whether it is suspended by the power cap
(R185), by heat (R189), or frozen. -/
structure Lease where
  pct : Nat
  left : Nat
  /-- Its projected boost in W, as it was decided (R186). -/
  boost : Nat := 0
  ticks : Nat := 0
  launch : Option Nat := none
  capped : Bool := false
  hot : Bool := false
  frozen : Bool := false
deriving DecidableEq, Repr

/-- A shoot-down in flight (spec/18 R349, R350): its descriptor's address and words, the caches that have still to acknowledge, the
packages that have still to answer and those fenced. -/
structure Shoot where
  id : Nat
  addr : Nat
  words : List Word64
  caches : List Nat
  pkgs : List Nat := []
  fenced : List Nat := []
deriving DecidableEq, Repr

/-- A partition and the register page of its function (spec/26 R433 to R437). -/
structure Part where
  ready : Bool := false
  /-- A partition reset in progress: its reason in the PART_RESET record (spec/26 R438, R440). -/
  resetting : Option Nat := none
  /-- Physical cores by logical number, and the logical numbers that LCMAP has removed. -/
  cores : List Nat := []
  removed : List Nat := []
  rights : Nat := 0
  /-- The map that PCORES holds, and what PCTL reads (spec/26 R436). -/
  pcores : Nat := 0
  pctl : Nat := 0
  pboost : Nat := 300
  pqos : BitVec 32 := 0x10101010
  root2 : Nat := 0
  root3 : Nat := 0
  apbase : Nat := 0
  eqbase : Nat := 0
  eqctl : Nat := 0
  eqhead : Nat := 0
  eqtail : Nat := 0
  trbase : Nat := 0
  trctl : Nat := 0
  trtail : Nat := 0
  drain : Nat := 100
  irqctl : Nat := 0
  dbgpc : BitVec 32 := 0
  dbgstat : Word64 := 0
  fbkpsel : Nat := 0
  queues : SMap Queue := []
  evSeq : BitVec 16 := 0
  evDrop : Nat := 0
  trDrop : Nat := 0
  /-- The cycles in which the unread event records were written, oldest first (R435). -/
  unread : List Nat := []
  lease : Option Lease := none
  /-- The interval in which a lease of the partition was suspended last (spec/08 R186). -/
  suspendedIn : Option Nat := none
  shoots : List Shoot := []
  windows : SMap (Word64 × Word64) := []
  dgroup : SMap Word64 := []
deriving DecidableEq, Repr

/-- A region image or a member's image (spec/21 R379 to R381): where its bytes stand and the state that it carries. -/
structure Image where
  part : Nat
  launch : Nat
  member : Nat
  off : Nat
  len : Nat
  err : Bool := false
  region : Option Region := none
  /-- Elements, links and nodes, keyed from the region's own first element, with their values. -/
  elems : SMap Elem := []
  links : SMap Link := []
  klinks : SMap Link := []
  plinks : SMap PassLink := []
  rbus : SMap Packet := []
  cbus : SMap Packet := []
  nodes : SMap Node := []
  react : SMap Nat := []
  /-- The throttle levels of its strings, keyed as the reactive terms. -/
  levels : SMap Nat := []
  banks : List Nat := []
  cc : Option ControlCore := none
  inbox : Option Inbox := none
  /-- The faulted writes that no release of the control core has met (spec/15 R307). -/
  broken : List (Nat × Nat × Nat) := []
  /-- The lease that the launch held: percent and µs (R386). -/
  lease : Option (Nat × Nat) := none
  /-- The barrier clocks: what is left, in cycles (R378). -/
  bars : List (Option Nat) := []
deriving DecidableEq, Repr

/-- A collective that waits for its members (spec/17 R331): the launch, or the partition that opened a domain collective, its tag and
parameters, and the members that have joined, with core and command. -/
structure Coll where
  launch : Nat
  domain : Bool
  /-- The members of its domain group, in order (spec/24 R425). -/
  group : List (Nat × Nat) := []
  /-- The number of its members (spec/17 R330). -/
  size : Nat := 1
  tag : Nat
  params : Nat
  joined : List (Nat × Nat × Nat)
  /-- Members that have left after it began, each with its core and its command, whose source still counts. -/
  left : List (Nat × Nat × Cmd) := []
  due : Option Nat
deriving DecidableEq, Repr

/-- An entry of a translation cache (spec/18 R347): the cache (0 to 3 memory edges, 4 to 11 base dies), the partition, the space, the
level, the address bits above the level's page, and the entry. -/
structure XEntry where
  cache : Nat
  part : Nat
  space : Nat
  lvl : Nat
  va : Nat
  pte : Nat
deriving DecidableEq, Repr

/-- A block copy (spec/18 R355): the block and its new tier and frame. -/
structure Copy where
  blk : Nat
  tier : Bool
  frame : Nat
deriving DecidableEq, Repr

/-- An access parked under R357: the block, the offset in it, the agent (a core and the number of its command or far atomic) and the bytes
of a write; a far atomic has none. DESIGN CHOICE: notes/assumptions/15.md. -/
structure Parked where
  blk : Nat
  off : Nat
  core : Nat
  id : Nat
  data : List Byte
deriving DecidableEq, Repr

/-- A data flit in a replay buffer: its sequence number and its payload (spec/24 R416). -/
structure Flit where
  seq : Nat
  body : BitVec 224
deriving DecidableEq, Repr

/-- A lane group of one direction of a die pair, both its ends (spec/24 R416 to R421). -/
structure LaneGroup where
  /-- Sender: the next SEQ and the flits not yet acknowledged. -/
  nextSeq : BitVec 8 := 0
  buffer : List Flit := []
  /-- Flits of the buffer, from its oldest on, that have been sent since the last replay began; payloads that wait for a place in it. -/
  sent : Nat := 0
  waiting : List (BitVec 224) := []
  /-- Receiver: ESEQ, whether it discards until ESEQ arrives, the raw bits of the first flit that failed in the episode with its SEQ,
  flits accepted since the last acknowledge. -/
  eseq : BitVec 8 := 0
  discarding : Bool := false
  failed : Option (BitVec 256) := none
  /-- Sender: it owes an echo of the lane map (R417). -/
  echoDue : Bool := false
  sinceAck : Nat := 0
  /-- The control flits that its receiver has to send back, oldest first: type and ESEQ. -/
  answer : List (Nat × BitVec 8) := []
  /-- Charges: lane and the cycle of the charge. -/
  charges : List (Nat × Nat) := []
  /-- The lanes latched for repair, and the spare that the remap in progress takes. -/
  latched : List Nat := []
  remap : Option (Nat × Nat) := none
  echoed : Bool := false
  spmap : SMap Nat := []
  retired : Bool := false
  crcerr : BitVec 16 := 0
  replays : BitVec 16 := 0
  /-- What this cycle adds to each of the two (spec/00 R6). -/
  crcNew : BitVec 16 := 0
  replaysNew : BitVec 16 := 0
  /-- Payloads passed on, by count, and those that the receiving end has still to hand over. -/
  passed : Nat := 0
  arrived : List (BitVec 224) := []
deriving DecidableEq, Repr

/-- An Eraux port (spec/24 R422). -/
structure Port where
  crcerr : Nat := 0
  retraining : Bool := false
deriving DecidableEq, Repr

/-- What the host last received from a read (spec/26 R432, R433). -/
inductive Reply where
  | none
  | word (v : Word64)
  | bytes (v : List Byte)
  | abort
deriving DecidableEq, Repr

/-- A turn: what the model does in one step. DESIGN CHOICE: notes/assumptions/1.md. -/
inductive Turn where
  /-- A step of spec/95. -/
  | ev (i : Instr)
  /-- The control core of core `k` may issue. -/
  | issue (k : Nat)
  /-- Element `e` of core `k` is at a layer-cycle edge. -/
  | fire (k e : Nat)
  /-- The strings of core `k` fire filler with the tokens that instructions have left (spec/08 R179). -/
  | filler (k : Nat)
  /-- The controller of core `k` may load one pick (spec/07 R164). -/
  | load (k : Nat)
  /-- The configuration network of core `k` may move 64 bytes of spill or restore (R164). -/
  | move (k : Nat)
  /-- Launch `l` fails with a cause that its member on core `k` gives (spec/21 R370, R387). -/
  | fail (k l cause : Nat)
  /-- The records of the cycle are written to their rings (spec/08 R191, spec/23 R401). -/
  | flush
  /-- Steps of spec/95 whose data come from outside the package: the layer currents of an interval, the package power, a die's sensors, a
  string's leakage. -/
  | measure
  | power
  | sense (die : Nat)
  | leak (k str : Nat)
  /-- Steps of spec/95 named by their own turns. -/
  | lookup (k str : Nat)
  /-- A command of core `k` that an ECANCEL has named ends, if it has not (spec/17 R341). -/
  | cancel (k id : Nat)
  | dump (cause die : Nat)
  /-- An HBM atom is to be remapped (spec/18 R358). -/
  | remap (a : Nat)
  | replay (blk : Nat)
  /-- The ends of lane group `g` send what they have to; a flit reaches the receiver of group `g`; a package has not answered (spec/24). -/
  | link (g : Nat)
  | flit (g : Nat) (raw : BitVec 256)
  | silent (pkg : Nat)
  | switched (blk : Nat)
  | collDue (l tag : Nat)
  /-- The members that other packages have in a domain collective of partition `p` arrive (spec/24 R425). -/
  | collPeers (p tag : Nat)
  | barDue (l n : Nat)
  /-- A partition reset, whose control cores go Idle once its regions have frozen; and its end (spec/26 R438). -/
  | resetIdle (p : Nat)
  | resetEnd (p : Nat)
  | irq (f : Nat)
  | retrained (n : Nat)
  /-- Banks of core `k` from bank `b` on, `n` of them, that a move of launch `l` has left are free (spec/21 R383, spec/12 R241). -/
  | freeBanks (k l b n : Nat)
  | interval
  | instalment
deriving DecidableEq, Repr

/-- The state of the package. -/
structure State where
  /-- The agent whose step it is (the model's own). -/
  site : Site := .cc 0
  /-- The last attempt to fire an instruction fired it (the model's own). -/
  fired : Bool := false
  /-- The turns left in this cycle (the model's own). -/
  todo : List Turn := []
  /-- Steps due in later cycles, by cycle (the model's own). -/
  timers : List (Nat × Turn) := []
  /-- The counter of free values (the model's own). -/
  free : Nat := 0
  /-- The counter of identities of in-flight instructions and commands (the model's own). -/
  nextId : Nat := 0
  /-- Cycles since package reset (R16). -/
  cycle : Nat := 0
  /-- The domain time at package reset, in ns (spec/05 R122; notes/assumptions/4.md). -/
  timeBase : Nat := 0
  /-- Event and trace records of this cycle, in the order of posting, and the MSI-X messages sent in it: function and vector. -/
  posts : List EventRec := []
  traces : List TraceRec := []
  msix : List (Nat × Nat) := []
  /-- The memory requests that left for the host in this cycle: the requester's function and the address (spec/26 R430). -/
  hostReqs : List (Nat × Nat) := []
  /-- The routing tables: for each package the port and the hops of its path; the port that each flow, by core · 64 + package, is pinned to; and the
  flits that left on the Eraux ports in this cycle (spec/24 R422). -/
  routes : SMap (Nat × Nat) := []
  flows : SMap Nat := []
  portFlits : List (Nat × BitVec 256) := []
  /-- What the host read last (the model's own). -/
  reply : Reply := .none
  cores : SMap Core := []
  parts : SMap Part := []
  launches : SMap Launch := []
  images : SMap Image := []
  colls : List Coll := []
  mem : List Host.Cell := []
  /-- Tile units whose tag is 1, as rising unit numbers (spec/13 R253). -/
  tags : List Nat := []
  /-- Units that hold an uncorrectable error (spec/13 R255, spec/15 R306). -/
  bad : List Nat := []
  /-- Units written in this cycle (the model's own, for spec/21 R374). -/
  wrote : List Nat := []
  /-- The package scale of power tokens (spec/08 R184), the package power averaged over 1 ms in W, the ms that it has stood above the
  limit, and the partitions whose leases are suspended, oldest first (R185). -/
  scale : Nat := 64
  avgW : Nat := 0
  overMs : Nat := 0
  suspended : List Nat := []
  /-- Sensor readings by die · 48 + sensor, in 1/16 °C, the thresholds that each die's hottest stands above (bit 0: 95, 1: 105, 2: 115 °C), the dies under
  thermal throttle, and the trip that holds the package in reset (R187, R189). -/
  sensors : SMap Int := []
  above : SMap Nat := []
  thermal : List Nat := []
  tripped : Bool := false
  trim : Option TrimRecord := none
  /-- What bring-up took from outside the package; a package reset takes it again (spec/26 R438, R441). -/
  boot : Option BringUp := none
  /-- The indirection table (spec/18 R352), translation caches (R347), tracker counts (R354), copies (R355), parked accesses (R357) and
  remapped atoms by tier and media address (R358). -/
  indir : SMap (BitVec 32) := []
  xcache : List XEntry := []
  heat : SMap Nat := []
  copies : List Copy := []
  /-- Moves that a tracker has chosen and not begun, in order: the block, and whether it goes to HBM (R354). -/
  moves : List (Nat × Bool) := []
  parked : List Parked := []
  remaps : List (Nat × Nat) := []
  /-- The cycle of the last corrected error of an HBM atom, by media address (R358). -/
  atomErrs : SMap Nat := []
  /-- Lane groups by pair · 16 + direction · 8 + group, and the group that flows of a group have moved to (spec/24 R416, R419). -/
  groups : SMap LaneGroup := []
  ports : SMap Port := []
  fenced : List Nat := []
  ownPkg : Nat := 0
  /-- Physical-function registers (spec/26 R436). -/
  psel : Nat := 0
  wsel : Nat := 0
  dgsel : Nat := 0
  dtmo : Nat := 50
  trkper : Nat := 8
  bootstat : Nat := 0
  lsel : Nat := 0
  errc : SMap Nat := []
  /-- What this cycle adds to the error counters of a die (R6). -/
  errcNew : SMap Nat := []
  /-- VF Enable and NumVFs (spec/26 R431). -/
  vfEnable : Bool := false
  numVfs : Nat := 0
  /-- The fatal dump holds the dump area (spec/23 R411). -/
  dumpHeld : Bool := false
  /-- A fatal dump in progress (R411): its cause, its die and the last cycle for which it waits. -/
  dumping : Option (Nat × Nat × Nat) := none
deriving DecidableEq, Repr

/-- The machine right after package reset. DESIGN CHOICE: notes/assumptions/2.md. -/
def State.reset : State := {}

end Sys2Proof.Machine
end

