-- ==== Sys2Proof/Machine/Ops.lean ====
section
/-! DEFINITION. The named operations on State: cores, elements and contexts, memory, the slice scoreboard (spec/01 R12 to R15), special
registers (spec/01 R16), and taking a trap and returning from one (spec/21 R369 to R371). -/
namespace Sys2Proof.Machine

/-! ### Parts of the state -/

/-- Core `k`; a core that the map does not list stands as package reset leaves it. -/
def State.core (s : State) (k : Nat) : Core := s.cores.getD k {}

/-- The state with core `k` changed. -/
def State.modCore (s : State) (k : Nat) (f : Core → Core) : State := { s with cores := s.cores.set k (f (s.core k)) }

/-- The control core of core `k`. -/
def State.cc (s : State) (k : Nat) : ControlCore := (s.core k).cc

def State.modCc (s : State) (k : Nat) (f : ControlCore → ControlCore) : State := s.modCore k fun c => { c with cc := f c.cc }

/-- Element `e` (stripe · 16 + column) of a core. -/
def Core.elem (c : Core) (e : Nat) : Elem := c.elems.getD e {}

def State.elem (s : State) (k e : Nat) : Elem := (s.core k).elem e

def State.modElem (s : State) (k e : Nat) (f : Elem → Elem) : State :=
  s.modCore k fun c => { c with elems := c.elems.set e (f (c.elem e)) }

/-- Context `c` of an element. -/
def Elem.ctx (x : Elem) (c : Nat) : Ctx := x.ctxs.getD c {}

def State.ctx (s : State) (k e c : Nat) : Ctx := (s.elem k e).ctx c

def State.modCtx (s : State) (k e c : Nat) (f : Ctx → Ctx) : State :=
  s.modElem k e fun x => { x with ctxs := x.ctxs.set c (f (x.ctx c)) }

/-- The registers of an agent. -/
def State.regsAt (s : State) : Site → Regs
  | .cc k => (s.cc k).regs
  | .ctx k e c _ => (s.ctx k e c).regs

def State.modRegs (s : State) (a : Site) (f : Regs → Regs) : State :=
  match a with
  | .cc k => s.modCc k fun c => { c with regs := f c.regs }
  | .ctx k e c _ => s.modCtx k e c fun x => { x with regs := f x.regs }

/-- The registers of the agent whose step it is. -/
def State.regs (s : State) : Regs := s.regsAt s.site

def State.region? (s : State) (k r : Nat) : Option Region := (s.core k).regions.get? r

def State.modRegion (s : State) (k r : Nat) (f : Region → Region) : State :=
  s.modCore k fun c => { c with regions := c.regions.mod r f }

/-- The cycles of `us` µs, at 1.0 GHz (spec/00). -/
def usCycles (us : Nat) : Nat := us * 1000

/-- A step due later. -/
def State.after (s : State) (delay : Nat) (t : Turn) : State := { s with timers := insertTime s.timers (s.cycle + delay) t }

/-- A fresh number for an opaque constant of Config (notes/assumptions/6.md). -/
def State.draw (s : State) : Nat × State := (s.free, { s with free := s.free + 1 })

/-! ### Memory -/

/-- What a byte reads as; an unlisted byte reads 0 (notes/assumptions/3.md). -/
def memRead : List Host.Cell → Nat → Byte
  | [], _ => 0
  | (b, v) :: r, a => if a = b then v else if a < b then 0 else memRead r a

/-- The memory with one byte written, in canonical form. DESIGN CHOICE: notes/assumptions/3.md. -/
def memWrite : List Host.Cell → Nat → Byte → List Host.Cell
  | [], a, v => if v = 0 then [] else [(a, v)]
  | (b, u) :: r, a, v =>
    if a < b then (if v = 0 then (b, u) :: r else (a, v) :: (b, u) :: r)
    else if a = b then (if v = 0 then r else (a, v) :: r)
    else (b, u) :: memWrite r a v

/-- The canonical form: rising addresses, all above `lo`, and no byte that reads as an unlisted one. -/
def memWfFrom : Option Nat → List Host.Cell → Bool
  | _, [] => true
  | lo, (a, v) :: r => (match lo with
      | none => true
      | some b => b < a) && v != 0 && memWfFrom (some a) r

def memWf (m : List Host.Cell) : Bool := memWfFrom none m

/-- `n` bytes from an address. -/
def memBytes (m : List Host.Cell) (a : Nat) : Nat → List Byte
  | 0 => []
  | n + 1 => memRead m a :: memBytes m (a + 1) n

/-- The memory with bytes written from an address. -/
def memPut (m : List Host.Cell) (a : Nat) : List Byte → List Host.Cell
  | [] => m
  | v :: r => memPut (memWrite m a v) (a + 1) r

/-- A little-endian number of `n` bytes (R2). -/
def State.load (s : State) (a n : Nat) : Nat := ofBytes (memBytes s.mem a n)

/-- Where tile address `a` of core `k` lies in the model's one list of bytes. DESIGN CHOICE: notes/assumptions/3.md. -/
def tileLoc (k a : Nat) : Nat := 2 ^ 22 * k + a

/-- Where the dump area lies (spec/21 R379): the last 256 MiB of the media addresses of HBM. DESIGN CHOICE: notes/assumptions/3.md. DESIGN CHOICE: notes/assumptions/30.md. -/
def dumpLoc (off : Nat) : Nat := 2 ^ 42 - 2 ^ 28 + off
/-- Where a media address of HBM or of the second tier lies (spec/18 R353). DESIGN CHOICE: notes/assumptions/3.md. -/
def mediaLoc (tier x : Nat) : Nat := 2 ^ 41 * (tier + 1) + x
/-- Where a host address lies. DESIGN CHOICE: notes/assumptions/3.md. -/
def hostLoc (a : Nat) : Nat := 2 ^ 64 + a

/-- A number inserted in a rising list. -/
def insertNum : List Nat → Nat → List Nat
  | [], n => [n]
  | m :: r, n => if n < m then n :: m :: r else if n = m then m :: r else m :: insertNum r n

/-- A number removed from a list. -/
def removeNum (l : List Nat) (n : Nat) : List Nat := l.filter fun m => m != n

/-- R255: the units that a write of `n` bytes rewrites whole. -/
def wholeUnits (loc n : Nat) : List Nat :=
  (upFrom (loc / 16) ((loc + n + 15) / 16 - loc / 16)).filter fun u => loc ≤ u * 16 && u * 16 + 16 ≤ loc + n

/-- The units that `n` bytes at a location touch. -/
def unitsOf (loc n : Nat) : List Nat := if n = 0 then [] else upFrom (loc / 16) ((loc + n - 1) / 16 + 1 - loc / 16)

/-- Bytes written anywhere: an unreadable unit is repaired by a write of all of it (R255), and a tile unit's tag is cleared (R257). -/
def State.put (s : State) (loc : Nat) (v : List Byte) : State :=
  { s with
    mem := memPut s.mem loc v
    tags := s.tags.filter fun u => !((unitsOf loc v.length).contains u)
    bad := s.bad.filter fun u => !((wholeUnits loc v.length).contains u)
    wrote := unitsOf loc v.length ++ s.wrote }

/-- A little-endian number stored. -/
def State.store (s : State) (loc n v : Nat) : State := s.put loc (toBytes v n)

/-- R295, R257: a whole unit stored with its tag. -/
def State.storeCap (s : State) (loc : Nat) (c : Cap) : State :=
  let s' := s.store loc 16 c.raw.toNat
  if c.tag then { s' with tags := insertNum s'.tags (loc / 16) } else s'

/-- A whole unit read with its tag. -/
def State.loadCap (s : State) (loc : Nat) : Cap := { raw := BitVec.ofNat 128 (s.load loc 16), tag := s.tags.contains (loc / 16) }

/-- R255: some unit that the bytes touch is uncorrectable. -/
def State.unreadable (s : State) (loc n : Nat) : Option Nat := (unitsOf loc n).find? fun u => s.bad.contains u

/-- R255, R389: the bytes that a configuration controller reads for a row that it has just configured: an uncorrectable unit delivers nothing, so what it
would have restored stays 0. DESIGN CHOICE: notes/assumptions/33.md. -/
def State.ctlBytes (s : State) (loc n : Nat) : List Byte :=
  (upFrom loc n).map fun a => if s.bad.contains (a / 16) then 0 else memRead s.mem a

/-- R159, R166: a 64-bit word that a configuration controller reads. -/
def State.ctlWord (s : State) (loc : Nat) : Nat := ofBytes (s.ctlBytes loc 8)

/-! ### The scoreboard -/

/-- R3: the bank bits of `c` slices from slice `p`, as a mask. -/
def sliceMask (p c : Nat) : BitVec 512 := BitVec.ofNat 512 ((2 ^ (4 * c) - 1) * 2 ^ (4 * p))

/-- R3: `slices(p, c)`. -/
def Regs.slices (r : Regs) (p c : Nat) : Nat := r.bank.toNat / 2 ^ (4 * p) % 2 ^ (4 * c)

/-- R14: the pending slices, as a mask. -/
def Regs.pending (r : Regs) : BitVec 512 := r.flights.foldl (fun m f => m ||| f.own) 0

/-- R12: the pending predicates. -/
def Regs.pendingPreds (r : Regs) : BitVec 8 := r.flights.foldl (fun m f => m ||| f.pown) 0

/-- An in-flight instruction that latency bounds, not an asynchronous command (R18). -/
def Flight.sync (f : Flight) : Bool := f.left.isSome

/-- Every earlier instruction has written back (R75, R116, R119). -/
def Regs.drained (r : Regs) : Bool := r.flights.all fun f => !f.sync

/-- R15: a later instruction takes slices and predicates over. DEDUCED: notes/assumptions/63.md. -/
def Flight.yield (f : Flight) (own : BitVec 512) (pown : BitVec 8) : Flight :=
  { f with own := f.own &&& ~~~own, pown := f.pown &&& ~~~pown }

/-- R14: an instruction issues and becomes the owner of what it writes. -/
def Regs.launch (r : Regs) (f : Flight) : Regs :=
  { r with flights := r.flights.map (fun g => g.yield f.own f.pown) ++ [f] }

/-- R43: the capability position that holds slices `32p` to `32p + 31`. -/
def posMask (p : Nat) : BitVec 512 := BitVec.ofNat 512 ((2 ^ 128 - 1) * 2 ^ (128 * p))

/-- R43: the tag of position `p` after a write lands. DEDUCED: notes/assumptions/63.md. -/
def tagAfter (f : Flight) (old : Bool) (p : Nat) : Bool :=
  if f.own &&& posMask p = 0 then old
  else match f.cap with
    | some (q, t) => q == p && t && f.own &&& posMask p == posMask p
    | none => false

/-- R15, R43, R74: the results of an in-flight instruction land. DEDUCED: notes/assumptions/63.md. -/
def Regs.land (r : Regs) (f : Flight) : Regs :=
  { r with
    bank := (r.bank &&& ~~~f.own) ||| (f.data &&& f.own)
    tags := BitVec.ofBool (tagAfter f (r.tags.getLsbD 3) 3) ++ (BitVec.ofBool (tagAfter f (r.tags.getLsbD 2) 2) ++
      (BitVec.ofBool (tagAfter f (r.tags.getLsbD 1) 1) ++ BitVec.ofBool (tagAfter f (r.tags.getLsbD 0) 0)))
    preds := (r.preds &&& ~~~f.pown) ||| (f.pval &&& f.pown)
    fflags := (match f.sreg with
      | some (n, v) => if n = 0x10 then v &&& 0x1F else r.fflags
      | none => r.fflags) ||| BitVec.ofNat 64 f.flags
    flights := r.flights.filter fun g => g.id != f.id }

/-! ### Places in the fabric -/

/-- Element `e` lies in the region. -/
def Region.holds (r : Region) (e : Nat) : Bool :=
  r.row0 ≤ e / 16 && e / 16 < r.row0 + r.height && (r.wide || e % 16 / 8 == r.half)

/-- The region that holds an element. -/
def Core.regionOf (c : Core) (e : Nat) : Option (Nat × Region) := c.regions.find? fun p => p.2.holds e

/-- The column of an element within its region (R172). -/
def Region.colOf (r : Region) (e : Nat) : Nat := if r.wide then e % 16 else e % 8

/-- The row of an element within its region. -/
def Region.rowOf (r : Region) (e : Nat) : Nat := e / 16 - r.row0

/-- The element at a row and column of a region. -/
def Region.elemAt (r : Region) (row col : Nat) : Nat :=
  (r.row0 + row % r.height) * 16 + (if r.wide then col else r.half * 8 + col)

/-- A row of a region. -/
def Region.row (r : Region) (i : Nat) : Row := r.rows.getD i {}

/-- The string of an element (spec/08 R176). -/
def strOf (e : Nat) : Nat := 2 * (e / 64) + e % 16 / 8

/-- R177: the layer of an element in its string. -/
def layerOf (e : Nat) : Nat := e / 16 % 4

/-- R176: the element that stands for layer `i` of string `n`: a half-stripe's first element. -/
def layerElem (n i : Nat) : Nat := (n / 2 * 4 + i) * 16 + n % 2 * 8

/-- R127: cycle `now` is a layer-cycle edge of layer `i`. -/
def Str.edge (x : Str) (i now : Nat) : Bool := x.next.getD i 0 ≤ now || x.next.getD i 0 == now + x.div.getD i 1

/-- R127: an element's layer is at an edge. DEDUCED: notes/assumptions/57.md. -/
def Core.edge (c : Core) (e now : Nat) : Bool := (c.strings.getD (strOf e) {}).edge (layerOf e) now

/-- R127, R181: a cycle of a string's clocks: at a layer's boundary its next layer cycle begins, at the divisor that is due. -/
def Str.tick (x : Str) (now : Nat) : Str :=
  let due (i : Nat) : Bool := x.next.getD i 0 ≤ now
  let d (i : Nat) : Nat := if due i then max 1 (x.want.getD i 1) else x.div.getD i 1
  { x with
    div := (upFrom 0 4).map d
    next := (upFrom 0 4).map fun i => if due i then now + d i else x.next.getD i 0
    prev := (upFrom 0 4).map fun i => if due i then x.next.getD i 0 - x.div.getD i 1 else x.prev.getD i 0 }

/-- R178, R181: layer `i` begins a layer cycle of divisor `d` in cycle `at_`. -/
def Str.clock (x : Str) (i d at_ : Nat) : Str :=
  { x with want := setAt x.want i d, div := setAt x.div i d, next := setAt x.next i at_ }

/-- R182: every layer of the string is Empty. -/
def Core.stringEmpty (c : Core) (n : Nat) : Bool :=
  (upFrom 0 4).all fun i => match c.regionOf (layerElem n i) with
    | none => true
    | some (_, r) => (r.row (r.rowOf (layerElem n i))).st == .empty

/-- R126: columns 0 and 7 of a half hold V-elements. -/
def isV (e : Nat) : Bool := e % 8 == 0 || e % 8 == 7

/-- R136: hops of a route from element `e` to element `d`; `next` for a route to the next stripe. DEDUCED: notes/assumptions/16.md. -/
def hopsOf (e d : Nat) (next : Bool) : Nat :=
  let dist := if e % 16 < d % 16 then d % 16 - e % 16 else e % 16 - d % 16
  if next then 2 + dist / 4
  else if e % 16 / 8 != d % 16 / 8 then 3
  else 1 + dist / 4

/-- R136, R173: the hops of a route on a core: a route through a spare takes at most one cycle more, and which routes do is left open.
DESIGN CHOICE: notes/assumptions/16.md. -/
def Core.hops (c : Core) (e d : Nat) (next : Bool) : Nat :=
  hopsOf e d next + (if c.spares.contains e || c.spares.contains d then b2n (Config.spareCycle e d) else 0)

/-! ### Special registers of the control core -/

/-- Bits of the capability (R256). -/
def Cap.base (c : Cap) : Nat := bits c.raw.toNat 127 64
def Cap.len (c : Cap) : Nat := bits c.raw.toNat 63 24
def Cap.perms (c : Cap) : Nat := bits c.raw.toNat 23 16
def Cap.space (c : Cap) : Nat := bits c.raw.toNat 15 12
def Cap.xi (c : Cap) : Bool := bit c.raw.toNat 23
def Cap.gl (c : Cap) : Bool := bit c.raw.toNat 22
def Cap.eo (c : Cap) : Bool := bit c.raw.toNat 21
def Cap.at (c : Cap) : Bool := bit c.raw.toNat 20
def Cap.cs (c : Cap) : Bool := bit c.raw.toNat 19
def Cap.cl (c : Cap) : Bool := bit c.raw.toNat 18
def Cap.wr (c : Cap) : Bool := bit c.raw.toNat 17
def Cap.rd (c : Cap) : Bool := bit c.raw.toNat 16

/-- R1: a canonical virtual address has bits [63:51] equal to bit 50. -/
def canonical (a : Nat) : Bool := a / 2 ^ 50 % 2 ^ 14 == 0 || a / 2 ^ 50 % 2 ^ 14 == 2 ^ 14 - 1

/-- R256: every address of a range is canonical. The canonical addresses are one range at the bottom and one at the top. -/
def canonicalRange (b n : Nat) : Bool :=
  n == 0 || (b + n ≤ 2 ^ 64 && (b + n ≤ 2 ^ 50 || 2 ^ 64 - 2 ^ 50 ≤ b))

/-- R256: the bits form a valid capability when taken with tag 1. -/
def Cap.sound (c : Cap) : Bool :=
  1 ≤ c.space && c.space ≤ 8 && bits c.raw.toNat 11 0 == 0 && c.base + c.len ≤ 2 ^ 64
    && (!(c.space == 2 || c.space == 3 || c.space == 4 || c.space == 6) || canonicalRange c.base c.len)
    && (c.space != 1 || c.base + c.len ≤ 0x400000)

/-- R256: a valid capability. -/
def Cap.valid (c : Cap) : Bool := c.tag && c.sound

/-- A capability from its fields. -/
def mkCap (base len perms space : Nat) : Cap :=
  { raw := BitVec.ofNat 128 (base % 2 ^ 64 * 2 ^ 64 + len % 2 ^ 40 * 2 ^ 24 + perms % 256 * 2 ^ 16 + space % 16 * 2 ^ 12), tag := true }

/-- The permission bits of R256 as they stand in [23:16]. -/
def pRD : Nat := 1
def pWR : Nat := 2
def pCL : Nat := 4
def pCS : Nat := 8
def pAT : Nat := 16
def pEO : Nat := 32
def pGL : Nat := 64
def pXI : Nat := 128

/-- A string of a core. -/
def Core.str (c : Core) (n : Nat) : Str := c.strings.getD n {}

/-- R182: $STRIMB; a string whose layers are all Empty reads 0. -/
def Core.strimb (c : Core) : Nat :=
  (upFrom 0 8).foldl (fun v n => v + 2 ^ (8 * n) * (if c.stringEmpty n then 0 else min 255 ((c.str n).imbalance / 10))) 0

/-- R16: the value of a special register of 64 bits; `pc` is the reading instruction's. -/
def State.sreg (s : State) (k : Nat) (n : BitVec 8) : Nat :=
  let c := s.cc k
  match n.toNat with
  | 0x00 => c.pc.toNat
  | 0x01 => c.coreid.toNat
  | 0x02 => s.cycle % 2 ^ 64
  | 0x08 => c.epc.toNat
  | 0x09 => c.cause.toNat
  | 0x0A => c.eval.toNat
  | 0x10 => c.regs.fflags.toNat
  | 0x20 => (s.core k).strimb
  | 0x21 => (s.core k).fillCount.toNat
  | 0x22 => (s.core k).throtCount.toNat
  | _ => 0

/-- R368: a write of $CAUSE changes VEC, ASYNC and CODE and nothing else. -/
def causeWrite (old v : Word64) : Word64 :=
  (old &&& 0x0000000000010000#64) ||| (v &&& 0xFFFFFFF800000BFF#64)

/-- R16, R6: an SWR lands; $FFLAGS is written with the flags (`Regs.land`), a read-only register ignores the write. -/
def ControlCore.writeSreg (c : ControlCore) (n : BitVec 8) (v : Word64) : ControlCore :=
  match n.toNat with
  | 0x08 => { c with epc := v }
  | 0x09 => { c with cause := causeWrite c.cause v }
  | 0x0A => { c with eval := v }
  | _ => c

/-! ### Traps -/

/-- R368: VEC and INTRAP of $CAUSE. -/
def causeVec (v : Word64) : Nat := bits v.toNat 63 35
def causeIntrap (v : Word64) : Bool := v.getLsbD 16

/-- R369: $CAUSE once a trap is entered. -/
def causeEnter (v : Word64) (code : Nat) (async : Bool) : Word64 :=
  BitVec.ofNat 64 (causeVec v * 2 ^ 35 + 2 ^ 16 + b2n async * 2 ^ 11 + code % 1024)

/-- R370: $CAUSE with another CODE. -/
def causeCode (v : Word64) (code : Nat) : Word64 := BitVec.ofNat 64 (setBits v.toNat 0 10 code)

/-- R370: a trap with no handler, or within a trap, is fatal. -/
def ControlCore.fatal (c : ControlCore) : Bool := causeVec c.cause == 0 || causeIntrap c.cause

/-- R369, R370: what a trap makes of the control core. -/
def ControlCore.takeTrap (c : ControlCore) (cause : Nat) (v : Word64) (pc : BitVec 32) (async : Bool) : ControlCore :=
  if c.fatal then
    { c with
      epc := pc.zeroExtend 64
      eval := if causeIntrap c.cause then BitVec.ofNat 64 cause else v
      cause := causeCode c.cause (if causeIntrap c.cause then 0x006 else cause)
      run := .halted, wait := .nothing, halting := false, trapping := none }
  else
    { c with
      epc := pc.zeroExtend 64, eval := v, cause := causeEnter c.cause cause async
      pc := BitVec.ofNat 32 (causeVec c.cause * 8)
      run := .running, wait := .nothing, trapping := none }

/-- R369, R370: taking a trap, the one operation for every control-core trap. A fatal trap also fails the core's launch. -/
def State.enterTrap (s : State) (k cause : Nat) (v : Word64) (pc : BitVec 32) (async : Bool) : State :=
  let c := s.cc k
  let s' := s.modCc k fun c => { c.takeTrap cause v pc async with nextIssue := s.cycle + 1 }
  if c.fatal then
    match c.member with
    | some (l, _) => { s' with todo := .fail k l cause :: s'.todo }
    | none => s'
  else s'

/-- R18: an instruction traps. With nothing earlier in flight the trap is entered at once; otherwise the core holds it until earlier
instructions have written back (TRAP_ENTRY), and until a debug halt ends (R408). DEDUCED: notes/assumptions/59.md. -/
def State.raise (s : State) (k cause : Nat) (v : Word64) (pc : BitVec 32) : State :=
  if (s.cc k).regs.drained && (s.cc k).wait != .debug then s.enterTrap k cause v pc false
  else s.modCc k fun c => { c with trapping := some { cause := cause, eval := v, epc := pc } }

/-- R371: ERET's effect on the control core: INTRAP := 0, then PC := $EPC. -/
def ControlCore.leaveTrap (c : ControlCore) : ControlCore :=
  { c with cause := c.cause &&& ~~~0x0000000000010000#64, pc := c.epc.setWidth 32 }

end Sys2Proof.Machine
end

