-- ==== Sys2Proof/Machine/Posts.lean ====
section
/-! DEFINITION. Launch records as fields, and event and trace records on their way to their rings (spec/12 R237; spec/08 R190, R191; spec/23
R401). -/
namespace Sys2Proof.Machine

/-! ### Launch record fields (R237) -/

def Launch.word (l : Launch) (i : Nat) : Nat := (l.words.getD i 0).toNat
def Launch.gang (l : Launch) : Nat := bits (l.word 0) 31 24 + 1
def Launch.prio (l : Launch) : Nat := bits (l.word 0) 42 40
def Launch.cosched (l : Launch) : Bool := bit (l.word 0) 23
def Launch.det (l : Launch) : Bool := bit (l.word 0) 22
def Launch.ctrl (l : Launch) : Bool := bit (l.word 0) 21
def Launch.fab (l : Launch) : Bool := bit (l.word 0) 20
def Launch.wide (l : Launch) : Bool := bits (l.word 0) 19 18 == 1
def Launch.height (l : Launch) : Nat := 4 * 2 ^ bits (l.word 0) 17 16
def Launch.rights (l : Launch) : Nat := bits (l.word 0) 15 0
def Launch.maint (l : Launch) : Bool := bit l.rights 0
def Launch.debug (l : Launch) : Bool := bit l.rights 1
def Launch.direct (l : Launch) : Bool := bit l.rights 2
def Launch.image (l : Launch) : Nat := l.word 1
def Launch.code (l : Launch) : Nat := l.word 2
def Launch.codelen (l : Launch) : Nat := bits (l.word 3) 63 32
def Launch.entry (l : Launch) : Nat := bits (l.word 3) 31 0
def Launch.captab (l : Launch) : Nat := l.word 4
def Launch.nthr (l : Launch) : Nat := bits (l.word 5) 63 32
def Launch.tbase (l : Launch) : Nat := bits (l.word 5) 31 0
def Launch.tbanks (l : Launch) : Nat := bits (l.word 6) 63 56
def Launch.qoff (l : Launch) : Nat := bits (l.word 6) 55 32
def Launch.spilloff (l : Launch) : Nat := bits (l.word 6) 23 0
def Launch.spilllen (l : Launch) : Nat := bits (l.word 7) 55 32
def Launch.btimeout (l : Launch) : Nat := bits (l.word 7) 31 0
def Launch.lpct (l : Launch) : Nat := bits (l.word 8) 47 40
def Launch.ldur (l : Launch) : Nat := bits (l.word 8) 31 0
def Launch.evtag (l : Launch) : Nat := l.word 12

def State.modLaunch (s : State) (l : Nat) (f : Launch → Launch) : State := { s with launches := s.launches.mod l f }

/-- R413: the values of an edge that are on their way. -/
def LEdge.onWay (g : LEdge) : Nat := g.flying.length + g.crossing.length

/-- A core's die (R1). -/
def dieOf (k : Nat) : Nat := k / 64

/-! ### Records on their way -/

/-- R190: an event record is posted to a partition; it is written to its ring at the end of the cycle (R191). -/
def State.post (s : State) (r : EventRec) : State := { s with posts := s.posts ++ [r] }

/-- An event record about core `k`, to the core's own partition. -/
def State.postCore (s : State) (k type : Nat) (arg0 arg1 : Nat) : State :=
  match (s.core k).part with
  | some p => s.post { part := p, type := type, die := dieOf k, lcore := some (s.core k).lcore, arg0 := arg0, arg1 := arg1 }
  | none => s

/-- An event record about a string of core `k`. -/
def State.postStr (s : State) (k str type : Nat) (arg0 arg1 : Nat) : State :=
  match (s.core k).part with
  | some p => s.post { part := p, type := type, die := dieOf k, lcore := some (s.core k).lcore, str := str, arg0 := arg0, arg1 := arg1 }
  | none => s

/-- R401: tracing is on for a launch of a partition: its function has enabled the trace ring, and the launch holds RIGHTS.DEBUG. -/
def State.tracing (s : State) (l : Nat) : Bool :=
  match s.launches.get? l with
  | some x => x.debug && (match s.parts.get? x.part with
    | some p => bit p.trctl 0
    | none => false)
  | none => false

/-- R401: a trace record made by the control core. -/
def State.traceCc (s : State) (k type arg0 arg1 : Nat) : State :=
  match (s.cc k).member with
  | some (l, _) => if s.tracing l then { s with traces := s.traces ++ [{ core := k, type := type, cc := true, arg0 := arg0, arg1 := arg1 }] } else s
  | none => s

/-- R401: a trace record made by a region. -/
def State.traceRegion (s : State) (k rn type arg0 arg1 : Nat) : State :=
  match s.region? k rn with
  | some r =>
    if s.tracing r.launch then
      { s with traces := s.traces ++ [{ core := k, type := type, reg := rn, cver := r.cver.toNat, arg0 := arg0, arg1 := arg1 }] }
    else s
  | none => s

end Sys2Proof.Machine
end

