-- ==== Sys2Proof/Machine/Operands.lean ====
section
/-! DEFINITION. Operand forms: what an operand field reads and writes (spec/02 R34 to R42, R45 to R49), the special registers of an
element (spec/06 R131), heads of channels, ports and pass registers (spec/06 R137, R139, R140), and the stochastic offset's inputs
(spec/03 R71). -/
namespace Sys2Proof.Machine

/-! ### Heads -/

def Link.stage (l : Link) (i : Nat) : List Token := l.stages.getD i []

def Core.link (c : Core) (key : Nat) : Link := c.links.getD key {}
def Core.klink (c : Core) (key : Nat) : Link := c.klinks.getD key {}
def Core.plink (c : Core) (key : Nat) : PassLink := c.plinks.getD key {}

/-- A head that has arrived before this cycle (R127). -/
def Link.head (l : Link) (now : Nat) : Option Token :=
  match l.stage 0 with
  | t :: _ => if t.arrived < now then some t else none
  | [] => none

/-- R137: the head token of an input channel, presented to its context alone. -/
def State.chanHead (s : State) (k e c ch : Nat) : Option Token :=
  match ((s.core k).link (e * 8 + ch)).head s.cycle with
  | some t => if t.ctx = c then some t else none
  | none => none

/-- R140: the head control token of an in port. -/
def State.portHead (s : State) (k e c p : Nat) : Option Token :=
  match ((s.core k).klink (e * 4 + p)).head s.cycle with
  | some t => if t.ctx = c then some t else none
  | none => none

/-- R412, R413: a long edge that ends at in pass register `q` of a pick and column of the block in progress: the launch and the edge's place in its
list. -/
def State.edgeAt (s : State) (r : Region) (pick col q : Nat) : Option (Nat × Nat × LEdge) :=
  match s.launches.get? r.launch with
  | none => none
  | some l =>
    ((List.range l.edges.length).zip l.edges).findSome? fun p =>
      if p.2.tgt == r.member && r.cur == some p.2.blk && p.2.tpick == pick && p.2.tcol == col && p.2.tq == q then some (r.launch, p.1, p.2) else none

/-- R412, R413: the long edge that ends at in pass register `q` of an element. -/
def State.edgeInto (s : State) (k e q : Nat) : Option (Nat × Nat × LEdge) :=
  match (s.core k).regionOf e with
  | none => none
  | some (_, r) => s.edgeAt r (r.row (r.rowOf e)).pick (r.colOf e) q

/-- R412, R413: a long edge that starts at out pass register `q` of an element. -/
def State.edgeFrom (s : State) (k e q : Nat) : Option (Nat × Nat × LEdge) :=
  match (s.core k).regionOf e with
  | none => none
  | some (_, r) =>
    match s.launches.get? r.launch with
    | none => none
    | some l =>
      ((List.range l.edges.length).zip l.edges).findSome? fun p =>
        if p.2.src == r.member && r.cur == some p.2.blk && p.2.spick == (r.row (r.rowOf e)).pick && p.2.scol == r.colOf e && p.2.sq == q
        then some (r.launch, p.1, p.2) else none

/-- A long edge changed. -/
def State.modEdge (s : State) (l i : Nat) (f : LEdge → LEdge) : State :=
  { s with launches := s.launches.mod l fun x => { x with edges := modAt x.edges i f } }

/-- R139, R413: the value of an in pass register, visible 2 cycles after its write-back, or the head of a receive queue. -/
def State.passHead (s : State) (k e c q : Nat) : Option Token :=
  match s.edgeInto k e q with
  | some (_, _, g) =>
    (match g.queue with
     | (v, cx) :: _ => if cx = c then some { payload := v, ctx := cx, kind := 0, arrived := (g.noted.headD (0, 0)).1 - 1, origin := (g.noted.headD (0, 0)).2 } else none
     | [] => none)
  | none =>
    match ((s.core k).plink (e * 4 + q)).val with
    | some t => if t.ctx = c && t.arrived + 2 ≤ s.cycle then some t else none
    | none => none

/-! ### Sources -/

/-- How a source is extended (R37). -/
inductive Ext where
  | own | zero | imm
deriving DecidableEq, Repr

/-- A source as it is read: its bits, its own width and how it is extended. -/
structure Src where
  raw : Nat
  width : Nat
  ext : Ext := .own
deriving DecidableEq, Repr

/-- R172, R174: the column of the draft that stands in a column of a pick of the block in progress; of a pick image, the column itself. -/
def State.logCol (s : State) (r : Region) (pick col : Nat) : Nat :=
  match r.cur.bind fun b => (s.launches.get? r.launch).bind fun l => l.cols.get? (b * 256 + pick) with
  | some m => m.idxOf col
  | none => col

/-- R131: an element's special register. -/
def State.elemSreg (s : State) (k e c : Nat) (n : BitVec 8) : Nat :=
  let x := s.ctx k e c
  match n.toNat with
  | 0x02 => s.cycle % 2 ^ 64
  | 0x03 => (match (s.core k).regionOf e with
    | some (_, r) => (r.row (r.rowOf e)).pick * 16 + s.logCol r (r.row (r.rowOf e)).pick (r.colOf e)
    | none => 0)
  | 0x04 => (match x.thread with
    | some t => t.toNat
    | none => 0)
  | 0x05 => c
  | 0x06 => (match (s.core k).regionOf e with
    | some (_, r) => r.cur.getD 0
    | none => 0)
  | 0x10 => x.regs.fflags.toNat
  | _ => 0

/-- R36, R37: what a source operand reads. -/
def State.src (s : State) (o : Operand) : Src :=
  match o with
  | .slice p c => { raw := s.regs.slices p.toNat (c.toNat + 1), width := 4 * (c.toNat + 1) }
  | .pred p => { raw := b2n (s.regs.preds.getLsbD p.toNat), width := 1, ext := .zero }
  | .imm v => { raw := v.toNat, width := 8, ext := .imm }
  | .inChan ch _ =>
    match s.site with
    | .ctx k e c _ => { raw := ((s.chanHead k e c ch.toNat).map fun t => t.payload.toNat).getD 0, width := 64 }
    | .cc _ => { raw := 0, width := 64 }
  | .pass q _ =>
    match s.site with
    | .ctx k e c _ => { raw := ((s.passHead k e c q.toNat).map fun t => t.payload.toNat).getD 0, width := 64 }
    | .cc _ => { raw := 0, width := 64 }
  | .port p _ =>
    match s.site with
    | .ctx k e c _ => { raw := ((s.portHead k e c p.toNat).map fun t => t.payload.toNat % 2).getD 0, width := 1, ext := .zero }
    | .cc _ => { raw := 0, width := 1, ext := .zero }
  | .sreg n =>
    match s.site with
    | .ctx k e c _ => { raw := s.elemSreg k e c n, width := 64 }
    | .cc k => { raw := s.sreg k n, width := 64 }
  | _ => { raw := 0, width := 64 }

/-- R40, R37: a source brought to width `w`. DESIGN CHOICE: notes/assumptions/65.md. -/
def Src.to (x : Src) (g : Sgn) (w : Nat) : Nat :=
  match x.ext with
  | .zero => zext x.raw w
  | .imm => wrap (sext x.raw 8) w
  | .own => match g with
    | .z => zext (zext x.raw x.width) w
    | .s => wrap (sext x.raw x.width) w

/-- R40: a source brought to width `w` and read in a signedness. DESIGN CHOICE: notes/assumptions/65.md. -/
def Src.val (x : Src) (g : Sgn) (w : Nat) : Int := readAs g (x.to g w) w

/-- R88: a source read unsigned at its own width; an immediate's is 8 bits (R37). -/
def Src.ownZ (x : Src) : Nat := zext x.raw x.width

/-- A source read signed at its own width. A predicate or port reads as 0 or 1 (R37). -/
def Src.ownS (x : Src) : Int :=
  match x.ext with
  | .zero => (zext x.raw x.width : Nat)
  | _ => sext x.raw x.width

/-- R92: a count or index: an immediate is sign-extended to 64 bits first. -/
def Src.count (x : Src) : Nat :=
  match x.ext with
  | .imm => wrap (sext x.raw 8) 64
  | _ => zext x.raw x.width

/-- R40, R37: a source of a command, read Z at the 64 bits of its completion token. -/
def Src.wide (x : Src) : Nat := x.to .z 64

/-- R66, R101: a W40 source. -/
def Src.real (x : Src) : Real40 := readW (x.raw % 2 ^ 40)

/-- R40: the operation width of an instruction whose destination is `d`. -/
def destWidth (d : Operand) : Nat := Wf.width d

/-- R38: the capability that a capability-typed operand names, with its tag. -/
def State.capSrc (s : State) (o : Operand) : Cap :=
  match o with
  | .slice p _ => { raw := BitVec.ofNat 128 (s.regs.slices p.toNat 32), tag := s.regs.tags.getLsbD (p.toNat / 32) }
  | _ => {}

/-- R71: the stochastic offset of result number `n` of the instruction that executes. -/
def State.offset (s : State) (n : Nat) : Nat :=
  match s.site with
  | .cc k => rsrOffset 0 0 0xFFF ((s.cc k).pc.toNat / 8)
  | .ctx k e c _ =>
    let x := s.ctx k e c
    rsrOffset (s.elemSreg k e c 0x04) (s.elemSreg k e c 0x06) (s.elemSreg k e c 0x03) (x.rsr.toNat + n)

/-- The context number of the agent (R37: a token carries its sender's). -/
def State.ctxNo (s : State) : Nat :=
  match s.site with
  | .cc _ => 0
  | .ctx _ _ c _ => c

/-! ### Effects -/

/-- What an instruction writes: bank bits, predicates, flags, a special register, and what it places at write-back. -/
structure Eff where
  own : BitVec 512 := 0
  data : BitVec 512 := 0
  cap : Option (Nat × Bool) := none
  pown : BitVec 8 := 0
  pval : BitVec 8 := 0
  flags : Nat := 0
  sreg : Option (BitVec 8 × Word64) := none
  outs : List Out := []
  /-- Results under RSR (R71). -/
  rsr : Nat := 0
  hold : Bool := false
  fence : Bool := false
  /-- Cycles of latency beyond the table's. -/
  extra : Nat := 0
  /-- A completion token: it stays pending until its command ends (R119, spec/17 R317). -/
  async : Bool := false
  /-- The write of its slices sets latch E1 (R117). -/
  token : Bool := false
  /-- The firing consumes the heads that it names (R145). -/
  takes : Bool := true
deriving DecidableEq, Repr

/-- Slices written: those that the effect already writes give way (R42). -/
def Eff.slices (e : Eff) (p c v : Nat) : Eff :=
  let m := sliceMask p c
  { e with own := e.own ||| m, data := (e.data &&& ~~~m) ||| BitVec.ofNat 512 (v % 2 ^ (4 * c) * 2 ^ (4 * p)) }

/-- A predicate written. -/
def Eff.pred (e : Eff) (p : Nat) (b : Bool) : Eff :=
  let m := BitVec.ofNat 8 (2 ^ p)
  { e with pown := e.pown ||| m, pval := (e.pval &&& ~~~m) ||| (if b then m else 0) }

/-- R37, R41: a value written through a destination operand, after whatever the effect already writes. DESIGN CHOICE: notes/assumptions/65.md. -/
def Eff.put (e : Eff) (c : Nat) (d : Operand) (v : Nat) : Eff :=
  match d with
  | .slice p n => e.slices p.toNat (n.toNat + 1) v
  | .pred p => e.pred p.toNat (v % 2 == 1)
  | .outChan ch kd => { e with outs := e.outs ++ [.token ch.toNat kd.toNat c (BitVec.ofNat 64 v) false] }
  | .pass q _ => { e with outs := e.outs ++ [.pass q.toNat (BitVec.ofNat 64 v) c false] }
  | .port p _ => { e with outs := e.outs ++ [.ctok p.toNat (v % 2 == 1) c false] }
  | .sreg n => { e with sreg := some (n, BitVec.ofNat 64 v) }
  | _ => e

/-- R38, R43: a capability written through a capability-typed destination. -/
def Eff.putCap (e : Eff) (d : Operand) (c : Cap) : Eff :=
  match d with
  | .slice p _ =>
    let f := e.slices p.toNat 32 c.raw.toNat
    { f with cap := some (p.toNat / 32, c.tag) }
  | _ => e

/-! ### What an instruction names -/

/-- What an instruction names, for the issue rule (R13) and the firing rule (R144). -/
structure Shape where
  guard : BitVec 16
  /-- Slices and predicates read. -/
  rd : BitVec 512 := 0
  rdP : BitVec 8 := 0
  /-- Input channels read, with keep. -/
  chans : List (Nat × Bool) := []
  /-- In ports consumed, and in ports only looked at. -/
  ports : List Nat := []
  peeks : List Nat := []
  passes : List Nat := []
  outs : List Nat := []
  outPorts : List Nat := []
  outPasses : List Nat := []
  lat : Nat := 1
  heavy : Bool := false
  /-- It issues only when every earlier instruction has written back. -/
  drain : Bool := false
  /-- EOW: it fires in a context without a thread (R200). -/
  threadless : Bool := false
deriving DecidableEq, Repr

/-- A source operand. -/
def Shape.src (h : Shape) (o : Operand) : Shape :=
  match o with
  | .slice p c => { h with rd := h.rd ||| sliceMask p.toNat (c.toNat + 1) }
  | .pred p => { h with rdP := h.rdP ||| BitVec.ofNat 8 (2 ^ p.toNat) }
  | .inChan ch keep => { h with chans := h.chans ++ [(ch.toNat, keep)] }
  | .pass q _ => { h with passes := h.passes ++ [q.toNat] }
  | .port p _ => { h with ports := h.ports ++ [p.toNat] }
  | _ => h

/-- A capability-typed or scale operand that is read: 32 slices. -/
def Shape.cap (h : Shape) (o : Operand) : Shape :=
  match o with
  | .slice p _ => { h with rd := h.rd ||| sliceMask p.toNat 32 }
  | _ => h

/-- A destination operand. -/
def Shape.dst (h : Shape) (o : Operand) : Shape :=
  match o with
  | .outChan ch _ => { h with outs := h.outs ++ [ch.toNat] }
  | .pass q _ => { h with outPasses := h.outPasses ++ [q.toNat] }
  | .port p _ => { h with outPorts := h.outPorts ++ [p.toNat] }
  | _ => h

/-- A predicate that the modifier names. -/
def Shape.modPred (h : Shape) (p : Nat) : Shape := { h with rdP := h.rdP ||| BitVec.ofNat 8 (2 ^ p) }

end Sys2Proof.Machine
end

