-- ==== Sys2Proof/Machine/Shape.lean ====
section
/-! DEFINITION. What each instruction names: the slices, predicates, channels, ports and pass registers that it reads and writes, its
latency (spec/01 R14; spec/09 R192, R207 to R211; spec/11 R222; spec/14 R280 to R292; spec/05 R119) and its power token (R144). -/
namespace Sys2Proof.Machine

/-- An optional source. DEDUCED: notes/assumptions/7.md. -/
def Shape.srcOpt (h : Shape) : Option Operand → Shape
  | none => h
  | some o => h.src o

/-- An optional destination. DEDUCED: notes/assumptions/7.md. -/
def Shape.dstOpt (h : Shape) : Option Operand → Shape
  | none => h
  | some o => h.dst o

/-- A position that 0x000 leaves unused (R32). -/
def Shape.dstNone (h : Shape) (o : Operand) : Shape := if Wf.isNone o then h else h.dst o
def Shape.srcNone (h : Shape) (o : Operand) : Shape := if Wf.isNone o then h else h.src o

/-- An input channel looked at without being consumed by the firing rule itself. -/
def Shape.look (h : Shape) : Operand → Shape
  | .inChan ch _ => { h with chans := h.chans ++ [(ch.toNat, true)] }
  | .port p _ => { h with peeks := h.peeks ++ [p.toNat] }
  | _ => h

/-- The slices of EXIT's values (spec/09 R199). -/
def Shape.exitVals (h : Shape) (b : Option Operand) (nv : BitVec 3) : Shape :=
  match b with
  | some (.slice p _) => { h with rd := h.rd ||| sliceMask p.toNat (16 * nv.toNat) }
  | some o => h.src o
  | none => h

/-- PASS also writes the out register whose number srcA names (spec/09 R197). -/
def Shape.passOn (h : Shape) : Operand → Shape
  | .pass q _ => { h with outPasses := h.outPasses ++ [q.toNat] }
  | _ => h

/-- Operand A of the MMAC family (spec/11 R227, R228). -/
def Shape.mmac (h : Shape) : MmacSrc → Shape
  | .bus o => h.cap o
  | .store _ => h

end Sys2Proof.Machine

namespace Sys2Proof
open Sys2Proof.Machine

/-- What an instruction names. The rows of spec/95 name nothing. -/
def Instr.shape : Instr → Shape
  | .add g d a b => ({ guard := g } : Shape).src a |>.src b |>.dst d
  | .sub g d a b => ({ guard := g } : Shape).src a |>.src b |>.dst d
  | .adds g d a b => ({ guard := g } : Shape).src a |>.src b |>.dst d
  | .subs g d a b => ({ guard := g } : Shape).src a |>.src b |>.dst d
  | .addz g d a b => ({ guard := g } : Shape).src a |>.src b |>.dst d
  | .subz g d a b => ({ guard := g } : Shape).src a |>.src b |>.dst d
  | .neg g d a => ({ guard := g } : Shape).src a |>.dst d
  | .abs g d a => ({ guard := g } : Shape).src a |>.dst d
  | .mins g d a b => ({ guard := g } : Shape).src a |>.src b |>.dst d
  | .minz g d a b => ({ guard := g } : Shape).src a |>.src b |>.dst d
  | .maxs g d a b => ({ guard := g } : Shape).src a |>.src b |>.dst d
  | .maxz g d a b => ({ guard := g } : Shape).src a |>.src b |>.dst d
  | .addc g d a b p => ({ guard := g } : Shape).src a |>.src b |>.modPred p.toNat |>.dst d
  | .subb g d a b p => ({ guard := g } : Shape).src a |>.src b |>.modPred p.toNat |>.dst d
  | .mul g d a b => ({ guard := g, lat := 3 } : Shape).src a |>.src b |>.dst d
  | .mulhs g d a b => ({ guard := g, lat := 3 } : Shape).src a |>.src b |>.dst d
  | .mulhz g d a b => ({ guard := g, lat := 3 } : Shape).src a |>.src b |>.dst d
  | .mad g d a b => ({ guard := g, lat := 3 } : Shape).src d |>.src a |>.src b
  | .divs g d a b => ({ guard := g, lat := 18 } : Shape).src a |>.src b |>.dst d
  | .divz g d a b => ({ guard := g, lat := 18 } : Shape).src a |>.src b |>.dst d
  | .rems g d a b => ({ guard := g, lat := 18 } : Shape).src a |>.src b |>.dst d
  | .remz g d a b => ({ guard := g, lat := 18 } : Shape).src a |>.src b |>.dst d
  | .and g d a b => ({ guard := g } : Shape).src a |>.src b |>.dst d
  | .or g d a b => ({ guard := g } : Shape).src a |>.src b |>.dst d
  | .xor g d a b => ({ guard := g } : Shape).src a |>.src b |>.dst d
  | .andn g d a b => ({ guard := g } : Shape).src a |>.src b |>.dst d
  | .not g d a => ({ guard := g } : Shape).src a |>.dst d
  | .shl g d a b => ({ guard := g } : Shape).src a |>.src b |>.dst d
  | .shrz g d a b => ({ guard := g } : Shape).src a |>.src b |>.dst d
  | .shrs g d a b => ({ guard := g } : Shape).src a |>.src b |>.dst d
  | .rotl g d a b => ({ guard := g } : Shape).src a |>.src b |>.dst d
  | .clz g d a => ({ guard := g } : Shape).src a |>.dst d
  | .popc g d a => ({ guard := g } : Shape).src a |>.dst d
  | .brev g d a => ({ guard := g } : Shape).src a |>.dst d
  | .mov g d a => ({ guard := g } : Shape).src a |>.dst d
  | .movi g d _ => ({ guard := g } : Shape).dst d
  | .movhi g d _ => ({ guard := g } : Shape).dst d
  | .sext g d a b => ({ guard := g } : Shape).src a |>.src b |>.dst d
  | .zext g d a b => ({ guard := g } : Shape).src a |>.src b |>.dst d
  | .slext g d _ b => ({ guard := g } : Shape).src b |>.dst d
  | .slins g _ a b => ({ guard := g } : Shape).src a |>.src b
  | .pack g d a b => ({ guard := g } : Shape).src a |>.src b |>.dst d
  | .unpk g d a b => ({ guard := g } : Shape).src b |>.dst d |>.dst a
  | .swap g d a => ({ guard := g } : Shape).src d |>.src a
  | .slclr g _ a => ({ guard := g } : Shape).src a
  | .ceq g d a b => ({ guard := g } : Shape).src a |>.src b |>.dst d
  | .cne g d a b => ({ guard := g } : Shape).src a |>.src b |>.dst d
  | .clts g d a b => ({ guard := g } : Shape).src a |>.src b |>.dst d
  | .cltz g d a b => ({ guard := g } : Shape).src a |>.src b |>.dst d
  | .cles g d a b => ({ guard := g } : Shape).src a |>.src b |>.dst d
  | .clez g d a b => ({ guard := g } : Shape).src a |>.src b |>.dst d
  | .fceq g d a b => ({ guard := g, lat := 4 } : Shape).src a |>.src b |>.dst d
  | .fclt g d a b => ({ guard := g, lat := 4 } : Shape).src a |>.src b |>.dst d
  | .fcle g d a b => ({ guard := g, lat := 4 } : Shape).src a |>.src b |>.dst d
  | .fcun g d a b => ({ guard := g, lat := 4 } : Shape).src a |>.src b |>.dst d
  | .pmov g d a => ({ guard := g } : Shape).src a |>.dst d
  | .pand g d a b => ({ guard := g } : Shape).src a |>.src b |>.dst d
  | .por g d a b => ({ guard := g } : Shape).src a |>.src b |>.dst d
  | .pxor g d a b => ({ guard := g } : Shape).src a |>.src b |>.dst d
  | .pnot g d a => ({ guard := g } : Shape).src a |>.dst d
  | .selp g d a b p => ({ guard := g } : Shape).src a |>.src b |>.modPred p.toNat |>.dst d
  | .fadd g d a b _ => ({ guard := g, lat := 4 } : Shape).src a |>.src b |>.dst d
  | .fsub g d a b _ => ({ guard := g, lat := 4 } : Shape).src a |>.src b |>.dst d
  | .fmul g d a b _ => ({ guard := g, lat := 4 } : Shape).src a |>.src b |>.dst d
  | .fma g d a b _ => ({ guard := g, lat := 4 } : Shape).src d |>.src a |>.src b
  | .fnma g d a b _ => ({ guard := g, lat := 4 } : Shape).src d |>.src a |>.src b
  | .fmin g d a b => ({ guard := g, lat := 4 } : Shape).src a |>.src b |>.dst d
  | .fmax g d a b => ({ guard := g, lat := 4 } : Shape).src a |>.src b |>.dst d
  | .fabs g d a => ({ guard := g, lat := 4 } : Shape).src a |>.dst d
  | .fneg g d a => ({ guard := g, lat := 4 } : Shape).src a |>.dst d
  | .frcp g d a _ => ({ guard := g, lat := 8 } : Shape).src a |>.dst d
  | .frsq g d a _ => ({ guard := g, lat := 8 } : Shape).src a |>.dst d
  | .fexp2 g d a _ => ({ guard := g, lat := 8 } : Shape).src a |>.dst d
  | .flog2 g d a _ => ({ guard := g, lat := 8 } : Shape).src a |>.dst d
  | .fdiv g d a b _ => ({ guard := g, lat := 16 } : Shape).src a |>.src b |>.dst d
  | .fsqrt g d a _ => ({ guard := g, lat := 16 } : Shape).src a |>.dst d
  | .fscale g d a b _ => ({ guard := g, lat := 4 } : Shape).src a |>.src b |>.dst d
  | .fcvts g d a _ => ({ guard := g, lat := 4 } : Shape).src a |>.dst d
  | .fcvtz g d a _ => ({ guard := g, lat := 4 } : Shape).src a |>.dst d
  | .ftois g d a _ => ({ guard := g, lat := 4 } : Shape).src a |>.dst d
  | .ftoiz g d a _ => ({ guard := g, lat := 4 } : Shape).src a |>.dst d
  | .frnd g d a _ => ({ guard := g, lat := 4 } : Shape).src a |>.dst d
  | .fnorm g d a => ({ guard := g, lat := 4 } : Shape).src a |>.dst d
  | .fgete g d a => ({ guard := g, lat := 4 } : Shape).src a |>.dst d
  | .fgetm g d a => ({ guard := g, lat := 4 } : Shape).src a |>.dst d
  | .fsete g d a b _ => ({ guard := g, lat := 4 } : Shape).src a |>.src b |>.dst d
  | .ftol g d a _ => ({ guard := g, lat := 4 } : Shape).src a |>.dst d
  | .ltof g d a _ => ({ guard := g, lat := 4 } : Shape).src a |>.dst d
  | .f32w g d a => ({ guard := g, lat := 4 } : Shape).src a |>.dst d
  | .wf32 g d a _ => ({ guard := g, lat := 4 } : Shape).src a |>.dst d
  | .br g _ => ({ guard := g } : Shape)
  | .jmp g a => ({ guard := g } : Shape).src a
  | .jal g d _ => ({ guard := g } : Shape).dst d
  | .jalr g d a => ({ guard := g } : Shape).src a |>.dst d
  | .loop g d _ => ({ guard := g } : Shape).src d
  | .waitp g _ => ({ guard := g } : Shape)
  | .halt g => ({ guard := g } : Shape)
  | .nop g => ({ guard := g } : Shape)
  | .trap g _ b => ({ guard := g } : Shape).src b
  | .eret g => ({ guard := g, drain := true } : Shape)
  | .srd g d _ => ({ guard := g, lat := 2 } : Shape).dst d
  | .swr g _ a => ({ guard := g } : Shape).src a
  | .cfence g => ({ guard := g, drain := true } : Shape)
  | .wfe g d a b => ({ guard := g } : Shape).src a |>.src b |>.dst d
  | .bkpt g _ => ({ guard := g } : Shape)
  | .emit g d a b => ({ guard := g } : Shape).src a |>.srcOpt b |>.dst d
  | .deq g a => ({ guard := g } : Shape).src a
  | .peekk g d a => ({ guard := g } : Shape).look a |>.dst d
  | .ctok g d a b => ({ guard := g } : Shape).src a |>.srcOpt b |>.dst d
  | .pass g d a => ({ guard := g } : Shape).src a |>.passOn a |>.dst d
  | .retire g _ => ({ guard := g } : Shape)
  | .exit g a b nv => ({ guard := g } : Shape).src a |>.exitVals b nv
  | .eow g d a => ({ guard := g, threadless := true } : Shape).src a |>.dstOpt d
  | .tidx g d a b => ({ guard := g } : Shape).src a |>.src b |>.dst d
  | .idle g a => ({ guard := g } : Shape).src a
  | .vadd g d a b _ => ({ guard := g } : Shape).src a |>.src b |>.dst d
  | .vsub g d a b _ => ({ guard := g } : Shape).src a |>.src b |>.dst d
  | .vadds g d a b _ => ({ guard := g } : Shape).src a |>.src b |>.dst d
  | .vmin g d a b _ => ({ guard := g } : Shape).src a |>.src b |>.dst d
  | .vmax g d a b _ => ({ guard := g } : Shape).src a |>.src b |>.dst d
  | .vaddmin g d a b _ => ({ guard := g, lat := 2 } : Shape).src d |>.src a |>.src b
  | .vaddmax g d a b _ => ({ guard := g, lat := 2 } : Shape).src d |>.src a |>.src b
  | .vmul g d a b _ => ({ guard := g, lat := 3 } : Shape).src a |>.src b |>.dst d
  | .vsel g d a b _ => ({ guard := g } : Shape).src d |>.src a |>.src b
  | .lshl g d a b _ => ({ guard := g } : Shape).src a |>.src b |>.dst d
  | .lshr g d a b _ => ({ guard := g } : Shape).src a |>.src b |>.dst d
  | .vred g d a b _ => ({ guard := g, lat := 3 } : Shape).src a |>.src b |>.dst d
  | .vscan g d a b _ => ({ guard := g, lat := 3 } : Shape).src a |>.src b |>.dst d
  | .vbcast g d a b _ => ({ guard := g } : Shape).src a |>.src b |>.dst d
  | .vcmp g d a b _ => ({ guard := g } : Shape).src a |>.src b |>.dst d
  | .vdot g d a b _ => ({ guard := g, lat := 4 } : Shape).src d |>.src a |>.src b
  | .mzero g a => ({ guard := g } : Shape).src a
  | .mmac g src b => ({ guard := g, lat := 4, heavy := true } : Shape).mmac src |>.cap b
  | .mmac8 g src b => ({ guard := g, lat := 4, heavy := true } : Shape).mmac src |>.cap b
  | .mmac12 g src b => ({ guard := g, lat := 4, heavy := true } : Shape).mmac src |>.cap b
  | .mmacw g _ => ({ guard := g, lat := 4, heavy := true } : Shape)
  | .mdown g _ => ({ guard := g, lat := 6, heavy := true } : Shape)
  | .mread g d _ b _ => ({ guard := g, lat := 4 } : Shape).src b |>.dst d
  | .mnorm g a => ({ guard := g, lat := 2 } : Shape).srcOpt a
  | .mxget g d _ => ({ guard := g } : Shape).dst d
  | .mtask g d a b _ => ({ guard := g } : Shape).src a |>.src b |>.dstOpt d
  | .mpois g a _ => ({ guard := g } : Shape).src a
  | .ld g d a b _ => if Wf.capOk a && !Wf.isPortOut d && !Wf.isNone d then ({ guard := g, lat := 6 } : Shape).cap a |>.src b else ({ guard := g } : Shape).src a |>.dstNone d
  | .st g d a b _ => if Wf.capOk a && !Wf.isPortOut d && !Wf.isNone d then ({ guard := g } : Shape).cap a |>.src b |>.src d else ({ guard := g } : Shape).srcNone a |>.src b |>.dstNone d
  | .ldf g d a b _ => if Wf.capOk a && !Wf.isPortOut d && !Wf.isNone d then ({ guard := g, lat := 8 } : Shape).cap a |>.src b else ({ guard := g } : Shape).src a |>.dstNone d
  | .stf g d a b _ => if Wf.capOk a && !Wf.isPortOut d && !Wf.isNone d then ({ guard := g } : Shape).cap a |>.src b |>.src d else ({ guard := g } : Shape).srcNone a |>.src b |>.dstNone d
  | .aadd g d a b _ => if Wf.capOk a && !Wf.isPortOut d && !Wf.isNone d then ({ guard := g, lat := 8 } : Shape).cap a |>.src b |>.src d else ({ guard := g } : Shape).src a |>.src b |>.dstNone d
  | .amin g d a b _ => if Wf.capOk a && !Wf.isPortOut d && !Wf.isNone d then ({ guard := g, lat := 8 } : Shape).cap a |>.src b |>.src d else ({ guard := g } : Shape).src a |>.src b |>.dstNone d
  | .amax g d a b _ => if Wf.capOk a && !Wf.isPortOut d && !Wf.isNone d then ({ guard := g, lat := 8 } : Shape).cap a |>.src b |>.src d else ({ guard := g } : Shape).src a |>.src b |>.dstNone d
  | .aand g d a b _ => if Wf.capOk a && !Wf.isPortOut d && !Wf.isNone d then ({ guard := g, lat := 8 } : Shape).cap a |>.src b |>.src d else ({ guard := g } : Shape).src a |>.src b |>.dstNone d
  | .aor g d a b _ => if Wf.capOk a && !Wf.isPortOut d && !Wf.isNone d then ({ guard := g, lat := 8 } : Shape).cap a |>.src b |>.src d else ({ guard := g } : Shape).src a |>.src b |>.dstNone d
  | .axor g d a b _ => if Wf.capOk a && !Wf.isPortOut d && !Wf.isNone d then ({ guard := g, lat := 8 } : Shape).cap a |>.src b |>.src d else ({ guard := g } : Shape).src a |>.src b |>.dstNone d
  | .axchg g d a b _ => if Wf.capOk a && !Wf.isPortOut d && !Wf.isNone d then ({ guard := g, lat := 8 } : Shape).cap a |>.src b |>.src d else ({ guard := g } : Shape).src a |>.src b |>.dstNone d
  | .acas g d a b _ => if Wf.capOk a && !Wf.isPortOut d && !Wf.isNone d then ({ guard := g, lat := 8 } : Shape).cap a |>.src b |>.src d else ({ guard := g } : Shape).src a |>.src b |>.dstNone d
  | .afadd g d a b _ => if Wf.capOk a && !Wf.isPortOut d && !Wf.isNone d then ({ guard := g, lat := 8 } : Shape).cap a |>.src b |>.src d else ({ guard := g } : Shape).src a |>.src b |>.dstNone d
  | .fence g d _ => ({ guard := g } : Shape).dstOpt d
  | .join g d a b => ({ guard := g } : Shape).src a |>.src b |>.dst d
  | .fork g d a => ({ guard := g } : Shape).look a |>.dst d
  | .csetb g _ a b => ({ guard := g } : Shape).cap a |>.src b
  | .candp g _ a b => ({ guard := g } : Shape).cap a |>.src b
  | .cgetb g d a => ({ guard := g } : Shape).cap a |>.dst d
  | .cgetl g d a => ({ guard := g } : Shape).cap a |>.dst d
  | .cgetp g d a => ({ guard := g } : Shape).cap a |>.dst d
  | .ctest g d a b => ({ guard := g } : Shape).cap a |>.src b |>.dst d
  | .cmov g _ a => ({ guard := g } : Shape).cap a
  | .cldc g _ a b => ({ guard := g, lat := 6 } : Shape).cap a |>.src b
  | .cstc g d a b => ({ guard := g } : Shape).cap d |>.cap a |>.src b
  | .cclr g _ a => ({ guard := g } : Shape).cap a
  | .csub g _ a b => ({ guard := g } : Shape).cap a |>.src b
  | .dma g _ a b _ => ({ guard := g } : Shape).cap a |>.src b
  | .dmas g _ a b _ => ({ guard := g } : Shape).cap a |>.src b
  | .gath g _ a b _ => ({ guard := g } : Shape).cap a |>.src b
  | .scat g _ a b _ => ({ guard := g } : Shape).cap a |>.src b
  | .stage g _ a b _ => ({ guard := g } : Shape).cap a |>.src b
  | .coll g _ a b _ => ({ guard := g } : Shape).cap a |>.src b
  | .msg g _ a b _ => ({ guard := g } : Shape).cap a |>.src b
  | .mrecv g _ a b _ => ({ guard := g } : Shape).cap a |>.src b
  | .bankt g a b => ({ guard := g } : Shape).src a |>.src b
  | .launch g _ a b _ => ({ guard := g } : Shape).cap a |>.src b
  | .gbar g _ => ({ guard := g } : Shape)
  | .epoll g d _ => ({ guard := g } : Shape).dst d
  | .ecancel g _ => ({ guard := g } : Shape)
  | .qwait g _ a b => ({ guard := g } : Shape).src a |>.src b
  | .lease g _ a b => ({ guard := g, drain := true } : Shape).src a |>.src b
  | .lrel g => ({ guard := g, drain := true } : Shape)
  | .pwrq g d a b => ({ guard := g, lat := 32, drain := true } : Shape).src a |>.src b |>.dst d
  | .tstamp g d => ({ guard := g, lat := 2, drain := true } : Shape).dst d
  | .mark g a b => ({ guard := g, drain := true } : Shape).src a |>.src b
  | .dstop g _ a => ({ guard := g, drain := true } : Shape).src a
  | .scant g _ a => ({ guard := g, drain := true } : Shape).src a
  | .scanq g d a => ({ guard := g, lat := 32, drain := true } : Shape).src a |>.dst d
  | .lcmap g _ a b => ({ guard := g, drain := true } : Shape).src a |>.src b
  | _ => { guard := 0 }

/-- R222: the scale operand srcA of the MMAC family; nothing where A is in the store. -/
def MmacSrc.scales : MmacSrc → Option Operand
  | .bus o => some o
  | .store _ => none

/-- The destination and source operands of an instruction, for the last-arrival classes of spec/23 R403. -/
def Instr.fields : Instr → Option Operand × Option Operand × Option Operand
  | .add _ d a b => (some d, some a, some b)
  | .sub _ d a b => (some d, some a, some b)
  | .adds _ d a b => (some d, some a, some b)
  | .subs _ d a b => (some d, some a, some b)
  | .addz _ d a b => (some d, some a, some b)
  | .subz _ d a b => (some d, some a, some b)
  | .neg _ d a => (some d, some a, none)
  | .abs _ d a => (some d, some a, none)
  | .mins _ d a b => (some d, some a, some b)
  | .minz _ d a b => (some d, some a, some b)
  | .maxs _ d a b => (some d, some a, some b)
  | .maxz _ d a b => (some d, some a, some b)
  | .addc _ d a b _ => (some d, some a, some b)
  | .subb _ d a b _ => (some d, some a, some b)
  | .mul _ d a b => (some d, some a, some b)
  | .mulhs _ d a b => (some d, some a, some b)
  | .mulhz _ d a b => (some d, some a, some b)
  | .mad _ d a b => (some d, some a, some b)
  | .divs _ d a b => (some d, some a, some b)
  | .divz _ d a b => (some d, some a, some b)
  | .rems _ d a b => (some d, some a, some b)
  | .remz _ d a b => (some d, some a, some b)
  | .and _ d a b => (some d, some a, some b)
  | .or _ d a b => (some d, some a, some b)
  | .xor _ d a b => (some d, some a, some b)
  | .andn _ d a b => (some d, some a, some b)
  | .not _ d a => (some d, some a, none)
  | .shl _ d a b => (some d, some a, some b)
  | .shrz _ d a b => (some d, some a, some b)
  | .shrs _ d a b => (some d, some a, some b)
  | .rotl _ d a b => (some d, some a, some b)
  | .clz _ d a => (some d, some a, none)
  | .popc _ d a => (some d, some a, none)
  | .brev _ d a => (some d, some a, none)
  | .mov _ d a => (some d, some a, none)
  | .movi _ d _ => (some d, none, none)
  | .movhi _ d _ => (some d, none, none)
  | .sext _ d a b => (some d, some a, some b)
  | .zext _ d a b => (some d, some a, some b)
  | .slext _ d a b => (some d, some a, some b)
  | .slins _ d a b => (some d, some a, some b)
  | .pack _ d a b => (some d, some a, some b)
  | .unpk _ d a b => (some d, some a, some b)
  | .swap _ d a => (some d, some a, none)
  | .slclr _ d a => (some d, some a, none)
  | .ceq _ d a b => (some d, some a, some b)
  | .cne _ d a b => (some d, some a, some b)
  | .clts _ d a b => (some d, some a, some b)
  | .cltz _ d a b => (some d, some a, some b)
  | .cles _ d a b => (some d, some a, some b)
  | .clez _ d a b => (some d, some a, some b)
  | .fceq _ d a b => (some d, some a, some b)
  | .fclt _ d a b => (some d, some a, some b)
  | .fcle _ d a b => (some d, some a, some b)
  | .fcun _ d a b => (some d, some a, some b)
  | .pmov _ d a => (some d, some a, none)
  | .pand _ d a b => (some d, some a, some b)
  | .por _ d a b => (some d, some a, some b)
  | .pxor _ d a b => (some d, some a, some b)
  | .pnot _ d a => (some d, some a, none)
  | .selp _ d a b _ => (some d, some a, some b)
  | .fadd _ d a b _ => (some d, some a, some b)
  | .fsub _ d a b _ => (some d, some a, some b)
  | .fmul _ d a b _ => (some d, some a, some b)
  | .fma _ d a b _ => (some d, some a, some b)
  | .fnma _ d a b _ => (some d, some a, some b)
  | .fmin _ d a b => (some d, some a, some b)
  | .fmax _ d a b => (some d, some a, some b)
  | .fabs _ d a => (some d, some a, none)
  | .fneg _ d a => (some d, some a, none)
  | .frcp _ d a _ => (some d, some a, none)
  | .frsq _ d a _ => (some d, some a, none)
  | .fexp2 _ d a _ => (some d, some a, none)
  | .flog2 _ d a _ => (some d, some a, none)
  | .fdiv _ d a b _ => (some d, some a, some b)
  | .fsqrt _ d a _ => (some d, some a, none)
  | .fscale _ d a b _ => (some d, some a, some b)
  | .fcvts _ d a _ => (some d, some a, none)
  | .fcvtz _ d a _ => (some d, some a, none)
  | .ftois _ d a _ => (some d, some a, none)
  | .ftoiz _ d a _ => (some d, some a, none)
  | .frnd _ d a _ => (some d, some a, none)
  | .fnorm _ d a => (some d, some a, none)
  | .fgete _ d a => (some d, some a, none)
  | .fgetm _ d a => (some d, some a, none)
  | .fsete _ d a b _ => (some d, some a, some b)
  | .ftol _ d a _ => (some d, some a, none)
  | .ltof _ d a _ => (some d, some a, none)
  | .f32w _ d a => (some d, some a, none)
  | .wf32 _ d a _ => (some d, some a, none)
  | .jmp _ a => (none, some a, none)
  | .jal _ d _ => (some d, none, none)
  | .jalr _ d a => (some d, some a, none)
  | .loop _ d a => (some d, some a, none)
  | .waitp _ a => (none, some a, none)
  | .trap _ a b => (none, some a, some b)
  | .srd _ d a => (some d, some a, none)
  | .swr _ d a => (some d, some a, none)
  | .wfe _ d a b => (some d, some a, some b)
  | .bkpt _ a => (none, some a, none)
  | .emit _ d a b => (some d, some a, b)
  | .deq _ a => (none, some a, none)
  | .peekk _ d a => (some d, some a, none)
  | .ctok _ d a b => (some d, some a, b)
  | .pass _ d a => (some d, some a, none)
  | .exit _ a b _ => (none, some a, b)
  | .eow _ d a => (d, some a, none)
  | .tidx _ d a b => (some d, some a, some b)
  | .idle _ a => (none, some a, none)
  | .vadd _ d a b _ => (some d, some a, some b)
  | .vsub _ d a b _ => (some d, some a, some b)
  | .vadds _ d a b _ => (some d, some a, some b)
  | .vmin _ d a b _ => (some d, some a, some b)
  | .vmax _ d a b _ => (some d, some a, some b)
  | .vaddmin _ d a b _ => (some d, some a, some b)
  | .vaddmax _ d a b _ => (some d, some a, some b)
  | .vmul _ d a b _ => (some d, some a, some b)
  | .vsel _ d a b _ => (some d, some a, some b)
  | .lshl _ d a b _ => (some d, some a, some b)
  | .lshr _ d a b _ => (some d, some a, some b)
  | .vred _ d a b _ => (some d, some a, some b)
  | .vscan _ d a b _ => (some d, some a, some b)
  | .vbcast _ d a b _ => (some d, some a, some b)
  | .vcmp _ d a b _ => (some d, some a, some b)
  | .vdot _ d a b _ => (some d, some a, some b)
  | .mzero _ a => (none, some a, none)
  | .mmac _ a b => (none, a.scales, some b)
  | .mmac8 _ a b => (none, a.scales, some b)
  | .mmac12 _ a b => (none, a.scales, some b)
  | .mread _ d a b _ => (some d, some a, some b)
  | .mnorm _ a => (none, a, none)
  | .mxget _ d a => (some d, some a, none)
  | .mtask _ d a b _ => (d, some a, some b)
  | .mpois _ a _ => (none, some a, none)
  | .ld _ d a b _ => (some d, some a, some b)
  | .st _ d a b _ => (some d, some a, some b)
  | .ldf _ d a b _ => (some d, some a, some b)
  | .stf _ d a b _ => (some d, some a, some b)
  | .aadd _ d a b _ => (some d, some a, some b)
  | .amin _ d a b _ => (some d, some a, some b)
  | .amax _ d a b _ => (some d, some a, some b)
  | .aand _ d a b _ => (some d, some a, some b)
  | .aor _ d a b _ => (some d, some a, some b)
  | .axor _ d a b _ => (some d, some a, some b)
  | .axchg _ d a b _ => (some d, some a, some b)
  | .acas _ d a b _ => (some d, some a, some b)
  | .afadd _ d a b _ => (some d, some a, some b)
  | .fence _ d a => (d, some a, none)
  | .join _ d a b => (some d, some a, some b)
  | .fork _ d a => (some d, some a, none)
  | .csetb _ d a b => (some d, some a, some b)
  | .candp _ d a b => (some d, some a, some b)
  | .cgetb _ d a => (some d, some a, none)
  | .cgetl _ d a => (some d, some a, none)
  | .cgetp _ d a => (some d, some a, none)
  | .ctest _ d a b => (some d, some a, some b)
  | .cmov _ d a => (some d, some a, none)
  | .cldc _ d a b => (some d, some a, some b)
  | .cstc _ d a b => (some d, some a, some b)
  | .cclr _ d a => (some d, some a, none)
  | .csub _ d a b => (some d, some a, some b)
  | .dma _ d a b _ => (some d, some a, some b)
  | .dmas _ d a b _ => (some d, some a, some b)
  | .gath _ d a b _ => (some d, some a, some b)
  | .scat _ d a b _ => (some d, some a, some b)
  | .stage _ d a b _ => (some d, some a, some b)
  | .coll _ d a b _ => (some d, some a, some b)
  | .msg _ d a b _ => (some d, some a, some b)
  | .mrecv _ d a b _ => (some d, some a, some b)
  | .bankt _ a b => (none, some a, some b)
  | .launch _ d a b _ => (some d, some a, some b)
  | .gbar _ a => (none, some a, none)
  | .epoll _ d a => (some d, some a, none)
  | .ecancel _ a => (none, some a, none)
  | .qwait _ d a b => (some d, some a, some b)
  | .lease _ d a b => (some d, some a, some b)
  | .pwrq _ d a b => (some d, some a, some b)
  | .tstamp _ d => (some d, none, none)
  | .mark _ a b => (none, some a, some b)
  | .dstop _ d a => (some d, some a, none)
  | .scant _ d a => (some d, some a, none)
  | .scanq _ d a => (some d, some a, none)
  | .lcmap _ d a b => (some d, some a, some b)
  | _ => (none, none, none)

/-- R199, R223: how many slices a slice operand names as srcA and as srcB where that is not its own count: a scale operand 32, the values of EXIT 16 each.
DEDUCED: notes/assumptions/25.md. -/
def Instr.spans : Instr → Option Nat × Option Nat
  | .mmac _ _ _ => (some 32, some 32)
  | .mmac8 _ _ _ => (some 32, some 32)
  | .mmac12 _ _ _ => (some 32, some 32)
  | .exit _ _ _ nv => (none, some (16 * nv.toNat))
  | _ => (none, none)

end Sys2Proof
end

