-- ==== Sys2Proof/Machine/Run.lean ====
section
/-! DEFINITION. How an instruction acts: the issue rule of the control core (spec/01 R13 to R15, R18; spec/02 R49) and the firing rule of
an element (spec/06 R134 to R146), as ONE operation `run` that every meaning goes through. -/
namespace Sys2Proof.Machine

/-! ### Links -/

/-- Tokens that have left latch `i` in this cycle. -/
def Link.left (l : Link) (i now : Nat) : Nat :=
  match l.freed.get? i with
  | some (t, n) => if t = now then n else 0
  | none => 0

/-- Tokens of a latch, with the places that tokens left in this cycle (R138: such a place counts from the next edge). -/
def Link.held (l : Link) (i now : Nat) : Nat := (l.stage i).length + l.left i now

/-- A place of latch `i` is freed in this cycle. -/
def Link.free (l : Link) (i now : Nat) : Link := { l with freed := l.freed.set i (now, l.left i now + 1) }

/-- R403: a token that comes to the head of a latch arrives there. -/
def atHead (now : Nat) : List Token → List Token
  | t :: r => { t with arrived := max t.arrived now } :: r
  | [] => []

/-- The head leaves, and the token behind it comes to the head. -/
def Link.pop (l : Link) (now : Nat) : Link :=
  match l.stages with
  | (_ :: r) :: rest => ({ l with stages := atHead now r :: rest } : Link).free 0 now
  | _ => l

/-- Stages extended to at least `n`. -/
def padStages : List (List Token) → Nat → List (List Token)
  | [], 0 => []
  | [], n + 1 => [] :: padStages [] n
  | x :: r, 0 => x :: r
  | x :: r, n + 1 => x :: padStages r n

/-- A token enters latch `i` (R135). -/
def Link.push (l : Link) (i : Nat) (t : Token) : Link :=
  { l with stages := modAt (padStages l.stages (i + 1)) i fun q => q ++ [t] }

/-- A route field (spec/07 R156). -/
structure Route where
  en : Bool
  next : Bool
  col : Nat
  port : Nat
deriving DecidableEq, Repr

def routeOf (w : BitVec 16) : Route :=
  { en := w.getLsbD 15, next := w.getLsbD 14, col := bits w.toNat 13 10, port := bits w.toNat 9 7 }

/-- Where a send of element `e` goes: into latch `hop` of a link, into the region's wrap buffer, or nowhere (no route). -/
inductive Target where
  | none
  | link (elem port hop : Nat)
  | wrap (col port : Nat)
deriving DecidableEq, Repr

/-- R166: the pick after pick `j` stands in the next row and takes part. -/
def Region.nextResident (r : Region) (row : Nat) : Bool :=
  let n := r.row ((row + 1) % r.height)
  (n.st == .active || n.st == .passed) && n.pick == (r.row row).pick + 1

/-- The number of picks of the block in progress. -/
def Region.npick (r : Region) : Nat :=
  match r.cur with
  | some b => (match r.blocks[b]? with
    | some k => k.npick
    | none => 0)
  | none => 0

/-- R166: sends to the next stripe stay in the ring: a resident block uses no wrap buffer, and the last pick has no pick after it. -/
def Region.direct (r : Region) (row : Nat) : Bool :=
  r.npick ≤ r.height || r.npick ≤ (r.row row).pick + 1 || r.nextResident row

/-- R136, R166: the target of a route. -/
def Core.target (c : Core) (r : Region) (e : Nat) (w : BitVec 16) : Target :=
  let t := routeOf w
  if !t.en then .none
  else if !t.next then
    let d := r.elemAt (r.rowOf e) t.col
    .link d t.port (c.hops e d false - 1)
  else if r.direct (r.rowOf e) then
    let d := r.elemAt (r.rowOf e + 1) t.col
    .link d t.port (c.hops e d true - 1)
  else .wrap t.col t.port

/-- The in-flight outputs of an element. -/
def Elem.flightOuts (x : Elem) : List Out := x.ctxs.flatMap fun p => p.2.regs.flights.flatMap fun f => f.outs

def Out.isTok (ch : Nat) : Out → Bool
  | .token o _ _ _ w => o == ch && !w
  | _ => false
def Out.isCtok (p : Nat) : Out → Bool
  | .ctok o _ _ w => o == p && !w
  | _ => false
def Out.isPass (q : Nat) : Out → Bool
  | .pass o _ _ w => o == q && !w
  | _ => false
def Out.isWrap : Out → Bool
  | .token _ _ _ _ w => w
  | .ctok _ _ _ w => w
  | .pass _ _ _ w => w
  | _ => false

/-- R166: the wrap entries that in-flight instructions of a region hold reserved. -/
def Core.wrapReserved (c : Core) (r : Region) : Nat :=
  (c.elems.flatMap fun p => if r.holds p.1 then p.2.flightOuts.filter Out.isWrap else []).length

/-- R166: the wrap buffer has `n` entries free. -/
def Core.wrapFits (c : Core) (r : Region) (n : Nat) : Bool := r.wrap.length + c.wrapReserved r + n ≤ r.wrapCap

/-- R166: undelivered entries of the pick in a row hold its new next-stripe sends back. -/
def Core.wrapClear (c : Core) (r : Region) (row : Nat) : Bool :=
  r.wrap.all (fun w => w.pick != (r.row row).pick) &&
    (c.elems.all fun p => !(r.holds p.1 && r.rowOf p.1 == row) || !(p.2.flightOuts.any Out.isWrap))

/-- R138, R140: an output has space in its link, if it goes to one. DEDUCED: notes/assumptions/16.md. -/
def Core.room (c : Core) (r : Region) (e : Nat) (now : Nat) (t : Target) (lk : Nat → Nat → Link) (next : Bool) (resv : Nat) : Bool :=
  match t with
  | .none => false
  | .link d p hop => (lk d p).held hop now + resv < 2 && (!next || c.wrapClear r (r.rowOf e))
  | .wrap .. => true

/-- R138: an output channel has space in its link. -/
def Core.chanRoom (c : Core) (now e ch : Nat) : Bool :=
  match c.regionOf e with
  | none => false
  | some (_, r) =>
    let w := (c.elem e).oroute.getD ch 0
    c.room r e now (c.target r e w) (fun d p => c.link (d * 8 + p)) (routeOf w).next
      (((c.elem e).flightOuts.filter (Out.isTok ch)).length)

/-- R140: an out port has space in its link. -/
def Core.portRoom (c : Core) (now e p : Nat) : Bool :=
  match c.regionOf e with
  | none => false
  | some (_, r) =>
    let w := (c.elem e).kroute.getD p 0
    c.room r e now (c.target r e w) (fun d q => c.klink (d * 4 + q % 4)) (routeOf w).next
      (((c.elem e).flightOuts.filter (Out.isCtok p)).length)

/-- R139: an out pass register is empty, where its value goes to a link. -/
def Core.passRoom (c : Core) (now e q : Nat) : Bool :=
  match c.regionOf e with
  | none => false
  | some (_, r) =>
    if r.direct (r.rowOf e) then
      let l := c.plink (r.elemAt (r.rowOf e + 1) (r.colOf e) * 4 + q)
      l.val.isNone && !(l.freedAt == now && l.freed) && c.wrapClear r (r.rowOf e)
        && ((c.elem e).flightOuts.filter (Out.isPass q)).isEmpty
    else true

/-- R166: a route that leads to the wrap buffer from the row of element `e`. -/
def Region.away (r : Region) (e : Nat) (w : BitVec 16) : Bool := (routeOf w).en && (routeOf w).next && !r.direct (r.rowOf e)

/-- R166, R413: the entries of the wrap buffer that a firing of this shape reserves. -/
def State.wrapNeed (s : State) (k e : Nat) (h : Shape) : Nat :=
  match (s.core k).regionOf e with
  | none => 0
  | some (_, r) =>
    let x := s.elem k e
    (h.outs.filter fun ch => r.away e (x.oroute.getD ch 0)).length + (h.outPorts.filter fun p => r.away e (x.kroute.getD p 0)).length
      + (h.outPasses.filter fun q => !r.direct (r.rowOf e) && (s.edgeFrom k e q).isNone).length

/-- R166: the wrap buffer has room for what a firing of this shape sends to it. -/
def State.wrapReady (s : State) (k e : Nat) (h : Shape) : Bool :=
  s.wrapNeed k e h == 0 || match (s.core k).regionOf e with
    | none => true
    | some (_, r) => (s.core k).wrapFits r (s.wrapNeed k e h)

/-- R166: the wrap buffer of an element's region is full. -/
def Core.wrapFull (c : Core) (e : Nat) : Bool :=
  match c.regionOf e with
  | none => false
  | some (_, r) => !c.wrapFits r 1

/-- R166: the row that is to receive the next pick is Active or Passed, so nothing can free the buffer. DEDUCED: notes/assumptions/54.md. -/
def Core.wrapStuck (c : Core) (e : Nat) : Bool :=
  match c.regionOf e with
  | none => false
  | some (_, r) =>
    let n := r.row ((r.rowOf e + 1) % r.height)
    n.st == .active || n.st == .passed

/-! ### The guard of an element -/

/-- R45: the predicates that a guard tests. -/
def guardPreds (g : BitVec 16) : BitVec 8 :=
  BitVec.ofNat 8 (b2n (bits g.toNat 9 8 != 0) + 2 * b2n (bits g.toNat 11 10 != 0) + 4 * b2n (bits g.toNat 13 12 != 0)
    + 8 * b2n (bits g.toNat 15 14 != 0))

/-- R47: one predicate test, for a resolved predicate. -/
def predTest (t : Nat) (v : Bool) : Bool :=
  match t with
  | 1 => v
  | 2 => !v
  | _ => true

/-- R45: fields of an element guard. -/
def guardCE (g : BitVec 16) : Bool := g.getLsbD 7
def guardCH (g : BitVec 16) : Nat := bits g.toNat 6 4
def guardKE (g : BitVec 16) : Bool := g.getLsbD 3
def guardKind (g : BitVec 16) : Nat := bits g.toNat 2 1
def guardCP (g : BitVec 16) : Bool := g.getLsbD 0
def guardPort (g : BitVec 16) : Nat := bits g.toNat 6 5
def guardPortVal (g : BitVec 16) : Bool := g.getLsbD 4

/-- R47: the guard holds over resolved predicates and heads. -/
def State.guardHolds (s : State) (k e c : Nat) (g : BitVec 16) : Bool :=
  let r := (s.ctx k e c).regs
  guardPreds g &&& r.pendingPreds == 0
    && predTest (bits g.toNat 9 8) (r.preds.getLsbD 0) && predTest (bits g.toNat 11 10) (r.preds.getLsbD 1)
    && predTest (bits g.toNat 13 12) (r.preds.getLsbD 2) && predTest (bits g.toNat 15 14) (r.preds.getLsbD 3)
    && (!guardCE g || (match s.chanHead k e c (guardCH g) with
        | some t => !guardKE g || t.kind == guardKind g
        | none => false))
    && (!guardCP g || (match s.portHead k e c (guardPort g) with
        | some t => (t.payload.toNat % 2 == 1) == guardPortVal g
        | none => false))

/-- R134: the guard is a thread-entry guard. -/
def threadGuard (g : BitVec 16) : Bool := guardCE g && guardKE g && guardKind g == 2

/-! ### Firing -/

/-- R144, condition 5: a power token of the kind is left in the string's pool. -/
def Str.hasToken (x : Str) (heavy : Bool) : Bool := if heavy then 0 < x.heavy else 0 < x.light

/-- R145: a firing takes its power token. -/
def Str.takeToken (x : Str) (heavy : Bool) (now : Nat) : Str :=
  if heavy then { x with heavy := x.heavy - 1, lastFire := now, measured := false }
  else { x with light := x.light - 1, lastFire := now, measured := false }

/-- R144, conditions 1, 2 and 3: a thread, the guard, and every source. -/
def State.sourcesReady (s : State) (k e c : Nat) (h : Shape) : Bool :=
  let x := s.ctx k e c
  (if h.threadless then x.thread.isNone else x.thread.isSome || threadGuard h.guard)
    && !(x.regs.flights.any fun f => f.hold)
    && s.guardHolds k e c h.guard
    && h.rd &&& x.regs.pending == 0 && h.rdP &&& x.regs.pendingPreds == 0
    && h.chans.all (fun p => (s.chanHead k e c p.1).isSome)
    && h.ports.all (fun p => (s.portHead k e c p).isSome)
    && h.peeks.all (fun p => (s.portHead k e c p).isSome)
    && h.passes.all (fun q => (s.passHead k e c q).isSome)

/-- R413: the pick to which a pass-register value of a row goes: the next one, or for the last the one that stands in the next row, if any does. -/
def Region.passTo (r : Region) (row : Nat) : Option Nat :=
  let next := r.row ((row + 1) % r.height)
  if (r.row row).pick + 1 < r.npick then some ((r.row row).pick + 1) else if next.st == .empty then none else some next.pick

/-- R139, R413: a long edge that starts at the register takes 16 values, a place that a read frees counting from the next cycle; a register that feeds one where a long edge ends never has space. -/
def State.edgeRoom (s : State) (k e q : Nat) (room : Bool) : Bool :=
  match s.edgeFrom k e q with
  | some (_, _, g) => g.queue.length + g.onWay + g.freeing s.cycle + (((s.elem k e).flightOuts.filter (Out.isPass q)).length) < 16
  | none =>
    match (s.core k).regionOf e with
    | some (_, r) => room && ((r.passTo (r.rowOf e)).bind fun j => s.edgeAt r j (r.colOf e) q).isNone
    | none => room

/-- R144, condition 4, but for the wrap buffer: every output has space in its link. -/
def State.linksReady (s : State) (k e : Nat) (h : Shape) : Bool :=
  let c := s.core k
  h.outs.all (fun ch => c.chanRoom s.cycle e ch) && h.outPorts.all (fun p => c.portRoom s.cycle e p)
    && h.outPasses.all (fun q => s.edgeRoom k e q (c.passRoom s.cycle e q))

/-- R144, condition 4: every output has space. -/
def State.outputsReady (s : State) (k e : Nat) (h : Shape) : Bool := s.linksReady k e h && s.wrapReady k e h

/-- R144, condition 5. -/
def State.powerReady (s : State) (k e : Nat) (h : Shape) : Bool := ((s.core k).str (strOf e)).hasToken h.heavy

/-- R144: an instruction of this shape is eligible, but for conditions of its own. -/
def State.eligible (s : State) (k e c : Nat) (h : Shape) : Bool :=
  s.sourcesReady k e c h && s.outputsReady k e h && s.powerReady k e h

/-- R134, R132, R71, R402: the context begins a thread. -/
def Ctx.begin (x : Ctx) (t : BitVec 32) (now : Nat) : Ctx :=
  { x with thread := some t, rsr := 0, seq := 0, threadAt := now, steps := 0, reqs := [0, 0], regs := { x.regs with fflags := 0 } }

/-- R134: a firing on a thread-entry guard begins the thread before any of its effects. DESIGN CHOICE: notes/assumptions/66.md. -/
def State.beginThread (s : State) (k e c : Nat) (g : BitVec 16) : State :=
  if (s.ctx k e c).thread.isNone && threadGuard g then
    match s.chanHead k e c (guardCH g) with
    | some t => s.modCtx k e c fun x => x.begin (t.payload.setWidth 32) s.cycle
    | none => s
  else s

/-- R44, R145: the head of an input channel is dequeued. -/
def State.popChan (s : State) (k e ch : Nat) : State :=
  s.modCore k fun c => { c with links := c.links.set (e * 8 + ch) ((c.link (e * 8 + ch)).pop s.cycle) }

/-- R141: the head control token is taken. -/
def State.popPort (s : State) (k e p : Nat) : State :=
  s.modCore k fun c => { c with klinks := c.klinks.set (e * 4 + p) ((c.klink (e * 4 + p)).pop s.cycle) }

/-- R413: the reservations of an edge: values that instructions of the source pick have still to write. -/
def State.edgeReserved (s : State) (l : Nat) (g : LEdge) : Nat :=
  match (s.launches.get? l).bind fun x => x.members[g.src]? with
  | none => 0
  | some m => match m.region.bind fun rn => s.region? m.core rn with
    | none => 0
    | some r => ((upFrom 0 r.height).filter fun i => r.cur == some g.blk && (r.row i).pick == g.spick && (r.row i).st != .empty).foldl (fun n i =>
        n + ((s.elem m.core (r.elemAt i g.scol)).flightOuts.filter (Out.isPass g.sq)).length) 0

/-- R403: the value that comes to the head of a receive queue could be read there from cycle `t` on. -/
def headFrom (t : Nat) : List (Nat × Nat) → List (Nat × Nat)
  | (a, o) :: r => (max a t, o) :: r
  | [] => []

/-- R139, R413: a pass-register link is emptied, or the head of a receive queue taken. -/
def State.popPass (s : State) (k e q : Nat) : State :=
  match s.edgeInto k e q with
  | some (l, i, _) => s.modEdge l i fun g =>
      { g with
        queue := g.queue.drop 1, noted := headFrom (s.cycle + 1) (g.noted.drop 1), readAt := s.cycle, reads := g.freeing s.cycle + 1
        roomAt := if 16 ≤ g.queue.length + g.onWay + s.edgeReserved l g then s.cycle else g.roomAt }
  | none => s.modCore k fun c => { c with plinks := c.plinks.set (e * 4 + q) { val := none, freedAt := s.cycle, freed := true } }

/-- The distinct numbers below `n` of a list. -/
def distinct (l : List Nat) (n : Nat) : List Nat := (upFrom 0 n).filter fun i => l.contains i

/-- R44, R139, R141, R145: the consumptions of a firing, each head once. -/
def State.consume (s : State) (k e : Nat) (h : Shape) : State :=
  let chans := distinct ((h.chans.filter fun p => !p.2).map fun p => p.1) 8
  let ports := distinct (h.ports ++ (if guardCP h.guard then [guardPort h.guard] else [])) 4
  let passes := distinct h.passes 4
  let s := chans.foldl (fun s ch => s.popChan k e ch) s
  let s := ports.foldl (fun s p => s.popPort k e p) s
  passes.foldl (fun s q => s.popPass k e q) s

/-- R166, R413: an output that is sent to the wrap buffer is marked so when it is reserved. -/
def State.markWrap (s : State) (k e : Nat) (o : Out) : Out :=
  match (s.core k).regionOf e with
  | none => o
  | some (_, r) =>
    match o with
    | .token ch kd cx p _ => .token ch kd cx p (r.away e ((s.elem k e).oroute.getD ch 0))
    | .ctok p v cx _ => .ctok p v cx (r.away e ((s.elem k e).kroute.getD p 0))
    | .pass q v cx _ => .pass q v cx (!r.direct (r.rowOf e) && (s.edgeFrom k e q).isNone)
    | o => o

/-- The in-flight form of an effect. -/
def Eff.flight (f : Eff) (id lat seq : Nat) (now : Nat := 0) : Flight :=
  { id := id, at_ := now, left := if f.async then none else some (lat + f.extra), own := f.own, data := f.data, cap := f.cap, pown := f.pown, pval := f.pval, flags := f.flags,
    sreg := f.sreg, outs := f.outs, hold := f.hold, fence := f.fence, seq := seq, token := f.token || f.async }

/-- An effect that leaves something to land at its write-back. -/
def Eff.lands (f : Eff) : Bool :=
  f.own != 0 || f.pown != 0 || f.flags != 0 || f.sreg.isSome || !f.outs.isEmpty || f.hold

/-! ### What a firing is noted for (spec/23 R402, R403, R407) -/

/-- The origin of a producer firing: 0 the controller, 1 a node. DEDUCED: notes/assumptions/25.md. -/
def originOf (row col ctx seq : Nat) : Nat := 2 + ((row * 16 + col) * 4 + ctx) * 2 ^ 32 + seq

/-- What a condition of a firing is noted with: the cycle in which it was met last, and the origin of the operand that met it, if it has one
(R403). -/
structure Met where
  at_ : Nat := 0
  origin : Option Nat := none
deriving DecidableEq, Repr

/-- The later of two; of two of one cycle the first. -/
def Met.later (a b : Met) : Met := if a.at_ < b.at_ then b else a

/-- A token's arrival. -/
def metBy (t : Option Token) (d : Nat) : Met :=
  match t with
  | some t => { at_ := t.arrived + d, origin := some t.origin }
  | none => {}

/-- The last of some slices and predicates of a context, by their numbers in `Ctx.written`. -/
def Ctx.metWrite (x : Ctx) (l : List Nat) : Met :=
  l.foldl (fun m i => match x.written.get? i with
    | some (t, o) => m.later { at_ := t, origin := some o }
    | none => m) {}

/-- Where and when a source arrived last: the cycle in which it could first be read and its origin. `span` is how many slices a slice operand names
where that is not its own count (R199, R223). DEDUCED: notes/assumptions/25.md. -/
def State.arrival (s : State) (k e c : Nat) (span : Option Nat) : Option Operand → Met
  | some (.slice p n) => (s.ctx k e c).metWrite (upFrom p.toNat (span.getD (n.toNat + 1)))
  | some (.pred p) => (s.ctx k e c).metWrite [128 + p.toNat]
  | some (.inChan ch _) => metBy (s.chanHead k e c ch.toNat) 1
  | some (.port p _) => metBy (s.portHead k e c p.toNat) 1
  | some (.pass q _) => metBy (s.passHead k e c q.toNat) (if (s.edgeInto k e q.toNat).isSome then 1 else 2)
  | _ => {}

/-- R403, class 0: the guard's predicates. -/
def State.guardMet (s : State) (k e c : Nat) (g : BitVec 16) : Met :=
  (s.ctx k e c).metWrite (((upFrom 0 4).filter fun i => (guardPreds g).getLsbD i).map (· + 128))

/-- R403, class 1: the guard's channel or port head. -/
def State.headMet (s : State) (k e c : Nat) (g : BitVec 16) : Met :=
  if guardCE g then metBy (s.chanHead k e c (guardCH g)) 1
  else if guardCP g then metBy (s.portHead k e c (guardPort g)) 1 else {}

/-- The bus packets of the matrix instructions (R142): a memory node sent them. -/
def State.busMet (s : State) (k e : Nat) (col : Bool) : Met :=
  match (s.core k).regionOf e with
  | none => {}
  | some (rn, r) =>
    match if col then (s.core k).cbus.get? (rn * 16 + r.colOf e) else (s.core k).rbus.get? (e / 16 * 2 + e % 16 / 8) with
    | some p => { at_ := p.arrived + 1, origin := some 1 }
    | none => {}

/-- Which bus packets an instruction takes: of the row bus, of the column bus. -/
def busUse : Instr → Bool × Bool
  | .mmac _ (.bus _) _ => (true, true)
  | .mmac8 _ (.bus _) _ => (true, true)
  | .mmac12 _ (.bus _) _ => (true, true)
  | .mmac _ (.store _) _ => (false, true)
  | .mmac8 _ (.store _) _ => (false, true)
  | .mmac12 _ (.store _) _ => (false, true)
  | .mmacw _ _ => (true, true)
  | _ => (false, false)

/-- R403, class 4: the cycle from which a latch has had space, where it was full before: the tokens and reservations that it has now and that
were made before its last token left, with the tokens that left then, filled it. -/
def spaceSince (l : Link) (hop : Nat) (resv : List Nat) : Nat :=
  match l.freed.get? hop with
  | none => 0
  | some (t, n) =>
    if 2 ≤ n + ((l.stage hop).filter fun x => x.fired ≤ t).length + (resv.filter fun a => a ≤ t).length then t + 1 else 0

/-- The firing cycles of an element's flights that hold an output reserved. -/
def Elem.reservedAt (x : Elem) (p : Out → Bool) : List Nat :=
  x.ctxs.flatMap fun c => c.2.regs.flights.flatMap fun f => (f.outs.filter p).map fun _ => f.at_

/-- R403, class 4: the cycle from which an output of a route has had space. -/
def Core.roomSince (c : Core) (r : Region) (e : Nat) (w : BitVec 16) (lk : Nat → Nat → Link) (p : Out → Bool) : Nat :=
  let wrap := if (routeOf w).next && r.wrapAt != 0 then r.wrapAt + 1 else 0
  match c.target r e w with
  | .link d q hop => max wrap (spaceSince (lk d q) hop ((c.elem e).reservedAt p))
  | _ => wrap

/-- R403, class 4: a pass register's space. -/
def State.passSince (s : State) (k e q : Nat) : Nat :=
  match s.edgeFrom k e q with
  | some (_, _, g) => if g.roomAt = 0 then 0 else g.roomAt + 1
  | none =>
    match (s.core k).regionOf e with
    | none => 0
    | some (_, r) =>
      let l := (s.core k).plink (r.elemAt (r.rowOf e + 1) (r.colOf e) * 4 + q)
      max (if r.wrapAt = 0 then 0 else r.wrapAt + 1) (if r.direct (r.rowOf e) && l.freed then l.freedAt + 1 else 0)

/-- R403, class 4: the space of every output. -/
def State.spaceMet (s : State) (k e : Nat) (h : Shape) : Met :=
  match (s.core k).regionOf e with
  | none => {}
  | some (_, r) =>
    let c := s.core k
    let x := s.elem k e
    { at_ := ((h.outs.map fun ch => c.roomSince r e (x.oroute.getD ch 0) (fun d p => c.link (d * 8 + p)) (Out.isTok ch))
        ++ (h.outPorts.map fun p => c.roomSince r e (x.kroute.getD p 0) (fun d q => c.klink (d * 4 + q % 4)) (Out.isCtok p))
        ++ h.outPasses.map fun q => s.passSince k e q).foldl max 0 }

/-- R403, class 4: a destination that is read. -/
def State.destMet (s : State) (k e c : Nat) (h : Shape) (d : Option Operand) : Met :=
  match d with
  | some (.slice p n) => if h.rd &&& sliceMask p.toNat (n.toNat + 1) == sliceMask p.toNat (n.toNat + 1) then s.arrival k e c none d else {}
  | _ => {}

/-- R403, class 5: the power token. -/
def Str.tokenMet (x : Str) (heavy : Bool) : Met := { at_ := if heavy then x.heavySince else x.lightSince }

/-- R403, class 7: the thread: on its entry, the context that its last thread left; later, the firing that began it. -/
def State.threadMet (s : State) (k e c : Nat) (h : Shape) : Met :=
  let x := s.ctx k e c
  if h.threadless || (x.thread.isNone && threadGuard h.guard) then { at_ := if x.leftAt = 0 then 0 else x.leftAt + 1 }
  else
    { at_ := if x.threadAt = 0 then 0 else x.threadAt + 1
      origin := match (s.core k).regionOf e with
        | some (_, r) => some (originOf (r.rowOf e) (r.colOf e) c 0)
        | none => none }

/-- R403: the class, the cycle and the origin of the condition met last, of conditions in the order of their classes; `edge` is the layer-cycle edge
before this one, at which a context whose conditions were all met has lost arbitration. A class without an operand keeps the origin of the operand that arrived last. DEDUCED: notes/assumptions/25.md. -/
def lastArrival (l : List Met) (edge : Nat) : Nat × Nat × Nat :=
  let best := (l.zip [0, 1, 2, 3, 4, 5, 7]).foldl (fun (m : Met × Nat) p => if m.1.at_ < p.1.at_ then p else m) ({}, 6)
  let org := ((l.filter fun m => m.origin.isSome).foldl Met.later {}).origin.getD 0
  if best.1.at_ ≤ edge then (6, best.1.at_, org) else (best.2, best.1.at_, best.1.origin.getD org)

/-- R403: what a firing notes, judged before it acts. -/
def State.lastMet (s : State) (i : Instr) (k e c : Nat) : Nat × Nat × Nat :=
  let h := i.shape
  let f := i.fields
  let b := busUse i
  let x := (s.core k).str (strOf e)
  let src (n : Option Nat) (o : Option Operand) (bus col : Bool) : Met := (s.arrival k e c n o).later (if bus then s.busMet k e col else {})
  lastArrival [s.guardMet k e c h.guard, s.headMet k e c h.guard, src i.spans.1 f.2.1 b.1 false, src i.spans.2 f.2.2 b.2 true,
    (s.destMet k e c h f.1).later (s.spaceMet k e h), x.tokenMet h.heavy, s.threadMet k e c h] (x.prev.getD (layerOf e) 0)

/-- R401: the firing descriptor. -/
def firingDesc (row col c slot op cls thread : Nat) : Word64 :=
  BitVec.ofNat 64 (row % 16 + col % 16 * 2 ^ 4 + c % 4 * 2 ^ 8 + slot % 16 * 2 ^ 10 + op % 256 * 2 ^ 14 + cls * 2 ^ 22 + thread % 2 ^ 32 * 2 ^ 32)

/-- R407: a fabric breakpoint word against a firing: whether it arms a stop, whether it halts the control core, and the word after.
DESIGN CHOICE: notes/assumptions/24.md. -/
def breakMatch (w : Word64) (reg block pick slot : Nat) : Bool × Bool × Word64 :=
  let n := w.toNat
  if bit n 63 && bits n 61 59 == reg && bits n 55 40 == block && bits n 39 32 == pick && bit n (16 + slot) then
    if bits n 15 0 = 0 then (true, bit n 62, BitVec.ofNat 64 (n - 2 ^ 63)) else (false, false, BitVec.ofNat 64 (n - 1))
  else (false, false, w)

/-- R408: debug halt stops a control core: one that runs enters Waiting at once, one that waits stays halted once its wait ends; the record carries
its PC. An instruction whose trap waits for earlier write-backs has not issued, and traps again when it issues. DESIGN CHOICE: notes/assumptions/24.md. -/
def State.haltCc (s : State) (k : Nat) : State :=
  let c := s.cc k
  if !c.debugHalt || c.stall || c.wait == .debug || !(c.run == .running || c.run == .waiting) then s
  else
    let (n, s) := s.draw
    (s.modCc k fun c => if c.run == .running then { c with run := .waiting, wait := .debug, trapping := none } else { c with stall := true }).traceCc k 0x06 c.pc.toNat
      (Config.freeEval n).toNat

/-- R407: the breakpoint words of a core against a firing. A word that the function writes in this cycle stays as written (R6). -/
def State.breaks (s : State) (k rn : Nat) (r : Region) (row slot : Nat) : List (Bool × Bool × Word64) :=
  let dbg := ((s.launches.get? r.launch).map Launch.debug).getD false
  (upFrom 0 4).map fun n =>
    let w := (s.core k).fbkp.getD n 0
    if dbg && (s.core k).fbkpAt.getD n 0 != s.cycle then breakMatch w rn (r.cur.getD 0) (r.row row).pick slot else (false, false, w)

/-- R402, R403, R407: a firing is counted, kept in its context's history and matched against the breakpoints; `x` is the context as it fires, `met`
what the firing notes. DESIGN CHOICE: notes/assumptions/24.md. -/
def State.note (s : State) (i : Instr) (k e c slot : Nat) (x : Ctx) (met : Nat × Nat × Nat) : State :=
  match (s.core k).regionOf e with
  | none => s
  | some (rn, r) =>
    let row := r.rowOf e
    let desc := firingDesc row (r.colOf e) c slot (i.code.getD 0) met.1 ((x.thread.map BitVec.toNat).getD 0)
    let fr : Firing := { desc := desc, seq := x.seq.toNat, cls := met.1, met := met.2.1, cycle := s.cycle, origin := met.2.2 }
    let s := s.modCtx k e c fun x => { x with history := (fr :: x.history).take 16, seq := x.seq + 1 }
    let s := s.modRegion k rn fun r => { r with firings := r.firings + 1 }
    let hits := s.breaks k rn r row slot
    let s := s.modCore k fun c => { c with fbkp := hits.map fun b => b.2.2 }
    let armed := (upFrom 0 4).filter fun n => (hits.getD n (false, false, 0)).1
    let s := if armed.isEmpty then s else s.modRegion k rn fun r => { r with stopReqs := r.stopReqs ++ armed.map fun n => 1 + 4 * n }
    if hits.any (fun b => b.2.1) then s.haltCc k else s

/-! ### The one operation -/

/-- R144, R145, R129: an instruction fires in a context, if it is eligible and its own conditions hold (`eff` answers). One that only the full wrap
buffer holds back, which nothing can free, stops the region (R166). -/
def runElem (i : Instr) (eff : State → Option (Eff × State)) (k e c slot : Nat) (s : State) : State :=
  let h := i.shape
  let s₀ := s.beginThread k e c h.guard
  if !s.eligible k e c h then
    if s.sourcesReady k e c h && s.powerReady k e h && s.linksReady k e h && (s.core k).wrapFull e && (s.core k).wrapStuck e && (eff s₀).isSome then
      match (s.core k).regionOf e with
      | some (rn, _) => { s with fired := false, todo := .ev (.wrapOverflow k rn e) :: s.todo }
      | none => { s with fired := false }
    else { s with fired := false }
  else
    match eff s₀ with
    | none => { s with fired := false }
    | some (f, s₁) =>
      let x := s₀.ctx k e c
      let s₁ := s₁.note i k e c slot x (s.lastMet i k e c)
      let s₁ := if f.takes then s₁.consume k e h else s₁
      let s₁ := s₁.modCore k fun cr => { cr with strings := cr.strings.set (strOf e) ((cr.str (strOf e)).takeToken h.heavy s.cycle) }
      let fl := ({ f with outs := f.outs.map fun o => s.markWrap k e o } : Eff).flight s.nextId h.lat x.seq.toNat s.cycle
      let s₁ := s₁.modCtx k e c fun x => { x with regs := x.regs.launch fl, rsr := x.rsr + BitVec.ofNat 32 f.rsr }
      { s₁ with nextId := s.nextId + 1, fired := true }

/-- R48: the guard of a control-core instruction: the predicate that it tests. -/
def ccGuardPred (g : BitVec 16) : BitVec 8 := if g.getLsbD 15 then BitVec.ofNat 8 (2 ^ bits g.toNat 14 12) else 0

/-- R48: the guard holds. DEDUCED: notes/assumptions/17.md. -/
def ccGuardHolds (g : BitVec 16) (preds : BitVec 8) : Bool :=
  !g.getLsbD 15 || preds.getLsbD (bits g.toNat 14 12) == g.getLsbD 11

/-- R13: an instruction may issue. DEDUCED: notes/assumptions/17.md. -/
def Regs.ready (r : Regs) (h : Shape) : Bool :=
  ccGuardPred h.guard &&& r.pendingPreds == 0 && h.rd &&& r.pending == 0 && h.rdP &&& r.pendingPreds == 0 && (!h.drain || r.drained)

/-- What an issue does to the program counter (R114). -/
inductive Flow where
  | next
  /-- A transfer to a target, with the cycles until the next issue. -/
  | jump (target : Nat) (delay : Nat)
  /-- A trap with its cause and value. -/
  | trap (cause : Nat) (v : Nat)
deriving DecidableEq, Repr

/-- The PC advances by 8, or goes to a target. -/
def ControlCore.goto (c : ControlCore) (pc : BitVec 32) (at_ : Nat) : ControlCore := { c with pc := pc, nextIssue := at_ }

/-- R13, R14, R18, R49: an instruction issues on a control core. `eff` answers nothing while a condition of the instruction's own holds
it back; an effect that traps answers a state in which the instruction has changed nothing (ERET clears INTRAP first, R371).
DEDUCED: notes/assumptions/17.md. -/
def runCc (i : Instr) (eff : State → Option (Eff × Flow × State)) (k : Nat) (s : State) : State :=
  let h := i.shape
  let c := s.cc k
  if c.run != .running || c.halting || c.trapping.isSome || c.gbar.isSome || !c.regs.ready h then s
  else if !ccGuardHolds h.guard c.regs.preds then s.modCc k fun c => c.goto (c.pc + 8) (s.cycle + 1)
  else match eff s with
    | none => s
    | some (f, fl, s₁) =>
      match fl with
      | .trap cause v => s₁.raise k cause (BitVec.ofNat 64 v) c.pc
      | .next =>
        let s₁ := s₁.modCc k fun c => ({ c with regs := if f.lands then c.regs.launch (f.flight s.nextId h.lat 0) else c.regs }).goto
          (c.pc + 8) (s.cycle + 1)
        { s₁ with nextId := s.nextId + 1 }
      | .jump t d =>
        let s₁ := s₁.modCc k fun c => ({ c with regs := if f.lands then c.regs.launch (f.flight s.nextId h.lat 0) else c.regs }).goto
          (BitVec.ofNat 32 t) (s.cycle + d)
        { s₁ with nextId := s.nextId + 1 }

/-- The outcome of a step of the machine. -/
abbrev Out3 := Host.Outcome State Fault Refusal

/-- An instruction that both sites share, or that only one of them has: the legality of its word (R51, R52), then the issue rule or the
firing rule. -/
def runBoth (i : Instr) (effE : State → Option (Eff × State)) (effC : State → Option (Eff × Flow × State)) (s : State) : Out3 :=
  match s.site with
  | .cc k => if i.wf .cc then .next (runCc i effC k s) else .fault .illFormed
  | .ctx k e c slot =>
    if i.wf (if isV e then .vElem else .mElem) then .next (runElem i effE k e c slot s) else .fault .illFormed

/-- An instruction whose whole effect falls on the operands that it names (R81). DESIGN CHOICE: notes/assumptions/1.md. -/
def run (i : Instr) (eff : State → Eff) (s : State) : Out3 :=
  runBoth i (fun s => some (eff s, s)) (fun s => some (eff s, .next, s)) s

/-- An instruction of the control core only. -/
def runControl (i : Instr) (eff : Nat → State → Option (Eff × Flow × State)) (s : State) : Out3 :=
  match s.site with
  | .cc k => if i.wf .cc then .next (runCc i (eff k) k s) else .fault .illFormed
  | .ctx .. => .fault .illFormed

/-- An instruction of elements only. -/
def runFabric (i : Instr) (eff : Nat → Nat → Nat → State → Option (Eff × State)) (s : State) : Out3 :=
  match s.site with
  | .cc _ => .fault .illFormed
  | .ctx k e c slot =>
    if i.wf (if isV e then .vElem else .mElem) then .next (runElem i (eff k e c) k e c slot s) else .fault .illFormed

end Sys2Proof.Machine
end

