-- ==== Sys2Proof/Machine/Flags.lean ====
section
/-! DEFINITION. The flag computations: the sticky W40 flags that a result raises land with it (spec/03 R74), and a result under RSR
advances the counter of its context (spec/03 R71). No integer operation raises a flag (spec/03 R64). -/
namespace Sys2Proof.Machine

/-- R71: results drawn under a mode. -/
def rsrCount (m : Rounding) : Nat := if m = .rsr then 1 else 0

/-- R74: an effect that also raises flags. -/
def Eff.raiseFlags (e : Eff) (fl : Nat) : Eff := { e with flags := e.flags ||| fl }

/-- One flagged result written through a destination (R67, R74); `m` is the instruction's rounding. -/
def resultOf (s : State) (d : Operand) (m : Rounding) (x : Flagged) : Eff :=
  { (({} : Eff).put s.ctxNo d x.val).raiseFlags x.fl with rsr := rsrCount m }

/-- A result that raises no flag (R104). -/
def quietOf (s : State) (d : Operand) (v : Nat) : Eff := ({} : Eff).put s.ctxNo d v

/-- R98: FCLT and FCLE raise NV when either source is a NaN. -/
def compareFlags (signalling : Bool) (a b : Real40) : Nat := if signalling && (a.isNaN || b.isNaN) then fNV else 0

/-- R108: the flags of FTOL: the chosen code's value differs from A, |A| is beyond the greatest finite code, a nonzero A yields the
zero code. -/
def ftolFlags (differs beyond under : Bool) : Nat :=
  (if beyond then fOF + fNX else 0) ||| (if under then fUF + fNX else 0) ||| (if differs then fNX else 0)

end Sys2Proof.Machine
end

