-- ==== Sys2Proof/Machine/LogFmt.lean ====
section
/-! DEFINITION. Logarithmic formats, block scales and the accumulator tile (spec/10; spec/05 R108). -/
namespace Sys2Proof.Machine

/-! ### The table T256 (R215): entry j is 2^(j/256) · 2^15, rounded half to even -/

def t256Part0 : List Nat :=
  [32768, 32857, 32946, 33035, 33125, 33215, 33305, 33395, 33486, 33576, 33667, 33759, 33850, 33942, 34034, 34126,
   34219, 34312, 34405, 34498, 34591, 34685, 34779, 34874, 34968, 35063, 35158, 35253, 35349, 35445, 35541, 35637]

def t256Part1 : List Nat :=
  [35734, 35831, 35928, 36025, 36123, 36221, 36319, 36417, 36516, 36615, 36715, 36814, 36914, 37014, 37114, 37215,
   37316, 37417, 37518, 37620, 37722, 37824, 37927, 38030, 38133, 38236, 38340, 38444, 38548, 38653, 38757, 38863]

def t256Part2 : List Nat :=
  [38968, 39074, 39180, 39286, 39392, 39499, 39606, 39714, 39821, 39929, 40037, 40146, 40255, 40364, 40473, 40583,
   40693, 40804, 40914, 41025, 41136, 41248, 41360, 41472, 41584, 41697, 41810, 41923, 42037, 42151, 42265, 42380]

def t256Part3 : List Nat :=
  [42495, 42610, 42726, 42841, 42958, 43074, 43191, 43308, 43425, 43543, 43661, 43780, 43898, 44017, 44137, 44256,
   44376, 44497, 44617, 44738, 44859, 44981, 45103, 45225, 45348, 45471, 45594, 45718, 45842, 45966, 46091, 46216]

def t256Part4 : List Nat :=
  [46341, 46467, 46593, 46719, 46846, 46973, 47100, 47228, 47356, 47484, 47613, 47742, 47871, 48001, 48131, 48262,
   48393, 48524, 48655, 48787, 48920, 49052, 49185, 49319, 49452, 49586, 49721, 49856, 49991, 50126, 50262, 50399]

def t256Part5 : List Nat :=
  [50535, 50672, 50810, 50947, 51085, 51224, 51363, 51502, 51642, 51782, 51922, 52063, 52204, 52346, 52488, 52630,
   52773, 52916, 53059, 53203, 53347, 53492, 53637, 53782, 53928, 54074, 54221, 54368, 54515, 54663, 54811, 54960]

def t256Part6 : List Nat :=
  [55109, 55258, 55408, 55558, 55709, 55860, 56012, 56163, 56316, 56468, 56622, 56775, 56929, 57083, 57238, 57393,
   57549, 57705, 57861, 58018, 58176, 58333, 58491, 58650, 58809, 58968, 59128, 59289, 59449, 59611, 59772, 59934]

def t256Part7 : List Nat :=
  [60097, 60260, 60423, 60587, 60751, 60916, 61081, 61247, 61413, 61579, 61746, 61914, 62081, 62250, 62419, 62588,
   62757, 62928, 63098, 63269, 63441, 63613, 63785, 63958, 64132, 64306, 64480, 64655, 64830, 65006, 65182, 65359]

/-- R215: `t256(j)`. -/
def t256Table : List Nat :=
  t256Part0 ++ (t256Part1 ++ (t256Part2 ++ (t256Part3 ++ (t256Part4 ++ (t256Part5 ++ (t256Part6 ++ t256Part7))))))

def t256 (j : Nat) : Nat := t256Table.getD j 0

/-! ### L codes (R212, R213) -/

end Sys2Proof.Machine

namespace Sys2Proof

/-- The width of a code. -/
def LFmt.width : LFmt → Nat
  | .l6 => 6 | .l8 => 8 | .l12 => 12

/-- R108: the divisor q. -/
def LFmt.q : LFmt → Nat
  | .l6 => 4 | .l8 => 8 | .l12 => 64

/-- R108: the value of l that marks zero and NaN. -/
def LFmt.lmin : LFmt → Int
  | .l6 => -16 | .l8 => -64 | .l12 => -1024

end Sys2Proof

namespace Sys2Proof.Machine

/-- R212: the sign and the logarithm of a code. -/
def lSign (f : LFmt) (x : Nat) : Bool := bit x (f.width - 1)
def lLog (f : LFmt) (x : Nat) : Int := sext x (f.width - 1)

/-- R212: the code of a sign and a logarithm. -/
def lCode (f : LFmt) (s : Bool) (l : Int) : Nat := b2n s * 2 ^ (f.width - 1) + wrap l (f.width - 1)

def lZero (f : LFmt) : Nat := lCode f false f.lmin
def lNaN (f : LFmt) : Nat := lCode f true f.lmin

/-- R108, R216: a magnitude from a logarithm in 1/256 octaves. -/
def magOfLog (lam : Int) : Nat × Int := (t256 (lam % 256).toNat, lam / 256 - 15)

/-- What an L code denotes; `lamS` is the logarithm of its scale (R108, R273). -/
def lReal (f : LFmt) (x : Nat) (lamS : Int) : Real40 :=
  let l := lLog f x
  if l = f.lmin then (if lSign f x then .nan false 2 else .fin false 0 0)
  else
    let m := magOfLog (l * (256 / f.q : Nat) + lamS)
    .fin (lSign f x) m.1 m.2

/-- Orders `m₁ · 2^k₁` and `m₂ · 2^k₂`. -/
def magLe (m₁ : Nat) (k₁ : Int) (m₂ : Nat) (k₂ : Int) : Bool :=
  let k := min k₁ k₂
  m₁ * 2 ^ (k₁ - k).toNat ≤ m₂ * 2 ^ (k₂ - k).toNat

/-- The magnitude of the code with logarithm `l`; the zero code's is 0. -/
def lMag (f : LFmt) (l : Int) : Nat × Int := if l = f.lmin then (0, 0) else magOfLog (l * (256 / f.q : Nat))

/-- The greatest `l` whose magnitude is at most `m · 2^k`, by halving a range of `2^n` candidates from `lo`. -/
def lSearch (f : LFmt) (m : Nat) (k : Int) : Nat → Int → Int
  | 0, lo => lo
  | n + 1, lo =>
    let mid := lo + ((2 ^ n : Nat) : Int)
    let v := lMag f mid
    if magLe v.1 v.2 m k then lSearch f m k n mid else lSearch f m k n lo

/-- R108: the logarithm of the code whose LTOF value is nearest to a magnitude, a tie to an even `l`. -/
def lNearest (f : LFmt) (m : Nat) (k : Int) : Int :=
  let lo := lSearch f m k (f.width - 1) f.lmin
  if lo = -f.lmin - 1 then lo
  else
    let a := lMag f lo
    let b := lMag f (lo + 1)
    let e := min (min a.2 b.2) k
    let sum := a.1 * 2 ^ (a.2 - e).toNat + b.1 * 2 ^ (b.2 - e).toNat
    let x := 2 * m * 2 ^ (k - e).toNat
    if x < sum then lo else if sum < x then lo + 1 else if lo % 2 = 0 then lo else lo + 1

/-- R108: the code nearest to a nonzero value. -/
def lEncode (f : LFmt) (s : Bool) (m : Nat) (k : Int) : Nat :=
  let l := lNearest f m k
  if l = f.lmin then lZero f else lCode f s l

/-! ### Codes by their values (R212, R220) -/

/-- R108: the divisor q as a power of two. -/
def qLog : LFmt → Nat
  | .l6 => 2 | .l8 => 3 | .l12 => 6

/-- `⌊n^(1/2^j)⌋`, by roots of roots. -/
def iroot : Nat → Nat → Nat
  | 0, n => n
  | j + 1, n => iroot j (isqrt (n.log2 / 2 + 1) n)

/-- `2^(b/2^j) + 2^((b+1)/2^j)` at scale `2^g`, at most 2 units too low. -/
def powSum (j b g : Nat) : Nat := iroot j (2 ^ (2 ^ j * g + b)) + iroot j (2 ^ (2 ^ j * g + b + 1))

/-- `n · 2^−t` lies below `2^(b/2^j) + 2^((b+1)/2^j)`. The sum is irrational, and its difference from `n · 2^−t` is greater than
`2^(1 − t − (t + 3) · 2^j)`, by its norm, so the second precision always decides. -/
def belowSum (j b n t : Nat) : Bool :=
  let s := powSum j b (t + 64)
  if n * 2 ^ 64 ≤ s then true
  else if s + 2 ≤ n * 2 ^ 64 then false
  else n * 2 ^ ((t + 3) * 2 ^ j + 2) ≤ powSum j b (t + ((t + 3) * 2 ^ j + 2))

/-- `⌊log2 ((m · 2^k)^q)⌋` for `m` not 0: the greatest `l` with `2^(l/q) ≤ m · 2^k`. -/
def lFloor (f : LFmt) (m : Nat) (k : Int) : Int := ((m ^ f.q).log2 : Nat) + k * (f.q : Nat)

/-- R212, R220: the logarithm of the code whose value `2^(l/q)` is nearest to a nonzero magnitude `m · 2^k`: the zero code's at most half of
the least, else the nearer of two neighbours, whose middle no such magnitude meets. -/
def lNearestValue (f : LFmt) (m : Nat) (k : Int) : Int :=
  let l := lFloor f m k
  if -f.lmin - 1 ≤ l then -f.lmin - 1
  else if l ≤ f.lmin then (if lFloor f (2 * m) k < f.lmin + 1 then f.lmin else f.lmin + 1)
  else
    let a := l / (f.q : Nat)
    let t := a - k - 1
    if belowSum (qLog f) (l % (f.q : Nat)).toNat (if 0 ≤ t then m else m * 2 ^ (-t).toNat) t.toNat then l else l + 1

/-- R220: the code whose value is nearest to a nonzero value. -/
def lEncodeValue (f : LFmt) (s : Bool) (m : Nat) (k : Int) : Nat :=
  let l := lNearestValue f m k
  if l = f.lmin then lZero f else lCode f s l

/-- R108: FTOL with its flags. -/
def ftolReal (f : LFmt) (a : Real40) : Flagged :=
  match a with
  | .nan .. => { val := lNaN f }
  | .inf s => { val := lCode f s (-f.lmin - 1), fl := ftolFlags true true false }
  | .fin s m k =>
    if m = 0 then { val := lZero f }
    else
      let l := lNearest f m k
      let v := lMag f l
      let top := lMag f (-f.lmin - 1)
      { val := lEncode f s m k
        fl := ftolFlags (!(magLe v.1 v.2 m k && magLe m k v.1 v.2)) (!magLe m k top.1 top.2) (l == f.lmin) }

/-- R108: LTOF. -/
def ltofReal (f : LFmt) (x : Nat) : Nat :=
  match lReal f x 0 with
  | .nan .. => wNaN
  | .fin s m k => (roundFin .rne 0 s m k false).val
  | .inf s => wInf s

/-! ### Block scales (R214) -/

/-- A scale: its logarithm, `none` for a NaN scale. -/
def scaleLog (e : Int) (fr : Nat) : Option Int := if e = -128 then none else some (256 * e + fr)

/-- R214: the logarithm of an S32. -/
def s32Log (x : Nat) : Option Int := scaleLog (sext (bits x 31 24) 8) (bits x 23 16)

/-! ### Products and the tile (R216 to R219) -/

/-- A contribution: NaN, or a signed magnitude. -/
inductive Contrib where
  | nan
  | val (neg : Bool) (m : Nat) (k : Int)
deriving DecidableEq, Repr

/-- R216: the product of two L codes of one format under their scales. -/
def lProduct (f : LFmt) (a b : Nat) (sa sb : Option Int) : Contrib :=
  match sa, sb with
  | some ka, some kb =>
    if a = lNaN f || b = lNaN f then .nan
    else if a = lZero f || b = lZero f then .val false 0 0
    else
      let m := magOfLog ((lLog f a + lLog f b) * (256 / f.q : Nat) + ka + kb)
      .val (lSign f a != lSign f b) m.1 m.2
  | _, _ => .nan

/-- R218, R229: the product of two W40 values. -/
def wProduct (a b : Real40) : Contrib :=
  match a, b with
  | .fin s₁ m₁ k₁, .fin s₂ m₂ k₂ => .val (s₁ != s₂) (m₁ * m₂) (k₁ + k₂)
  | _, _ => .nan

/-- R218: `sign(A) · ⌊|A| / 4^n⌋`. -/
def quarter (n : Nat) (a : Int) : Int := if a < 0 then -((a.natAbs / 4 ^ n : Nat) : Int) else ((a.natAbs / 4 ^ n : Nat) : Int)

/-- R218: `n` times shift(), none of which finds X above 32,765. -/
def Acc.shiftBy (t : Acc) (n : Nat) : Acc := { t with entries := t.entries.map (quarter n), x := t.x + 2 * n }

/-- R218: shift(). -/
def Acc.shift (t : Acc) : Acc := if t.x > 32765 then { t with poison := BitVec.allOnes 64 } else t.shiftBy 1

/-- R218, step 1: the shifts after which `⌊|p| / 2^X⌋ < 2^44`. -/
def shiftsFor (x : Int) : Contrib → Nat
  | .nan => 0
  | .val _ m k =>
    let d := ((m.log2 : Nat) : Int) + k - 44 - x
    if m = 0 || d < 0 then 0 else (d / 2).toNat + 1

/-- R218, step 2: the truncated amount that a contribution adds. -/
def amount (x : Int) (neg : Bool) (m : Nat) (k : Int) : Int :=
  let a : Nat := if x ≤ k then m * 2 ^ (k - x).toNat else m / 2 ^ (x - k).toNat
  if neg then -(a : Int) else a

/-- R218, step 2: one contribution to entry `i`. -/
def Acc.add (t : Acc) (i : Nat) : Contrib → Acc
  | .nan => { t with poison := t.poison ||| BitVec.ofNat 64 (2 ^ i) }
  | .val neg m k => { t with entries := modAt t.entries i fun a => a + amount t.x neg m k }

/-- R218: one firing's contributions, as pairs of entry and product, applied as one update. -/
def Acc.update (t : Acc) (l : List (Nat × Contrib)) : Acc :=
  let n := l.foldl (fun n p => max n (shiftsFor t.x p.2)) 0
  let t := if n = 0 then t else t.shiftBy n
  let t := l.foldl (fun t p => t.add p.1 p.2) t
  if t.entries.any fun a => a.natAbs ≥ 2 ^ 46 then t.shift else t

/-- Some entry is poisoned. -/
def Acc.poisoned (t : Acc) (i : Nat) : Bool := t.poison.getLsbD i

/-- R220, R232: the greatest |A| over clean entries. -/
def Acc.greatest (t : Acc) : Nat :=
  (t.entries.zipIdx).foldl (fun m p => if t.poisoned p.2 then m else max m p.1.natAbs) 0

/-- R220: the bias I of a format. -/
def downBias : LFmt → Int
  | .l6 => 3 | .l8 => 7 | .l12 => 15

/-- R220: down-conversion of the tile. -/
def Acc.down (t : Acc) (f : LFmt) : List Nat × Int :=
  let m := t.greatest
  let e : Int := if m = 0 then 0 else clamp (((m.log2 : Nat) : Int) + t.x - downBias f) (-127) 127
  (t.entries.zipIdx.map fun p =>
    if t.poisoned p.2 then lNaN f
    else if p.1 = 0 then lZero f
    else lEncodeValue f (p.1 < 0) p.1.natAbs (t.x - e), e)

/-- R221: the accumulator image. -/
def Acc.image (t : Acc) : List Byte :=
  toBytes t.poison.toNat 8 ++ (toBytes (wrap t.x 16) 8 ++ t.entries.flatMap fun a => toBytes (wrap a 48) 6)

/-- R221: the tile from its image. -/
def Acc.ofImage (b : List Byte) : Acc :=
  { poison := BitVec.ofNat 64 (ofBytes (b.take 8))
    x := sext (ofBytes ((b.drop 8).take 2)) 16
    entries := (upFrom 0 64).map fun i => sext (ofBytes ((b.drop (16 + 6 * i)).take 6)) 48 }

end Sys2Proof.Machine
end

