-- ==== Sys2Proof/Machine/Formats.lean ====
section
/-! DEFINITION. Storage formats: what a code decodes to and how a value is encoded (spec/13 R271 to R274). -/
namespace Sys2Proof.Machine

/-- R271: the width of a format. -/
def ebits (fmt : Nat) : Nat := [4, 4, 8, 8, 16, 32, 8, 8, 16, 16, 32, 6, 8, 12, 40, 64].getD fmt 64

/-- An integer format (R271). -/
def isIntFmt (fmt : Nat) : Bool := fmt ≤ 5

/-- R271: the signedness of an integer format. -/
def intSigned (fmt : Nat) : Bool := fmt != 1 && fmt != 3

/-- R271: the value of an integer code. -/
def intCode (fmt x : Nat) : Int := if intSigned fmt then sext x (ebits fmt) else (zext x (ebits fmt) : Nat)

/-- A small float format: exponent bits, mantissa bits, bias; `ieee` has infinities. -/
structure FloatFmt where
  eb : Nat
  mb : Nat
  bias : Int
  ieee : Bool
deriving DecidableEq, Repr

/-- R271: the float formats. -/
def floatFmt (fmt : Nat) : FloatFmt :=
  match fmt with
  | 6 => ⟨4, 3, 7, false⟩
  | 7 => ⟨5, 2, 15, true⟩
  | 8 => ⟨5, 10, 15, true⟩
  | 9 => ⟨8, 7, 127, true⟩
  | _ => ⟨8, 23, 127, true⟩

/-- The value of a float code (R271, R273). -/
def floatCode (f : FloatFmt) (x : Nat) : Real40 :=
  let s := bit x (f.eb + f.mb)
  let e := x / 2 ^ f.mb % 2 ^ f.eb
  let m := x % 2 ^ f.mb
  if e = 2 ^ f.eb - 1 && f.ieee then (if m = 0 then .inf s else .nan s 2)
  else if e = 2 ^ f.eb - 1 && m = 2 ^ f.mb - 1 then .nan s 2
  else if e = 0 then .fin s m (1 - f.bias - f.mb)
  else .fin s (2 ^ f.mb + m) ((e : Int) - f.bias - f.mb)

/-- A nonzero magnitude rounded to a float format under RNE, with gradual underflow (R274): the code without its sign, which an
overflow takes past the greatest finite code. -/
def floatRound (f : FloatFmt) (m : Nat) (k : Int) : Nat :=
  let e := ({ n := m, k := k } : Mag).exp
  let ulp := max (e - f.mb) (1 - f.bias - f.mb)
  let n := if ulp ≤ k then m * 2 ^ (k - ulp).toNat else (roundDrop .rne 0 false m (ulp - k).toNat false).1
  if n < 2 ^ f.mb then n else (ulp + f.bias + f.mb).toNat * 2 ^ f.mb + (n - 2 ^ f.mb)

/-- R274: a value encoded to a float format. -/
def floatEncode (f : FloatFmt) (a : Real40) : Nat :=
  let sg (s : Bool) : Nat := b2n s * 2 ^ (f.eb + f.mb)
  let inf := (2 ^ f.eb - 1) * 2 ^ f.mb
  if f.ieee then
    match a with
    | .nan s _ => sg s + inf + 2 ^ (f.mb - 1)
    | .inf s => sg s + inf
    | .fin s m k => sg s + (if m = 0 then 0 else min (floatRound f m k) inf)
  else
    let nan := 2 ^ (f.eb + f.mb) - 1
    match a with
    | .nan s _ => sg s + nan
    | .inf s => sg s + nan
    | .fin s m k => sg s + (if m = 0 then 0 else min (floatRound f m k) (nan - 1))

/-- The L format of a storage format. -/
def lFmtOf (fmt : Nat) : LFmt := if fmt = 11 then .l6 else if fmt = 12 then .l8 else .l12

/-- R273: an element decoded to W40; `scale` is the S32 that covers it. -/
def decodeElem (fmt x : Nat) (scale : Option Nat) : Nat :=
  match scale with
  | none =>
    if isIntFmt fmt then (ofIntReal .rne 0 (intCode fmt x)).val
    else if fmt ≤ 10 then
      match floatCode (floatFmt fmt) x with
      | .fin s m k => (roundFin .rne 0 s m k s).val
      | .inf s => wInf s
      | .nan s _ => normNaN s 2
    else if fmt ≤ 13 then ltofReal (lFmtOf fmt) x
    else normQuiet (readW x)
  | some w =>
    let e := sext (bits w 31 24) 8
    let fr := bits w 23 16
    if e = -128 then wScaleNaN
    else if isIntFmt fmt then
      let v := intCode fmt x - sext (bits w 15 0) 16
      (roundFin .rne 0 (v < 0) (v.natAbs * t256 fr) (e - 15) false).val
    else if fmt ≤ 10 then
      match floatCode (floatFmt fmt) x with
      | .fin s m k => (roundFin .rne 0 s (m * t256 fr) (k + e - 15) s).val
      | .inf s => wInf s
      | .nan s _ => normNaN s 2
    else
      match lReal (lFmtOf fmt) x (fr + 256 * e) with
      | .fin s m k => (roundFin .rne 0 s m k false).val
      | _ => wNaN

/-- R273: the scale is the NaN code. -/
def isNaNScale (w : Nat) : Bool := bits w 31 24 == 0x80

/-- R274: a W40 value encoded to a format. -/
def encodeElem (fmt w : Nat) : Nat :=
  let a := readW w
  if isIntFmt fmt then
    let g : Sgn := if intSigned fmt then .s else .z
    (toIntReal g .rne 0 a (ebits fmt)).val
  else if fmt ≤ 10 then floatEncode (floatFmt fmt) a
  else if fmt ≤ 13 then (ftolReal (lFmtOf fmt) a).val
  else normQuiet a

/-! ### Atomics (spec/14 R283) -/

/-- R283: the new value of an integer atomic at width `w`; `g` is the signedness of AMIN and AMAX. -/
def atomicInt (op : Nat) (g : Sgn) (w m v : Nat) : Nat :=
  match op with
  | 0xC4 => (m + v) % 2 ^ w
  | 0xC5 => if readAs g m w ≤ readAs g v w then m else v
  | 0xC6 => if readAs g m w ≥ readAs g v w then m else v
  | 0xC7 => m &&& v
  | 0xC8 => m ||| v
  | 0xC9 => m ^^^ v
  | _ => v

/-- R283: ACAS. -/
def atomicCas (m x y : Nat) : Nat := if m = x then y else m

/-- R283: AFADD in W40. DESIGN CHOICE: notes/assumptions/58.md. -/
def atomicFaddW (m v : Nat) : Nat :=
  match readW m, readW v with
  | .nan s _, _ => normNaN s 2
  | _, .nan s _ => normNaN s 2
  | a, b => (addReal .rne 0 a b).val

/-- R283: an exact sum rounded once to binary32; the first source is `a`. DEDUCED: notes/assumptions/58.md. -/
def faddTo32 (a b : Real40) : Nat :=
  let f := floatFmt 10
  match a, b with
  | .nan s _, _ => floatEncode f (.nan s 2)
  | _, .nan s _ => floatEncode f (.nan s 2)
  | .inf s, .inf t => if s = t then floatEncode f (.inf s) else floatEncode f (.nan false 2)
  | .inf s, _ => floatEncode f (.inf s)
  | _, .inf t => floatEncode f (.inf t)
  | .fin s₁ m₁ k₁, .fin s₂ m₂ k₂ =>
    if m₁ = 0 && m₂ = 0 then floatEncode f (.fin (s₁ && s₂) 0 0)
    else
      let k := min k₁ k₂
      let v := scaled s₁ m₁ k₁ k + scaled s₂ m₂ k₂ k
      floatEncode f (.fin (v < 0) v.natAbs k)

/-- R283: AFADD in binary32. -/
def atomicFadd32 (m v : Nat) : Nat := faddTo32 (floatCode (floatFmt 10) m) (floatCode (floatFmt 10) v)

/-- R283, R287: the new value of an ordered update of a format: integer operands truncated to its width, AFADD's operand a W40 value. -/
def updateNew (op fmt m v : Nat) : Nat :=
  let w := ebits fmt
  if op = 0xCB then atomicCas m (v % 2 ^ w) (v / 2 ^ w % 2 ^ w)
  else if op = 0xCC then (if fmt = 10 then faddTo32 (floatCode (floatFmt 10) m) (readW (v % 2 ^ 40)) else atomicFaddW m (v % 2 ^ 40))
  else atomicInt op (if fmt = 1 || fmt = 3 || fmt = 15 then .z else .s) w m (v % 2 ^ w)

/-- R284, R287: the new value that an atomic of `bytes` bytes leaves; ACAS's operand carries x low and y high. -/
def atomicNew (op : Nat) (g : Sgn) (bytes m v : Nat) : Nat :=
  let w := 8 * bytes
  if op = 0xCB then atomicCas m (v % 2 ^ w) (v / 2 ^ w % 2 ^ w)
  else if op = 0xCC then (if bytes = 4 then atomicFadd32 m v else atomicFaddW m v)
  else atomicInt op g w m (v % 2 ^ w)

end Sys2Proof.Machine
end

