-- ==== Sys2Proof/Machine/Reports.lean ====
section
/-! DEFINITION. Reports to a control core and region faults (spec/21 R372, R373). -/
namespace Sys2Proof.Machine

/-- R372: a report for a control core: held while it may be delivered, otherwise an event record only. -/
def ControlCore.hold (c : ControlCore) (cause : Nat) (v : Word64) (now : Nat) : ControlCore :=
  if causeVec c.cause = 0 || c.run == .halted || c.run == .idle || c.run == .off || c.reports.length ≥ 8 then c
  else { c with reports := c.reports ++ [(cause, v, now)] }

/-- R373: the ARG0 of a region fault. -/
def faultArg (data cause src slot col strm half row reg : Nat) : Nat :=
  data % 2 ^ 32 * 2 ^ 32 + cause % 1024 * 2 ^ 20 + src % 8 * 2 ^ 17 + slot % 16 * 2 ^ 13 + col % 16 * 2 ^ 9 + strm % 2 * 2 ^ 8
    + half % 2 * 2 ^ 7 + row % 16 * 2 ^ 3 + reg % 8

/-- R373, R391: a region fault of the block in progress and of pick `pick` is posted, and reported to the member's control core when the launch has CTRL = 1. -/
def State.regionFault (s : State) (k rn cause arg0 pick : Nat) : State :=
  match s.region? k rn with
  | none => s
  | some r =>
    let s := s.postCore k 0x29 arg0 (r.cur.getD 0 % 2 ^ 16 + pick % 256 * 2 ^ 16)
    match s.launches.get? r.launch with
    | some l => if l.ctrl then s.modCc k fun c => c.hold cause (BitVec.ofNat 64 arg0) s.cycle else s
    | none => s

/-- R391: an MCHECK record. DESIGN CHOICE: notes/assumptions/35.md. -/
def State.mcheck (s : State) (k cause action addr : Nat) : State :=
  s.postCore k 0x2A (cause % 1024 + action * 2 ^ 12 + dieOf k % 4 * 2 ^ 16) addr

/-- The tile address of a unit of a core's tile memory. -/
def unitAddr (k u : Nat) : Nat := 16 * u - tileLoc k 0

/-- R255, R372, R389: a unit of tile memory that the device reads for a launch on core `k` is uncorrectable: MACHINE_CHECK with its tile address; `ctrl`
says that the launch has control cores. DESIGN CHOICE: notes/assumptions/33.md. -/
def State.unitCheck (s : State) (k loc n : Nat) (ctrl : Bool) : State :=
  match s.unreadable loc n with
  | none => s
  | some u =>
    let s := s.mcheck k 0x3E0 3 (unitAddr k u)
    if ctrl then s.modCc k fun c => c.hold 0x3E0 (BitVec.ofNat 64 (unitAddr k u)) s.cycle else s

/-- R255, R372, R389: the configuration controller of region `rn` reads `n` bytes of tile memory: an uncorrectable unit among them raises MACHINE_CHECK
with its tile address. DESIGN CHOICE: notes/assumptions/33.md. -/
def State.ctlCheck (s : State) (k rn loc n : Nat) : State :=
  s.unitCheck k loc n ((((s.region? k rn).bind fun r => s.launches.get? r.launch).map Launch.ctrl).getD false)

end Sys2Proof.Machine
end

