-- ==== Sys2Proof/Machine/MemInstr.lean ====
section
/-! DEFINITION. Row 0xC: memory, atomic, fence and ordering-token instructions (spec/14 R277 to R291). On the control core an access is
performed in its issue step; in an element it sends a request to a stream of the half-stripe's node. -/
namespace Sys2Proof.Machine

/-! ### Ordering on the control core (R281, R286, R339) -/

/-- R281, R286, R339: an acquire access or far atomic, or a QWAIT of this member, in flight holds back every later access, far atomic and command. -/
def State.held (s : State) (k : Nat) : Bool :=
  let c := s.core k
  s.cycle < c.acquired || c.far.any (fun f => f.order % 2 == 1) || (c.engines.getD 4 []).any fun m => m.op == 0xED && m.owner == c.cc.member

/-- R277: every earlier access and far atomic is performed: a tile access once its banks have served it. -/
def State.allPerformed (s : State) (k : Nat) : Bool := (s.core k).far.isEmpty && (s.core k).ccBusy.all fun b => b.2 ≤ s.cycle

/-- R281: an access of this order may issue now. -/
def State.mayAccess (s : State) (k order : Nat) : Bool := !s.held k && (order / 2 == 0 || s.allPerformed k)

/-- R279: the order and scope of the modifier. -/
def orderOf (m : BitVec 4) : Nat := bits m.toNat 3 2
def scopeOf (m : BitVec 4) : Nat := [4, 7, 8, 10].getD (bits m.toNat 1 0) 4

/-! ### Checked tile accesses (R258, R280) -/

/-- R258: the checks of an access of `n` bytes at offset `o` that needs the permissions `need`; `node` for a memory node. -/
def capCheck (c : Cap) (o : Int) (n need : Nat) (node : Bool) : Option Nat :=
  if !c.tag then some 0x200
  else if c.space != 1 then some (if node && 2 ≤ c.space && c.space ≤ 8 then 0x220 else 0x202)
  else if c.eo then some 0x202
  else if c.perms &&& need != need then some 0x202
  else if o < 0 || o + n > c.len then some 0x201
  else none

/-- R280, check 6: a tile range lies within $TILECAP. -/
def inTile (t : Cap) (a n : Nat) : Bool := t.valid && t.base ≤ a && a + n ≤ t.base + t.len

/-- R280: checks 1 to 6 of a control-core access, with the cause and $EVAL of the first that fails. -/
def tileCheck (t c : Cap) (o : Int) (n need : Nat) : Option (Nat × Nat) :=
  match capCheck c o n need false with
  | some x => some (x, wrap o 64)
  | none => if inTile t (c.base + o.toNat) n then none else some (0x201, c.base + o.toNat)

/-- R254: the parts of an access, as banks, one for each 64-byte line it touches. -/
def partsOf (a n : Nat) : List Nat := (upFrom (a / 64) ((a + n - 1) / 64 + 1 - a / 64)).map fun l => l / 2 ^ 11 % 32

/-- R254: the banks serve the lines of an access of a node or an engine from this cycle on, each bank one line in a cycle. A step is indivisible, so
it has its effect at once. DESIGN CHOICE: notes/assumptions/11.md. -/
def State.useBanks (s : State) (k : Nat) (banks : List Nat) : State :=
  s.modCore k fun c => { c with bankTill := banks.foldl (fun (m : SMap Nat) b => m.set b (max s.cycle (m.getD b 0) + 1)) c.bankTill }

/-- R254: a bank has served an access in this cycle, or serves the control core. -/
def State.bankBusy (s : State) (k b : Nat) : Bool :=
  s.cycle < (s.core k).bankTill.getD b 0 || s.cycle < (s.core k).ccBusy.getD b 0

/-- R254: parts of an access of the control core served in order, each in the first cycle in which its bank is free of the core’s own accesses and of what
`till` says: the cycle of the last, and the first free cycles of the banks. DESIGN CHOICE: notes/assumptions/11.md. -/
def servedAt (now : Nat) (till : SMap Nat) : List Nat → Nat → SMap Nat → Nat × SMap Nat
  | [], t, m => (t, m)
  | b :: r, t, m =>
    let u := max now (max (m.getD b 0) (till.getD b 0))
    servedAt now till r (max t u) (m.set b (u + 1))

/-- R14, R254: the cycles for which the banks of an access are busy. DESIGN CHOICE: notes/assumptions/11.md. -/
def State.bankWait (s : State) (k : Nat) (banks : List Nat) : Nat := (servedAt s.cycle (s.core k).bankTill banks s.cycle (s.core k).ccBusy).1 - s.cycle

/-- R254, R281: the banks serve an access of the control core; later accesses wait for an acquire. DESIGN CHOICE: notes/assumptions/11.md. -/
def State.serve (s : State) (k order : Nat) (banks : List Nat) : State :=
  let r := servedAt s.cycle (s.core k).bankTill banks s.cycle (s.core k).ccBusy
  s.modCore k fun c => { c with ccBusy := r.2, acquired := if order % 2 = 1 then r.1 + 1 else c.acquired }

/-- R255: the tile address of an unreadable unit among the bytes. -/
def State.poisoned (s : State) (k a n : Nat) : Option Nat := (s.unreadable (tileLoc k a) n).map fun u => u * 16 - tileLoc k 0

/-- R280: a checked access of the control core at offset operand `b` through the capability `a`. `act` gets the tile address.
DESIGN CHOICE: notes/assumptions/5.md. -/
def tileAccess (a b : Operand) (n need order : Nat) (aligned reads : Bool) (act : Nat → Option (Eff × Flow × State)) (k : Nat) (s : State) :
    Option (Eff × Flow × State) :=
  let c := s.capSrc a
  let o := (s.src b).ownS
  if !s.mayAccess k order then none
  else match tileCheck (s.cc k).tilecap c o n need with
    | some (x, v) => some ({}, .trap x v, s)
    | none =>
      let addr := c.base + o.toNat
      if aligned && addr % n != 0 then some ({}, .trap 0x203 (wrap o 64), s)
      else match (if reads then s.poisoned k addr n else none) with
        | some u => some ({}, .trap 0x3E0 u, s)
        | none => act addr

/-- The width in bytes of a slice operand. -/
def bytesOf (d : Operand) : Nat := destWidth d / 8

/-! ### Element requests (R287 to R289) -/

/-- The stream of a node. -/
def Node.stream (n : Node) (i : Nat) : Stream := if i = 0 then n.s0 else n.s1

/-- The node of an element's half-stripe. -/
def nodeOf (e : Nat) : Nat := e / 16 * 2 + e % 16 / 8

/-- R288: requests in the queue and places reserved by requests fired and not yet written back. -/
def Core.requested (c : Core) (e st : Nat) : Nat :=
  ((c.nodes.getD (nodeOf e) {}).stream st).queue.length +
    (c.elems.flatMap fun p => if nodeOf p.1 == nodeOf e then p.2.flightOuts.filter (fun o => match o with
      | .request _ i _ _ _ _ => i == st
      | _ => false) else []).length

/-- R409: a context's k-th request to an ordered-update stream waits for the k-th of every lower-numbered thread of the element.
DEDUCED: notes/assumptions/37.md. -/
def Elem.requestTurn (x : Elem) (c st : Nat) : Bool :=
  match (x.ctx c).thread with
  | none => true
  | some t => x.ctxs.all fun p =>
    match p.2.thread with
    | some u => t ≤ u || (x.ctx c).reqs.getD st 0 < p.2.reqs.getD st 0
    | none => true

/-- R287, R274: the operand of a request at 64 bits: AMIN and AMAX of a signed format extend by sign (R40). DESIGN CHOICE: notes/assumptions/65.md. -/
def State.requestVal (s : State) (k e op st : Nat) (v : Option Operand) : Word64 :=
  let fmt := bits ((((s.core k).nodes.getD (nodeOf e) {}).stream st).words.getD 0 0).toNat 59 56
  let sgn : Sgn := if (op == 0xC5 || op == 0xC6) && (fmt == 0 || fmt == 2 || fmt == 4 || fmt == 5) then .s else .z
  BitVec.ofNat 64 ((v.map fun o => (s.src o).to sgn 64).getD 0)

/-- R287 to R289: the request of an element instruction at position `p`; none is named where a streaming store leaves srcA absent. `ordered` marks an
ordered-update operation (R409). -/
def requestEff (op : Nat) (d : Operand) (p v : Option Operand) (m : BitVec 4) (ordered : Bool) (k e c : Nat) (s : State) : Option (Eff × State) :=
  let st := m.toNat % 2
  let pos := p.map fun o => (s.src o).to .z 64
  let val := s.requestVal k e op st v
  let port := match d with
    | .port q _ => some q.toNat
    | _ => none
  let det := match (s.core k).regionOf e with
    | some (_, r) => r.det
    | none => false
  if (s.ctx k e c).regs.flights.any (fun f => f.fence) then none
  else if 4 ≤ (s.core k).requested e st then none
  else if det && ordered && !(s.elem k e).requestTurn c st then none
  else
    let ctok := match port with
      | some q => [Out.ctok q true c false]
      | none => []
    some ({ outs := .request op st pos val c port :: ctok },
      s.modCtx k e c fun x => { x with reqs := modAt x.reqs st (· + 1) })

/-- R287: srcA of a store: "—" stands as 0x000. -/
def storePos (a : Operand) : Option Operand := if Wf.isNone a then none else some a

/-! ### Loads and stores -/

/-- LD on the control core (R280). -/
def ldEff (d a b : Operand) (m : BitVec 4) (k : Nat) (s : State) : Option (Eff × Flow × State) :=
  let n := bytesOf d
  tileAccess a b n pRD (orderOf m) false true (fun addr =>
    some ({ quietOf s d (s.load (tileLoc k addr) n) with extra := s.bankWait k (partsOf addr n) }, .next, s.serve k (orderOf m) (partsOf addr n))) k s

/-- LD (R280, R287). -/
def execLd (g : BitVec 16) (d a b : Operand) (m : BitVec 4) (s : State) : Out3 :=
  runBoth (.ld g d a b m) (fun s => match s.site with
    | .ctx k e c _ => requestEff 0xC0 d (some a) none m false k e c s
    | .cc _ => none) (fun s => match s.site with
    | .cc k => ldEff d a b m k s
    | .ctx .. => none) s

/-- ST on the control core (R280). -/
def stEff (v a b : Operand) (m : BitVec 4) (k : Nat) (s : State) : Option (Eff × Flow × State) :=
  let n := bytesOf v
  tileAccess a b n pWR (orderOf m) false false (fun addr =>
    some ({}, .next, (s.store (tileLoc k addr) n (s.src v).raw).serve k (orderOf m) (partsOf addr n))) k s

/-- ST (R280, R287). -/
def execSt (g : BitVec 16) (d a b : Operand) (m : BitVec 4) (s : State) : Out3 :=
  runBoth (.st g d a b m) (fun s => match s.site with
    | .ctx k e c _ => requestEff 0xC1 d (storePos a) (some b) m false k e c s
    | .cc _ => none) (fun s => match s.site with
    | .cc k => stEff d a b m k s
    | .ctx .. => none) s

/-- R282: the bytes of element `i` of a format, as an offset of `base`, and the bit at which it starts in them. -/
def elemBytes (fmt : Nat) (i : Int) : Int × Nat × Nat :=
  let lo := i * ebits fmt
  let first := lo / 8
  (first, ((lo + ebits fmt - 1) / 8 - first + 1).toNat, (lo % 8).toNat)

/-- R282: LDF and STF: the checks of R280, 1 to 6, over the bytes of the element. DESIGN CHOICE: notes/assumptions/18.md. -/
def elemAccess (a b : Operand) (fmt need : Nat) (reads : Bool) (act : Nat → Nat → Nat → Option (Eff × Flow × State)) (k : Nat) (s : State) :
    Option (Eff × Flow × State) :=
  let c := s.capSrc a
  let (o, n, sh) := elemBytes fmt (s.src b).ownS
  if !s.mayAccess k 0 then none
  else match tileCheck (s.cc k).tilecap c o n need with
    | some (x, v) => some ({}, .trap x v, s)
    | none =>
      let addr := c.base + o.toNat
      match (if reads then s.poisoned k addr n else none) with
      | some u => some ({}, .trap 0x3E0 u, s)
      | none => act addr n sh

/-- LDF on the control core (R282). -/
def ldfEff (d a b : Operand) (m : BitVec 4) (k : Nat) (s : State) : Option (Eff × Flow × State) :=
  let fmt := m.toNat
  elemAccess a b fmt pRD true (fun addr n sh =>
    let x := s.load (tileLoc k addr) n / 2 ^ sh % 2 ^ ebits fmt
    some ({ quietOf s d (decodeElem fmt x none) with extra := s.bankWait k (partsOf addr n) }, .next, s.serve k 0 (partsOf addr n))) k s

/-- LDF (R282, R287). -/
def execLdf (g : BitVec 16) (d a b : Operand) (m : BitVec 4) (s : State) : Out3 :=
  runBoth (.ldf g d a b m) (fun s => match s.site with
    | .ctx k e c _ => requestEff 0xC2 d (some a) none m false k e c s
    | .cc _ => none) (fun s => match s.site with
    | .cc k => ldfEff d a b m k s
    | .ctx .. => none) s

/-- STF on the control core (R282): the bits of the element alone change. -/
def stfEff (v a b : Operand) (m : BitVec 4) (k : Nat) (s : State) : Option (Eff × Flow × State) :=
  let fmt := m.toNat
  elemAccess a b fmt pWR (ebits fmt % 8 != 0) (fun addr n sh =>
    let old := s.load (tileLoc k addr) n
    let new := setBits old sh (ebits fmt) (encodeElem fmt ((s.src v).raw % 2 ^ 40))
    some ({}, .next, (s.store (tileLoc k addr) n new).serve k 0 (partsOf addr n))) k s

/-- STF (R282, R287). -/
def execStf (g : BitVec 16) (d a b : Operand) (m : BitVec 4) (s : State) : Out3 :=
  runBoth (.stf g d a b m) (fun s => match s.site with
    | .ctx k e c _ => requestEff 0xC3 d (storePos a) (some b) m false k e c s
    | .cc _ => none) (fun s => match s.site with
    | .cc k => stfEff d a b m k s
    | .ctx .. => none) s

/-! ### Atomics (R283 to R286) -/

/-- R284: the bytes that an atomic works on; ACAS's dest field has twice its width. -/
def atomBytes (op : Nat) (d : Operand) : Nat := if op = 0xCB then bytesOf d / 2 else bytesOf d

/-- R284: what an atomic's dest field takes at write-back: m, in ACAS below the high half, which stays as it is. DESIGN CHOICE: notes/assumptions/63.md. -/
def atomResult (s : State) (op : Nat) (d : Operand) (m : Nat) : Nat :=
  if op = 0xCB then setBits (s.src d).raw 0 (destWidth d / 2) m else m

/-- R285: the spaces of a far atomic. -/
def isFarSpace (sp : Nat) : Bool := sp == 2 || sp == 3 || sp == 6 || sp == 8

/-- R285: the checks of a far atomic at issue, with the cause of the first that fails. -/
def farCheck (c : Cap) (o : Int) (n : Nat) : Option Nat :=
  if !c.tag then some 0x200
  else if !isFarSpace c.space then some 0x202
  else if !c.at then some 0x202
  else if o < 0 || o + n > c.len then some 0x201
  else if (c.base + o.toNat) % n != 0 then some 0x203
  else none

/-- R409: the aligned 8-byte unit of an address of a space, as one number. -/
def farUnit (space addr : Nat) : Nat := space * 2 ^ 61 + addr / 8

/-- R409: a count of far atomics of the member that a control core runs for. -/
def State.farCount (s : State) (k : Nat) (f : Member → SMap Nat) (u : Nat) : Nat :=
  match (s.cc k).member with
  | some (l, m) => (((s.launches.get? l).bind fun x => x.members[m]?).map fun y => (f y).getD u 0).getD 0
  | none => 0

/-- R409: that member changed. -/
def State.modMember (s : State) (k : Nat) (f : Member → Member) : State :=
  match (s.cc k).member with
  | some (l, m) => s.modLaunch l fun x => { x with members := modAt x.members m f }
  | none => s

/-- R285, R318: far atomics of a core. The token stays pending until FAR_ATOMIC_COMPLETION. DESIGN CHOICE: notes/assumptions/18.md.
DESIGN CHOICE: notes/assumptions/64.md. -/
def farEff (op : Nat) (d a b : Operand) (m : BitVec 4) (k : Nat) (s : State) : Option (Eff × Flow × State) :=
  let c := s.capSrc a
  let o := (s.src b).ownS
  let n := atomBytes op d
  if s.held k then none
  else match farCheck c o n with
    | some x => some ({}, .trap x (wrap o 64), s)
    | none =>
      if 16 ≤ (s.core k).far.length then none
      else
        let addr := c.base + o.toNat
        let p := match d with
          | .slice q _ => q.toNat
          | _ => 0
        let turn := s.farCount k Member.farIssued (farUnit c.space addr)
        let f : Far := { id := s.nextId, op := op, space := c.space, addr := addr, bytes := n, val := (s.src d).raw, order := orderOf m,
                         scope := scopeOf m, issued := s.cycle, at_ := s.cycle + 64, turn := turn, dst := p }
        some ({ ({} : Eff).put 0 d 0 with async := true }, .next,
          (s.modCore k fun x => { x with far := x.far ++ [f] }).modMember k fun y => { y with farIssued := y.farIssued.set (farUnit c.space addr) (turn + 1) })

/-- R284: an atomic of the control core on tile memory. -/
def tileAtomicEff (op : Nat) (d a b : Operand) (m : BitVec 4) (k : Nat) (s : State) : Option (Eff × Flow × State) :=
  let n := atomBytes op d
  tileAccess a b n pAT (orderOf m) true true (fun addr =>
    let old := s.load (tileLoc k addr) n
    let new := atomicNew op .s n old (s.src d).raw
    some ({ quietOf s d (atomResult s op d old) with extra := s.bankWait k (partsOf addr n) }, .next,
      (s.store (tileLoc k addr) n new).serve k (orderOf m) (partsOf addr n))) k s

/-- R280, R285: an atomic through a capability of a device-side space is a far atomic; every other is a tile atomic. The widths of a far
atomic are part of its encoding. -/
def atomicEff (i : Instr) (op : Nat) (d a b : Operand) (m : BitVec 4) (k : Nat) (s : State) : Option (Eff × Flow × State) :=
  if isFarSpace (s.capSrc a).space then
    if atomBytes op d = 4 || (atomBytes op d = 8 && op != 0xCB) then farEff op d a b m k s
    else some ({}, .trap 0x002 ((encode i).getD 0).toNat, s)
  else tileAtomicEff op d a b m k s

/-- R52, R285: a word that issues is a far atomic of a width that its encoding does not allow, whether or not its guard holds. -/
def State.farWidthBad (s : State) (i : Instr) (op : Nat) (d a : Operand) (k : Nat) : Bool :=
  let c := s.cc k
  c.run == .running && !c.halting && c.trapping.isNone && c.gbar.isNone && c.regs.ready i.shape
    && isFarSpace (s.capSrc a).space && !(atomBytes op d == 4 || (atomBytes op d == 8 && op != 0xCB))

/-- An atomic in either site (R283, R285, R287). -/
def runAtomic (i : Instr) (op : Nat) (d a b : Operand) (m : BitVec 4) (s : State) : Out3 :=
  let r := runBoth i (fun s => match s.site with
    | .ctx k e c _ => requestEff op d (some a) (some b) m true k e c s
    | .cc _ => none) (fun s => match s.site with
    | .cc k => atomicEff i op d a b m k s
    | .ctx .. => none) s
  match s.site with
  | .cc k => if i.wf .cc && s.farWidthBad i op d a k then .next (s.raise k 0x002 (BitVec.ofNat 64 ((encode i).getD 0).toNat) (s.cc k).pc) else r
  | .ctx .. => r

/-- AADD (R283). -/
def execAadd (g : BitVec 16) (d a b : Operand) (m : BitVec 4) (s : State) : Out3 := runAtomic (.aadd g d a b m) 0xC4 d a b m s
/-- AMIN (R283). -/
def execAmin (g : BitVec 16) (d a b : Operand) (m : BitVec 4) (s : State) : Out3 := runAtomic (.amin g d a b m) 0xC5 d a b m s
/-- AMAX (R283). -/
def execAmax (g : BitVec 16) (d a b : Operand) (m : BitVec 4) (s : State) : Out3 := runAtomic (.amax g d a b m) 0xC6 d a b m s
/-- AAND (R283). -/
def execAand (g : BitVec 16) (d a b : Operand) (m : BitVec 4) (s : State) : Out3 := runAtomic (.aand g d a b m) 0xC7 d a b m s
/-- AOR (R283). -/
def execAor (g : BitVec 16) (d a b : Operand) (m : BitVec 4) (s : State) : Out3 := runAtomic (.aor g d a b m) 0xC8 d a b m s
/-- AXOR (R283). -/
def execAxor (g : BitVec 16) (d a b : Operand) (m : BitVec 4) (s : State) : Out3 := runAtomic (.axor g d a b m) 0xC9 d a b m s
/-- AXCHG (R283). -/
def execAxchg (g : BitVec 16) (d a b : Operand) (m : BitVec 4) (s : State) : Out3 := runAtomic (.axchg g d a b m) 0xCA d a b m s
/-- ACAS (R283, R284). -/
def execAcas (g : BitVec 16) (d a b : Operand) (m : BitVec 4) (s : State) : Out3 := runAtomic (.acas g d a b m) 0xCB d a b m s
/-- AFADD (R283, R284). -/
def execAfadd (g : BitVec 16) (d a b : Operand) (m : BitVec 4) (s : State) : Out3 := runAtomic (.afadd g d a b m) 0xCC d a b m s

/-! ### Fences and ordering tokens (R290, R291) -/

/-- FENCE (R291): the control core waits for its earlier accesses; in an element the flight waits for the context's requests.
DESIGN CHOICE: notes/assumptions/5.md. -/
def execFence (g : BitVec 16) (d : Option Operand) (a : Operand) (s : State) : Out3 :=
  runBoth (.fence g d a)
    (fun s =>
      let e := match d with
        | some (.port p _) => [Out.ctok p.toNat true s.ctxNo false]
        | _ => []
      some ({ outs := e, fence := true }, s))
    (fun s => match s.site with
      | .cc k => if !s.allPerformed k then none else some ({}, .next, s)
      | .ctx .. => none) s

/-- JOIN (R290): both heads are consumed; the AND of their values is sent. -/
def execJoin (g : BitVec 16) (d a b : Operand) (s : State) : Out3 :=
  runFabric (.join g d a b) (fun _ _ c s => some (({} : Eff).put c d (b2n ((s.src a).raw == 1 && (s.src b).raw == 1)), s)) s

/-- FORK (R290): the head is copied and stays. -/
def execFork (g : BitVec 16) (d a : Operand) (s : State) : Out3 :=
  runFabric (.fork g d a) (fun _ _ c s => some (({} : Eff).put c d (s.src a).raw, s)) s

end Sys2Proof.Machine
end

