-- ==== Sys2Proof/Machine/CapInstr.lean ====
section
/-! DEFINITION. Row 0xD: capability instructions (spec/14 R292 to R295). -/
namespace Sys2Proof.Machine

/-- R293: a capability with another length. -/
def Cap.withLen (c : Cap) (n : Nat) : Cap := { c with raw := BitVec.ofNat 128 (setBits c.raw.toNat 24 40 n) }

/-- R293: a capability whose base has advanced. -/
def Cap.advance (c : Cap) (n : Nat) : Cap :=
  { c with raw := BitVec.ofNat 128 (setBits (setBits c.raw.toNat 64 64 (c.base + n)) 24 40 (c.len - n)) }

/-- R293: a capability with its permissions masked. -/
def Cap.mask (c : Cap) (k : Nat) : Cap := { c with raw := BitVec.ofNat 128 (setBits c.raw.toNat 16 8 (c.perms &&& k)) }

/-- R293: the result of a deriving member: R with tag 1 when it is granted and C is tagged, else C's bits with tag 0. -/
def derive (ok : Bool) (r c : Cap) : Cap := if ok && c.tag then { r with tag := true } else { c with tag := false }

/-- CSETB's result (R293). -/
def csetb (c : Cap) (n : Nat) : Cap := derive (n ≤ c.len) (c.withLen n) c
/-- CSUB's result (R293). -/
def csub (c : Cap) (n : Nat) : Cap := derive (n ≤ c.len) (c.advance n) c
/-- CANDP's result (R293). -/
def candp (c : Cap) (k : Nat) : Cap := derive true (c.mask (k % 256)) c
/-- CTEST's result (R294). -/
def ctest (c : Cap) (k : Nat) : Bool := c.tag && c.perms &&& (k % 256) == k % 256

/-- CSETB (R293). -/
def execCsetb (g : BitVec 16) (d a b : Operand) (s : State) : Out3 :=
  run (.csetb g d a b) (fun s => ({} : Eff).putCap d (csetb (s.capSrc a) (s.src b).ownZ)) s

/-- CANDP (R293). -/
def execCandp (g : BitVec 16) (d a b : Operand) (s : State) : Out3 :=
  run (.candp g d a b) (fun s => ({} : Eff).putCap d (candp (s.capSrc a) ((s.src b).to .z 8))) s

/-- CGETB (R294). -/
def execCgetb (g : BitVec 16) (d a : Operand) (s : State) : Out3 :=
  run (.cgetb g d a) (fun s => quietOf s d (zext (s.capSrc a).base (destWidth d))) s

/-- CGETL (R294). -/
def execCgetl (g : BitVec 16) (d a : Operand) (s : State) : Out3 :=
  run (.cgetl g d a) (fun s => quietOf s d (zext (s.capSrc a).len (destWidth d))) s

/-- CGETP (R294). -/
def execCgetp (g : BitVec 16) (d a : Operand) (s : State) : Out3 :=
  run (.cgetp g d a) (fun s => quietOf s d (zext (bits (s.capSrc a).raw.toNat 23 12) (destWidth d))) s

/-- CTEST (R294). -/
def execCtest (g : BitVec 16) (d a b : Operand) (s : State) : Out3 :=
  run (.ctest g d a b) (fun s => quietOf s d (b2n (ctest (s.capSrc a) ((s.src b).to .z 8)))) s

/-- CMOV (R293). -/
def execCmov (g : BitVec 16) (d a : Operand) (s : State) : Out3 :=
  run (.cmov g d a) (fun s => ({} : Eff).putCap d (derive true (s.capSrc a) (s.capSrc a))) s

/-- CCLR (R293). -/
def execCclr (g : BitVec 16) (d a : Operand) (s : State) : Out3 :=
  run (.cclr g d a) (fun s => ({} : Eff).putCap d (derive false (s.capSrc a) (s.capSrc a))) s

/-- CSUB (R293). -/
def execCsub (g : BitVec 16) (d a b : Operand) (s : State) : Out3 :=
  run (.csub g d a b) (fun s => ({} : Eff).putCap d (csub (s.capSrc a) (s.src b).ownZ)) s

/-- CLDC (R295). -/
def execCldc (g : BitVec 16) (d a b : Operand) (s : State) : Out3 :=
  runControl (.cldc g d a b) (fun k s =>
    tileAccess a b 16 pCL 0 true true (fun addr =>
      some ({ ({} : Eff).putCap d (s.loadCap (tileLoc k addr)) with extra := s.bankWait k (partsOf addr 16) }, .next, s.serve k 0 (partsOf addr 16))) k s) s

/-- CSTC (R295, R257): the unit takes the field's bits and tag. -/
def execCstc (g : BitVec 16) (d a b : Operand) (s : State) : Out3 :=
  runControl (.cstc g d a b) (fun k s =>
    tileAccess a b 16 pCS 0 true false (fun addr =>
      some ({}, .next, (s.storeCap (tileLoc k addr) (s.capSrc d)).serve k 0 (partsOf addr 16))) k s) s

end Sys2Proof.Machine
end

