-- ==== Sys2Proof/Machine/FlowOps.lean ====
section
/-! DEFINITION. Row 0x7: control flow (spec/05 R110 to R114; return prediction, spec/01 R27). -/
namespace Sys2Proof.Machine

/-- R31, R110: a PC-relative target, modulo 2^32. -/
def relTarget (pc : BitVec 32) (off : Int) : Nat := wrap ((pc.toNat : Int) + 8 * off) 32

/-- R20: a transfer to a target; a misaligned one traps, and the instruction changes nothing. -/
def jumpTo (f : Eff) (t delay : Nat) (s s' : State) : Eff × Flow × State :=
  if t % 8 = 0 then (f, .jump t delay, s') else ({}, .trap 0x004 t, s)

/-- R27: s120:8, the link operand of the calling convention. -/
def isLink (o : Operand) : Bool := o == .slice 120 7

/-- R27: a call pushes its return PC; a ninth entry discards the oldest. -/
def ControlCore.push (c : ControlCore) (pc : BitVec 32) : ControlCore := { c with ras := (pc :: c.ras).take 8 }

/-- BR (R110). -/
def execBr (g : BitVec 16) (off : BitVec 36) (s : State) : Out3 :=
  runControl (.br g off) (fun k s => some (jumpTo {} (relTarget (s.cc k).pc off.toInt) 2 s s)) s

/-- JMP (R110): the target is A read Z at 32 bits. -/
def execJmp (g : BitVec 16) (a : Operand) (s : State) : Out3 :=
  runControl (.jmp g a) (fun _ s => some (jumpTo {} ((s.src a).to .z 32) 2 s s)) s

/-- R110: the link value. -/
def linkOf (s : State) (k : Nat) (d : Operand) : Eff := quietOf s d (zext ((s.cc k).pc + 8).toNat (destWidth d))

/-- JAL (R110, R27). -/
def execJal (g : BitVec 16) (d : Operand) (off : BitVec 24) (s : State) : Out3 :=
  runControl (.jal g d off) (fun k s =>
    let s' := if isLink d then s.modCc k fun c => c.push (c.pc + 8) else s
    some (jumpTo (linkOf s k d) (relTarget (s.cc k).pc off.toInt) 2 s s')) s

/-- R27, R114: JALR's return prediction: the stack afterwards and the cycles until the next issue. -/
def predict (c : ControlCore) (d a : Operand) (t : Nat) : ControlCore × Nat :=
  if isLink d then (c.push (c.pc + 8), 2)
  else if isLink a then
    match c.ras with
    | p :: r => ({ c with ras := r }, if p.toNat = t then 2 else 4)
    | [] => (c, 2)
  else (c, 2)

/-- JALR (R110, R27, R114). -/
def execJalr (g : BitVec 16) (d a : Operand) (s : State) : Out3 :=
  runControl (.jalr g d a) (fun k s =>
    let t := (s.src a).to .z 32
    let p := predict (s.cc k) d a t
    some (jumpTo (linkOf s k d) t p.2 s (s.modCc k fun _ => p.1))) s

/-- LOOP (R111). -/
def execLoop (g : BitVec 16) (d a : Operand) (s : State) : Out3 :=
  runControl (.loop g d a) (fun k s =>
    let w := destWidth d
    let c := wrap ((s.src d).val .z w - 1) w
    let f := quietOf s d c
    if c = 0 then some (f, .next, s)
    else some (jumpTo f (relTarget (s.cc k).pc (sext (s.src a).raw 8)) 2 s s)) s

/-- R112: the slices and predicates that WAITP names. -/
def namedState (a : Operand) : BitVec 512 × BitVec 8 :=
  match a with
  | .slice p c => (sliceMask p.toNat (c.toNat + 1), 0)
  | .pred p => (0, BitVec.ofNat 8 (2 ^ p.toNat))
  | _ => (0, 0)

/-- R112: some of the named state is pending. -/
def Regs.anyPending (r : Regs) (m : BitVec 512) (p : BitVec 8) : Bool := r.pending &&& m != 0 || r.pendingPreds &&& p != 0

/-- WAITP (R112): the PC stays at the WAITP while the core waits (spec/21 R372), and passes it when the wait ends. -/
def execWaitp (g : BitVec 16) (a : Operand) (s : State) : Out3 :=
  runControl (.waitp g a) (fun k s =>
    let n := namedState a
    if (s.cc k).regs.anyPending n.1 n.2 then
      some ({}, .jump (s.cc k).pc.toNat 1, s.modCc k fun c => { c with run := .waiting, wait := .pending n.1 n.2 })
    else some ({}, .next, s)) s

/-- R113: the core halts once every earlier instruction has written back. -/
def ControlCore.halt (c : ControlCore) : ControlCore :=
  if c.regs.drained then { c with run := .halted, halting := false } else { c with halting := true }

/-- HALT (R113). -/
def execHalt (g : BitVec 16) (s : State) : Out3 :=
  runControl (.halt g) (fun k s => some ({}, .next, s.modCc k ControlCore.halt)) s

/-- NOP (R113): no effect; in an element it spends a light token. -/
def execNop (g : BitVec 16) (s : State) : Out3 := run (.nop g) (fun _ => {}) s

end Sys2Proof.Machine
end

