-- ==== Sys2Proof/Machine/Xlate.lean ====
section
/-! DEFINITION. Translation and the places of memory: spaces (spec/18 R344), walks (R346), translation caches (R347), the indirection table
(R352, R353), block copies (R355 to R357), windows (spec/24 R423, R424). -/
namespace Sys2Proof.Machine

/-- A partition; one that the map does not list stands as package reset leaves it. -/
def State.part (s : State) (p : Nat) : Part := s.parts.getD p {}

def State.modPart (s : State) (p : Nat) (f : Part → Part) : State := { s with parts := s.parts.set p (f (s.part p)) }

/-! ### The indirection table -/

/-- Frames of 64 KiB of an HBM stack of 64 GB, and of the second tier of 1 TB (spec/00). DESIGN CHOICE: notes/assumptions/40.md. -/
def hbmFrames : Nat := 976562
def tierFrames : Nat := 15625000

/-- The stack that holds an HBM frame. DESIGN CHOICE: notes/assumptions/40.md. -/
def frameStack (f : Nat) : Nat := f / hbmFrames % 8

/-- R358: the atoms that the remap table of a stack's base die holds. -/
def State.remapped (s : State) (stack : Nat) : Nat := (s.remaps.filter fun r => frameStack (r.2 / 2 ^ 16) == stack).length

/-- R358: HBM atom `a` may be remapped: it is not yet, and its base die's table has an entry free. DEDUCED: notes/assumptions/45.md. -/
def State.remapFree (s : State) (a : Nat) : Bool := !s.remaps.contains (0, a) && s.remapped (frameStack (a / 2 ^ 16)) < 8192

/-- R352: the entry of a block. -/
def State.indirEntry (s : State) (blk : Nat) : Nat := (s.indir.getD blk 0).toNat

/-- R352: fields of an entry. -/
def entBacked (e : Nat) : Bool := bit e 31
def entTier (e : Nat) : Bool := bit e 30
def entMig (e : Nat) : Bool := bit e 29
def entPin (e : Nat) : Bool := bit e 28
def entFrame (e : Nat) : Nat := bits e 24 0

/-- R352: an entry from its fields. -/
def mkEnt (tier mig pin : Bool) (frame : Nat) : BitVec 32 :=
  BitVec.ofNat 32 (2 ^ 31 + b2n tier * 2 ^ 30 + b2n mig * 2 ^ 29 + b2n pin * 2 ^ 28 + frame % 2 ^ 25)

/-- R353: where a device-physical address stands, as a location of the model's memory; none raises XLATE_UNBACKED. -/
def State.media (s : State) (d : Nat) : Option Nat :=
  if 2 ^ 41 ≤ d then none
  else
    let e := s.indirEntry (d / 2 ^ 16)
    if entBacked e then some (mediaLoc (b2n (entTier e)) (entFrame e * 2 ^ 16 + d % 2 ^ 16)) else none

/-- R354: an access of an atom counts for its block, up to 2^16 − 1. DEDUCED: notes/assumptions/43.md. -/
def State.heatUp (s : State) (d : Nat) : State :=
  { s with heat := s.heat.set (d / 2 ^ 16) (min 65535 (s.heat.getD (d / 2 ^ 16) 0 + 1)) }

/-- The copy of a block in progress (R355). -/
def State.copyOf (s : State) (blk : Nat) : Option Copy := s.copies.find? fun c => c.blk == blk

/-- R356: bytes written at a device-physical address: mirrored to the new frame while the block is copied. DEDUCED: notes/assumptions/44.md. -/
def State.putDpa (s : State) (d : Nat) (v : List Byte) : State :=
  let s' := match s.media d with
    | some x => s.put x v
    | none => s
  match s.copyOf (d / 2 ^ 16) with
  | some c => s'.put (mediaLoc (b2n c.tier) (c.frame * 2 ^ 16 + d % 2 ^ 16)) v
  | none => s'

/-! ### Walks -/

/-- R346: what an access needs of the leaf: bits R, W, AT, X as they stand in the entry's [5:2]. -/
def needR : Nat := 1
def needW : Nat := 2
def needAT : Nat := 7
def needX : Nat := 9

/-- The result of a translation. -/
abbrev Xl := Except Nat Nat

/-- R347: a cached entry that the cache still holds. -/
def State.cached (s : State) (cache part space lvl va : Nat) : Option Nat :=
  (s.xcache.find? fun x => x.cache == cache && x.part == part && x.space == space && x.lvl == lvl && x.va == va).map XEntry.pte

/-- R347: entries of a cache: 4,096 at a memory edge, 1,024 at a base die. -/
def cacheSize (cache : Nat) : Nat := if cache < 4 then 4096 else 1024

/-- R347: a valid entry is kept in the cache that read it, in place of its oldest when it is full. DEDUCED: notes/assumptions/42.md. -/
def State.keep (s : State) (x : XEntry) : State :=
  let own := s.xcache.filter fun y => y.cache == x.cache && !(y.part == x.part && y.space == x.space && y.lvl == x.lvl && y.va == x.va)
  let rest := s.xcache.filter fun y => y.cache != x.cache
  { s with xcache := (x :: own.take (cacheSize x.cache - 1)) ++ rest }

/-- R346, R353: an entry read from a table. DESIGN CHOICE: notes/assumptions/6.md. -/
def State.readPte (s : State) (d : Nat) : Xl :=
  match s.media d with
  | none => .error 0x214
  | some x => if (s.unreadable x 8).isSome then .error 0x3E0 else .ok (s.load x 8)

/-- R354: the read of a table's atom by a walk counts for its block. DEDUCED: notes/assumptions/43.md. -/
def State.heatPte (s : State) (d : Nat) : State := if (s.media d).isSome then s.heatUp d else s

/-- R347, R354: the entry for a level read from memory, and kept when it is valid. DEDUCED: notes/assumptions/42.md. -/
def State.walkPte (s : State) (cache part space lvl va d : Nat) : Xl × State :=
  let e := s.readPte d
  let s := s.heatPte d
  (e, match e with
    | .ok w => if bit w 0 then s.keep ⟨cache, part, space, lvl, va, w⟩ else s
    | .error _ => s)

/-- R347: the entry for a level: from the cache while it keeps it, else from memory. DEDUCED: notes/assumptions/42.md. -/
def State.pteAt (s : State) (cache part space lvl va d : Nat) : Xl × State :=
  match s.cached cache part space lvl va with
  | some e =>
    let (n, s') := s.draw
    if Config.cacheKeeps n then (.ok e, s') else s'.walkPte cache part space lvl va d
  | none => s.walkPte cache part space lvl va d

/-- R345: the reserved bits of an entry are 0. -/
def pteClean (e : Nat) : Bool := bits e 63 44 == 0 && bits e 14 6 == 0

/-- R346: the walk from level `4 − n`. -/
def State.walkFrom (s : State) (cache part space va need : Nat) : Nat → Nat → Xl × State
  | 0, _ => (.error 0x215, s)
  | n + 1, t =>
    let lvl := 3 - n
    let sh := 15 + 12 * n
    match s.pteAt cache part space lvl (va % 2 ^ 51 / 2 ^ sh) (t + 8 * (va / 2 ^ sh % 2 ^ 12)) with
    | (.error x, s') => (.error x, s')
    | (.ok e, s') =>
      if !bit e 0 then (.error 0x210, s')
      else if !pteClean e then (.error 0x215, s')
      else if bit e 1 then
        if bits e 43 15 % 2 ^ (sh - 15) != 0 then (.error 0x215, s')
        else if bits e 5 2 &&& need != need then (.error 0x211, s')
        else (.ok (bits e 43 15 * 2 ^ 15 + va % 2 ^ sh), s')
      else if n = 0 || bits e 5 2 != 0 then (.error 0x215, s')
      else s'.walkFrom cache part space va need n (bits e 43 15 * 2 ^ 15)

/-- R343, R346: a virtual address translated to a device-physical address of a partition. -/
def State.walk (s : State) (cache part space va need : Nat) : Xl × State :=
  if !canonical va then (.error 0x212, s)
  else s.walkFrom cache part space va need 3 (if space = 3 then (s.part part).root3 else (s.part part).root2)

/-! ### Places -/

/-- Where an access lands: a location of the model's memory, with its device-physical address when it has one; or another package. -/
inductive Place where
  | loc (x : Nat) (dpa : Option Nat)
  | remote (pkg : Nat) (addr : Nat)
deriving DecidableEq, Repr

/-- R353: the place of a device-physical address. -/
def State.placeDpa (_ : State) (r : Xl × State) : Except Nat Place × State :=
  match r with
  | (.error x, s') => (.error x, s')
  | (.ok d, s') => (match s'.media d with
    | none => .error 0x214
    | some x => .ok (.loc x (some d)), s')

/-- R423: fields of a window entry. -/
def winV (w : Word64 × Word64) : Bool := w.1.getLsbD 63
def winExp (w : Word64 × Word64) : Bool := w.1.getLsbD 62
def winPkg (w : Word64 × Word64) : Nat := bits w.1.toNat 55 50
def winPart (w : Word64 × Word64) : Nat := bits w.1.toNat 49 44
def winSp (w : Word64 × Word64) : Nat := if w.1.getLsbD 43 then 3 else 2
def winPages (w : Word64 × Word64) : Nat := bits w.1.toNat 28 0
def winBase (w : Word64 × Word64) : Nat := bits w.2.toNat 63 15 * 2 ^ 15

/-- R424, step 2: the lowest exported entry of partition `q` for a peer. -/
def State.exported (s : State) (q pkg p : Nat) : Option (Word64 × Word64) :=
  ((s.part q).windows.map fun x => x.2).find? fun w => winV w && winExp w && winPkg w == pkg && winPart w == p

/-! ### Requests to other packages (R420, R422) -/

def State.group (s : State) (g : Nat) : LaneGroup := s.groups.getD g {}
def State.modGroup (s : State) (g : Nat) (f : LaneGroup → LaneGroup) : State := { s with groups := s.groups.set g (f (s.group g)) }

/-- R422: the firmware's routing tables: a port and at most 4 hops to each package. DESIGN CHOICE: notes/assumptions/53.md. -/
def State.buildRoutes (s : State) : State :=
  { s with routes := (upFrom 0 64).map fun p => (p, Config.portRoute (s.free + p) % 16, 1 + Config.portHops (s.free + p) % 4), flows := [], free := s.free + 64 }

/-- R420: the payload of a request, with its flow. DESIGN CHOICE: notes/assumptions/53.md. -/
def requestPayload (flow a : Nat) : BitVec 224 := BitVec.ofNat 224 (flow % 2 ^ 16 + a % 2 ^ 64 * 2 ^ 16)
def payloadFlow (p : BitVec 224) : Nat := bits p.toNat 15 0

/-- R426: what stands in a replay buffer for a dropped payload, whose SEQ it keeps. DESIGN CHOICE: notes/assumptions/53.md. -/
def droppedPayload : BitVec 224 := 0xFFFF
def payloadTo (pkg : Nat) (p : BitVec 224) : Bool := p != droppedPayload && payloadFlow p % 64 == pkg

/-- R426: the flits and the route of a package are dropped. DEDUCED: notes/assumptions/53.md. -/
def State.dropRoutes (s : State) (pkg : Nat) : State :=
  let s : State := { s with routes := s.routes.filter fun r => r.1 != pkg, flows := s.flows.filter fun f => f.1 % 64 != pkg }
  (upFrom 48 16).foldl (fun (s : State) g => s.modGroup g fun x => { x with
    waiting := x.waiting.filter fun p => !payloadTo pkg p
    buffer := x.buffer.map fun f => if payloadTo pkg f.body then { f with body := droppedPayload } else f }) s

/-- R422: some flit of a flow on a port is not acknowledged. -/
def State.flowHeld (s : State) (port flow : Nat) : Bool :=
  let x := s.group (48 + port)
  (x.waiting ++ x.buffer.map Flit.body).any fun p => payloadFlow p == flow

/-- R422: the port of a flow: it leaves a port that retrains once all its flits are acknowledged. DEDUCED: notes/assumptions/53.md. -/
def State.flowPort (s : State) (flow : Nat) : Nat :=
  let p := s.flows.getD flow (((s.routes.get? (flow % 64)).map fun r => r.1).getD 0)
  let down (n : Nat) : Bool := (s.ports.getD n {}).retraining
  if down p && !s.flowHeld p flow then (((upFrom 1 15).map fun i => (p + i) % 16).find? fun n => !down n).getD p else p

/-- R420, R422: a request of core `k` to another package is handed to the port of its flow. DEDUCED: notes/assumptions/53.md. -/
def State.portSend (s : State) (k pkg a : Nat) : State :=
  let flow := k * 64 + pkg % 64
  let p := s.flowPort flow
  ({ s with flows := s.flows.set flow p } : State).modGroup (48 + p) fun x => { x with waiting := x.waiting ++ [requestPayload flow a] }

/-- R424, R426: an access through a window. A peer that is this package is walked here. Another package is outside the model: it answers with a fault or
none, or, as cause 0, not at all, and the domain timeout begins.
DESIGN CHOICE: notes/assumptions/39.md. -/
def State.placePeer (s : State) (cache k part a need : Nat) : Except Nat Place × State :=
  if bits a 63 50 != 0 then (.error 0x210, s)
  else
    match (s.part part).windows.get? (bits a 49 44) with
    | none => (.error 0x210, s)
    | some w =>
      if !winV w then (.error 0x210, s)
      else if s.fenced.contains (winPkg w) then (.error 0x214, s)
      else if winPkg w = s.ownPkg then
        match s.exported (winPart w) s.ownPkg part with
        | none => (.error 0x211, s)
        | some x =>
          let o := a % 2 ^ 44
          if winPages x * 2 ^ 15 ≤ o then (.error 0x210, s)
          else if 2 ^ 64 ≤ winBase x + o then (.error 0x212, s)
          else s.placeDpa (s.walk cache (winPart w) (winSp x) (winBase x + o) need)
      else
        let (n, s') := (s.portSend k (winPkg w) a).draw
        let f := [0, 0x210, 0x211, 0x212, 0x214, 0x215, 0x3E0].getD ((Config.remoteFault n).toNat % 7) 0
        if Config.remoteSilent n then (.error 0, s'.after (usCycles s.dtmo) (.silent (winPkg w)))
        else (if f = 0 then .ok (.remote (winPkg w) (a % 2 ^ 44)) else .error f, s')

/-- R344, R430: the place of an address in a space, for an agent of core `k`. A space-4 access leaves as a memory request of its partition's function.
DESIGN CHOICE: notes/assumptions/46.md. -/
def State.place (s : State) (cache k part space a need : Nat) : Except Nat Place × State :=
  match space with
  | 1 => (.ok (.loc (tileLoc k a) none), s)
  | 2 => s.placeDpa (s.walk cache part 2 a need)
  | 3 => s.placeDpa (s.walk cache part 3 a need)
  | 7 => s.placeDpa (s.walk cache part 2 a (needX ||| need))
  | 8 => s.placeDpa (.ok a, s)
  | 4 => (.ok (.loc (hostLoc a) none), { s with hostReqs := s.hostReqs ++ [(part, a)] })
  | 5 =>
    let lc := bits a 29 22
    (match (s.part part).cores[lc]? with
      | some c => if (s.part part).removed.contains lc then .error 0x302 else .ok (.loc (tileLoc c (a % 2 ^ 22)) none)
      | none => .error 0x302, s)
  | 6 => s.placePeer cache k part a need
  | _ => (.error 0x202, s)

/-- A free byte per address of another package. -/
def State.remoteBytes (s : State) : Nat → List Byte × State
  | 0 => ([], s)
  | n + 1 =>
    let (i, s') := s.draw
    let (r, s'') := State.remoteBytes s' n
    (Config.remoteByte i :: r, s'')

/-- R321, R389: bytes read at a place; poison gives MACHINE_CHECK. DESIGN CHOICE: notes/assumptions/5.md. -/
def State.readPlace (s : State) (p : Place) (n : Nat) : Except Nat (List Byte) × State :=
  match p with
  | .remote _ _ => let r := s.remoteBytes n; (.ok r.1, r.2)
  | .loc x d =>
    let s' := match d with
      | some a => s.heatUp a
      | none => s
    if (s.unreadable x n).isSome then (.error 0x3E0, s') else (.ok (memBytes s.mem x n), s')

/-- R306: bytes stored at a place; a write to another package leaves this package alone.
DESIGN CHOICE: notes/assumptions/5.md. DEDUCED: notes/assumptions/41.md. -/
def State.storePlace (s : State) (p : Place) (v : List Byte) : State :=
  match p with
  | .remote _ _ => s
  | .loc x d => (match d with
    | some a => s.putDpa a v
    | none => s.put x v)

/-- R354: a write of an atom counts as one access. DEDUCED: notes/assumptions/41.md. -/
def State.writePlace (s : State) (p : Place) (v : List Byte) : State :=
  match p with
  | .loc _ (some a) => (s.heatUp a).storePlace p v
  | _ => s.storePlace p v

/-- R357: a write that meets a block being copied through a direct path. -/
def State.parks (s : State) (space : Nat) (p : Place) : Bool :=
  space == 8 && (match p with
    | .loc _ (some d) => entMig (s.indirEntry (d / 2 ^ 16))
    | _ => false)

/-- R309, R344: bytes read through a space, page by page in 32-byte atoms, for fills and loaders: the bytes, or the fault with its
address. DESIGN CHOICE: notes/assumptions/18.md. -/
def State.fetchBytes (s : State) (cache k part space : Nat) (a : Nat) (need : Nat) : Nat → Except (Nat × Nat) (List Byte) × State
  | 0 => (.ok [], s)
  | n + 1 =>
    match s.place cache k part space a need with
    | (.error x, s') => (.error (x, a), s')
    | (.ok p, s') =>
      match s'.readPlace p (32 - a % 32) with
      | (.error x, s'') => (.error (x, a), s'')
      | (.ok v, s'') =>
        match State.fetchBytes s'' cache k part space (a + (32 - a % 32)) need n with
        | (.error x, t) => (.error x, t)
        | (.ok r, t) => (.ok (v ++ r), t)

/-- `n` bytes read from an address of a space. -/
def State.fetch (s : State) (cache k part space a need n : Nat) : Except (Nat × Nat) (List Byte) × State :=
  let r := s.fetchBytes cache k part space a need ((a % 32 + n + 31) / 32)
  (match r.1 with
    | .ok v => .ok (v.take n)
    | .error x => .error x, r.2)

/-- The words of a byte list. -/
def wordsOf (v : List Byte) : Nat → List Word64
  | 0 => []
  | n + 1 => BitVec.ofNat 64 (ofBytes (v.take 8)) :: wordsOf (v.drop 8) n

end Sys2Proof.Machine
end

