-- ==== Sys2Proof/Machine/EngineInstr.lean ====
section
/-! DEFINITION. Row 0xE: the issue of engine commands (spec/17 R315 to R341). What a command does once it has issued stands in
Engines.lean. -/
namespace Sys2Proof.Machine

/-! ### Queues (R315) -/

def Core.engine (c : Core) (i : Nat) : List Cmd := c.engines.getD i []

def State.modEngine (s : State) (k i : Nat) (f : List Cmd → List Cmd) : State :=
  s.modCore k fun c => { c with engines := modAt c.engines i f }

/-- Every command of a core. -/
def Core.cmds (c : Core) : List Cmd := c.engines.flatten

/-- A command by the number of its token. -/
def Core.cmd? (c : Core) (id : Nat) : Option Cmd := c.cmds.find? fun m => m.id == id

def State.modCmd (s : State) (k id : Nat) (f : Cmd → Cmd) : State :=
  s.modCore k fun c => { c with engines := c.engines.map fun q => q.map fun m => if m.id == id then f m else m }

/-- R315: the engine that a command goes to, or nothing while its queue is full. -/
def Core.engineFor (c : Core) (op : Nat) : Option Nat :=
  let n (i : Nat) := (c.engine i).length
  let of (i p : Nat) := ((c.engine i).filter fun m => m.op == p).length
  match op with
  | 0xE4 => if n 2 < 4 then some 2 else none
  | 0xE5 => if of 4 0xE5 < 4 then some 4 else none
  | 0xE6 => if of 3 0xE6 < 8 then some 3 else none
  | 0xE7 => if of 3 0xE7 < 8 then some 3 else none
  | 0xE9 => if of 4 0xE9 < 4 then some 4 else none
  | 0xED => if of 4 0xED < 16 then some 4 else none
  | _ =>
    let i := if n 1 < n 0 then 1 else 0
    if n i < 8 then some i else none

/-- R317: the token operand: 16 slices, pending until the engine writes them. DESIGN CHOICE: notes/assumptions/64.md. -/
def tokenEff (d : Operand) : Eff := { ({} : Eff).put 0 d 0 with async := true }

/-- The start slice of an operand. -/
def startOf (d : Operand) : Nat :=
  match d with
  | .slice p _ => p.toNat
  | _ => 0

/-- R316: an engine instruction that has issued from `s`: the next follows 2 cycles later. DESIGN CHOICE: notes/assumptions/64.md. -/
def issued (k : Nat) (s : State) (f : Eff) (s' : State) : Option (Eff × Flow × State) := some (f, .jump ((s.cc k).pc + 8).toNat 2, s')

/-- R315, R316: a command enters its engine's queue, or waits at issue for a place. The banks of its block or message hold the issue stage
for each cycle in which they are busy. -/
def enqueue (k : Nat) (f : Eff) (banks : List Nat) (m : Cmd) (s : State) : Option (Eff × Flow × State) :=
  match (s.core k).engineFor m.op with
  | none => none
  | some i => some (f, .jump ((s.cc k).pc + 8).toNat (2 + s.bankWait k banks), (s.modEngine k i (· ++ [{ m with owner := (s.cc k).member }])).serve k 0 banks)

/-- The launch that a control core runs for. -/
def State.launchOf (s : State) (k : Nat) : Option (Nat × Launch) :=
  match (s.cc k).member with
  | some (l, _) => (s.launches.get? l).map fun x => (l, x)
  | none => none

/-- The gang size of the launch of a control core; a core without a launch counts as a gang of 1. -/
def State.gangOf (s : State) (k : Nat) : Nat := ((s.launchOf k).map fun p => p.2.gang).getD 1

/-- The member number of a control core. -/
def State.memberOf (s : State) (k : Nat) : Nat := ((s.cc k).member.map fun p => p.2).getD 0

/-! ### Checks at issue (R319) -/

/-- R319: EO never fails a command: the operand as R258 checks it. -/
def Cap.noEo (c : Cap) : Cap := { c with raw := BitVec.ofNat 128 (setBits c.raw.toNat 21 1 0) }

/-- R319, check 1: the block's tile address, or the cause that fails. -/
def blockCheck (t c : Cap) (o : Int) (n need : Nat) : Except Nat Nat :=
  match capCheck c.noEo o n need false with
  | some x => .error x
  | none =>
    let a := c.base + o.toNat
    if !inTile t a n then .error 0x201 else if a % 64 != 0 then .error 0x203 else .ok a

/-- R319, check 2: the byte offset of the first field that is not within its limits. DEDUCED: notes/assumptions/38.md. -/
def firstBad (l : List (Nat × Bool)) : Option Nat := (l.find? fun p => !p.2).map fun p => p.1

/-- R319, check 3: a capability of the block has its tag, an allowed space and its permission. DEDUCED: notes/assumptions/38.md. -/
def useCheck (c : Cap) (spaces : List Nat) (need : Nat) : Option Nat :=
  if !c.tag then some 0x200 else if !spaces.contains c.space then some 0x202 else if c.perms &&& need != need then some 0x202 else none

/-- R319, check 4: `n` bytes at offset `o` lie within a capability, and within $TILECAP when they are tile memory. -/
def rangeOk (t c : Cap) (o : Int) (n : Nat) : Bool :=
  0 ≤ o && o + n ≤ c.len && (c.space != 1 || inTile t (c.base + o.toNat) n)

/-- The words of a command block, with its two capabilities (R324). -/
structure BlockWords where
  c0 : Cap
  c1 : Cap
  p : List Word64
deriving DecidableEq, Repr

def BlockWords.P (b : BlockWords) (i : Nat) : Nat := (b.p.getD i 0).toNat

/-- R318: the block as it stands in tile memory at issue. -/
def State.block (s : State) (k a : Nat) : BlockWords :=
  { c0 := s.loadCap (tileLoc k a), c1 := s.loadCap (tileLoc k (a + 16)), p := (upFrom 0 4).map fun i => BitVec.ofNat 64 (s.load (tileLoc k (a + 32 + 8 * i)) 8) }

/-- What R324 asks of a command's block: the fields in ascending order, each capability's spaces and permissions (no spaces: not used), and
the ranges named in each. -/
structure BlockRule where
  fields : List (Nat × Bool)
  sp0 : List Nat
  need0 : Nat
  sp1 : List Nat
  need1 : Nat
  r0 : List (Int × Nat)
  r1 : List (Int × Nat)
deriving DecidableEq, Repr

/-- R319, checks 2 to 4, in order: the cause and $EVAL of the first that fails. -/
def ruleCheck (t : Cap) (b : BlockWords) (r : BlockRule) : Option (Nat × Nat) :=
  match firstBad r.fields with
  | some o => some (0x300, o)
  | none =>
    match (if r.sp0.isEmpty then none else useCheck b.c0 r.sp0 r.need0) with
    | some x => some (x, 0)
    | none =>
      match (if r.sp1.isEmpty then none else useCheck b.c1 r.sp1 r.need1) with
      | some x => some (x, 16)
      | none =>
        if !(r.r0.all fun p => rangeOk t b.c0 p.1 p.2) then some (0x201, 0)
        else if !(r.r1.all fun p => rangeOk t b.c1 p.1 p.2) then some (0x201, 16)
        else none

/-- A signed 32-bit field. -/
def s32 (x : Nat) : Int := sext x 32

/-- R325: the first and the last of the rows' ranges; every other row lies between them. -/
def rowRanges (o stride : Int) (rows len : Nat) : List (Int × Nat) :=
  if rows = 0 || len = 0 then [] else [(o, len), (o + (rows - 1 : Nat) * stride, len)]

/-- R324, R325: DMA. -/
def dmaRule (b : BlockWords) : BlockRule :=
  { fields := [], sp0 := [1, 2, 3, 4, 6, 7, 8], need0 := pRD, sp1 := [1, 2, 3, 4, 5, 6, 8], need1 := pWR
    r0 := rowRanges (b.P 0) (s32 (bits (b.P 3) 63 32)) (bits (b.P 2) 63 32) (bits (b.P 2) 31 0)
    r1 := rowRanges (b.P 1) (s32 (bits (b.P 3) 31 0)) (bits (b.P 2) 63 32) (bits (b.P 2) 31 0) }

/-- R326: the number of segments of a stream FIFO, and its first bank. -/
def fifoSegs (p3 : Nat) : Nat := bits p3 2 0 + 1
def fifoBank (c1 : Cap) (p1 seg : Nat) : Nat := (c1.base + p1) / 2 ^ 17 + seg

/-- R324, R326: DMAS. The ring is whole banks, so that they must lie within C1. DEDUCED: notes/assumptions/38.md. -/
def dmasRule (b : BlockWords) : BlockRule :=
  let out := bit (b.P 3) 3
  { fields := [(40, b.P 1 % 0x20000 == 0), (48, b.P 2 % 32 == 0), (56, bits (b.P 3) 2 0 != 0), (56, !bit (b.P 3) 7), (57, bits (b.P 3) 63 14 == 0)]
    sp0 := [2, 3, 4, 6, 8], need0 := if out then pWR else pRD, sp1 := [1], need1 := if out then pRD else pWR
    r0 := [((b.P 0 : Int), b.P 2)], r1 := [((fifoBank b.c1 (b.P 1) 0 * 2 ^ 17 : Nat) - (b.c1.base : Int), fifoSegs (b.P 3) * 2 ^ 17)] }

/-- R324, R328: GATH and SCAT. -/
def gathRule (scat : Bool) (b : BlockWords) : BlockRule :=
  let e := bits (b.P 2) 23 0
  let n := bits (b.P 2) 63 32
  { fields := [(48, e % 32 == 0 && 32 ≤ e && e ≤ 65536), (51, bits (b.P 2) 27 24 == 0), (51, bits (b.P 2) 31 28 ≤ 1),
               (60, bits (b.P 3) 63 32 % 32 == 0)]
    sp0 := [2, 3, 8], need0 := if scat then pRD + pWR else pRD, sp1 := [1], need1 := if scat then pRD else pWR
    r0 := [((b.P 0 : Int), n * (if bits (b.P 2) 31 28 = 0 then 4 else 8))]
    r1 := [((bits (b.P 3) 31 0 : Nat), n * e)] }

/-- R324, R329: STAGE; the entries of its list are checked when they are reached. -/
def stageRule (b : BlockWords) : BlockRule :=
  { fields := [(48, b.P 2 == 0), (56, b.P 3 == 0)], sp0 := [2, 7], need0 := pRD, sp1 := [1], need1 := pWR, r0 := [((b.P 0 : Int), 32)], r1 := [] }

/-- R330: fields of COLL's P2. -/
def collCount (p2 : Nat) : Nat := bits p2 63 32
def collOp (p2 : Nat) : Nat := bits p2 31 28
def collKind (p2 : Nat) : Nat := bits p2 27 24
def collFmt (p2 : Nat) : Nat := bits p2 23 20
def collGroup (p2 : Nat) : Nat := bits p2 19 16
def collRoot (p2 : Nat) : Nat := bits p2 15 8

/-- R330: bytes of an element. -/
def collBytes (p2 : Nat) : Nat := if collFmt p2 = 14 then 8 else 4

/-- R330: elements of the source and of the destination of one of `g` members. -/
def collSrc (p2 g : Nat) : Nat := if collKind p2 = 2 then g * collCount p2 else collCount p2
def collDst (p2 g : Nat) : Nat := if collKind p2 = 1 then g * collCount p2 else collCount p2

/-- R330: the source is used: for a broadcast, at ROOT alone. -/
def collUses (p2 m : Nat) : Bool := collKind p2 != 3 || collRoot p2 == m

/-- R324, R330: COLL in a group of `g` members, for member `m`. An empty domain group fails at the engine (R425). -/
def collRule (g m : Nat) (b : BlockWords) : BlockRule :=
  let w := b.P 2
  let f := collFmt w
  { fields := [(48, bits w 7 0 == 0), (49, collKind w != 3 || g == 0 || collRoot w < g), (50, collGroup w ≤ 1), (50, f == 5 || f == 10 || f == 14),
               (51, collKind w ≤ 3), (51, collOp w ≤ 2 || (collOp w ≤ 5 && f == 5)), (60, bits (b.P 3) 63 32 == 0)]
    sp0 := if collUses w m then [1] else [], need0 := pRD, sp1 := [1], need1 := pWR
    r0 := if collUses w m then [((b.P 0 : Int), collSrc w g * collBytes w)] else []
    r1 := [((b.P 1 : Int), collDst w g * collBytes w)] }

/-- The part that every block command shares: checks 1 to 4, then `more`, then the queue. -/
def blockCommand (op : Nat) (d a b : Operand) (m : BitVec 4) (rule : State → Nat → BlockWords → BlockRule)
    (more : State → Nat → BlockWords → Option (Nat × Nat × State)) (init : BlockWords → Cmd → Cmd) (k : Nat) (s : State) :
    Option (Eff × Flow × State) :=
  let o := (s.src b).ownS
  if s.held k then none
  else match blockCheck (s.cc k).tilecap (s.capSrc a) o 64 (pRD + pCL) with
    | .error x => some ({}, .trap x (wrap o 64), s)
    | .ok addr =>
      match s.poisoned k addr 64 with
      | some u => some ({}, .trap 0x3E0 u, s)
      | none =>
        let w := s.block k addr
        match ruleCheck (s.cc k).tilecap w (rule s k w) with
        | some (x, v) => some ({}, .trap x v, s)
        | none =>
          match more s k w with
          | some (x, v, s') => some ({}, .trap x v, s')
          | none =>
            enqueue k (tokenEff d) (partsOf addr 64)
              (init w { id := s.nextId, op := op, dst := startOf d, order := orderOf m, scope := scopeOf m, issued := s.cycle, c0 := w.c0, c1 := w.c1,
                        words := w.p, at_ := s.cycle + 1 })
              s

/-- DMA (R325). -/
def execDma (g : BitVec 16) (d a b : Operand) (m : BitVec 4) (s : State) : Out3 :=
  runControl (.dma g d a b m) (fun k s => blockCommand 0xE0 d a b m (fun _ _ w => dmaRule w) (fun _ _ _ => none) (fun _ c => c) k s) s

/-- R326: the holder of a bank's token as it gates accesses in this cycle (R268). -/
def Core.holder (c : Core) (now b : Nat) : Option Nat :=
  match (if c.tokAt = now then c.tokMoves.find? fun p => p.1 == b else none) with
  | some p => p.2
  | none => c.bankTok.get? b

/-- R268: a bank token moves. DEDUCED: notes/assumptions/16.md. -/
def State.moveToken (s : State) (k b : Nat) (h : Option Nat) : State :=
  s.modCore k fun c =>
    let old := if c.tokAt = s.cycle then c.tokMoves else []
    { c with
      tokAt := s.cycle, tokMoves := if old.any (fun p => p.1 == b) then old else (b, c.bankTok.get? b) :: old
      bankTok := match h with
        | some x => c.bankTok.set b x
        | none => c.bankTok.del b }

/-- R326: fields of DMAS's P3. -/
def fifoReg (p3 : Nat) : Nat := bits p3 6 4
def fifoRow (p3 : Nat) : Nat := bits p3 11 8
def fifoHalf (p3 : Nat) : Nat := bits p3 12 12
def fifoStrm (p3 : Nat) : Nat := bits p3 13 13
def fifoOut (p3 : Nat) : Bool := bit p3 3

/-- R326: REG, ROW, HALF and STRM name a stream: the region exists and holds that half-stripe. -/
def Core.fifoNode (c : Core) (p3 : Nat) : Option Nat :=
  match c.regions.get? (fifoReg p3) with
  | some r => if fifoRow p3 < r.height && (r.wide || fifoHalf p3 == r.half) then some ((r.row0 + fifoRow p3) * 2 + fifoHalf p3) else none
  | none => none

/-- R326: the bank tokens and the stream of a stream FIFO; the spec names no $EVAL for these traps. DESIGN CHOICE: notes/assumptions/18.md. -/
def fifoCheck (s : State) (k : Nat) (w : BlockWords) : Option (Nat × Nat × State) :=
  let c := s.core k
  let (n, s') := s.draw
  if (upFrom 0 (fifoSegs (w.P 3))).any (fun g => c.bankTok.get? (fifoBank w.c1 (w.P 1) g) != some 8) then some (0x303, (Config.freeEval n).toNat, s')
  else if (c.fifoNode (w.P 3)).isNone then some (0x305, (Config.freeEval n).toNat, s')
  else none

/-- DMAS (R326, R327). DESIGN CHOICE: notes/assumptions/18.md. -/
def execDmas (g : BitVec 16) (d a b : Operand) (m : BitVec 4) (s : State) : Out3 :=
  runControl (.dmas g d a b m) (fun k s => blockCommand 0xE1 d a b m (fun _ _ w => dmasRule w) fifoCheck
    (fun w c => { c with segs := List.replicate (fifoSegs (w.P 3)) 0, handed := List.replicate (fifoSegs (w.P 3)) 0 }) k s) s

/-- GATH (R328). -/
def execGath (g : BitVec 16) (d a b : Operand) (m : BitVec 4) (s : State) : Out3 :=
  runControl (.gath g d a b m) (fun k s => blockCommand 0xE2 d a b m (fun _ _ w => gathRule false w) (fun _ _ _ => none) (fun _ c => c) k s) s

/-- SCAT (R328). -/
def execScat (g : BitVec 16) (d a b : Operand) (m : BitVec 4) (s : State) : Out3 :=
  runControl (.scat g d a b m) (fun k s => blockCommand 0xE3 d a b m (fun _ _ w => gathRule true w) (fun _ _ _ => none) (fun _ c => c) k s) s

/-- STAGE (R329). -/
def execStage (g : BitVec 16) (d a b : Operand) (m : BitVec 4) (s : State) : Out3 :=
  runControl (.stage g d a b m) (fun k s => blockCommand 0xE4 d a b m (fun _ _ w => stageRule w) (fun _ _ _ => none) (fun _ c => c) k s) s

/-- R425: the domain group of a partition: its positions with V set, in order. -/
def Part.domain (p : Part) : List (Nat × Nat) :=
  (p.dgroup.filter fun x => x.2.getLsbD 63).map fun x => (bits x.2.toNat 5 0, bits x.2.toNat 13 8)

/-- R330, R425: the size of the group that a COLL names, and the number of this member in it. DESIGN CHOICE: notes/assumptions/39.md. -/
def State.collGroupOf (s : State) (k group : Nat) : Nat × Nat :=
  if group = 1 then
    match s.launchOf k with
    | some (_, l) => ((s.part l.part).domain.length, ((s.part l.part).domain.findIdx? fun x => x == (s.ownPkg, l.part)).getD 0)
    | none => (1, 0)
  else (s.gangOf k, s.memberOf k)

/-- COLL (R330, R331). -/
def execColl (g : BitVec 16) (d a b : Operand) (m : BitVec 4) (s : State) : Out3 :=
  runControl (.coll g d a b m) (fun k s => blockCommand 0xE5 d a b m
    (fun s k w => let p := s.collGroupOf k (collGroup (w.P 2)); collRule p.1 p.2 w) (fun _ _ _ => none) (fun _ c => c) k s) s

/-! ### Messages (R333, R334) -/

/-- R333: the core that a target value names. -/
def State.targetCore (s : State) (k t : Nat) : Option Nat :=
  match (s.core k).part with
  | none => none
  | some p =>
    if 256 ≤ t || (s.part p).removed.contains t then none else (s.part p).cores[t]?

/-- MSG (R333): the 64 bytes are read at issue (R318). -/
def msgEff (d a b : Operand) (m : BitVec 4) (k : Nat) (s : State) : Option (Eff × Flow × State) :=
  let c := s.capSrc a
  let t := (s.src b).wide
  if s.held k then none
  else match blockCheck (s.cc k).tilecap c 0 64 pRD with
    | .error x => some ({}, .trap x 0, s)
    | .ok addr =>
      match s.targetCore k t with
      | none => some ({}, .trap 0x302 t, s)
      | some _ =>
        match s.poisoned k addr 64 with
        | some u => some ({}, .trap 0x3E0 u, s)
        | none =>
          let u := s.loadCap (tileLoc k addr)
          let asCap := u.valid && u.gl && c.cl
          enqueue k (tokenEff d) (partsOf addr 64)
            { id := s.nextId, op := 0xE6, dst := startOf d, order := orderOf m, scope := scopeOf m, issued := s.cycle
              c0 := if asCap then u else { u with tag := false }
              words := BitVec.ofNat 64 t :: (upFrom 0 8).map (fun i => BitVec.ofNat 64 (s.load (tileLoc k (addr + 8 * i)) 8)), at_ := s.cycle + 1 }
            s

/-- MSG (R333). DEDUCED: notes/assumptions/38.md. -/
def execMsg (g : BitVec 16) (d a b : Operand) (m : BitVec 4) (s : State) : Out3 :=
  runControl (.msg g d a b m) (fun k s => msgEff d a b m k s) s

/-- MRECV (R334): its dest is a capability, pending until it has taken a message. -/
def mrecvEff (d a b : Operand) (m : BitVec 4) (k : Nat) (s : State) : Option (Eff × Flow × State) :=
  let c := s.capSrc a
  let o := (s.src b).ownS
  if s.held k then none
  else match blockCheck (s.cc k).tilecap c o 64 pWR with
    | .error x => some ({}, .trap x (wrap o 64), s)
    | .ok addr =>
      enqueue k { ({} : Eff).putCap d {} with async := true } []
        { id := s.nextId, op := 0xE7, dst := startOf d, order := orderOf m, scope := scopeOf m, issued := s.cycle, c1 := c
          words := [BitVec.ofNat 64 addr], at_ := s.cycle + 1 } s

/-- MRECV (R334). -/
def execMrecv (g : BitVec 16) (d a b : Operand) (m : BitVec 4) (s : State) : Out3 :=
  runControl (.mrecv g d a b m) (fun k s => mrecvEff d a b m k s) s

/-! ### Bank hand-over (R336) -/

/-- A bank is a segment of an active stream FIFO. -/
def Core.fifoBusy (c : Core) (b : Nat) : Bool :=
  c.cmds.any fun m => m.op == 0xE1 && (upFrom 0 m.segs.length).any fun g => fifoBank m.c1 (m.words.getD 1 0).toNat g == b

/-- R336: the trap of a BANKT. -/
def banktTrap (s : State) (k b h : Nat) : Option Nat :=
  let c := s.core k
  if 31 < b || 8 < h || (match c.cc.member with
    | some (l, _) => c.bankOwner.get? b != some l
    | none => true) then some 0x303
  else if h < 8 && (c.regions.get? h).isNone then some 0x303
  else if c.fifoBusy b then some 0x304
  else none

/-- BANKT (R336): it has no destination and no width of its own, so each operand is read at its own. DESIGN CHOICE: notes/assumptions/65.md. -/
def execBankt (g : BitVec 16) (a b : Operand) (s : State) : Out3 :=
  runControl (.bankt g a b) (fun k s =>
    let bk := (s.src a).ownZ
    let h := (s.src b).ownZ
    if s.held k || s.cycle < (s.core k).ccBusy.getD bk 0 then none
    else match banktTrap s k bk h with
      | some x => some ({}, .trap x (bk * 2 ^ 8 + h), s)
      | none => issued k s {} (s.moveToken k bk (some h))) s

/-! ### Launch, barrier and queues (R337 to R339) -/

/-- LAUNCH (R337): the record is read at issue, and with it the rights of the launch that submits it. -/
def launchEff (d a b : Operand) (m : BitVec 4) (k : Nat) (s : State) : Option (Eff × Flow × State) :=
  let o := (s.src b).ownS
  if s.held k then none
  else match blockCheck (s.cc k).tilecap (s.capSrc a) o 128 pRD with
    | .error x => some ({}, .trap x (wrap o 64), s)
    | .ok addr =>
      match s.poisoned k addr 128 with
      | some u => some ({}, .trap 0x3E0 u, s)
      | none =>
        enqueue k (tokenEff d) (partsOf addr 128)
          { id := s.nextId, op := 0xE9, dst := startOf d, order := orderOf m, scope := scopeOf m, issued := s.cycle
            words := (upFrom 0 16).map fun i => BitVec.ofNat 64 (s.load (tileLoc k (addr + 8 * i)) 8), at_ := s.cycle + 1
            sub := ((s.launchOf k).map fun x => x.2.rights % 8).getD 0 }
          s

/-- LAUNCH (R337). DEDUCED: notes/assumptions/28.md. -/
def execLaunch (g : BitVec 16) (d a b : Operand) (m : BitVec 4) (s : State) : Out3 :=
  runControl (.launch g d a b m) (fun k s => launchEff d a b m k s) s

/-- R338: a barrier of a launch. -/
def Launch.bar (l : Launch) (n : Nat) : Bar := l.bars.getD n {}

def State.modBar (s : State) (l n : Nat) (f : Bar → Bar) : State := s.modLaunch l fun x => { x with bars := modAt x.bars n f }

/-- R338: a waiter passes its barrier; its GBAR has held the issue stage for 2 cycles at least (R316). -/
def State.passBar (s : State) (k : Nat) : State :=
  s.modCc k fun c => { c with gbar := none, pc := c.pc + 8, nextIssue := max c.nextIssue (s.cycle + 1) }

/-- GBAR (R338): the last arrival releases every waiter; any other holds its issue stage, its PC at the GBAR. -/
def gbarEff (n : Nat) (k : Nat) (s : State) : Option (Eff × Flow × State) :=
  if s.held k || !s.allPerformed k then none
  else match s.launchOf k with
    | none => issued k s {} s
    | some (l, x) =>
      let b := x.bar n
      if x.gang ≤ b.count + 1 then
        let s' := s.modBar l n fun b => { b with count := 0, gen := b.gen + 1, waiters := [], due := none, rem := none }
        issued k s {} (b.waiters.foldl (fun s j => s.passBar j) s')
      else
        let due := if b.count = 0 && x.btimeout != 0 then some (s.cycle + b.rem.getD (usCycles x.btimeout)) else b.due
        some ({}, .jump (s.cc k).pc.toNat 2,
          (s.modBar l n fun b => { b with count := b.count + 1, waiters := b.waiters ++ [k], due := due, rem := none }).modCc k fun c => { c with gbar := some n })

/-- GBAR (R338). -/
def execGbar (g : BitVec 16) (a : Operand) (s : State) : Out3 :=
  runControl (.gbar g a) (fun k s => gbarEff (s.src a).raw k s) s

/-- QWAIT (R339). -/
def execQwait (g : BitVec 16) (d a b : Operand) (s : State) : Out3 :=
  runControl (.qwait g d a b) (fun k s =>
    let q := (s.src a).wide
    if s.held k then none
    else if 15 < q then some ({}, .trap 0x002 q, s)
    else enqueue k (tokenEff d) []
      { id := s.nextId, op := 0xED, dst := startOf d, order := 1, scope := 8, issued := s.cycle
        words := [BitVec.ofNat 64 q, BitVec.ofNat 64 (s.src b).wide], at_ := s.cycle + 1 } s) s

/-! ### Polling and cancelling (R340, R341) -/

/-- EPOLL (R340). -/
def execEpoll (g : BitVec 16) (d a : Operand) (s : State) : Out3 :=
  runControl (.epoll g d a) (fun k s =>
    issued k s (quietOf s d (b2n (!((s.cc k).regs.anyPending (namedState a).1 (namedState a).2)))) s) s

/-- R331, R341: a member leaves the collective that it has joined; one that leaves while the sources are read still gives its own.
DEDUCED: notes/assumptions/38.md. -/
def Coll.leave (c : Coll) (k id : Nat) (m : Option Cmd) : Coll :=
  { c with
    joined := c.joined.filter fun j => j.2 != (k, id)
    left := c.left ++ match m, c.joined.find? fun j => j.2 == (k, id) with
      | some m, some j => if m.sub = 2 || m.sub = 3 then [(j.1, k, m)] else []
      | _, _ => [] }

/-- R331, R341: a member leaves the collective that it has joined. -/
def State.leaveColl (s : State) (k id : Nat) : State :=
  { s with colls := (s.colls.map fun c => c.leave k id ((s.core k).cmd? id)).filter fun c => !c.joined.isEmpty }

/-- R367: the cause codes assigned on this device. -/
def causeCodes : List Nat :=
  [1, 2, 3, 4, 5, 6] ++ upFrom 0xC0 64 ++ upFrom 0x101 5 ++ upFrom 0x200 4 ++ upFrom 0x210 6 ++ [0x220] ++ upFrom 0x300 7 ++ upFrom 0x381 8 ++ [0x3C0] ++
    upFrom 0x3E0 4

/-- R240: the test of a dependence. -/
def depMet (done : BitVec 32) (count : Nat) : Bool := (done - BitVec.ofNat 32 count).toNat < 2 ^ 31

/-- R328: bytes of a row of a GATH or SCAT. -/
def rowSize (m : Cmd) : Nat := bits (m.words.getD 2 0).toNat 23 0

/-- R341: a GATH that has begun to write a row ends with that row. DESIGN CHOICE: notes/assumptions/11.md. -/
def State.endRow (s : State) (k id : Nat) : State :=
  match (s.core k).cmd? id with
  | some m =>
    if m.op = 0xE2 && m.sub != 0 && m.fin.isNone then
      let a := m.c1.base + bits (m.words.getD 3 0).toNat 31 0 + m.prog * rowSize m
      ((s.useBanks k (partsOf a (rowSize m))).put (tileLoc k a) ((m.data.drop 1).map fun v => BitVec.ofNat 8 v)).modCmd k id fun m =>
        { m with prog := m.prog + 1, sub := 0, data := [] }
    else s
  | none => s

/-- R341: a command that still owns slices ends, unless it is a message that has been delivered. DEDUCED: notes/assumptions/38.md. -/
def Cmd.cancels (m : Cmd) : Bool := m.fin.isNone || !(m.op == 0xE6 && m.fin == some (0, 0))

/-- R341: a status that cancels or aborts a command: its cause is not stated, so it is free among the codes of R367. DEDUCED: notes/assumptions/38.md. -/
def State.endCmd (s : State) (k id st : Nat) : State :=
  let (n, s') := ((s.endRow k id).leaveColl k id).draw
  s'.modCmd k id fun m => if m.cancels then { m with fin := some (st, causeCodes.getD ((Config.freeCause n).toNat % causeCodes.length) 1) } else m

/-- R341: the commands that still own a slice of the operand. -/
def State.ownersOf (s : State) (k : Nat) (a : Operand) : List Nat :=
  ((s.cc k).regs.flights.filter fun f => !f.sync && f.own &&& (namedState a).1 != 0 && ((s.core k).cmd? f.id).isSome).map fun f => f.id

/-- ECANCEL (R341): the commands end at the end of its cycle, so that one whose token is written in that cycle keeps its own status.
DEDUCED: notes/assumptions/38.md. -/
def execEcancel (g : BitVec 16) (a : Operand) (s : State) : Out3 :=
  runControl (.ecancel g a) (fun k s => issued k s {} ((s.ownersOf k a).foldl (fun (s : State) id => s.after 1 (.cancel k id)) s)) s

end Sys2Proof.Machine
end

