-- ==== Sys2Proof/Machine/Placement.lean ====
section
/-! DEFINITION. Where a member can stand (spec/12 R241, R242, R244; spec/07 R173; spec/22 R394 to R397). -/
namespace Sys2Proof.Machine

/-- The strings of a region. -/
def Region.strings (r : Region) : List Nat :=
  (upFrom (r.row0 / 4) (r.height / 4)).flatMap fun q => if r.wide then [2 * q, 2 * q + 1] else [2 * q + r.half]

/-- A place for a member: its core, its region number, position and first bank. -/
structure Spot where
  core : Nat
  reg : Nat
  row0 : Nat
  half : Nat
  bank : Nat
deriving DecidableEq, Repr

/-- R241: the position of a shape that a region number names. -/
def shapeAt (x : Launch) (row0 half : Nat) : Region :=
  { launch := 0, member := 0, row0 := row0, height := x.height, half := half, wide := x.wide, image := 0 }

/-- R241: the positions of a shape in the order of choice. -/
def positions (x : Launch) : List (Nat × Nat) :=
  (upFrom 0 (16 / x.height)).flatMap fun i => if x.wide then [(i * x.height, 0)] else [(i * x.height, 0), (i * x.height, 1)]

/-- R173: a string of a core is out of the logical map: a V-element of a half-stripe of it is faulty, or more than one M-element is, or the repair and
trim record says so. -/
def stringOut (t : TrimRecord) (k n : Nat) : Bool :=
  let bad := (t.faultyM.filter fun p => p.1 == k && strOf p.2 == n).map fun p => p.2
  t.badStrings.contains (k, n) || bad.any fun e => isV e || bad.any fun d => d != e && d / 8 == e / 8

/-- R173: strings of a core out of the logical map. -/
def State.badStrings (s : State) (k : Nat) : List Nat :=
  match s.trim with
  | some t => (upFrom 0 8).filter fun n => stringOut t k n
  | none => []

/-- R173: the elements of a core whose logical column stands on the spare of its half-stripe. -/
def trimSpares (t : TrimRecord) (k : Nat) : List Nat :=
  ((t.faultyM.filter fun p => p.1 == k && !stringOut t k (strOf p.2)).map fun p => p.2).dedup

/-- R241, Region: the first free position and the lowest free region number. -/
def Core.freeRegion (c : Core) (x : Launch) (bad : List Nat) : Option (Nat × Nat × Nat) :=
  let held := bad ++ c.regions.flatMap fun r => r.2.strings
  match (upFrom 0 8).find? fun n => (c.regions.get? n).isNone with
  | none => none
  | some n => ((positions x).find? fun p => (shapeAt x p.1 p.2).strings.all fun t => !held.contains t).map fun p => (n, p.1, p.2)

/-- R241, Cards: of the 512 cards of a card store. DEDUCED: notes/assumptions/19.md. -/
def Core.cardsFree (c : Core) (n : Nat) : Bool := (c.regions.foldl (fun v r => v + r.2.ncard) 0) + n ≤ 512

/-- R241, Tile memory: a bank from which `n` banks are free. -/
def Core.banksFreeAt (c : Core) (b n : Nat) : Bool := b + n ≤ 32 && (upFrom b n).all fun i => (c.bankOwner.get? i).isNone

/-- R241, Tile memory. -/
def Core.freeBanks (c : Core) (x : Launch) : Option Nat :=
  if x.ctrl then (if 4 ≤ x.tbanks && c.banksFreeAt 0 x.tbanks then some 0 else none)
  else (upFrom 0 32).find? fun b => c.banksFreeAt b x.tbanks

/-- R241, Control core: it is Idle or Halted and belongs to no launch that still runs. -/
def State.ccFree (s : State) (k : Nat) : Bool :=
  let c := s.cc k
  (c.run == .idle || c.run == .halted) && (match c.member with
    | some (l, _) => (s.launches.get? l).isNone
    | none => true)

/-- R395, R396: a scan run is in progress, or has completed in this cycle. -/
def Core.scanning (c : Core) (now : Nat) : Bool := c.scan.isSome || c.reinit == some (now + usCycles 4)

/-- R124, R241, R393, R395, R396: a scan run or a reinitialisation stands in the way of a member on core `k`. A record of priority 0 looks at `lvl` 1 past the
reinitialisation of a run that has been aborted for it, and at `lvl` 2 past a run. A record of another priority waits for a run and its
reinitialisation. DEDUCED: notes/assumptions/29.md. -/
def State.scanBars (s : State) (x : Launch) (k lvl : Nat) : Bool :=
  let c := s.core k
  if x.prio == 0 && c.scanning s.cycle then lvl < 2
  else if x.aborted.contains k && c.reinit.isSome then lvl < 1
  else c.scan.isSome || (c.reinit.isSome && (x.fab || (x.prio != 0 && c.reran)))

/-- R241, R393, R395, R397: core `k` can host a member of a launch in banks from `bank`; `lvl` as in `State.scanBars`. -/
def State.spotAt (s : State) (x : Launch) (k lvl : Nat) (bank : Option Nat) : Option Spot :=
  let c := s.core k
  if s.scanBars x k lvl || (x.ctrl && !s.ccFree k) || (x.fab && c.quarantine.isSome) then none
  else match bank with
    | none => none
    | some b =>
      if !x.fab then some ⟨k, 8, 0, 0, b⟩
      else if !c.cardsFree ((x.hdr.map ImageHdr.ncard).getD 0) then none
      else (c.freeRegion x (s.badStrings k)).map fun p => ⟨k, p.1, p.2.1, p.2.2, b⟩

/-- R241: core `k` can host a new member. -/
def State.spotOn (s : State) (x : Launch) (lvl k : Nat) : Option Spot := s.spotAt x k lvl ((s.core k).freeBanks x)

/-- Cores of a partition's map in logical order (R125: a removed core is skipped). -/
def Part.liveCores (p : Part) : List Nat :=
  (((upFrom 0 p.cores.length).zip p.cores).filter fun c => !p.removed.contains c.1).map fun c => c.2

/-- R244, R384, R385, R395: the launches of a partition that hold cores back for their priority: Waiting, Placing with COSCHED = 0, or while victims freeze
or reinitialisations go on for it, or waiting to resume. DEDUCED: notes/assumptions/29.md. -/
def State.holders (s : State) (p prio : Nat) : List Launch :=
  (s.part p).queues.filterMap fun q => match q.2.launch.bind s.launches.get? with
    | some y =>
      if y.prio < prio && ((q.2.st == .waiting && q.2.checked) || (q.2.st == .placing && (!y.cosched || y.preempting || y.aborted.any fun k => (s.core k).reinit.isSome))
          || (q.2.st == .running && y.preempted && !y.cosched)) then some y
      else none
    | none => none

/-- R244: a record of greater priority number may not take core `k`, which a holder could use. -/
def State.reserved (s : State) (p prio k : Nat) : Bool :=
  (s.holders p prio).any fun y => !(y.members.any fun m => m.core == k && m.image.isNone) && (s.spotOn y 1 k).isSome

/-- R241, R395: the places open to the next members of a launch, in the order of choice: first those that nothing stands in the way of. -/
def State.spots (s : State) (x : Launch) (lvl : Nat) : List Spot :=
  let ks := (s.part x.part).liveCores.filter fun k => !(x.members.any fun m => m.core == k) && !s.reserved x.part x.prio k
  (upFrom 0 (lvl + 1)).flatMap fun i => ks.filterMap fun k => if i != 0 && (s.spotOn x (i - 1) k).isSome then none else s.spotOn x i k

/-- R241: the place of the next member of a launch. -/
def State.spot (s : State) (x : Launch) (lvl : Nat) : Option Spot := (s.spots x lvl).head?

/-- R241: what a member takes of its core. -/
def State.claimSpot (s : State) (x : Launch) (t : Spot) : State :=
  s.modCore t.core fun c =>
    { c with
      bankOwner := (upFrom t.bank x.tbanks).foldl (fun o b => o.set b 0) c.bankOwner
      regions := if x.fab then c.regions.set t.reg { shapeAt x t.row0 t.half with ncard := (x.hdr.map ImageHdr.ncard).getD 0 } else c.regions
      cc := if x.ctrl then { c.cc with run := .running } else c.cc }

/-- R241, R242: the next `n` members of a launch placed one after another: their cores, as far as members find one at `lvl`, and what is then taken. -/
def State.claims (s : State) (x : Launch) (lvl : Nat) : Nat → List Nat × Launch × State
  | 0 => ([], x, s)
  | n + 1 =>
    match s.spot x lvl with
    | none => ([], x, s)
    | some t =>
      let r := State.claims (s.claimSpot x t) { x with members := x.members ++ [{ core := t.core }] } lvl n
      (t.core :: r.1, r.2)

/-- R242, R394, R395: the cores on which a record of priority 0 in Placing waits in this cycle, after the members that find a core now: those of all its
members with COSCHED = 1, that of the next one otherwise; and what its placement takes. DEDUCED: notes/assumptions/29.md. -/
def State.needs (s : State) (x : Launch) : List Nat × State :=
  let n := x.gang - x.members.length
  let r := s.claims x 0 n
  if n ≤ r.1.length then ([], r.2.2)
  else if x.cosched then (let w := s.claims x 2 n; if n ≤ w.1.length then (w.1, s) else ([], s))
  else (((r.2.2.spot r.2.1 2).map Spot.core).toList, r.2.2)

/-- R394, R395: a record of priority 0 in Placing needs core `k`, which is about to scan. DEDUCED: notes/assumptions/29.md. -/
def State.wanted (s : State) (k : Nat) : Bool :=
  match (s.core k).part with
  | none => false
  | some p =>
    let t := s.modCore k fun c => { c with scan := some { pattern := 0, start := 0, finish := 0, tok := 0, launch := 0, runUs := 0, expected := 0 } }
    ((upFrom 0 16).foldl (fun (a : Bool × State) q =>
      match (s.part p).queues.get? q with
      | none => a
      | some y => if y.st != .placing then a else match y.launch.bind s.launches.get? with
        | some x => if x.prio != 0 then a else (let r := a.2.needs x; (a.1 || r.1.contains k, r.2))
        | none => a) (false, t)).1

end Sys2Proof.Machine
end

