-- ==== Sys2Proof/Machine/SystemOps.lean ====
section
/-! DEFINITION. Row 0x8: the system instructions (spec/05 R115 to R118; spec/21 R371; spec/23 R408). -/
namespace Sys2Proof.Machine

/-- TRAP (R115): a software trap. -/
def execTrap (g : BitVec 16) (a b : Operand) (s : State) : Out3 :=
  runControl (.trap g a b) (fun _ s => some ({}, .trap (0x0C0 + (s.src a).raw) ((s.src b).to .z 64), s)) s

/-- ERET (R115, R371): outside a trap it traps ILLEGAL_OPCODE; a misaligned $EPC traps PC_MISALIGNED once INTRAP is 0.
DESIGN CHOICE: notes/assumptions/18.md. -/
def execEret (g : BitVec 16) (s : State) : Out3 :=
  runControl (.eret g) (fun k s =>
    let c := s.cc k
    if !causeIntrap c.cause then some ({}, .trap 0x001 ((encode (.eret g)).getD 0).toNat, s)
    else
      let t := c.leaveTrap.pc.toNat
      let s' := s.modCc k fun c => { c.leaveTrap with pc := c.pc }
      if t % 8 = 0 then some ({}, .jump t 2, s') else some ({}, .trap 0x004 t, s')) s

/-- R75: an access of $FFLAGS waits for earlier write-backs. DEDUCED: notes/assumptions/17.md. -/
def flagsHeld (s : State) (k : Nat) (o : Operand) : Bool :=
  match o with
  | .sreg n => n == 0x10 && !(s.cc k).regs.drained
  | _ => false

/-- R16: an SRD reads a special register; a capability register is copied with its tag. -/
def srdEff (d a : Operand) (k : Nat) (s : State) : Eff :=
  match a with
  | .sreg n =>
    if n = 0x18 then ({} : Eff).putCap d (s.cc k).codecap
    else if n = 0x19 then ({} : Eff).putCap d (s.cc k).tilecap
    else quietOf s d (zext (s.sreg k n) (destWidth d))
  | _ => {}

/-- SRD (R16, R116). DEDUCED: notes/assumptions/17.md. -/
def execSrd (g : BitVec 16) (d a : Operand) (s : State) : Out3 :=
  runControl (.srd g d a) (fun k s => if flagsHeld s k a then none else some (srdEff d a k s, .next, s)) s

/-- SWR (R116): the write acts at its write-back; a read-only register ignores it (R6). DEDUCED: notes/assumptions/17.md. -/
def execSwr (g : BitVec 16) (d a : Operand) (s : State) : Out3 :=
  runControl (.swr g d a) (fun k s =>
    if flagsHeld s k d then none else some (({} : Eff).put 0 d ((s.src a).to .z 64), .next, s)) s

/-- CFENCE (R116): every entry of the instruction cache is discarded. DESIGN CHOICE: notes/assumptions/5.md. -/
def execCfence (g : BitVec 16) (s : State) : Out3 :=
  runControl (.cfence g) (fun k s => some ({}, .next, s.modCc k fun c => { c with icache := [], fill := none, fillFault := none })) s

/-- WFE (R117): with an awaited latch set it completes at once; otherwise the core waits, its PC at the WFE (spec/21 R372). -/
def execWfe (g : BitVec 16) (d a b : Operand) (s : State) : Out3 :=
  runControl (.wfe g d a b) (fun k s =>
    let m := BitVec.ofNat 4 ((s.src a).to .z 4)
    let t := (s.src b).ownZ
    let c := s.cc k
    if c.latches &&& m != 0 then
      some (quietOf s d (zext (c.latches &&& m).toNat (destWidth d)), .next, s.modCc k fun c => { c with latches := c.latches &&& ~~~m })
    else
      let s' := s.modCc k fun c =>
        { c with run := .waiting, wait := .event m d (if t = 0 then none else some (s.cycle + t)) }
      some ({}, .jump c.pc.toNat 1, if t = 0 then s' else s'.after t (.ev (.wfeTimeout k)))) s

/-- R117, R112: a wait ends: the core runs on after the WFE or WAITP, or stays there if a breakpoint has halted it (R408). A WFE's destination is
written one cycle later (R14). -/
def State.endWait (s : State) (k : Nat) (res : Option (Operand × Nat)) : State :=
  let f := match res with
    | some (d, v) => ({} : Eff).put 0 d (zext v (destWidth d))
    | none => {}
  let s' := s.modCc k fun c =>
    { c with run := if c.stall then .waiting else .running, wait := if c.stall then .debug else .nothing, stall := false, pc := c.pc + 8, nextIssue := s.cycle + 1
             regs := if f.lands then c.regs.launch (f.flight s.nextId 1 0) else c.regs }
  { s' with nextId := s.nextId + 1 }

/-- R117, R112: at the end of a cycle, a core whose awaited event or state has come leaves its wait. DEDUCED: notes/assumptions/59.md. -/
def State.wake (s : State) (k : Nat) : State :=
  let c := s.cc k
  if c.run != .waiting then s
  else match c.wait with
    | .event m d _ =>
      if c.latches &&& m != 0 then
        (s.modCc k fun c => { c with latches := c.latches &&& ~~~m }).endWait k (some (d, (c.latches &&& m).toNat))
      else s
    | .pending m p => if c.regs.pending &&& m = 0 && c.regs.pendingPreds &&& p = 0 then s.endWait k none else s
    | _ => s

/-- BKPT (R118, R408): a trap, or, with debug halt enabled, a stop of the core with its PC at the BKPT. DESIGN CHOICE: notes/assumptions/24.md. -/
def execBkpt (g : BitVec 16) (a : Operand) (s : State) : Out3 :=
  runControl (.bkpt g a) (fun k s =>
    let c := s.cc k
    let n := (s.src a).raw
    if c.debugHalt then
      some ({}, .jump c.pc.toNat 1,
        (s.modCc k fun c => { c with run := .waiting, wait := .debug }).traceCc k 0x06 c.pc.toNat n)
    else some ({}, .trap 0x005 n, s)) s

end Sys2Proof.Machine
end

