-- ==== Sys2Proof/Machine/Records.lean ====
section
/-! DEFINITION. Event and trace records as they are written to their rings, interrupt messages, and latches that they set (spec/08 R190, R191;
spec/23 R401; spec/26 R435; spec/05 R117). -/
namespace Sys2Proof.Machine

/-- R117: an event latch of a control core is set. -/
def State.setLatch (s : State) (k n : Nat) : State :=
  s.modCc k fun c => { c with latches := c.latches ||| BitVec.ofNat 4 (2 ^ n) }

/-- R117, R125: a latch of every control core of a partition, those off the logical map apart. -/
def State.latchAll (s : State) (p n : Nat) : State :=
  (s.part p).cores.foldl (fun s k => if (s.cc k).run == .off then s else s.setLatch k n) s

/-- R122: the domain time in ns. PRESUMED: notes/assumptions/4.md. -/
def State.time (s : State) : Nat := (s.timeBase + s.cycle) % 2 ^ 64

/-- R435: a message of a function's vector. DEDUCED: notes/assumptions/22.md. -/
def State.interrupt (s : State) (f v : Nat) : State := { s with msix := s.msix ++ [(f, v)] }

/-! ### Event records -/

/-- R190: word 1 of an event record. -/
def EventRec.word (r : EventRec) (seq : Nat) : Nat :=
  r.type % 256 * 2 ^ 56 + r.part % 64 * 2 ^ 50 + r.die % 4 * 2 ^ 48 + r.lcore.getD 0xFF % 256 * 2 ^ 40 + r.str % 256 * 2 ^ 32 + seq % 2 ^ 16 * 2 ^ 16
    + b2n r.lcore.isNone

/-- R190, R401: the bytes of a record of four words. -/
def recordBytes (w : List Nat) : List Byte := w.flatMap fun v => toBytes v 8

/-- R191: unread records of an event queue. -/
def Part.unreadCount (p : Part) : Nat := (p.eqtail + 2 ^ 16 - p.eqhead) % 2 ^ 16

/-- R191: the ring has a free place. DEDUCED: notes/assumptions/21.md. -/
def Part.eqRoom (p : Part) : Bool := p.unreadCount < min (2 ^ bits p.eqctl 20 16) (2 ^ 16 - 1)

/-- R191: a record of 32 bytes written at an address of space 2; `false` where its write faults. DESIGN CHOICE: notes/assumptions/51.md. -/
def State.writeRing (s : State) (die p a : Nat) (b : List Byte) : Bool × State :=
  match s.place die (die * 64) p 2 (a % 2 ^ 64) needW with
  | (.ok x, s') => (true, s'.writePlace x b)
  | (.error _, s') => (false, s')

/-- R435, vector 0: after a record is written; a TIMER of 0 µs has passed at once. DEDUCED: notes/assumptions/22.md. -/
def State.recordWritten (s : State) (p : Nat) : State :=
  let x := s.part p
  if bit x.irqctl 0 then
    let t := bits x.irqctl 31 16
    let s := if bits x.irqctl 47 32 ≤ x.unreadCount || (t == 0 && x.unread.length == 1) then s.interrupt p 0 else s
    if t = 0 then s else s.after (t * 1000) (.irq p)
  else s

/-- R191: one record goes to the tail of its queue; `false` where it is dropped. DEDUCED: notes/assumptions/21.md. -/
def State.writeEvent (s : State) (r : EventRec) : Bool × State :=
  let x := s.part r.part
  if !bit x.eqctl 0 || !x.eqRoom then (false, s)
  else
    match s.writeRing r.die r.part (x.eqbase + 32 * (x.eqtail % 2 ^ bits x.eqctl 20 16)) (recordBytes [s.time, r.word x.evSeq.toNat, r.arg0, r.arg1]) with
    | (false, s) => (false, s)
    | (true, s) =>
      let s := s.modPart r.part fun x => { x with eqtail := (x.eqtail + 1) % 2 ^ 16, evSeq := x.evSeq + 1, unread := x.unread ++ [s.cycle] }
      (true, (s.latchAll r.part 3).recordWritten r.part)

/-- R191: the LOST record that stands before the first record that finds space. -/
def State.writeLost (s : State) (p : Nat) : State :=
  let n := (s.part p).evDrop
  if n = 0 then s
  else match s.writeEvent { part := p, type := 0x1F, arg0 := n } with
    | (true, s) => s.modPart p fun x => { x with evDrop := 0 }
    | (false, s) => s

/-- R191: an event record is written, or dropped and counted; a single free place takes the LOST record. DESIGN CHOICE: notes/assumptions/21.md. -/
def State.deliverRecord (s : State) (r : EventRec) : State :=
  match (s.writeLost r.part).writeEvent r with
  | (true, s) => s
  | (false, s) => s.modPart r.part fun x => { x with evDrop := x.evDrop + 1 }

/-- R191, R435: an event record is delivered; the end of a partition reset raises vector 18 after its record.
DEDUCED: notes/assumptions/21.md. DEDUCED: notes/assumptions/22.md. -/
def State.deliver (s : State) (r : EventRec) : State := if r.type = 0x30 then (s.deliverRecord r).interrupt 0 18 else s.deliverRecord r

/-! ### Trace records -/

/-- R401: word 1 of a trace record. -/
def State.traceWord (s : State) (p : Nat) (r : TraceRec) : Nat :=
  r.type % 256 * 2 ^ 56 + p % 64 * 2 ^ 50 + dieOf r.core % 4 * 2 ^ 48 + (s.core r.core).lcore % 256 * 2 ^ 40 + b2n r.cc * 2 ^ 39
    + (if r.cc then 0 else r.reg % 8 * 2 ^ 36 + r.cver % 2 ^ 32)

/-- R401: one record goes to the tail of the trace ring. No register advances the ring's head (notes/assumptions/12.md).
DEDUCED: notes/assumptions/21.md. -/
def State.writeTrace (s : State) (p w arg0 arg1 die : Nat) : Bool × State :=
  let x := s.part p
  if !bit x.trctl 0 || 2 ^ bits x.trctl 20 16 ≤ x.trtail then (false, s)
  else
    match s.writeRing die p (x.trbase + 32 * (x.trtail % 2 ^ bits x.trctl 20 16)) (recordBytes [s.time, w, arg0, arg1]) with
    | (false, s) => (false, s)
    | (true, s) => (true, s.modPart p fun x => { x with trtail := x.trtail + 1 })

/-- R401: a trace record is written, or dropped and counted. DEDUCED: notes/assumptions/12.md. DEDUCED: notes/assumptions/21.md. -/
def State.deliverTrace (s : State) (r : TraceRec) : State :=
  match (s.core r.core).part with
  | none => s
  | some p =>
    let n := (s.part p).trDrop
    let s := if n = 0 then s
      else match s.writeTrace p (0x1F * 2 ^ 56 + p % 64 * 2 ^ 50 + 0xFF * 2 ^ 40) n 0 (dieOf r.core) with
        | (true, s) => s.modPart p fun x => { x with trDrop := 0 }
        | (false, s) => s
    match s.writeTrace p (s.traceWord p r) r.arg0 r.arg1 (dieOf r.core) with
    | (true, s) => s
    | (false, s) => s.modPart p fun x => { x with trDrop := x.trDrop + 1 }

/-! ### The end of a cycle -/

/-- A record inserted in ascending order of TYPE, after those of the same (R191). -/
def insertType {α : Type} (key : α → Nat) (r : α) : List α → List α
  | [] => [r]
  | x :: l => if key r < key x then r :: x :: l else x :: insertType key r l

/-- Records in the order of R191. DEDUCED: notes/assumptions/21.md. -/
def byType {α : Type} (key : α → Nat) (l : List α) : List α := l.foldl (fun m r => insertType key r m) []

/-- R191, R401, R112, R117: the records of the cycle are written, and the cores whose event or state has come leave their waits.
DEDUCED: notes/assumptions/21.md. -/
def State.flush (s : State) : State :=
  let ev := byType EventRec.type s.posts
  let tr := byType TraceRec.type s.traces
  let s := { s with posts := [], traces := [] }
  let s := ev.foldl State.deliver s
  let s := tr.foldl State.deliverTrace s
  (s.cores.map fun p => p.1).foldl State.wake s

/-- IRQ_TIMER (R435): TIMER µs have passed since the oldest unread record was written. DEDUCED: notes/assumptions/22.md. -/
def execIrqTimer (f : Nat) (s : State) : Out3 :=
  .next (
    let x := s.part f
    match x.unread with
    | t :: _ => if bit x.irqctl 0 && t + bits x.irqctl 31 16 * 1000 = s.cycle then s.interrupt f 0 else s
    | [] => s)

end Sys2Proof.Machine
end

