-- ==== Sys2Proof/Machine/Power.lean ====
section
/-! DEFINITION. Row 0xF: power, debug and test (spec/05 R119 to R125; leases, spec/08 R186; scan runs, spec/22 R393 to R398). -/
namespace Sys2Proof.Machine

/-! ### Leases (R186) -/

/-- R185, R186, R189: a lease raises the budget and its clock runs. -/
def Lease.active (l : Lease) : Bool := !l.capped && !l.hot && !l.frozen

/-- R186: strings that the regions of a partition hold. -/
def State.stringsHeld (s : State) (p : Nat) : Nat :=
  s.cores.foldl (fun n c =>
    if c.2.part = some p then c.2.regions.foldl (fun n r => n + r.2.height / 4 * (if r.2.wide then 2 else 1)) n else n) 0

/-- R186: the projected boost of a lease, in W, rounded up. -/
def State.boost (s : State) (p pct : Nat) : Nat := ((pct - 70) * 43 * s.stringsHeld p + 9999) / 10000

/-- R186: the projected boosts of the other active leases, as they were decided. -/
def State.otherBoosts (s : State) (p : Nat) : Nat :=
  s.parts.foldl (fun n x => match x.2.lease with
    | some l => if x.1 != p && l.active then n + l.boost else n
    | none => n) 0

/-- R186: the power tests of a grant. -/
def State.leaseFits (s : State) (p pct : Nat) : Bool :=
  s.boost p pct ≤ ((s.parts.get? p).map Part.pboost).getD 300 && s.avgW + s.boost p pct + s.otherBoosts p ≤ 2200

/-- R190: an event record about no one core. -/
def State.postPart (s : State) (p type arg0 arg1 : Nat) : State := s.post { part := p, type := type, arg0 := arg0, arg1 := arg1 }

/-- R120, R186: a lease is asked for: the status, and the state with the lease. A duration of 0 is refused before a lease that is held.
DESIGN CHOICE: notes/assumptions/38.md. -/
def State.askLease (s : State) (p dur pct : Nat) (l : Option Nat) : Nat × State :=
  if dur = 0 then (3, s)
  else if ((s.part p).lease).isSome || (s.part p).suspendedIn == some (s.cycle / 128) then (2, s)
  else if !s.leaseFits p pct then (1, s)
  else (0, (s.modPart p fun x => { x with lease := some { pct := pct, left := dur, launch := l, boost := s.boost p pct } }).postPart p 0x05 pct dur)

/-- R186, R386: a lease is lost to a move or a reset: LEASE_FORFEIT with the µs that were left. -/
def State.forfeit (s : State) (p left : Nat) : State := s.postPart p 0x08 0 left

/-- R186: the lease of a partition ends: LEASE_RETURN with its reason. -/
def State.endLease (s : State) (p reason : Nat) : State :=
  match (s.part p).lease with
  | some l => ({ s with suspended := s.suspended.filter (· != p) }.modPart p fun x => { x with lease := none }).postPart p 0x09 reason l.left
  | none => s

/-- A completion token whose status is known in the next cycle. -/
def tokenNow (d : Operand) (v : Nat) : Eff := { ({} : Eff).put 0 d v with token := true }

/-- R120: a duration and a percent within their limits. -/
def leaseDur (a : Nat) : Nat := min a 50000
def leasePct (b : Nat) : Nat := max 71 (min b 100)

/-- LEASE (R120, R40). DESIGN CHOICE: notes/assumptions/38.md. -/
def leaseEff (d a b : Operand) (k : Nat) (s : State) : Eff × State :=
  let dur := leaseDur (s.src a).wide
  let pct := leasePct (s.src b).wide
  match (s.core k).part with
  | none => (tokenNow d (1 * 2 ^ 40), s)
  | some p =>
    let r := s.askLease p dur pct ((s.launchOf k).map fun x => x.1)
    (tokenNow d (if r.1 = 0 then pct * 2 ^ 32 + dur else r.1 * 2 ^ 40), r.2)

/-- LEASE (R120). -/
def execLease (g : BitVec 16) (d a b : Operand) (s : State) : Out3 :=
  runControl (.lease g d a b) (fun k s => let r := leaseEff d a b k s; some (r.1, .next, r.2)) s

/-- LREL (R120). -/
def execLrel (g : BitVec 16) (s : State) : Out3 :=
  runControl (.lrel g) (fun k s => some ({}, .next, match (s.core k).part with
    | some p => s.endLease p 0
    | none => s)) s

/-! ### Power and time (R121, R122) -/

/-- R187: a sensor's reading in 1/16 °C; 25 °C before the first sample (notes/assumptions/2.md). -/
def State.sensor (s : State) (die n : Nat) : Int := s.sensors.getD (die * 48 + n) 400

/-- R121: the hottest sensor of a die. -/
def State.hottest (s : State) (die : Nat) : Int := (upFrom 0 48).foldl (fun m n => max m (s.sensor die n)) (s.sensor die 0)

/-- R121: all ones. -/
def allOnes : Nat := 2 ^ 64 - 1

/-- R188: the layer voltage while it slews, 10 mV per µs. DESIGN CHOICE: notes/assumptions/23.md. -/
def Str.volt (x : Str) (now : Nat) : Nat :=
  let d := 10 * ((now - x.slewAt) / 1000)
  if x.mV ≤ x.target then min x.target (x.mV + d) else max x.target (x.mV - d)

/-- R121: the quantity that a selector names. -/
def State.pwrq (s : State) (k a b : Nat) : Nat :=
  let x := (s.core k).str b
  match a with
  | 0 => wrap (s.hottest (dieOf k)) 64
  | 1 => if b < 48 then wrap (s.sensor (dieOf k) b) 64 else allOnes
  | 2 => if b < 8 then x.volt s.cycle else allOnes
  | 3 => if b < 8 then x.leakage else allOnes
  | 4 => (match (s.core k).part with
    | some p => ((s.part p).lease.map Lease.left).getD 0
    | none => 0)
  | 5 => if b < 8 then x.heavyGrant else allOnes
  | 6 => s.avgW
  | _ => allOnes

/-- PWRQ (R121): A and B are read at the width of the destination (R40), Z. DESIGN CHOICE: notes/assumptions/65.md. -/
def execPwrq (g : BitVec 16) (d a b : Operand) (s : State) : Out3 :=
  runControl (.pwrq g d a b) (fun k s =>
    some (quietOf s d (zext (s.pwrq k ((s.src a).to .z (destWidth d)) ((s.src b).to .z (destWidth d))) (destWidth d)), .next, s)) s

/-- TSTAMP (R122). -/
def execTstamp (g : BitVec 16) (d : Operand) (s : State) : Out3 :=
  runControl (.tstamp g d) (fun _ s => some (quietOf s d (zext s.time (destWidth d)), .next, s)) s

/-- MARK (R122, R401). -/
def execMark (g : BitVec 16) (a b : Operand) (s : State) : Out3 :=
  runControl (.mark g a b) (fun k s => some ({}, .next, s.traceCc k 0x01 ((s.src a).to .z 16) ((s.src b).to .z 64))) s

/-! ### Stops, scans and the logical map (R123 to R125) -/

/-- R237: rights of the launch that a control core runs for. -/
def State.holds (s : State) (k : Nat) (right : Launch → Bool) : Bool :=
  match s.launchOf k with
  | some (_, l) => right l
  | none => false

/-- DSTOP (R123, R405). DEDUCED: notes/assumptions/38.md. DEDUCED: notes/assumptions/56.md. -/
def dstopEff (d a : Operand) (k : Nat) (s : State) : Eff × State :=
  let n := (s.src a).wide
  match s.region? k n with
  | none => (tokenNow d 1, s)
  | some _ =>
    if !s.holds k Launch.debug then (tokenNow d 2, s)
    else (tokenEff d, s.modRegion k n fun r => { r with stopReqs := r.stopReqs ++ [0], stopToks := r.stopToks ++ [(s.nextId, startOf d)] })

/-- DSTOP (R123). -/
def execDstop (g : BitVec 16) (d a : Operand) (s : State) : Out3 :=
  runControl (.dstop g d a) (fun k s => let r := dstopEff d a k s; some (r.1, .next, r.2)) s

/-- R124: a pattern of the signed pattern set. -/
def State.pattern (s : State) (n : Nat) : Option ScanPattern :=
  match s.trim with
  | some t => t.patterns.find? fun p => p.num == n
  | none => none

/-- R394, check 3: the fabric is in use. -/
def Core.fabricHeld (c : Core) : Bool :=
  !c.regions.isEmpty || c.bankTok.any (fun p => p.2 < 8) || c.reinit.isSome

/-- R394: the refusal of a scan; `wanted` says that a priority-0 record needs the core. -/
def scanRefusal (s : State) (k n : Nat) (wanted : Bool) : Option Nat :=
  if !s.holds k Launch.maint then some 4
  else if (s.pattern n).isNone then some 3
  else if (s.core k).fabricHeld then some 2
  else if wanted then some 1
  else none

/-- SCANT (R124, R394): a later SCANT waits for the earlier token. -/
def scantEff (d a : Operand) (k : Nat) (s : State) : Option (Eff × Flow × State) :=
  let n := (s.src a).wide
  if (s.core k).scan.isSome then none
  else match scanRefusal s k n (s.wanted k) with
    | some st => some (tokenNow d (st * 2 ^ 32), .next, s)
    | none =>
      match s.pattern n with
      | none => none
      | some p =>
        let f := s.cycle + 1 + usCycles p.runUs
        some (tokenEff d, .next,
          (s.modCore k fun c => { c with scan := some { pattern := n, start := s.cycle + 1, finish := f, tok := s.nextId, dst := startOf d
                                                        launch := ((s.launchOf k).map fun x => x.1).getD 0, runUs := p.runUs, expected := p.expected } }))

/-- SCANT (R124). -/
def execScant (g : BitVec 16) (d a : Operand) (s : State) : Out3 :=
  runControl (.scant g d a) (fun k s => scantEff d a k s) s

/-- R124: SCANQ's value. -/
def State.scanq (s : State) (n : Nat) : Nat :=
  match s.pattern n with
  | some p => 2 ^ 48 + p.runUs % 2 ^ 16 * 2 ^ 32 + p.expected.toNat
  | none => 0

/-- SCANQ (R124): A is read at the width of the destination (R40), Z. DESIGN CHOICE: notes/assumptions/65.md. -/
def execScanq (g : BitVec 16) (d a : Operand) (s : State) : Out3 :=
  runControl (.scanq g d a) (fun _ s => some (quietOf s d (zext (s.scanq ((s.src a).to .z (destWidth d))) (destWidth d)), .next, s)) s

/-- R125, R28: a core leaves the logical map and enters Off, where its commands, far atomics and scan runs do not go on. -/
def State.removeCore (s : State) (p lc : Nat) : State :=
  match (s.part p).cores[lc]? with
  | none => s
  | some j =>
    let s := (s.core j).cmds.foldl (fun (s : State) m => s.leaveColl j m.id) s
    let s := s.modCore j fun c => { c with engines := c.engines.map fun _ => [], far := [], scan := none }
    ((s.modPart p fun x => { x with removed := x.removed ++ [lc] }).modCore j fun c =>
      { c with cc := { c.cc with run := .off, wait := .nothing, halting := false }, quarantine := none }).post
      { part := p, type := 0x23, die := dieOf j, lcore := some lc, arg0 := lc }

/-- R125: the status of an LCMAP, in order. -/
def lcmapStatus (s : State) (k p a b : Nat) : Nat :=
  if !s.holds k Launch.maint then 2
  else
    match (s.part p).cores[a]? with
    | none => 3
    | some j =>
      if b = 0 && (s.part p).removed.contains a then 3
      else if 2 ≤ b then 4
      else if b = 1 then 0
      else if !(s.core j).regions.isEmpty then 1
      else if j != k && (s.cc j).run != .idle && (s.cc j).run != .halted then 1
      else 0

/-- LCMAP (R125, R398): a removal of the caller's own core never writes its token. DEDUCED: notes/assumptions/38.md. -/
def lcmapEff (d a b : Operand) (k : Nat) (s : State) : Option (Eff × Flow × State) :=
  let x := (s.src a).wide
  let y := (s.src b).wide
  match (s.core k).part with
  | none => some (tokenNow d (2 * 2 ^ 32), .next, s)
  | some p =>
    let st := lcmapStatus s k p x y
    let here := b2n (y == 1 && st == 0 && !(s.part p).removed.contains x)
    if st = 0 && y = 0 then
      if (s.core k).lcore = x then some (tokenEff d, .next, s.removeCore p x)
      else some (tokenNow d 0, .next, s.removeCore p x)
    else some (tokenNow d (st * 2 ^ 32 + here * 2 ^ 8), .next, s)

/-- LCMAP (R125). -/
def execLcmap (g : BitVec 16) (d a b : Operand) (s : State) : Out3 :=
  runControl (.lcmap g d a b) (fun k s => lcmapEff d a b k s) s

end Sys2Proof.Machine
end

