-- ==== Sys2Proof/Machine/TokenOps.lean ====
section
/-! DEFINITION. Row 0x9: the token instructions of elements (spec/09 R192 to R202). -/
namespace Sys2Proof.Machine

/-- R194: the context that a send addresses. -/
def sendCtx (s : State) (b : Option Operand) : Nat :=
  match b with
  | none => s.ctxNo
  | some o => (s.src o).to .z 2

/-- EMIT (R194). -/
def execEmit (g : BitVec 16) (d a : Operand) (b : Option Operand) (s : State) : Out3 :=
  runFabric (.emit g d a b) (fun _ _ _ s => some (({} : Eff).put (sendCtx s b) d ((s.src a).to .z 64), s)) s

/-- CTOK (R194): bit 0 of A. -/
def execCtok (g : BitVec 16) (d a : Operand) (b : Option Operand) (s : State) : Out3 :=
  runFabric (.ctok g d a b) (fun _ _ _ s => some (({} : Eff).put (sendCtx s b) d ((s.src a).to .z 1), s)) s

/-- DEQ (R195): the head named by srcA is consumed by the firing rule. -/
def execDeq (g : BitVec 16) (a : Operand) (s : State) : Out3 :=
  runFabric (.deq g a) (fun _ _ _ s => some ({}, s)) s

/-- PEEKK (R196): the head control token is read and stays. -/
def execPeekk (g : BitVec 16) (d a : Operand) (s : State) : Out3 :=
  runFabric (.peekk g d a) (fun _ _ _ s => some (quietOf s d ((s.src a).to .z (destWidth d)), s)) s

/-- PASS (R197): the value goes to D and on to the out pass register of the same number. -/
def execPass (g : BitVec 16) (d a : Operand) (s : State) : Out3 :=
  runFabric (.pass g d a) (fun _ _ _ s =>
    let e := match a with
      | .pass q _ => ({} : Eff).put s.ctxNo (.pass q true) (s.src a).raw
      | _ => {}
    some (e.put s.ctxNo d ((s.src a).to .z (destWidth d)), s)) s

/-- R198, R132: the context's thread leaves: its flag is cleared and its $FFLAGS joins the launch's flag summary. -/
def State.releaseThread (s : State) (k e c : Nat) : State :=
  let fl := (s.ctx k e c).regs.fflags.toNat
  let s := s.modCtx k e c fun x => { x with thread := none, leftAt := s.cycle }
  match (s.core k).regionOf e with
  | some (_, r) => s.modLaunch r.launch fun l => { l with flags := l.flags ||| fl }
  | none => s

/-- R198: a thread of the launch has ended. -/
def State.endThread (s : State) (k e : Nat) : State :=
  match (s.core k).regionOf e with
  | some (_, r) => s.modLaunch r.launch fun l => { l with ended := l.ended + 1 }
  | none => s

/-- RETIRE (R198): it fires only when the context has nothing still to write back. -/
def execRetire (g : BitVec 16) (x : Bool) (s : State) : Out3 :=
  runFabric (.retire g x) (fun k e c s =>
    if !(s.ctx k e c).regs.flights.isEmpty then none
    else
      let s := s.releaseThread k e c
      some ({}, if x then s.endThread k e else s)) s

/-- R199: the values of an entry record. -/
def exitValues (s : State) (b : Option Operand) (nv : Nat) : List Word64 :=
  match b with
  | none => []
  | some o =>
    if nv = 1 then [BitVec.ofNat 64 ((s.src o).to .z 64)]
    else match o with
      | .slice p _ => (upFrom 0 nv).map fun i => BitVec.ofNat 64 (s.regs.slices (p.toNat + 16 * i) 16)
      | _ => []

/-- R159: an entry record of 8 words. -/
def entryRecord (thread : Nat) (vals : List Word64) : List Word64 :=
  (BitVec.ofNat 64 (vals.length * 2 ^ 32 + thread % 2 ^ 32) :: vals) ++ List.replicate (7 - vals.length) 0

/-- R199: the places of a block's queue that in-flight EXITs hold reserved. -/
def Core.recordsReserved (c : Core) (r : Region) (b : Nat) : Nat :=
  (c.elems.flatMap fun p => if r.holds p.1 then p.2.flightOuts.filter (fun o => match o with
    | .record n _ => n == b
    | _ => false) else []).length

/-- EXIT (R199). -/
def exitEff (a : Operand) (b : Option Operand) (nv : BitVec 3) (k e c : Nat) (s : State) : Option (Eff × State) :=
  if !(s.ctx k e c).regs.flights.isEmpty then none
  else
    let n := (s.src a).ownZ
    let rec_ := entryRecord (s.elemSreg k e c 0x04) (exitValues s b nv.toNat)
    match (s.core k).regionOf e with
    | none => none
    | some (_, r) =>
      match r.blocks[n]? with
      | some blk =>
        if blk.count + (s.core k).recordsReserved r n < blk.qcap then
          some ({ outs := [.record n rec_] }, s.releaseThread k e c)
        else none
      | none => some ({ outs := [.record n rec_] }, s.releaseThread k e c)

/-- EXIT (R199): an entry record for block A, or, without such a block, the thread's end and a report. -/
def execExit (g : BitVec 16) (a : Operand) (b : Option Operand) (nv : BitVec 3) (s : State) : Out3 :=
  runFabric (.exit g a b nv) (exitEff a b nv) s

/-- R200: a column of a row reports for wave `w`: each context has fired at least `w` EOW. -/
def Core.reports (c : Core) (r : Region) (row w col : Nat) : Bool :=
  (upFrom 0 4).all fun x => w ≤ ((c.elem (r.elemAt row col)).ctx x).eows

/-- R163: a row has passed the end of its wave. -/
def Core.rowPassed (c : Core) (r : Region) (i : Nat) : Bool :=
  let x := r.row i
  if x.eowmask != 0 then (setBitsOf x.eowmask 16).all fun col => c.reports r i x.wave col
  else if x.pick = 0 then x.wave < r.waves || r.eowSent
  else
    let q := r.row ((i + r.height - 1) % r.height)
    q.pick + 1 != x.pick || !(q.st == .loading || q.st == .active) || x.wave < q.wave

/-- R163: a row of the region passes: it is Passed, or Active for the next wave that a resident block has started. -/
def State.passRow (s : State) (k rn i : Nat) : State :=
  match s.region? k rn with
  | none => s
  | some r =>
    if (r.row i).st == .active && (s.core k).rowPassed r i then
      s.modRegion k rn fun r => { r with rows := modAt r.rows i fun x =>
        if x.wave < r.waves then { x with wave := x.wave + 1, since := s.cycle } else { x with st := .passed, since := s.cycle } }
    else s

/-- R163: the rows of a region, each after the one before it. -/
def State.passRows (s : State) (k rn : Nat) : State :=
  match s.region? k rn with
  | none => s
  | some r => (upFrom 0 r.height).foldl (fun s i => s.passRow k rn i) s

/-- EOW (R200): only in a context without a thread, on an end-of-wave token. -/
def eowEff (d : Option Operand) (a : Operand) (k e c : Nat) (s : State) : Option (Eff × State) :=
  match a with
  | .inChan ch _ =>
    match s.chanHead k e c ch.toNat with
    | some t =>
      if t.kind = 1 then
        let s' := s.modCtx k e c fun x => { x with eows := x.eows + 1 }
        let s' := match (s.core k).regionOf e with
          | some (rn, _) => s'.passRows k rn
          | none => s'
        some (match d with
          | some o => ({} : Eff).put c o t.payload.toNat
          | none => {}, s')
      else none
    | none => none
  | _ => none

/-- EOW (R200). -/
def execEow (g : BitVec 16) (d : Option Operand) (a : Operand) (s : State) : Out3 := runFabric (.eow g d a) (eowEff d a) s

/-- TIDX (R201): a field of the thread number. -/
def threadField (t sh nb : Nat) : Nat :=
  let v := if sh ≥ 32 then 0 else t / 2 ^ sh
  if nb < 32 then v % 2 ^ nb else v

/-- TIDX (R201). -/
def execTidx (g : BitVec 16) (d a b : Operand) (s : State) : Out3 :=
  runFabric (.tidx g d a b) (fun k e c s =>
    some (quietOf s d (zext (threadField (s.elemSreg k e c 0x04) (s.src a).ownZ (s.src b).ownZ) (destWidth d)), s)) s

/-- R202: the layer cycles of an IDLE. -/
def idleCycles (n : Nat) : Nat := if n = 0 then 1 else min n 4096

/-- IDLE (R202): the context is held for n layer cycles. -/
def execIdle (g : BitVec 16) (a : Operand) (s : State) : Out3 :=
  runFabric (.idle g a) (fun _ _ _ s => some ({ hold := true, extra := idleCycles (s.src a).ownZ - 1 }, s)) s

end Sys2Proof.Machine
end

