-- ==== Sys2Proof/Machine/EvCore.lean ====
section
/-! DEFINITION. Steps of a control core and write-backs: WRITE_BACK, TRAP_ENTRY, ASYNCHRONOUS_TRAP, INSTRUCTION_CACHE_FILL, WFE_TIMEOUT
(spec/01 R15, R18, R22; spec/21 R369, R372; spec/05 R117; spec/06 R129). -/
namespace Sys2Proof.Machine

/-! ### Latches and tokens -/

/-- R113: a HALT that waited for write-backs ends, unless a debug halt holds the core (R408). DESIGN CHOICE: notes/assumptions/24.md. -/
def ControlCore.settle (c : ControlCore) : ControlCore := if c.halting && c.wait != .debug then c.halt else c

/-- R317: a completion token that starts at a slice is written; E1 is set (R117). -/
def State.writeToken (s : State) (k id start v : Nat) (cap : Option Cap) : State :=
  match (s.cc k).regs.flights.find? fun f => f.id == id with
  | none => s
  | some f =>
    let lo := f.data
    let bitsOf := match cap with
      | some c => c.raw.toNat
      | none => v
    let data := lo ||| BitVec.ofNat 512 (bitsOf * 2 ^ (4 * start))
    let f' := { f with data := data, cap := match cap with
      | some c => some (start / 32, c.tag)
      | none => f.cap }
    (s.modCc k fun c => { c with regs := c.regs.land f' }.settle).setLatch k 1

/-- R317: the token of an engine command or a far atomic is written. -/
def State.finishToken (s : State) (k id v : Nat) (cap : Option Cap) : State :=
  s.writeToken k id (match (s.core k).cmd? id with
    | some m => m.dst
    | none => ((s.core k).far.find? fun x => x.id == id).map (fun x => x.dst) |>.getD 0) v cap

/-! ### WRITE_BACK -/

/-- R135, R136: a token enters the first latch of the link that its output channel is bound to. -/
def State.sendToken (s : State) (k e ch : Nat) (t : Token) : State :=
  match (s.core k).regionOf e with
  | none => s
  | some (_, r) =>
    let q := routeOf (((s.core k).elem e).oroute.getD ch 0)
    let d := r.elemAt (r.rowOf e + b2n q.next) q.col
    let key := d * 8 + q.port
    s.modCore k fun c => { c with links := c.links.set key ((c.link key).push (c.hops e d q.next - 1) t) }

/-- R140: a control token enters the first latch of its link. -/
def State.sendCtok (s : State) (k e p : Nat) (t : Token) : State :=
  match (s.core k).regionOf e with
  | none => s
  | some (_, r) =>
    let q := routeOf (((s.core k).elem e).kroute.getD p 0)
    let d := r.elemAt (r.rowOf e + b2n q.next) q.col
    let key := d * 4 + q.port % 4
    s.modCore k fun c => { c with klinks := c.klinks.set key ((c.klink key).push (c.hops e d q.next - 1) t) }

/-- R414: cycles from the write-back of an out write to its arrival. DEDUCED: notes/assumptions/53.md. -/
def edgeCycles (a b : Nat) : Nat :=
  if a / 4 = b / 4 then 8
  else if dieOf a = dieOf b then 16
  else 16 + 48 * (max (dieOf a) (dieOf b) - min (dieOf a) (dieOf b))

/-! ### Lane groups (spec/24 R414, R416, R420) -/


/-- R419, R420: the lane group of a pair and direction, given as its first group, that the flow of number `n` is pinned to: retired groups have passed
it on in ascending order. DESIGN CHOICE: notes/assumptions/53.md. -/
def State.pinned (s : State) (base n : Nat) : Option Nat :=
  ((upFrom 0 8).map fun i => base + (n + i) % 8).find? fun g => !(s.group g).retired

/-- R414, R416: the links that an edge crosses from core `a` to core `b`, each as the first group of its pair and direction. -/
def linkPath (a b : Nat) : List Nat :=
  if dieOf a ≤ dieOf b then (upFrom (dieOf a) (dieOf b - dieOf a)).map fun p => p * 16 + 8
  else ((upFrom (dieOf b) (dieOf a - dieOf b)).reverse).map fun p => p * 16

/-- R416: the payload in which a value of edge `e` of launch `l` crosses its link number `hop`. DESIGN CHOICE: notes/assumptions/53.md. -/
def edgePayload (l e hop ctx : Nat) (v : Word64) : BitVec 224 :=
  BitVec.ofNat 224 (v.toNat + ctx % 4 * 2 ^ 64 + hop % 4 * 2 ^ 66 + e % 2 ^ 16 * 2 ^ 68 + l % 2 ^ 64 * 2 ^ 84)

/-- The launch, edge and hop of a payload. DESIGN CHOICE: notes/assumptions/53.md. -/
def payloadEdge (p : BitVec 224) : Nat × Nat × Nat := (bits p.toNat 147 84, bits p.toNat 83 68, bits p.toNat 67 66)

/-- R414, R420: a payload is handed to the group that its flow is pinned to on the link of its hop. -/
def State.handOver (s : State) (path : List Nat) (e : Nat) (hop : Nat) (p : BitVec 224) : State :=
  match (path[hop]?).bind fun b => s.pinned b e with
  | some g => s.modGroup g fun x => { x with waiting := x.waiting ++ [p] }
  | none => s

/-- The core of a member of a launch. -/
def State.memberCore (s : State) (l m k : Nat) : Nat := (((s.launches.get? l).bind fun x => x.members[m]?).map Member.core).getD k

/-- R139, R413: a pass-register value goes to the next row's link, or onto its long edge. -/
def State.sendPass (s : State) (k e q : Nat) (t : Token) : State :=
  match s.edgeFrom k e q with
  | some (l, i, g) =>
    let tgt := s.memberCore l g.tgt k
    let v := (s.cycle + edgeCycles k tgt, t.payload, t.ctx)
    if (linkPath k tgt).isEmpty then s.modEdge l i fun g => { g with flying := g.flying ++ [v], sent := g.sent ++ [t.origin] }
    else (s.modEdge l i fun g => { g with crossing := g.crossing ++ [v], sent := g.sent ++ [t.origin] }).handOver (linkPath k tgt) i 0 (edgePayload l i 0 t.ctx t.payload)
  | none =>
    match (s.core k).regionOf e with
    | none => s
    | some (_, r) =>
      let key := r.elemAt (r.rowOf e + 1) (r.colOf e) * 4 + q
      s.modCore k fun c => { c with plinks := c.plinks.set key { (c.plink key) with val := some t } }

/-- R166: the word that follows an entry's payload in the wrap buffer. -/
def wrapWord (ctx kind net col port : Nat) : Nat := ctx % 4 + kind % 4 * 2 ^ 2 + net % 4 * 2 ^ 4 + col % 16 * 2 ^ 6 + port % 8 * 2 ^ 10

/-- R166: the first free place of the wrap buffer from the write index on. DEDUCED: notes/assumptions/54.md. -/
def Region.wrapPlace (r : Region) : Nat :=
  (((upFrom 0 r.wrapRing).map fun i => (r.wrapNext + i) % max 1 r.wrapRing).find? fun p => r.wrap.all fun w => w.slot != p).getD 0

/-- R166: an entry is written to the wrap buffer. DEDUCED: notes/assumptions/54.md. -/
def State.sendWrap (s : State) (k e : Nat) (payload : Word64) (w : Nat) : State :=
  match (s.core k).regionOf e with
  | none => s
  | some (rn, r) =>
    let p := r.wrapPlace
    let s := s.store (tileLoc k (r.wrapBase + 16 * p)) 16 (payload.toNat + w * 2 ^ 64)
    s.modRegion k rn fun r =>
      { r with wrap := r.wrap ++ [{ block := r.cur.getD 0, pick := (r.row (r.rowOf e)).pick, slot := p }]
               wrapNext := (p + 1) % max 1 r.wrapRing }

/-- R288: a request enters its stream's queue. -/
def State.queueRequest (s : State) (k e st : Nat) (q : NodeReq) : State :=
  let n := nodeOf e
  let add (x : Stream) : Stream := { x with queue := x.queue ++ [{ q with entered := s.cycle }] }
  s.modCore k fun c =>
    let nd := c.nodes.getD n {}
    { c with nodes := c.nodes.set n (if st = 0 then { nd with s0 := add nd.s0 } else { nd with s1 := add nd.s1 }) }

/-- R159, R199: an entry record is appended to a block's queue. -/
def State.appendRecord (s : State) (k rn b : Nat) (ws : List Word64) : State :=
  match (s.region? k rn).bind fun r => r.blocks[b]? with
  | none => s
  | some x =>
    let a := x.qbase + (x.head + x.count) % max 1 x.qcap * 64
    (s.put (tileLoc k a) (ws.flatMap fun w => toBytes w.toNat 8)).modRegion k rn fun r =>
      { r with blocks := modAt r.blocks b fun x => { x with count := x.count + 1 } }

/-- R199: an EXIT whose block does not exist: the thread has ended, and the controller reports it (notes/assumptions/34.md). -/
def State.exitTarget (s : State) (k rn : Nat) (r : Region) (e n : Nat) : State :=
  (s.endThread k e).regionFault k rn 0x105 (faultArg n 0x105 3 0 (r.colOf e) 0 (e % 16 / 8) (r.rowOf e) rn) (r.row (r.rowOf e)).pick

/-- What an element's output places at its write-back. DEDUCED: notes/assumptions/34.md. -/
def State.placeOut (s : State) (k e c : Nat) (f : Flight) (o : Out) : State :=
  let org := match (s.core k).regionOf e with
    | some (_, r) => originOf (r.rowOf e) (r.colOf e) c f.seq
    | none => 0
  let tok (p : Word64) (cx kind : Nat) : Token :=
    { payload := p, ctx := cx, kind := kind, arrived := s.cycle, origin := org, fired := f.at_
      load := match (s.core k).regionOf e with
        | some (_, r) => (r.row (r.rowOf e)).load
        | none => 0 }
  let route (l : List (BitVec 16)) (i : Nat) := routeOf (l.getD i 0)
  let x := s.elem k e
  match o with
  | .token ch kind cx p wrap =>
    if wrap then s.sendWrap k e p (wrapWord cx kind 0 (route x.oroute ch).col (route x.oroute ch).port)
    else s.sendToken k e ch (tok p cx kind)
  | .ctok p v cx wrap =>
    let pl := BitVec.ofNat 64 (b2n v)
    if wrap then s.sendWrap k e pl (wrapWord cx 0 1 (route x.kroute p).col ((route x.kroute p).port % 4))
    else s.sendCtok k e p (tok pl cx 0)
  | .pass q v cx wrap =>
    if wrap then s.sendWrap k e v (wrapWord cx 0 2 (match (s.core k).regionOf e with
      | some (_, r) => r.colOf e
      | none => 0) q)
    else s.sendPass k e q (tok v cx 0)
  | .request op st pos v cx port =>
    s.queueRequest k e st { op := op, pos := pos, val := v, elem := e, ctx := cx, port := port, flight := f.id
                            thread := ((s.ctx k e c).thread.map BitVec.toNat).getD 0 }
  | .record b ws => (match (s.core k).regionOf e with
      | some (rn, r) => if b < r.blocks.length then s.appendRecord k rn b ws else s.exitTarget k rn r e b
      | none => s)
  | .store fmt codes x => s.modElem k e fun y => { y with store := { fmt := fmt, codes := codes, e := x } }

/-- R289: a request that names a control port: its token is sent when it is performed. -/
def Flight.ordered (f : Flight) : Bool := f.outs.any fun o => match o with
  | .request _ _ _ _ _ p => p.isSome
  | _ => false

/-- The slices whose bank bits a mask touches. -/
def slicesOf (m : BitVec 512) : List Nat := (upFrom 0 128).filter fun i => m &&& sliceMask i 1 != 0

/-- R403: the writes of a flight are noted with their cycle and origin. -/
def Ctx.mark (x : Ctx) (f : Flight) (now org : Nat) : Ctx :=
  let ks := slicesOf f.own ++ ((upFrom 0 8).filter fun i => f.pown.getLsbD i).map (· + 128)
  { x with written := ks.foldl (fun w i => w.set i (now, org)) x.written }

/-- R291: some request of the context, fired before the fence, is not yet performed. -/
def Core.requestsOf (c : Core) (e cx : Nat) : Bool :=
  let n := c.nodes.getD (nodeOf e) {}
  (n.s0.queue ++ n.s1.queue).any (fun q => q.elem == e && q.ctx == cx) ||
    ((c.elem e).ctx cx).regs.flights.any fun f => f.outs.any fun o => match o with
      | .request .. => true
      | _ => false

/-- R129: an element's flight writes back. -/
def State.landElem (s : State) (k e c : Nat) (f : Flight) : State :=
  let org := match (s.core k).regionOf e with
    | some (_, r) => originOf (r.rowOf e) (r.colOf e) c f.seq
    | none => 0
  let s := s.modCtx k e c fun x => { x.mark f s.cycle org with regs := x.regs.land f }
  if f.ordered then
    let s := (f.outs.filter fun o => match o with
      | .request .. => true
      | _ => false).foldl (fun s o => s.placeOut k e c f o) s
    let g := { f with left := none, owed := true, outs := f.outs.filter fun o => match o with
      | .request .. => false
      | _ => true }
    s.modCtx k e c fun x => { x with regs := { x.regs with flights := x.regs.flights ++ [g] } }
  else f.outs.foldl (fun s o => s.placeOut k e c f o) s

/-- R15: a control core's flight writes back. -/
def State.landCc (s : State) (k : Nat) (f : Flight) : State :=
  let s := s.modCc k fun c =>
    let c := { c with regs := c.regs.land f }
    (match f.sreg with
      | some (n, v) => c.writeSreg n v
      | none => c).settle
  let s := if f.token then s.setLatch k 1 else s
  if (s.cc k).trapping.isSome && (s.cc k).regs.drained then { s with todo := .ev (.trapEntry k) :: s.todo } else s

/-- WRITE_BACK (R15, R129): an in-flight instruction whose latency has ended. -/
def execWriteBack (x : Site) (id : Nat) (s : State) : Out3 :=
  .next (match (s.regsAt x).flights.find? fun f => f.id == id with
    | none => s
    | some f =>
      if f.left != some 0 then s
      else match x with
        | .cc k => s.landCc k f
        | .ctx k e c _ => if f.fence && (s.core k).requestsOf e c then s else s.landElem k e c f)

/-! ### Traps -/

/-- TRAP_ENTRY (R369); only a resume ends a debug halt (R408). DESIGN CHOICE: notes/assumptions/24.md. -/
def execTrapEntry (k : Nat) (s : State) : Out3 :=
  .next (match (s.cc k).trapping with
    | some t => if (s.cc k).regs.drained && (s.cc k).wait != .debug then s.enterTrap k t.cause t.eval t.epc false else s
    | none => s)

/-- R372: the report at the head may be delivered now; in the cycle of its arrival it is not yet (notes/assumptions/34.md). -/
def ControlCore.deliverable (c : ControlCore) (now : Nat) : Bool :=
  match c.reports with
  | [] => false
  | (x, _, t) :: _ =>
    t < now && !c.stall && (c.run == .running || (c.run == .waiting && c.wait != .debug)) && !causeIntrap c.cause && causeVec c.cause != 0
      && (c.gbar.isNone || x == 0x383) && c.trapping.isNone && !c.halting

/-- R338, R372, R378: a GBAR's arrival is withdrawn; its PC stays at the GBAR. -/
def State.withdraw (s : State) (k : Nat) : State :=
  match (s.cc k).gbar, (s.cc k).member with
  | some n, some (l, _) =>
    (s.modBar l n fun b =>
      let w := b.waiters.filter (· != k)
      { b with count := b.count - 1, waiters := w, due := if b.count ≤ 1 then none else b.due }).modCc k fun c => { c with gbar := none }
  | _, _ => s

/-- ASYNCHRONOUS_TRAP (R372): once earlier instructions have written back. DEDUCED: notes/assumptions/34.md. -/
def execAsynchronousTrap (k : Nat) (s : State) : Out3 :=
  .next (match (s.cc k).reports with
    | (x, v, _) :: r =>
      if (s.cc k).deliverable s.cycle && (s.cc k).regs.drained then
        let s := (s.withdraw k).modCc k fun c => { c with reports := r }
        s.enterTrap k x v (s.cc k).pc true
      else s
    | [] => s)

/-! ### The instruction cache (R21, R22) -/

/-- R21: lines are of 128 bytes, in 128 sets of 4 ways. -/
def lineOf (va : Nat) : Nat := va / 128 * 128
def setOf (va : Nat) : Nat := va / 128 % 128

/-- R19: the address of the instruction at the PC. -/
def ControlCore.fetchVa (c : ControlCore) : Nat := c.codecap.base + c.pc.toNat

/-- The root of the partition's space 2: lines of one code segment share it. -/
def State.rootOf (s : State) (k : Nat) : Nat :=
  match (s.core k).part with
  | some p => (s.part p).root2
  | none => 0

/-- R21: a line enters the cache; a full set gives up one line, whose choice the spec leaves open. DEDUCED: notes/assumptions/59.md. -/
def ControlCore.addLine (c : ControlCore) (l : Line) (victim : Nat) : ControlCore :=
  let old := c.icache.filter fun x => !(x.va == l.va && x.root == l.root)
  let same := old.filter fun x => setOf x.va == setOf l.va
  if same.length < 4 then { c with icache := l :: old, fill := none }
  else
    let v := same.getD (victim % 4) l
    { c with icache := l :: old.filter (fun x => !(x.va == v.va && x.root == v.root)), fill := none }

/-- R22: the cores of a cluster that wait for the same line of the same segment. -/
def State.requesters (s : State) (k va : Nat) : List Nat :=
  (upFrom (k / 4 * 4) 4).filter fun j => (s.cc j).fill == some va && s.rootOf j == s.rootOf k

/-- The 8 bytes of code at an address that stands in a line or runs from it into the next (R19: a code segment may begin at any byte). -/
def codeWord (l : Line) (next : Option Line) (va : Nat) : Word64 :=
  let n := va % 8
  let i := va % 128 / 8
  let hi := if i = 15 then ((next.map fun (m : Line) => m.words.getD 0 0).getD 0).toNat else (l.words.getD (i + 1) 0).toNat
  BitVec.ofNat 64 (((l.words.getD i 0).toNat + 2 ^ 64 * hi) / 2 ^ (8 * n))

/-- R20, R22: the fetch at the PC names a line. DEDUCED: notes/assumptions/59.md. -/
def ControlCore.names (c : ControlCore) (va : Nat) : Bool := lineOf c.fetchVa == va || lineOf (c.fetchVa + 7) == va

/-- INSTRUCTION_CACHE_FILL (R22): the line comes from device memory and goes to every requester of the cluster; a fault goes to those whose
fetch still names the line (R20). DEDUCED: notes/assumptions/59.md. -/
def execInstructionCacheFill (k : Nat) (s : State) : Out3 :=
  .next (match (s.cc k).fill with
    | none => s
    | some va =>
      let req := s.requesters k va
      match s.fetch (dieOf k) k ((s.core k).part.getD 0) 2 va (needX ||| needR) 128 with
      | (.ok v, s) =>
        let l : Line := { va := va, root := s.rootOf k, words := wordsOf v 16 }
        req.foldl (fun s j =>
          let n := s.free
          { s.modCc j fun c => c.addLine l (if (c.icache.filter fun x => setOf x.va == setOf l.va).length < 4 then 0 else Config.icacheVictim n)
            with free := s.free + 1 }) s
      | (.error (x, a), s) =>
        req.foldl (fun s j => s.modCc j fun c =>
          { c with fill := none, fillFault := if c.names va then some (c.pc, x, BitVec.ofNat 64 a) else c.fillFault }) s)

/-! ### WFE_TIMEOUT -/

/-- WFE_TIMEOUT (R117): no awaited latch has come in time: D := 0x80. DEDUCED: notes/assumptions/59.md. -/
def execWfeTimeout (k : Nat) (s : State) : Out3 :=
  .next (match (s.cc k).run, (s.cc k).wait with
    | .waiting, .event _ d (some u) => if u = s.cycle then s.endWait k (some (d, 0x80)) else s
    | _, _ => s)

end Sys2Proof.Machine
end

