-- ==== Sys2Proof/Machine/Image.lean ====
section
/-! DEFINITION. Configuration images and picks: their layout and their checks (spec/07 R151 to R158, R167, R169, R174; spec/13 R259, R261,
R267; spec/14 R287). -/
namespace Sys2Proof.Machine

/-! ### Bytes -/

/-- One byte of CRC-32C, the Castagnoli polynomial in reflected form (notes/assumptions/8.md). -/
def crcStep (c : Nat) : Nat → Nat
  | 0 => c
  | n + 1 => crcStep (if c % 2 = 1 then c / 2 ^^^ 0x82F63B78 else c / 2) n

/-- CRC-32C of bytes. PRESUMED: notes/assumptions/8.md. -/
def crc32c (l : List Byte) : Nat := (l.foldl (fun c b => crcStep (c ^^^ b.toNat) 8) 0xFFFFFFFF) ^^^ 0xFFFFFFFF

/-- A little-endian field of `n` bytes at an offset. -/
def fieldAt (b : List Byte) (off n : Nat) : Nat := ofBytes ((b.drop off).take n)

/-- Bytes `off` to `off + n − 1` are all 0. -/
def zeroAt (b : List Byte) (off n : Nat) : Bool := ((b.drop off).take n).all fun x => x == 0

/-- Bytes with `n` of them from an offset taken as 0. -/
def blankAt (b : List Byte) (off n : Nat) : List Byte := b.take off ++ List.replicate n 0 ++ b.drop (off + n)

/-- R309, R346: bytes of a configuration image, read by the loader of core `k` for a partition. -/
def State.readImage (s : State) (k part a n : Nat) : Except (Nat × Nat) (List Byte) × State :=
  s.fetch (dieOf k) k part 2 (a % 2 ^ 64) needR n

/-- R153, R346: bytes of a card, or its CRC, read as a card-store fill. DEDUCED: notes/assumptions/19.md. -/
def State.readCard (s : State) (k part a n : Nat) : Except (Nat × Nat) (List Byte) × State :=
  s.fetch (dieOf k) k part 2 (a % 2 ^ 64) (needX ||| needR) n

/-! ### Header and block table (R151, R152) -/

def hdrNcard (b : List Byte) : Nat := bits (fieldAt b 0 8) 63 48
def hdrNblk (b : List Byte) : Nat := bits (fieldAt b 0 8) 47 32
def hdrLevel (b : List Byte) : Nat := bits (fieldAt b 0 8) 15 8
def hdrKind (b : List Byte) : Nat := bits (fieldAt b 0 8) 7 0

/-- R245, check 4: the header's limits. DEDUCED: notes/assumptions/28.md. -/
def hdrOk (b : List Byte) (level : Nat) : Bool :=
  hdrLevel b == level && hdrKind b ≤ 1 && 1 ≤ hdrNcard b && hdrNcard b ≤ 256 && 1 ≤ hdrNblk b && hdrNblk b ≤ 1024

/-- R152: a descriptor's reserved bits are 0 and QCAP is not 0. -/
def blkOk (d0 : Nat) : Bool := bits d0 63 48 != 0 && bits d0 47 40 == 0 && bits d0 31 24 == 0 && bits d0 16 0 == 0

/-- R152: a block from its descriptor's words. -/
def blkOf (d0 d1 : Nat) : Block :=
  { qcap := bits d0 63 48, npick := bits d0 39 32 + 1, entcol := bits d0 23 20, entch := bits d0 19 17, pickoff := d1, wave := 0, xtok := 0, qbase := 0 }

/-- The blocks of a table's bytes. -/
def blocksOf (b : List Byte) : Nat → List Block
  | 0 => []
  | n + 1 => blkOf (fieldAt b 0 8) (fieldAt b 8 8) :: blocksOf (b.drop 16) n

/-! ### A pick image (R154 to R156) -/

/-- R154: the length of a pick image. -/
def pickLen (wide : Bool) : Nat := if wide then 1728 else 896
/-- The columns of a pick. -/
def pickCols (wide : Bool) : Nat := if wide then 16 else 8

/-- R155: fields of the pick header. -/
def pkEowmask (b : List Byte) : Nat := bits (fieldAt b 0 8) 63 48
def pkWmax (b : List Byte) : Nat := bits (fieldAt b 0 8) 47 36
def pkXtok (b : List Byte) : Nat := bits (fieldAt b 0 8) 35 32
def pkCls1 (b : List Byte) : Nat := bits (fieldAt b 0 8) 31 28
def pkCls0 (b : List Byte) : Nat := bits (fieldAt b 0 8) 27 24
def pkAcc (b : List Byte) : Bool := bit (fieldAt b 0 8) 23
def pkWide (b : List Byte) : Bool := bit (fieldAt b 0 8) 22
def pkDiv (b : List Byte) : Nat := [1, 2, 3, 4, 6, 8, 12, 16].getD (bits (fieldAt b 0 8) 21 19) 1
def pkCrc (b : List Byte) : Nat := bits (fieldAt b 8 8) 31 0

/-- R155: the header's reserved bits and limits. -/
def pickHeaderOk (b : List Byte) : Bool :=
  let w := fieldAt b 0 8
  bits w 7 0 == 1 && bits w 18 16 == 0 && bits (fieldAt b 8 8) 63 32 == 0 && zeroAt b 16 48
    && (pkWide b || (bits w 63 56 == 0 && pkCls1 b == 0))

/-- R156: an element entry's bytes. -/
def entryOf (b : List Byte) (c : Nat) : List Byte := (b.drop (64 + 96 * c)).take 96

def enUsed (e : List Byte) : Bool := bit (fieldAt e 0 8) 40
def enCard (e : List Byte) : Nat := bits (fieldAt e 0 8) 39 32
def enPinit (e : List Byte) : Nat := bits (fieldAt e 0 8) 31 0
def enRowid (e : List Byte) : Nat := bits (fieldAt e 0 8) 63 56
def enColid (e : List Byte) : Nat := bits (fieldAt e 0 8) 55 48
def enOroute (e : List Byte) : List (BitVec 16) := (upFrom 0 8).map fun o => BitVec.ofNat 16 (fieldAt e (8 + 2 * o) 2)
def enKroute (e : List Byte) : List (BitVec 16) := (upFrom 0 4).map fun o => BitVec.ofNat 16 (fieldAt e (24 + 2 * o) 2)
def enLive (e : List Byte) : List (BitVec 128) := (upFrom 0 4).map fun o => BitVec.ofNat 128 (fieldAt e (32 + 16 * o) 16)

/-- R156: a route field's form: disabled and 0, or enabled with its unused bits 0. -/
def routeForm (w : BitVec 16) (ctl : Bool) : Bool :=
  if w.getLsbD 15 then bits w.toNat 6 0 == 0 && (!ctl || !w.getLsbD 9) else w == 0

/-- R156: an element entry's form. -/
def entryForm (e : List Byte) (ncard : Nat) : Bool :=
  if enUsed e then
    bits (fieldAt e 0 8) 47 41 == 0 && enCard e < ncard && (upFrom 0 16).all (fun i => !bit (enPinit e) (2 * i + 1))
      && (enOroute e).all (fun w => routeForm w false) && (enKroute e).all (fun w => routeForm w true)
  else zeroAt e 0 96

/-! ### Node descriptors (R259, R261) -/

/-- R259: fields of a stream's words. -/
def stW (w : List Word64) (i : Nat) : Nat := (w.getD i 0).toNat
def stEn (w : List Word64) : Bool := bit (stW w 0) 63
def stClass (w : List Word64) : Nat := bits (stW w 0) 62 61
def stDir (w : List Word64) : Bool := bit (stW w 0) 60
def stFmt (w : List Word64) : Nat := bits (stW w 0) 59 56
def stBs (w : List Word64) : Bool := bit (stW w 0) 55
def stConv (w : List Word64) : Nat := bits (stW w 0) 54 53
def stRep (w : List Word64) : Bool := bit (stW w 0) 52
def stCap (w : List Word64) : Nat := bits (stW w 0) 51 48
def stAcls (w : List Word64) : Nat := bits (stW w 0) 47 44
def stDest (w : List Word64) : Nat := bits (stW w 0) 43 42
def stDcol (w : List Word64) : Nat := bits (stW w 0) 41 38
def stDch (w : List Word64) : Nat := bits (stW w 0) 37 35
def stPid (w : List Word64) : Nat := bits (stW w 0) 34 27
def stCtx (w : List Word64) : Nat := bits (stW w 0) 26 25
def stSbase (w : List Word64) : Nat := bits (stW w 1) 53 32
def stBase (w : List Word64) : Nat := bits (stW w 1) 21 0
def stCount (w : List Word64) (d : Nat) : Nat := stW w 2 / 2 ^ (16 * d) % 2 ^ 16 + 1
def stStride (w : List Word64) (d : Nat) : Int := sext (stW w 3 / 2 ^ (16 * d)) 16

/-- The words of stream `i` of half-stripe `h` of a pick. -/
def pickStream (b : List Byte) (h i : Nat) : List Word64 :=
  wordsOf ((b.drop (64 + 96 * pickCols (pkWide b) + 64 * h + 32 * i)).take 32) 4

/-- R261: the checks that give PICK_REJECT. -/
def streamForm (w : List Word64) : Bool :=
  if !stEn w then w.all fun x => x == 0
  else
    bits (stW w 0) 24 0 == 0 && bits (stW w 1) 63 54 == 0 && bits (stW w 1) 31 22 == 0 && stClass w != 3 && stConv w != 3
      && !(stDir w && stClass w == 2)
      && !(stBs w && (14 ≤ stFmt w || stDir w))
      && !(stConv w == 1 && stFmt w == 15)
      && !(stConv w == 2 && (!isIntFmt (stFmt w) || stBs w))
      && !(stDest w == 3 && !stDir w) && !(stDest w != 3 && stDir w && stClass w == 0)
      && !((stDest w == 1 || stDest w == 2) && (stClass w != 0 || stDir w || stConv w != 0 || !(11 ≤ stFmt w && stFmt w ≤ 14)))

/-- R261: DCOL lies in the pick, and for DEST 00 and 10 in the node's own half. -/
def streamCol (w : List Word64) (wide : Bool) (h : Nat) : Bool :=
  !stEn w || (stDcol w < pickCols wide && (!(stDest w == 0 || stDest w == 2) || stDcol w / 8 == h))

/-! ### Requests against streams (R287) -/

/-- R287: the stream that an instruction names accepts it. -/
def requestOk (ws : Nat → List Word64) (i : Instr) : Bool :=
  let rnd (m : BitVec 4) (dir : Bool) : Bool := let w := ws (m.toNat % 2); stEn w && stClass w == 1 && stDir w == dir
  let store (a : Operand) (m : BitVec 4) : Bool :=
    if Wf.isNone a then (let w := ws (m.toNat % 2); stEn w && stClass w == 0 && stDir w) else rnd m true
  let upd (m : BitVec 4) (ok : Nat → Bool) : Bool := let w := ws (m.toNat % 2); stEn w && stClass w == 2 && ok (stFmt w)
  let int (f : Nat) : Bool := f ≤ 5 || f == 15
  match i with
  | .ld _ _ _ _ m => rnd m false
  | .ldf _ _ _ _ m => rnd m false
  | .st _ _ a _ m => store a m
  | .stf _ _ a _ m => store a m
  | .aadd _ _ _ _ m => upd m int
  | .amin _ _ _ _ m => upd m int
  | .amax _ _ _ _ m => upd m int
  | .aand _ _ _ _ m => upd m int
  | .aor _ _ _ _ m => upd m int
  | .axor _ _ _ _ m => upd m int
  | .axchg _ _ _ _ m => upd m int
  | .acas _ _ _ _ m => upd m fun f => int f && f != 5 && f != 15
  | .afadd _ _ _ _ m => upd m fun f => f == 10 || f == 14
  | _ => true

/-! ### The checks of a pick (R157) -/

/-- A rejection: the cause, the subcause of R52, the slot and the element column (R373). -/
structure Reject where
  cause : Nat
  sub : Nat := 0
  slot : Nat := 0
  col : Nat := 0
deriving DecidableEq, Repr

/-- R52: the cause code of an illegal word. -/
def illegalCode : Illegal → Nat
  | .opcode => 1
  | .operand => 2
  | .guard => 3

/-- R52, R53, R287: the first slot of a card that is illegal in a column. -/
def cardReject (words : List Word64) (col : Nat) (ws : Nat → List Word64) : Option Reject :=
  (words.zip (upFrom 0 16)).findSome? fun p =>
    if p.1 = 0xFFFFFFFFFFFFFFFF#64 then none
    else match decode (if isV col then .vElem else .mElem) p.1 with
      | .error x => some { cause := 0x101, sub := illegalCode x, slot := p.2, col := col }
      | .ok i => if requestOk ws i then none else some { cause := 0x101, sub := 2, slot := p.2, col := col }

/-- The enabled routes of a pick: source column, target and whether it goes to the next stripe. -/
def pickRoutes (b : List Byte) (ctl : Bool) : List (Nat × Route) :=
  (upFrom 0 (pickCols (pkWide b))).flatMap fun c =>
    ((if ctl then enKroute (entryOf b c) else enOroute (entryOf b c)).map fun w => (c, routeOf w)).filter fun p => p.2.en

/-- Channels as numbers: column · 8 + port. -/
def chanOf (r : Route) : Nat := r.col * 8 + r.port

/-- No number stands twice in a list. -/
def noRepeat : List Nat → Bool
  | [] => true
  | x :: r => !r.contains x && noRepeat r

/-- R261: the channels that the node streams of a pick send to. -/
def nodeChans (b : List Byte) : List Nat :=
  (upFrom 0 (if pkWide b then 2 else 1)).flatMap fun h => (upFrom 0 2).flatMap fun i =>
    let w := pickStream b h i
    if stEn w && stDest w == 0 then [stDcol w * 8 + stDch w] else []

/-- R136, R150, R152, R157, R261: the routes of a pick. `prev` and `prevK` are the channels and in ports that the pick before binds by next-stripe
routes; `last` says that it is the last pick of its block; `ent` is the entry channel of pick 0. DEDUCED: notes/assumptions/62.md.
DESIGN CHOICE: notes/assumptions/66.md. -/
def routesReject (b : List Byte) (last : Bool) (ent : Option Nat) (prev prevK : List Nat) : Option Reject :=
  let r := pickRoutes b false
  let kr := pickRoutes b true
  let cols := pickCols (pkWide b)
  match (r ++ kr).find? fun p => cols ≤ p.2.col || (p.2.next && last) with
  | some p => some { cause := 0x103, col := p.1 }
  | none =>
    let here := (r.filter fun p => !p.2.next).map fun p => chanOf p.2
    let away := (r.filter fun p => p.2.next).map fun p => chanOf p.2
    let kHere := (kr.filter fun p => !p.2.next).map fun p => chanOf p.2
    let kAway := (kr.filter fun p => p.2.next).map fun p => chanOf p.2
    let halves := upFrom 0 (if pkWide b then 2 else 1)
    if !(halves.all fun h => streamCol (pickStream b h 0) (pkWide b) h && streamCol (pickStream b h 1) (pkWide b) h)
      || ent.any (fun c => cols * 8 ≤ c) || !noRepeat (here ++ nodeChans b ++ prev ++ ent.toList) || !noRepeat away || !noRepeat (kHere ++ prevK) || !noRepeat kAway
    then some { cause := 0x103 } else none

/-- What a pick load needs of its block: the pick's place, whether it is the last, the entry channel, and what the pick before binds.
DEDUCED: notes/assumptions/62.md. -/
structure PickPlace where
  last : Bool
  ent : Option Nat
  prev : List Nat
  prevK : List Nat
deriving DecidableEq, Repr

/-- R157: the checks of a pick image that need no card: the CRC, the fields of R155, R156 and R261 and the width. DEDUCED: notes/assumptions/28.md. -/
def pickFormReject (b : List Byte) (wide : Bool) (ncard : Nat) : Option Reject :=
  if pkWide b != wide || crc32c (blankAt b 8 4) != pkCrc b || !pickHeaderOk b then some { cause := 0x101 }
  else match (upFrom 0 (pickCols wide)).find? fun c => !entryForm (entryOf b c) ncard with
    | some c => some { cause := 0x101, col := c }
    | none =>
      if (upFrom 0 (if wide then 2 else 1)).all fun h => streamForm (pickStream b h 0) && streamForm (pickStream b h 1) then none
      else some { cause := 0x101 }

/-- R22, R153: a card that another core of the cluster fills in this cycle from the same image of the same partition. -/
def State.mergedFill (s : State) (k part img idx : Nat) : Option (List Word64) :=
  (upFrom (k / 4 * 4) 4).findSome? fun j =>
    if (s.core j).part != some part then none
    else (s.core j).regions.findSome? fun r =>
      if r.2.image != img then none else (r.2.cards.find? fun c => c.idx == idx && c.filled == s.cycle).map CardEntry.words

/-- R153: a card and its CRC read from the image: the words, or the cause of a fault or a mismatch. -/
def State.fetchCard (s : State) (k part img cardOff crcOff idx : Nat) : Except Nat (List Word64) × State :=
  match s.readCard k part (img + cardOff + 128 * idx) 128 with
  | (.error x, s') => (.error x.1, s')
  | (.ok v, s') =>
    match s'.readCard k part (img + crcOff + 4 * idx) 4 with
    | (.error x, s'') => (.error x.1, s'')
    | (.ok q, s'') => (if crc32c v != ofBytes q then .error 0x102 else .ok (wordsOf v 16), s'')

/-- R153, R22: a card of a region: as the card store holds it, else filled now, checked once. DEDUCED: notes/assumptions/19.md. -/
def State.cardOf (s : State) (k rn part img cardOff crcOff idx : Nat) : Except Nat (List Word64) × State :=
  match (s.region? k rn).bind fun r => r.cards.find? fun c => c.idx == idx with
  | some c => (.ok c.words, s)
  | none =>
    match (match s.mergedFill k part img idx with
      | some ws => (Except.ok ws, s)
      | none => s.fetchCard k part img cardOff crcOff idx) with
    | (.error x, s') => (.error x, s')
    | (.ok ws, s') => (.ok ws, s'.modRegion k rn fun r => { r with cards := r.cards ++ [{ idx := idx, words := ws, filled := s.cycle }] })

/-- R153, R157: the cards of the columns of a pick, filled and checked in ascending order: the words of each used column.
DEDUCED: notes/assumptions/19.md. -/
def State.loadCards (s : State) (k rn part img cardOff crcOff : Nat) (b : List Byte) : List Nat → Except Reject (List (Nat × List Word64)) × State
  | [] => (.ok [], s)
  | c :: rest =>
    let e := entryOf b c
    if !enUsed e then State.loadCards s k rn part img cardOff crcOff b rest
    else
      match s.cardOf k rn part img cardOff crcOff (enCard e) with
      | (.error x, s') => (.error { cause := x, col := c }, s')
      | (.ok ws, s') =>
        match cardReject ws c (fun i => pickStream b (if pkWide b then c / 8 else 0) i) with
        | some x => (.error x, s')
        | none =>
          match State.loadCards s' k rn part img cardOff crcOff b rest with
          | (.error x, t) => (.error x, t)
          | (.ok l, t) => (.ok ((c, ws) :: l), t)

/-- R157: a pick read and checked: its bytes and the cards of its used columns, or its rejection. `stageEnd` is the offset after the stage list
(R267); `placed` holds the bytes of a draft's pick as the loader has placed it (R174). Where several checks fail, the first of this order is
reported. DESIGN CHOICE: notes/assumptions/28.md. -/
def State.loadPick (s : State) (k rn part img off stageEnd : Nat) (h : ImageHdr) (wide : Bool) (p : PickPlace) (placed : Option (List Byte)) :
    Except Reject (List Byte × List (Nat × List Word64)) × State :=
  match (match placed with
    | some b => (Except.ok b, s)
    | none => s.readImage k part (img + off) (pickLen wide)) with
  | (.error x, s') => (.error { cause := x.1 }, s')
  | (.ok b, s') =>
    if off < stageEnd then (.error { cause := 0x101 }, s')
    else match pickFormReject b wide h.ncard with
      | some x => (.error x, s')
      | none =>
        match s'.loadCards k rn part img h.cardOff h.crcOff b (upFrom 0 (pickCols wide)) with
        | (.error x, s'') => (.error x, s'')
        | (.ok cards, s'') =>
          match routesReject b p.last p.ent p.prev p.prevK with
          | some x => (.error x, s'')
          | none => (.ok (b, cards), s'')

/-! ### Spill records and the resources of a block (R158, R166, R167, R169) -/

/-- R167: a pick is stateful. -/
def pickStateful (b : List Byte) : Bool :=
  pkAcc b || (upFrom 0 (pickCols (pkWide b))).any fun c => (enLive (entryOf b c)).any fun m => m != 0

/-- R167: the bytes of a context in a spill record. -/
def ctxBytes (m : BitVec 128) : Nat :=
  let n := popCount m.toNat 128
  if n = 0 then 0 else 8 + 8 * ((n + 15) / 16)

/-- R167: the size of a pick's spill record. -/
def spillSize (b : List Byte) : Nat :=
  ((upFrom 0 (pickCols (pkWide b))).map fun c =>
    let e := entryOf b c
    if enUsed e then ((enLive e).map ctxBytes).foldl (· + ·) 0 + (if pkAcc b && !isV c then 400 else 0) else 0).foldl (· + ·) 0

/-- R158, R166: what a block's picks give: W, the greatest XTOK, and the sizes of the stateful picks. -/
structure BlockNeeds where
  wave : Nat := 4096
  xtok : Nat := 0
  sizes : List (Nat × Nat) := []
deriving DecidableEq, Repr

/-- R174: the bytes of a pick: a draft's as the loader has placed it, else the image's. -/
def State.pickBytes (s : State) (k part a : Nat) (wide : Bool) (placed : Option (List Byte)) : Except Nat (List Byte) × State :=
  match placed with
  | some b => (.ok b, s)
  | none => match s.readImage k part a (pickLen wide) with
    | (.error x, s') => (.error x.1, s')
    | (.ok b, s') => (.ok b, s')

/-- The picks of block `i` read in order, `n` of them from pick `j`. -/
def State.readPicks (s : State) (k part a : Nat) (wide : Bool) (placed : SMap (List Byte)) (i j : Nat) : Nat → Except Nat BlockNeeds × State
  | 0 => (.ok {}, s)
  | n + 1 =>
    match s.pickBytes k part a wide (placed.get? (i * 256 + j)) with
    | (.error x, s') => (.error x, s')
    | (.ok b, s') =>
      match State.readPicks s' k part (a + pickLen wide) wide placed i (j + 1) n with
      | (.error x, t) => (.error x, t)
      | (.ok r, t) => (.ok { wave := min r.wave (pkWmax b + 1), xtok := max r.xtok (pkXtok b)
                             sizes := if pickStateful b then (j, spillSize b) :: r.sizes else r.sizes }, t)

/-- R169: the picks of every block: the blocks with W and XTOK, and the stateful picks with their sizes. -/
def State.readBlocks (s : State) (k part img : Nat) (wide : Bool) (placed : SMap (List Byte)) (i : Nat) :
    List Block → Except Nat (List Block × List (Nat × Nat × Nat)) × State
  | [] => (.ok ([], []), s)
  | b :: rest =>
    match s.readPicks k part (img + b.pickoff) wide placed i 0 b.npick with
    | (.error x, s') => (.error x, s')
    | (.ok n, s') =>
      match State.readBlocks s' k part img wide placed (i + 1) rest with
      | (.error x, t) => (.error x, t)
      | (.ok (bs, sz), t) => (.ok ({ b with wave := n.wave, xtok := n.xtok } :: bs, n.sizes.map (fun p => (i, p.1, p.2)) ++ sz), t)

/-- R169: slots laid out from an offset: block, pick, offset and size; and the end of the last. -/
def layoutSlots (o : Nat) : List (Nat × Nat × Nat) → List (Nat × Nat × Nat × Nat) × Nat
  | [] => ([], o)
  | (b, p, n) :: r =>
    let q := layoutSlots (o + alignUp n 64) r
    ((b, p, o, n) :: q.1, q.2)

/-- R166: the entries of the wrap buffer that the blocks need. DEDUCED: notes/assumptions/54.md. -/
def ringNeeds (bs : List Block) : Nat := bs.foldl (fun m b => max m (b.wave * b.xtok)) 0

/-- R159, R243: entry queues laid out in block order from an offset. -/
def layoutQueues (o : Nat) : List Block → List Block × Nat
  | [] => ([], o)
  | b :: r =>
    let q := layoutQueues (o + b.qcap * 64) r
    ({ b with qbase := o } :: q.1, q.2)

/-! ### Placing a draft (R174; notes/assumptions/9.md) -/

/-- A pick of a draft as it is read: its bytes; for each column the quarters of the stripe where it may stand (bit 2h + 1 for the M-elements of half h,
bit 2h for its V-elements); the pass registers that the columns write and read, as column · 4 + register; the column buses that its streams drive and
the columns that take their packets, each with its identifier; and the identifiers of the packets on its row buses. -/
structure DraftPick where
  bytes : List Byte
  dom : List Nat := []
  outs : List Nat := []
  ins : List Nat := []
  drives : List (Nat × Nat) := []
  takes : List (Nat × Nat) := []
  rows : List Nat := []
deriving DecidableEq, Repr

/-- A card has a word that one kind of element holds and the other does not. A word that neither holds is left for the pick's load to reject (R157). -/
def onlyOn (k other : SiteKind) (ws : List Word64) : Bool :=
  ws.any fun w => w != 0xFFFFFFFFFFFFFFFF#64 && (decode k w).toOption.isSome && (decode other w).toOption.isNone

/-- The instructions of a card, on whichever kind of element holds them. -/
def cardInstrs (ws : List Word64) : List Instr :=
  ws.filterMap fun w => if w = 0xFFFFFFFFFFFFFFFF#64 then none else ((decode .vElem w).toOption <|> (decode .mElem w).toOption)

/-- An instruction sends a request to the node of its half-stripe (R287): no stream that is not configured accepts it. -/
def Instr.requests (i : Instr) : Bool := !requestOk (fun _ => []) i

/-- The quarters of half `h`. -/
def halfMask (h : Nat) : Nat := 3 * 4 ^ h

/-- R142: an element whose identifier is `id` accepts a packet with identifier `pid`. -/
def idTakes (id pid : Nat) : Bool := id != 0xFF && (pid == 0xFF || pid == id)

/-- R126, R174: what the card and the entry of a column of a draft ask of its place: the kind of element, and its own half for an element that sends
requests to the half's node or takes a packet that a stream of the pick sends on a row bus (R142, R224, R287). A card that only a V-element holds takes none.
DESIGN CHOICE: notes/assumptions/9.md. -/
def DraftPick.withCard (p : DraftPick) (c : Nat) (e : List Byte) (ws : List Word64) : DraftPick :=
  let is := cardInstrs ws
  let packets := !onlyOn .vElem .mElem ws
  let kind := (if onlyOn .vElem .mElem ws then 0b0101 else 0b1111) &&& (if onlyOn .mElem .vElem ws then 0b1010 else 0b1111)
  let half := if is.any Instr.requests || (packets && p.rows.any (idTakes (enRowid e))) then halfMask (c / 8) else 0b1111
  { p with
    dom := p.dom.set c (p.dom.getD c 0 &&& kind &&& half)
    outs := p.outs ++ is.flatMap fun i => i.shape.outPasses.map fun q => c * 4 + q
    ins := p.ins ++ is.flatMap fun i => i.shape.passes.map fun q => c * 4 + q
    takes := if packets then p.takes ++ [(c, enColid e)] else p.takes }

/-- R174, R259, R261: a pick of a draft before its cards are read: the column of a stream stands in its node's half.
DESIGN CHOICE: notes/assumptions/9.md. -/
def draftPickOf (b : List Byte) (wide : Bool) : DraftPick :=
  let ws := (upFrom 0 (if wide then 4 else 2)).map fun i => (i / 2, pickStream b (i / 2) (i % 2))
  let sends (c d : Nat) (w : Nat × List Word64) : Bool := stEn w.2 && stDest w.2 == d && stDcol w.2 == c
  { bytes := b
    dom := (upFrom 0 (pickCols wide)).map fun c =>
      ws.foldl (fun m w => if sends c 0 w || sends c 2 w then m &&& halfMask w.1 else m) (if wide then 0b1111 else 0b0011)
    drives := (ws.filter fun w => stEn w.2 && stDest w.2 == 2).map fun w => (stDcol w.2, stPid w.2)
    rows := (ws.filter fun w => stEn w.2 && stDest w.2 == 1).map fun w => stPid w.2 }

/-- R142: a stream of pick `p` sends packets on the bus of its column `c` that column `d` of pick `r` takes. -/
def busTies (p r : DraftPick) (c d : Nat) : Bool := p.drives.any fun x => x.1 == c && r.takes.any fun y => y.1 == d && idTakes y.2 x.2

/-- R174: the cards of a draft's pick. -/
def State.draftCards (s : State) (k part img cardOff : Nat) (p : DraftPick) : List Nat → Except Nat DraftPick × State
  | [] => (.ok p, s)
  | c :: rest =>
    let e := entryOf p.bytes c
    if !enUsed e then State.draftCards s k part img cardOff p rest
    else match s.readCard k part (img + cardOff + 128 * enCard e) 128 with
      | (.error x, s') => (.error x.1, s')
      | (.ok v, s') => State.draftCards s' k part img cardOff (p.withCard c e (wordsOf v 16)) rest

/-- R174: the picks of a draft's block. -/
def State.draftPicks (s : State) (k part img cardOff a : Nat) (wide : Bool) : Nat → Except Nat (List DraftPick) × State
  | 0 => (.ok [], s)
  | n + 1 =>
    match s.readImage k part a (pickLen wide) with
    | (.error x, s') => (.error x.1, s')
    | (.ok b, s') =>
      match s'.draftCards k part img cardOff (draftPickOf b wide) (if pkWide b == wide then upFrom 0 (pickCols wide) else []) with
      | (.error x, s'') => (.error x, s'')
      | (.ok p, s'') =>
        match State.draftPicks s'' k part img cardOff (a + pickLen wide) wide n with
        | (.error x, t) => (.error x, t)
        | (.ok l, t) => (.ok (p :: l), t)

/-- R126: the quarter in which a column stands. -/
def colQuarter (c : Nat) : Nat := c / 8 * 2 + b2n (!isV c)

/-- Enough places for the columns, whichever quarters they are held to: for each set of quarters, no more columns that may stand there alone than it has.
DESIGN CHOICE: notes/assumptions/9.md. -/
def domOk (dom : List Nat) : Bool :=
  (upFrom 0 16).all fun m =>
    (dom.filter fun d => d &&& (15 - m) == 0).length ≤ ((upFrom 0 4).map fun q => if bit m q then (if q % 2 = 0 then 2 else 6) else 0).sum

/-- A column stands where it may. -/
def standsIn (dom : List Nat) (c pos : Nat) : Bool := bit (dom.getD c 0) (colQuarter pos)

/-- The places tried for a column: its own, then those whose own columns may not stay, then the others. DESIGN CHOICE: notes/assumptions/9.md. -/
def tries (dom : List Nat) (c : Nat) : List Nat :=
  let l := (upFrom 0 dom.length).filter fun p => p != c && standsIn dom c p
  (if standsIn dom c c then [c] else []) ++ (l.filter fun p => !standsIn dom p p) ++ l.filter fun p => standsIn dom p p

/-- The order in which columns are placed: those held to quarters that they stand in, those that must move, and those free to stand anywhere.
DESIGN CHOICE: notes/assumptions/9.md. -/
def placeOrder (dom : List Nat) : List Nat :=
  let cs := upFrom 0 dom.length
  let full := if dom.length = 8 then 0b0011 else 0b1111
  let free (c : Nat) : Bool := dom.getD c 0 == full
  (cs.filter fun c => !free c && standsIn dom c c) ++ (cs.filter fun c => !standsIn dom c c) ++ cs.filter free

/-- R139, R142, R174: two columns of different picks of a block may stand at `pos` and `pos'`: a pass register that the one writes and the other reads, or
a column bus on which the one sends packets that the other takes, joins them exactly where the draft joins them. DESIGN CHOICE: notes/assumptions/9.md. -/
def joined (ps : List DraftPick) (i c pos j d pos' : Nat) : Bool :=
  let p := ps.getD i { bytes := [] }
  let r := ps.getD j { bytes := [] }
  let pass := j = i + 1 && (upFrom 0 4).any fun q => p.outs.contains (c * 4 + q) && r.ins.contains (d * 4 + q)
  !(pass || busTies p r c d || busTies r p d c) || ((pos == pos') == (c == d))

/-- A column of a pick may stand at `pos` beside what is placed already, each as pick, column and place. -/
def fitsBeside (ps : List DraftPick) (j c pos : Nat) (a : List (Nat × Nat × Nat)) : Bool :=
  a.all fun x => if x.1 = j then x.2.2 != pos else joined ps x.1 x.2.1 x.2.2 j c pos

/-- R174: every choice of places for the columns of some picks is tried in order, and the first that fits is taken.
DESIGN CHOICE: notes/assumptions/9.md. -/
def seekPlaces (ps : List DraftPick) : List (Nat × Nat) → List (Nat × Nat × Nat) → Option (List (Nat × Nat × Nat))
  | [], a => some a
  | (j, c) :: rest, a =>
    (tries ((ps[j]?.map DraftPick.dom).getD []) c).findSome? fun pos =>
      if fitsBeside ps j c pos a then seekPlaces ps rest ((j, c, pos) :: a) else none

/-- The places found for the columns of pick `j`. -/
def colsOf (a : List (Nat × Nat × Nat)) (j n : Nat) : List Nat :=
  (upFrom 0 n).map fun c => ((a.find? fun x => x.1 = j && x.2.1 = c).map fun x => x.2.2).getD c

/-- R174: the places of the columns of some picks. DESIGN CHOICE: notes/assumptions/9.md. -/
def placePicks (ps : List DraftPick) : Option (List (List Nat)) :=
  if !(ps.all fun p => domOk p.dom) then none
  else
    (seekPlaces ps (((upFrom 0 ps.length).zip ps).flatMap fun p => (placeOrder p.2.dom).map fun c => (p.1, c)) []).map fun a =>
      ((upFrom 0 ps.length).zip ps).map fun p => colsOf a p.1 p.2.dom.length

/-- The picks of a block as one, for one choice of places that serves them all. -/
def mergedPick (ps : List DraftPick) (n : Nat) : DraftPick :=
  { bytes := [], dom := (upFrom 0 n).map fun c => ps.foldl (fun m p => m &&& p.dom.getD c 0) 15 }

/-- R174: the column in which each column of each pick of a draft's block stands: the same places in every pick where some choice serves them all, else
places pick by pick. DESIGN CHOICE: notes/assumptions/9.md. -/
def draftCols (ps : List DraftPick) (wide : Bool) : Option (List (List Nat)) :=
  match placePicks [mergedPick ps (pickCols wide)] with
  | some [m] => some (ps.map fun _ => m)
  | _ => placePicks ps

/-- R174: the channel of an edge at its target: the one that it names while no other edge has it, else the lowest free one.
DESIGN CHOICE: notes/assumptions/9.md. -/
def claim (l : List Nat) (col port n : Nat) : Option Nat :=
  if !l.contains (col * 8 + port) then some port else (upFrom 0 n).find? fun p => !l.contains (col * 8 + p)

/-- The input channels bound so far in a pick and in the one after it, whether every route has found one, and the route fields so far. -/
structure Claims where
  here : List Nat
  next : List Nat
  ok : Bool := true
  words : List Nat := []
deriving DecidableEq, Repr

/-- R136, R174: one route of a draft: its columns placed and its channel assigned; `m` gives the columns of its pick, `mn` those of the next where there is
one, `n` the channels of an element. -/
def Claims.route (m : List Nat) (mn : Option (List Nat)) (n : Nat) (x : Claims) (w : BitVec 16) : Claims :=
  let t := routeOf w
  if !t.en then { x with words := x.words ++ [w.toNat] }
  else match ((if t.next then mn else some m).bind fun m => m[t.col]?).bind fun c => (claim (if t.next then x.next else x.here) c t.port n).map fun p => (c, p) with
    | none => { x with ok := false, words := x.words ++ [w.toNat] }
    | some (c, p) =>
      { x with
        here := if t.next then x.here else x.here ++ [c * 8 + p]
        next := if t.next then x.next ++ [c * 8 + p] else x.next
        words := x.words ++ [2 ^ 15 + b2n t.next * 2 ^ 14 + c * 2 ^ 10 + p * 2 ^ 7] }

/-- `n` bytes of a number put at an offset. -/
def putField (b : List Byte) (off n v : Nat) : List Byte := b.take off ++ toBytes v n ++ b.drop (off + n)

/-- R261, R174: the streams of a placed pick: their columns, and the channels that they bind beside those already bound. -/
def placeStreams (m : List Nat) (wide : Bool) (b : List Byte) (bound : List Nat) : List Byte × List Nat × Bool :=
  (upFrom 0 (if wide then 4 else 2)).foldl (fun (r : List Byte × List Nat × Bool) i =>
    let w := pickStream r.1 (i / 2) (i % 2)
    if !stEn w || stDest w == 3 || m.length ≤ stDcol w then r
    else
      let c := m.getD (stDcol w) 0
      let off := 64 + 96 * pickCols wide + 32 * i
      let put (ch : Nat) : List Byte := putField r.1 off 8 (setBits (setBits (stW w 0) 38 4 c) 35 3 ch)
      if stDest w != 0 then (put (stDch w), r.2)
      else match claim r.2.1 c (stDch w) 8 with
        | some p => (put p, r.2.1 ++ [c * 8 + p], r.2.2)
        | none => (r.1, r.2.1, false)) (b, bound, true)

/-- R174: a pick with its columns in their places, its routes still as the draft names them. -/
def placeCols (m : List Nat) (wide : Bool) (b : List Byte) : List Byte :=
  let mask := (upFrom 0 (pickCols wide)).foldl (fun v c => v + b2n (bit (pkEowmask b) c) * 2 ^ m.getD c 0) 0
  putField (b.take 64) 0 8 (setBits (fieldAt b 0 8) 48 16 mask)
    ++ ((upFrom 0 (pickCols wide)).flatMap fun p => entryOf b (m.idxOf p)) ++ b.drop (64 + 96 * pickCols wide)

/-- R174: a placed pick with its route fields, and a CRC that is right where the draft's was. -/
def sealPick (wide good : Bool) (b : List Byte) (rs ks : List Nat) : List Byte :=
  let es := (upFrom 0 (pickCols wide)).flatMap fun c =>
    let e := entryOf b c
    e.take 8 ++ ((rs.drop (8 * c)).take 8).flatMap (fun v => toBytes v 2) ++ ((ks.drop (4 * c)).take 4).flatMap (fun v => toBytes v 2) ++ e.drop 32
  let x := b.take 64 ++ es ++ b.drop (64 + 96 * pickCols wide)
  let crc := crc32c (blankAt x 8 4)
  putField x 8 4 (if good then crc else crc ^^^ 1)

/-- A pick of a draft while its block is placed: its columns, whether its CRC was right, its bytes, the channels that its streams bind, and whether each has
found one. -/
structure PlacedPick where
  m : List Nat
  good : Bool
  bytes : List Byte
  bound : List Nat
  ok : Bool
deriving DecidableEq, Repr

/-- R174: the picks of a block, each with its columns and streams placed and the channels that these bind; `ent` is pick 0's entry channel. -/
def draftBase (wide : Bool) (ent : List Nat) : List (DraftPick × List Nat) → List PlacedPick
  | [] => []
  | (p, m) :: r =>
    let x := placeStreams m wide (placeCols m wide p.bytes) ent
    { m := m, good := crc32c (blankAt p.bytes 8 4) == pkCrc p.bytes, bytes := x.1, bound := x.2.1, ok := x.2.2 } :: draftBase wide [] r

/-- R174: the routes of a block's picks in order; `prev` and `prevK` are the channels and in ports that the pick before binds. -/
def draftRoutes (wide : Bool) (prev prevK : List Nat) : List PlacedPick → Option (List (List Byte))
  | [] => some []
  | q :: r =>
    let mn := r.head?.map PlacedPick.m
    let after := (r.head?.map PlacedPick.bound).getD []
    let cols := upFrom 0 (pickCols wide)
    let x := (cols.flatMap fun c => enOroute (entryOf q.bytes c)).foldl (fun x w => x.route q.m mn 8 w) ({ here := q.bound ++ prev, next := after } : Claims)
    let y := (cols.flatMap fun c => enKroute (entryOf q.bytes c)).foldl (fun x w => x.route q.m mn 4 w) ({ here := prevK, next := [] } : Claims)
    if !(q.ok && x.ok && y.ok) then none
    else (draftRoutes wide (x.next.drop after.length) y.next r).map fun l => sealPick wide q.good q.bytes x.words y.words :: l

/-- R174: a block of a draft placed: the columns of its picks and its pick images, or nothing where no placement exists. A pick whose width is not the
launch's stays as it is, for its load to reject. DESIGN CHOICE: notes/assumptions/9.md. -/
def placeBlock (ps : List DraftPick) (wide : Bool) (entcol entch : Nat) : Option (List (List Nat) × List (List Byte)) :=
  if ps.any fun p => pkWide p.bytes != wide then some (ps.map fun _ => upFrom 0 (pickCols wide), ps.map DraftPick.bytes)
  else
    (draftCols ps wide).bind fun ms => ((ms.getD 0 [])[entcol]?).bind fun e =>
      (draftRoutes wide [] [] (draftBase wide [e * 8 + entch] (ps.zip ms))).map fun l => (ms, l)

/-- R174: a draft as the loader has placed it: the blocks, and by block · 256 + pick the pick images and their columns. -/
structure Placed where
  blocks : List Block := []
  picks : SMap (List Byte) := []
  cols : SMap (List Nat) := []
deriving DecidableEq, Repr

/-- R174: the blocks of a draft, from block `i`: placed, nothing where one finds no placement, or the fault of a read.
DESIGN CHOICE: notes/assumptions/9.md. -/
def State.placeDraft (s : State) (k part img cardOff : Nat) (wide : Bool) (i : Nat) (p : Placed) : List Block → Except Nat (Option Placed) × State
  | [] => (.ok (some p), s)
  | b :: rest =>
    match s.draftPicks k part img cardOff (img + b.pickoff) wide b.npick with
    | (.error x, s') => (.error x, s')
    | (.ok ps, s') =>
      match placeBlock ps wide b.entcol b.entch with
      | none => (.ok none, s')
      | some (ms, l) =>
        State.placeDraft s' k part img cardOff wide (i + 1)
          { blocks := p.blocks ++ [{ b with entcol := (ms.getD 0 []).getD b.entcol b.entcol }]
            picks := ((upFrom 0 l.length).zip l).foldl (fun q x => q.set (i * 256 + x.1) x.2) p.picks
            cols := ((upFrom 0 ms.length).zip ms).foldl (fun q x => q.set (i * 256 + x.1) x.2) p.cols } rest

/-! ### The stage list (R267) -/

/-- R267: the offset of the stage list. -/
def stageOff (h : ImageHdr) (nblk : Nat) : Nat := h.blkOff + 16 * nblk

/-- R267: an entry's reserved bits and limits within an allocation of `alloc` bytes. -/
def stageEntryOk (b : List Byte) (alloc : Nat) : Bool :=
  let w1 := fieldAt b 8 8
  let len := bits w1 63 32
  let dst := bits w1 21 0
  bits w1 31 22 == 0 && bits (fieldAt b 16 8) 63 1 == 0 && fieldAt b 24 8 == 0 && len % 16 == 0 && 16 ≤ len && len ≤ 0x400000
    && dst % 16 == 0 && dst + len ≤ alloc && 256 ≤ dst

def stageEntryOf (b : List Byte) : StageEntry :=
  { src := fieldAt b 0 8, len := bits (fieldAt b 8 8) 63 32, dst := bits (fieldAt b 8 8) 21 0, zero := bit (fieldAt b 16 8) 0 }

/-- R267: the stage list: its entries, nothing where it breaks a limit, or the fault of a read. A list of more than 1,024 entries breaks one.
DESIGN CHOICE: notes/assumptions/28.md. -/
def State.readStage (s : State) (k part a alloc : Nat) : Except Nat (Option (List StageEntry)) × State :=
  match s.readImage k part a 32 with
  | (.error x, s') => (.error x.1, s')
  | (.ok h, s') =>
    let n := bits (fieldAt h 0 8) 10 0
    if 1024 < n then (.ok none, s')
    else
      match s'.readImage k part (a + 32) (32 * n) with
      | (.error x, t) => (.error x.1, t)
      | (.ok v, t) =>
        let es := (upFrom 0 n).map fun i => (v.drop (32 * i)).take 32
        (.ok (if es.all fun e => stageEntryOk e alloc then some (es.map stageEntryOf) else none), t)

end Sys2Proof.Machine
end

