-- ==== Sys2Proof/Machine/Matrix.lean ====
section
/-! DEFINITION. Row 0xB: the matrix instructions of the M-element (spec/11 R222 to R236). -/
namespace Sys2Proof.Machine

/-! ### Bus packets (R142, R224, R225) -/

/-- A packet that an element accepts, has not consumed, and that is addressed to the context. -/
def packetFor (x : Elem) (e : Nat) (isRow : Bool) (c now : Nat) (p : Option Packet) : Option Packet :=
  match p with
  | some p =>
    let own := if isRow then x.rowid else x.colid
    let id := if isRow then p.rowid else p.colid
    if x.used && !isV e && own != 0xFF && (id == 0xFF || id == own) && !p.taken.contains e && p.ctx == c && p.arrived < now then some p
    else none
  | none => none

/-- The row bus of an element's half-stripe. -/
def rowBus (e : Nat) : Nat := e / 16 * 2 + e % 16 / 8

def State.rowPacket (s : State) (k e c : Nat) : Option Packet :=
  packetFor (s.elem k e) e true c s.cycle ((s.core k).rbus.get? (rowBus e))

def State.colPacket (s : State) (k e c : Nat) : Option Packet :=
  match (s.core k).regionOf e with
  | some (rn, r) => packetFor (s.elem k e) e false c s.cycle ((s.core k).cbus.get? (rn * 16 + r.colOf e))
  | none => none

/-- R143: an element of the region takes part while its row is Active or Passed. -/
def Region.live (r : Region) (e : Nat) : Bool :=
  r.holds e && ((r.row (r.rowOf e)).st == .active || (r.row (r.rowOf e)).st == .passed)

/-- R142, R143, R224: the elements that accept a packet of a bus. -/
def Core.accepting (c : Core) (r : Region) (p : Packet) (isRow : Bool) (bus : Nat) : List Nat :=
  (c.elems.filter fun q =>
    let own := if isRow then q.2.rowid else q.2.colid
    let id := if isRow then p.rowid else p.colid
    q.2.used && !isV q.1 && r.live q.1 && own != 0xFF && (id == 0xFF || id == own)
      && (if isRow then rowBus q.1 == bus else r.colOf q.1 == bus % 16)).map fun q => q.1

/-- R143: a packet that every accepting element has consumed leaves its latch. -/
def State.takeRow (s : State) (k e : Nat) : State :=
  match (s.core k).rbus.get? (rowBus e), (s.core k).regionOf e with
  | some p, some (_, r) =>
    let p := { p with taken := e :: p.taken }
    s.modCore k fun c =>
      if (c.accepting r p true (rowBus e)).all p.taken.contains then { c with rbus := c.rbus.del (rowBus e) }
      else { c with rbus := c.rbus.set (rowBus e) p }
  | _, _ => s

def State.takeCol (s : State) (k e : Nat) : State :=
  match (s.core k).regionOf e with
  | some (rn, r) =>
    let bus := rn * 16 + r.colOf e
    match (s.core k).cbus.get? bus with
    | some p =>
      let p := { p with taken := e :: p.taken }
      s.modCore k fun c =>
        if (c.accepting r p false bus).all p.taken.contains then { c with cbus := c.cbus.del bus }
        else { c with cbus := c.cbus.set bus p }
    | none => s
  | none => s

/-- Code `i` of a packed vector (R213). -/
def codeAt (f : LFmt) (x i : Nat) : Nat := x / 2 ^ (f.width * i) % 2 ^ f.width

/-- R223: scale `i` of a scale operand. -/
def scaleAt (s : State) (o : Operand) (i : Nat) : Option Int :=
  match o with
  | .slice p _ =>
    let x := s.regs.slices p.toNat 32 / 2 ^ (16 * i) % 2 ^ 16
    scaleLog (sext (x / 256) 8) (x % 256)
  | .imm v => scaleLog v.toInt 0
  | _ => none

/-- R227: K of each member. -/
def kOf : LFmt → Nat
  | .l6 => 4 | .l8 => 2 | .l12 => 1

/-- R228: an MDOWN of the element is still to write back. -/
def Elem.downPending (x : Elem) : Bool := x.flightOuts.any fun o => match o with
  | .store .. => true
  | _ => false

/-- A tile step of a thread is counted (spec/23 R409). -/
def State.tileStep (s : State) (k e c : Nat) (f : Acc → Acc) : State :=
  (s.modElem k e fun x => { x with acc := f x.acc }).modCtx k e c fun x => { x with steps := x.steps + 1 }

/-- R409: in a deterministic launch, a tile-changing firing waits until every context of the element that holds a lower-numbered thread
has made as many. DEDUCED: notes/assumptions/37.md. -/
def State.tileTurn (s : State) (k e c : Nat) : Bool :=
  match (s.core k).regionOf e with
  | none => true
  | some (_, r) =>
    match s.launches.get? r.launch with
    | none => true
    | some l =>
      if !l.det then true
      else
        let x := s.ctx k e c
        (upFrom 0 4).all fun d =>
          match (s.ctx k e d).thread, x.thread with
          | some t, some u => !(t.toNat < u.toNat) || x.steps < (s.ctx k e d).steps
          | _, _ => true

/-- R227: the contributions of an MMAC-family firing. -/
def mmacContribs (f : LFmt) (a b : Nat → Nat → Nat) (sa sb : Nat → Option Int) : List (Nat × Contrib) :=
  (upFrom 0 8).flatMap fun r => (upFrom 0 8).flatMap fun c => (upFrom 0 (kOf f)).map fun k =>
    (8 * r + c, lProduct f (a r k) (b k c) (sa r) (sb c))

/-- R227, R228: MMAC, MMAC8 and MMAC12. -/
def mmacEff (f : LFmt) (src : MmacSrc) (b : Operand) (k e c : Nat) (s : State) : Option (Eff × State) :=
  if !s.tileTurn k e c then none
  else match s.colPacket k e c with
  | none => none
  | some q =>
    let bc (i j : Nat) : Nat := codeAt f q.body.toNat (8 * i + j)
    match src with
    | .bus o =>
      match s.rowPacket k e c with
      | none => none
      | some p =>
        let l := mmacContribs f (fun r i => codeAt f p.body.toNat (kOf f * r + i)) bc (scaleAt s o) (scaleAt s b)
        some ({}, ((s.tileStep k e c fun t => t.update l).takeRow k e).takeCol k e)
    | .store grp =>
      let x := s.elem k e
      if x.downPending then none
      else if x.store.fmt != f then
        some ({}, (s.tileStep k e c fun t => { t with poison := BitVec.allOnes 64 }).takeCol k e)
      else
        let l := mmacContribs f (fun r i => x.store.codes.getD (8 * r + kOf f * grp.toNat + i) 0) bc
          (fun _ => scaleLog x.store.e 0) (scaleAt s b)
        some ({}, (s.tileStep k e c fun t => t.update l).takeCol k e)

/-- MMAC (R227). -/
def execMmac (g : BitVec 16) (src : MmacSrc) (b : Operand) (s : State) : Out3 := runFabric (.mmac g src b) (mmacEff .l6 src b) s
/-- MMAC8 (R227). -/
def execMmac8 (g : BitVec 16) (src : MmacSrc) (b : Operand) (s : State) : Out3 := runFabric (.mmac8 g src b) (mmacEff .l8 src b) s
/-- MMAC12 (R227). -/
def execMmac12 (g : BitVec 16) (src : MmacSrc) (b : Operand) (s : State) : Out3 := runFabric (.mmac12 g src b) (mmacEff .l12 src b) s

/-- R229: a 4 by 4 outer product of W40 values into a quadrant. -/
def mmacwEff (q : BitVec 2) (k e c : Nat) (s : State) : Option (Eff × State) :=
  if !s.tileTurn k e c then none
  else match s.rowPacket k e c, s.colPacket k e c with
  | some p, some b =>
    let at_ (x i : Nat) : Real40 := readW (x / 2 ^ (40 * i) % 2 ^ 40)
    let l := (upFrom 0 4).flatMap fun r => (upFrom 0 4).map fun j =>
      (8 * (4 * (q.toNat / 2) + r) + 4 * (q.toNat % 2) + j, wProduct (at_ p.body.toNat r) (at_ b.body.toNat j))
    some ({}, ((s.tileStep k e c fun t => t.update l).takeRow k e).takeCol k e)
  | _, _ => none

/-- MMACW (R229). -/
def execMmacw (g : BitVec 16) (q : BitVec 2) (s : State) : Out3 := runFabric (.mmacw g q) (mmacwEff q) s

/-- R232: a target for X from a source. -/
def tileTarget (s : State) (a : Operand) : Int := clamp (s.src a).ownS (-32768) 32767

/-- MZERO (R232). -/
def execMzero (g : BitVec 16) (a : Operand) (s : State) : Out3 :=
  runFabric (.mzero g a) (fun k e c s =>
    if !s.tileTurn k e c then none
    else some ({}, s.tileStep k e c fun _ => { x := tileTarget s a })) s

/-- R232: MNORM to a target. -/
def Acc.normTo (t : Acc) (x : Int) : Acc :=
  let d := x - t.x
  if 0 ≤ d then
    { t with entries := t.entries.map (fun a => if a < 0 then -((a.natAbs / 2 ^ d.toNat : Nat) : Int) else ((a.natAbs / 2 ^ d.toNat : Nat) : Int)), x := x }
  else
    let n := (-d).toNat
    let big := (t.entries.zipIdx).foldl (fun m p => if p.1.natAbs * 2 ^ n ≥ 2 ^ 46 then m + 2 ^ p.2 else m) 0
    { entries := t.entries.map (fun a => if a.natAbs * 2 ^ n ≥ 2 ^ 46 then 0 else a * ((2 ^ n : Nat) : Int))
      poison := t.poison ||| BitVec.ofNat 64 big, x := x }

/-- R217, R232: an entry that MNORM.max scales. A clean one fits; the spec states no value for a poisoned one that does not fit 48 bits. -/
def entryScaled (free i : Nat) (v : Int) : Int :=
  if -140737488355328 ≤ v && v < 140737488355328 then v else (Config.freeEntry free i).toInt

/-- R232: MNORM.max. DESIGN CHOICE: notes/assumptions/6.md. DEDUCED: notes/assumptions/58.md. -/
def Acc.normMax (free : Nat) (t : Acc) : Acc :=
  let m := t.greatest
  if m = 0 then t
  else
    let room : Int := min (45 - (m.log2 : Nat)) (t.x + 32768)
    let n := room.toNat / 2 * 2
    { t with entries := t.entries.zipIdx.map (fun p => entryScaled free p.2 (p.1 * ((2 ^ n : Nat) : Int))), x := t.x - n }

/-- MNORM (R232). -/
def execMnorm (g : BitVec 16) (a : Option Operand) (s : State) : Out3 :=
  runFabric (.mnorm g a) (fun k e c s =>
    if !s.tileTurn k e c then none
    else match a with
      | some o => some ({}, s.tileStep k e c fun t => t.normTo (tileTarget s o))
      | none => some ({}, { s.tileStep k e c fun t => t.normMax s.free with free := s.free + 1 })) s

/-- MDOWN (R230): the tile as it stands; the store is written at write-back. -/
def execMdown (g : BitVec 16) (f : LFmt) (s : State) : Out3 :=
  runFabric (.mdown g f) (fun k e c s =>
    if !s.tileTurn k e c then none
    else
      let r := (s.elem k e).acc.down f
      some ({ outs := [.store f r.1 r.2] }, s.tileStep k e c id)) s

/-- MREAD (R231). -/
def execMread (g : BitVec 16) (d a b : Operand) (m : Rounding) (s : State) : Out3 :=
  runFabric (.mread g d a b m) (fun k e _ s =>
    let t := (s.elem k e).acc
    let r := match a with
      | .res n => n.toNat
      | _ => 0
    let i := 8 * r + (s.src b).ownZ % 8
    if t.poisoned i then some ({ quietOf s d wNaN with rsr := rsrCount m }, s)
    else
      let v := t.entries.getD i 0
      some (resultOf s d m (roundFin m (s.offset 0) (v < 0) v.natAbs t.x false), s)) s

/-- MXGET (R233). -/
def execMxget (g : BitVec 16) (d a : Operand) (s : State) : Out3 :=
  runFabric (.mxget g d a) (fun k e _ s =>
    let t := (s.elem k e).acc
    some (quietOf s d (if (s.src a).raw = 0 then wrap t.x (destWidth d) else zext t.poison.toNat (destWidth d)), s)) s

/-- R235: MTASK. Where the tags differ it writes only the predicate and consumes nothing. -/
def mtaskEff (d : Option Operand) (a b : Operand) (p : BitVec 2) (k e c : Nat) (s : State) : Option (Eff × State) :=
  match a with
  | .inChan ch _ =>
    match s.chanHead k e c ch.toNat with
    | some t =>
      if t.kind != 3 then none
      else
        let m := t.payload.toNat % 2 ^ 16 == (s.src b).to .z 16
        let f := { ({} : Eff).pred p.toNat m with takes := m }
        some (match d with
          | some o => if m then f.put c o (zext (t.payload.toNat / 2 ^ 16) (destWidth o)) else f
          | none => f, s)
    | none => none
  | _ => none

/-- MTASK (R235). -/
def execMtask (g : BitVec 16) (d : Option Operand) (a b : Operand) (p : BitVec 2) (s : State) : Out3 :=
  runFabric (.mtask g d a b p) (mtaskEff d a b p) s

/-- R234: MPOIS. -/
def Acc.editPoison (t : Acc) (mask : BitVec 64) (set : Bool) : Acc :=
  if set then { t with poison := t.poison ||| mask }
  else
    { t with
      entries := t.entries.zipIdx.map fun p => if (mask &&& t.poison).getLsbD p.2 then 0 else p.1
      poison := t.poison &&& ~~~mask }

/-- MPOIS (R234). -/
def execMpois (g : BitVec 16) (a : Operand) (x : Bool) (s : State) : Out3 :=
  runFabric (.mpois g a x) (fun k e c s =>
    if !s.tileTurn k e c then none
    else some ({}, s.tileStep k e c fun t => t.editPoison (BitVec.ofNat 64 ((s.src a).to .z 64)) x)) s

end Sys2Proof.Machine
end

