-- ==== Sys2Proof/Machine/Fabric.lean ====
section
/-! DEFINITION. Steps of the networks and of the configuration controller: TOKEN_TRANSFER, BUS_PACKET_DISCARD, FILLER_FIRING, PASS_START,
ENTRY_TOKEN_SEND, PICK_LOAD, RESTORE_COMPLETE, EVICTION, SPILL_COMPLETE, WRAP_DELIVERY, WRAP_OVERFLOW, INITIAL_RECORD_APPEND (spec/06
R135 to R143; spec/07 R157 to R168; spec/08 R179; spec/12 R247). -/
namespace Sys2Proof.Machine

/-! ### Networks -/

/-- R135, R138: the token at the head of latch `i` moves to latch `i − 1` when that has a place. DEDUCED: notes/assumptions/16.md. -/
def Link.moveAt (l : Link) (now i : Nat) : Link :=
  match l.stage i with
  | t :: rest =>
    if t.arrived < now && l.held (i - 1) now < 2 then
      (({ l with stages := modAt (modAt l.stages i fun _ => rest) (i - 1) fun q => q ++ [{ t with arrived := now }] } : Link).free i now)
    else l
  | [] => l

/-- R135: one cycle of a link, from the receiver's side. DEDUCED: notes/assumptions/16.md. -/
def Link.transfer (l : Link) (now : Nat) : Link := (upFrom 1 (l.stages.length - 1)).foldl (fun l i => l.moveAt now i) l

/-- TOKEN_TRANSFER (R135, R140): network 0 is the switch network and 1 the control network; a pass-register link has no further latch
(R139). -/
def execTokenTransfer (k net link : Nat) (s : State) : Out3 :=
  .next (match net with
    | 0 => s.modCore k fun c => { c with links := c.links.mod link fun l => l.transfer s.cycle }
    | 1 => s.modCore k fun c => { c with klinks := c.klinks.mod link fun l => l.transfer s.cycle }
    | _ => s)

/-- The region that a bus belongs to: a row bus is named by stripe · 2 + half, a column bus by region · 16 + column. -/
def Core.busRegion (c : Core) (col : Bool) (bus : Nat) : Option Region :=
  if col then c.regions.get? (bus / 16) else (c.regionOf (bus / 2 * 16 + bus % 2 * 8)).map fun p => p.2

/-- BUS_PACKET_DISCARD (R143): a packet that no element has still to consume leaves its latch. -/
def execBusPacketDiscard (k : Nat) (col : Bool) (bus : Nat) (s : State) : Out3 :=
  .next (s.modCore k fun c =>
    match (if col then c.cbus else c.rbus).get? bus with
    | none => c
    | some p =>
      let gone := match c.busRegion col bus with
        | some r => p.arrived < s.cycle && (c.accepting r p (!col) bus).all p.taken.contains
        | none => true
      if !gone then c else if col then { c with cbus := c.cbus.del bus } else { c with rbus := c.rbus.del bus })

/-! ### Filler -/

/-- R145: the element has fired an instruction in this cycle. -/
def Elem.firedAt (x : Elem) (now : Nat) : Bool := x.ctxs.any fun p => match p.2.history with
  | h :: _ => h.cycle == now
  | [] => false

/-- R248, R377: the region of an element has ended its work, is being frozen or is frozen. -/
def Core.frozenAt (c : Core) (e : Nat) : Bool :=
  match c.regionOf e with
  | some (_, r) => r.ended || r.frozen || r.freeze != .none
  | none => false

/-- R179: an M-element is due for filler at this layer-cycle edge. -/
def Core.fillerDue (c : Core) (e now : Nat) : Bool :=
  let x := c.str (strOf e)
  let i := layerOf e
  !isV e && x.edge i now && !(c.elem e).firedAt now && x.filler.getD i 0 < x.quota.getD i 0

/-- R176, R377: an element fires no filler outside a region, or in one that is released, being frozen or frozen. DESIGN CHOICE: notes/assumptions/57.md. -/
def Core.fillerBarred (c : Core) (e : Nat) : Bool := (c.regionOf e).isNone || c.frozenAt e

/-- R179: an M-element may fire filler at this layer-cycle edge. DEDUCED: notes/assumptions/57.md. -/
def Core.fillerReady (c : Core) (e now : Nat) : Bool := c.fillerDue e now && !c.fillerBarred e

/-- FILLER_FIRING (R179): one heavy token is spent and nothing else changes. DEDUCED: notes/assumptions/57.md. -/
def execFillerFiring (k e : Nat) (s : State) : Out3 :=
  .next (s.modCore k fun c =>
    if !c.fillerDue e s.cycle then c
    else if c.fillerBarred e then { c with strings := c.strings.mod (strOf e) fun x => { x with barred := modAt x.barred (layerOf e) (· + 1) } }
    else
      let x := c.str (strOf e)
      let i := layerOf e
      if x.heavy = 0 then { c with strings := c.strings.set (strOf e) { x with starved := insertNum x.starved i } }
      else
        { c with
          strings := c.strings.set (strOf e)
            { x with heavy := x.heavy - 1, filler := modAt x.filler i (· + 1), fillPtr := setAt x.fillPtr i (e % 8), lastFire := s.cycle, measured := false }
          fillCount := c.fillCount + 1 })

/-! ### The block scheduler (R161, R162) -/

/-- R157, R248, R377, R405: the controller may load picks and start passes in the region. -/
def Region.going (r : Region) : Bool := r.started && !r.ended && !r.stopped && !r.frozen && r.freeze == .none

/-- Every row is Empty, judged from before this cycle. -/
def Region.allEmpty (r : Region) (now : Nat) : Bool := r.rows.all fun x => x.st == .empty && (x.since < now || x.since = 0)

/-- R164: the block in progress has more picks than the region has rows. -/
def Region.scrolls (r : Region) : Bool := r.height < r.npick

/-- R161: a block is chosen: the candidates are the blocks with waiting records. DEDUCED: notes/assumptions/55.md. -/
def chooseBlock (bs : List (Nat × Block)) : Option Nat :=
  let cand := bs.filter fun p => p.2.count != 0
  let old := cand.filter fun p => 16 ≤ p.2.skip
  let best (key : Block → Nat) (l : List (Nat × Block)) : Option (Nat × Block) :=
    l.foldl (fun m p => match m with
      | none => some p
      | some q => if key q.2 < key p.2 then some p else some q) none
  ((if old.isEmpty then best (fun b => b.count) cand else best (fun b => b.skip) old)).map fun p => p.1

/-- R161: the skip counts after block `b` is chosen. DEDUCED: notes/assumptions/55.md. -/
def skipCounts (b : Nat) (bs : List (Nat × Block)) : List Block :=
  bs.map fun p => { p.2 with skip := if p.2.count = 0 || p.1 = b then 0 else p.2.skip + 1 }

/-- R159: record `i` of a block's queue. -/
def State.recordAt (s : State) (k : Nat) (b : Block) (i : Nat) : List Word64 :=
  (upFrom 0 8).map fun j => BitVec.ofNat 64 (s.ctlWord (tileLoc k (b.qbase + (b.head + i) % max 1 b.qcap * 64 + 8 * j)))

/-- R159, R255: the `n` records at the head of a block's queue; one with an uncorrectable unit delivers nothing. DESIGN CHOICE: notes/assumptions/33.md. -/
def State.recordsAt (s : State) (k : Nat) (b : Block) (n : Nat) : List (List Word64) :=
  (upFrom 0 n).filterMap fun i =>
    if (s.unreadable (tileLoc k (b.qbase + (b.head + i) % max 1 b.qcap * 64)) 64).isSome then none else some (s.recordAt k b i)

/-- R159: the thread number of a record. -/
def recThread (w : List Word64) : Nat := bits (stW w 0) 31 0

/-- A record inserted in ascending order of thread number. -/
def insertThread (w : List Word64) : List (List Word64) → List (List Word64)
  | [] => [w]
  | x :: r => if recThread w < recThread x then w :: x :: r else x :: insertThread w r

/-- Records removed from a list, each once. -/
def removeRecs : List (List Word64) → List (List Word64) → List (List Word64)
  | l, [] => l
  | l, x :: r => removeRecs (l.erase x) r

/-- R255: the controller reads the first `n` records of a block's queue. DEDUCED: notes/assumptions/33.md. -/
def State.recordChecks (s : State) (k rn n : Nat) (b : Block) : State :=
  (upFrom 0 n).foldl (fun (s : State) i => s.ctlCheck k rn (tileLoc k (b.qbase + (b.head + i) % max 1 b.qcap * 64)) 64) s

/-- R161: `n` records leave the head of a block's queue. DEDUCED: notes/assumptions/33.md. -/
def State.takeRecords (s : State) (k rn b n : Nat) : List (List Word64) × State :=
  match (s.region? k rn).bind fun r => r.blocks[b]? with
  | none => ([], s)
  | some x =>
    (s.recordsAt k x n, (s.recordChecks k rn n x).modRegion k rn fun r =>
      { r with blocks := modAt r.blocks b fun x => { x with head := (x.head + n) % max 1 x.qcap, count := x.count - n } })

/-- R409: in deterministic mode the records of least thread number leave the queue; the others keep their order. DEDUCED: notes/assumptions/37.md. -/
def State.takeLeast (s : State) (k rn b n : Nat) : List (List Word64) × State :=
  match (s.region? k rn).bind fun r => r.blocks[b]? with
  | none => ([], s)
  | some x =>
    let all := s.recordsAt k x x.count
    let some_ := ((all.foldl (fun l w => insertThread w l) [])).take n
    let rest := removeRecs all some_
    let s := (s.recordChecks k rn x.count x).modRegion k rn fun r => { r with blocks := modAt r.blocks b fun x => { x with count := 0 } }
    (some_, rest.foldl (fun s w => s.appendRecord k rn b w) s)

/-- A thread-entry token in a list. -/
def entersThread (l : List Token) : Bool := l.any fun t => t.kind == 2

/-- R409: every thread of the previous pass has left the region: no context holds one and no thread-entry token is on its way.
DEDUCED: notes/assumptions/37.md. -/
def State.threadsGone (s : State) (k : Nat) (r : Region) : Bool :=
  let c := s.core k
  (c.elems.all fun p => !r.holds p.1 || (p.2.ctxs.all fun x => x.2.thread.isNone) && (p.2.flightOuts.all fun o => match o with
      | .token _ kd _ _ _ => kd != 2
      | _ => true))
    && (c.links.all fun p => !r.holds (p.1 / 8) || p.2.stages.all fun l => !entersThread l)
    && (r.wrap.all fun w => (s.unreadable (tileLoc k (r.wrapBase + 16 * w.slot)) 16).isSome || bits (s.ctlWord (tileLoc k (r.wrapBase + 16 * w.slot + 8))) 3 2 != 2)

/-- R161, R166: the pass that begins: its block, records and pass number. DEDUCED: notes/assumptions/55.md. -/
def Region.begin (r : Region) (b n now : Nat) (recs : List (List Word64)) (same : Bool) : Region :=
  { r with
    pass := if r.cur.isNone then 0 else r.pass + 1
    cur := some b, records := recs, waveSize := n, entry := [], eowSent := false, nextBlock := none, sendAt := now + b2n same
    nextPick := if same then r.nextPick else 0
    waves := if same then r.waves + 1 else 1
    wrapCap := match r.blocks[b]? with
      | some x => x.wave * x.xtok
      | none => 0
    rows := if same then r.rows.map fun x => if x.st == .passed then { x with st := .active, wave := x.wave + 1 } else x else r.rows }

/-- R162: the region can start a pass: every row is Empty and no pick is still to load, or the block in progress is resident and the last
end-of-wave token of its wave has been sent. -/
def Region.canStart (r : Region) (now : Nat) : Bool :=
  r.going && r.nextBlock.isNone && r.eowSent && ((r.allEmpty now && (r.cur.isNone || r.npick ≤ r.nextPick)) || (r.cur.isSome && !r.scrolls))

/-- R161, R409: a pass of block `b` starts: it takes its records; `same` says that the rows stay loaded. DEDUCED: notes/assumptions/33.md. -/
def State.beginPass (s : State) (k rn : Nat) (r : Region) (b : Nat) (same : Bool) : State :=
  let n := match r.blocks[b]? with
    | some x => min x.wave x.count
    | none => 0
  let (recs, s) := if r.det then s.takeLeast k rn b n else s.takeRecords k rn b n
  s.modRegion k rn fun r => r.begin b n s.cycle recs same

/-- PASS_START (R161, R162, R409). A pass of another block than the one in the rows waits until every row is Empty (notes/assumptions/33.md). -/
def execPassStart (k rn : Nat) (s : State) : Out3 :=
  .next (match s.region? k rn with
    | none => s
    | some r =>
      match r.nextBlock with
      | some b => if r.going && r.allEmpty s.cycle && r.npick ≤ r.nextPick then s.beginPass k rn r b false else s
      | none =>
        if !r.canStart s.cycle || (r.det && r.cur.isSome && !s.threadsGone k r) then s
        else
          let bs := (upFrom 0 r.blocks.length).zip r.blocks
          match chooseBlock bs with
          | none => s
          | some b =>
            let s := s.modRegion k rn fun r => { r with blocks := skipCounts b bs }
            if r.cur == some b && !r.scrolls && !r.allEmpty s.cycle then s.beginPass k rn r b true
            else if r.allEmpty s.cycle then s.beginPass k rn r b false
            else s.modRegion k rn fun r => { r with nextBlock := some b })

/-! ### Entry tokens (R160) -/

/-- R160: the tokens of an entry record. DESIGN CHOICE: notes/assumptions/66.md. -/
def recordTokens (w : List Word64) : List Token :=
  let t := recThread w
  let n := min 7 (bits (stW w 0) 39 32)
  { payload := BitVec.ofNat 64 (t + n * 2 ^ 32), ctx := t % 4, kind := 2, arrived := 0 } ::
    (upFrom 1 n).map fun i => { payload := w.getD i 0, ctx := t % 4, kind := 0, arrived := 0 }

/-- R160: the four end-of-wave tokens. -/
def waveEnd (pass n : Nat) : List Token :=
  (upFrom 0 4).map fun c => { payload := BitVec.ofNat 64 (pass % 2 ^ 32 + n % 2 ^ 13 * 2 ^ 32), ctx := c, kind := 1, arrived := 0 }

/-- The entry tokens that are ready, drawn from the records when none is. DEDUCED: notes/assumptions/55.md. -/
def Region.fillEntry (r : Region) : Region :=
  match r.entry, r.records with
  | [], w :: rest => { r with entry := recordTokens w, records := rest }
  | [], [] => if r.eowSent then r else { r with entry := waveEnd r.pass r.waveSize }
  | _, _ => r

/-- ENTRY_TOKEN_SEND (R160): one token to the entry channel, under back-pressure. DEDUCED: notes/assumptions/55.md. -/
def execEntryTokenSend (k rn : Nat) (s : State) : Out3 :=
  .next (match s.region? k rn with
    | none => s
    | some r =>
      let x := r.row 0
      if !r.going || r.nextBlock.isSome || r.eowSent || s.cycle < r.sendAt || !(x.st == .active || x.st == .passed) || x.pick != 0 then s
      else match r.cur.bind fun b => r.blocks[b]? with
        | none => s
        | some blk =>
          let r' := r.fillEntry
          match r'.entry with
          | [] => s
          | t :: rest =>
            let key := r.elemAt 0 blk.entcol * 8 + blk.entch
            if 2 ≤ ((s.core k).link key).held 0 s.cycle then s
            else
              let s := s.modCore k fun c => { c with links := c.links.set key ((c.link key).push 0 { t with arrived := s.cycle }) }
              (s.modRegion k rn fun _ => { r' with entry := rest, eowSent := t.kind == 1 && rest.isEmpty }).passRows k rn)

/-! ### Faults of a region (R373, R375, R376) -/

/-- R376: a fault that stays unresolved starts the drain timer. `arg0` and `pick` are those of its record. -/
def State.addFault (s : State) (k rn node st cause arg0 pick : Nat) : State :=
  let us := match (s.core k).part with
    | some p => (s.part p).drain
    | none => 100
  s.modRegion k rn fun r =>
    { r with unresolved := r.unresolved ++ [(node, st, cause, bits arg0 16 3, pick)]
             drainAt := if r.drainAt.isSome then r.drainAt else some (s.cycle + usCycles us) }

/-- R157, R373, R375: a pick is rejected. DEDUCED: notes/assumptions/55.md. -/
def State.rejectPick (s : State) (k rn row pick : Nat) (x : Reject) : State :=
  match s.region? k rn with
  | none => s
  | some r =>
    let half := if r.wide then x.col / 8 else r.half
    let arg := faultArg (pick % 256 + x.sub * 2 ^ 8) x.cause 1 x.slot x.col 0 half row rn
    ((s.modRegion k rn fun r => { r with closed := true }).addFault k rn 32 0 x.cause arg pick).regionFault k rn x.cause arg pick

/-- R270, R373: an access of a stream faults at position `p`: the stream stops and the fault is reported. `u` is the uncorrectable unit of a
MACHINE_CHECK, by its number in the tile (R374). -/
def State.nodeFault (s : State) (k n st p cause : Nat) (u : Option Nat := none) : State :=
  match (s.core k).regionOf (n / 2 * 16 + n % 2 * 8) with
  | none => s
  | some (rn, r) =>
    let set (x : Stream) : Stream := { x with stopped := true, cause := cause, faultPos := p, faultUnit := u }
    let s := s.modCore k fun c => { c with nodes := c.nodes.mod n fun y => if st = 0 then { y with s0 := set y.s0 } else { y with s1 := set y.s1 } }
    let row := n / 2 - r.row0
    let arg := faultArg p cause 0 0 0 st (n % 2) row rn
    (s.addFault k rn n st cause arg (r.row row).pick).regionFault k rn cause arg (r.row row).pick

/-! ### Pick loads (R157, R158, R164, R168) -/

/-- R181: a divisor doubled `t` times and capped at 16. -/
def divAt (d : Nat) : Nat → Nat
  | 0 => min d 16
  | t + 1 => min 16 (2 * divAt d t)

/-- R158: the predicates of context `c` from PINIT. -/
def pinitPreds (p c : Nat) : BitVec 8 :=
  BitVec.ofNat 8 (b2n (bit p (8 * c)) + 2 * b2n (bit p (8 * c + 2)) + 4 * b2n (bit p (8 * c + 4)) + 8 * b2n (bit p (8 * c + 6)))

/-- R156, R158: an element as its entry configures it. -/
def elemOf (e : List Byte) (card : List Word64) : Elem :=
  if enUsed e then
    { used := true, card := card, rowid := enRowid e, colid := enColid e, oroute := enOroute e, kroute := enKroute e, live := enLive e
      ctxs := (upFrom 0 4).map fun c => (c, { regs := { preds := pinitPreds (enPinit e) c } }) }
  else {}

/-- R259, R374: a stream as its pick loads, with the capability that its entry holds. -/
def State.streamOf (s : State) (k bank : Nat) (w : List Word64) : Stream :=
  { words := w, cap := if stEn w then s.loadCap (tileLoc k (bank * 2 ^ 17 + 16 * stCap w)) else {} }

/-- The first bank of a member's allocation. -/
def State.bankOf (s : State) (l m : Nat) : Nat := (((s.launches.get? l).bind fun x => x.members[m]?).map Member.bank).getD 0

/-- The elements and streams of a row as a pick configures them. DEDUCED: notes/assumptions/20.md. -/
def State.configureRow (s : State) (k : Nat) (r : Region) (row : Nat) (b : List Byte) (cards : List (Nat × List Word64)) : State :=
  let s := (upFrom 0 (pickCols r.wide)).foldl (fun s c =>
    let card := ((cards.find? fun p => p.1 == c).map fun p => p.2).getD []
    s.modElem k (r.elemAt row c) fun _ => elemOf (entryOf b c) card) s
  let bank := s.bankOf r.launch r.member
  (upFrom 0 (if r.wide then 2 else 1)).foldl (fun s h =>
    let n := (r.row0 + row) * 2 + (if r.wide then h else r.half)
    let node : Node := { s0 := s.streamOf k bank (pickStream b h 0), s1 := s.streamOf k bank (pickStream b h 1) }
    let s := s.modCore k fun c => { c with nodes := c.nodes.set n node }
    (upFrom 0 2).foldl (fun s i =>
      let w := pickStream b h i
      match (if stEn w then s.unreadable (tileLoc k (bank * 2 ^ 17 + 16 * stCap w)) 16 else none) with
      | some u => s.nodeFault k n i 0 0x3E0 (some (unitAddr k u / 16))
      | none => s) s) s

/-- The strings of a row, with the row's layer in them. -/
def Region.rowStrings (r : Region) (row : Nat) : List Nat := (if r.wide then [0, 1] else [r.half]).map fun h => 2 * ((r.row0 + row) / 4) + h

/-- R127, R178, R181: a row's layers run from cycle `at_` at a divider, doubled by the throttle level of their strings. -/
def State.layers (s : State) (k : Nat) (r : Region) (row d at_ : Nat) : State :=
  s.modCore k fun c =>
    { c with strings := (r.rowStrings row).foldl (fun m n => m.set n ((c.str n).clock ((r.row0 + row) % 4) (divAt d (c.str n).level) at_)) c.strings }

/-- R180: a pick load sets the reactive terms of its row's layers to 0. -/
def State.calm (s : State) (k : Nat) (r : Region) (row : Nat) : State :=
  s.modCore k fun c =>
    { c with strings := (r.rowStrings row).foldl (fun m n => m.set n { c.str n with react := setAt (c.str n).react ((r.row0 + row) % 4) 0 }) c.strings }

/-- R400, R401: a pick is in its row: CVER advances, once in a cycle, and a record says so. -/
def State.pickLoaded (s : State) (k rn row : Nat) : State :=
  match s.region? k rn with
  | none => s
  | some r =>
    let x := r.row row
    let s := s.modRegion k rn fun r => { r with cver := if r.cverAt == some s.cycle then r.cver else r.cver + 1, cverAt := some s.cycle }
    s.traceRegion k rn 0x02 (row % 16 + x.pick % 256 * 2 ^ 8 + r.cur.getD 0 % 2 ^ 16 * 2 ^ 16 + b2n x.restored * 2 ^ 32) r.pass

/-- R163, R400, R401: a pick load is complete; entry tokens may follow once it is row 0's. -/
def State.loadDone (s : State) (k rn row : Nat) : State :=
  let s := s.pickLoaded k rn row
  if row = 0 then s.modRegion k rn fun r => { r with sendAt := s.cycle + 1 } else s

/-- R169: the slot of a stateful pick: its offset in the spill area and its size. -/
def State.slotOf (s : State) (l b p : Nat) : Option (Nat × Nat) :=
  (s.launches.get? l).bind fun x => (x.slots.find? fun q => q.1 == b && q.2.1 == p).map fun q => (q.2.2.1, q.2.2.2)

/-- What the pick before the one to load binds by next-stripe routes (R136). DEDUCED: notes/assumptions/62.md. -/
def Core.boundNext (c : Core) (r : Region) (pick : Nat) (ctl : Bool) : List Nat :=
  let row := (pick + r.height - 1) % r.height
  if pick = 0 || (r.row row).pick + 1 != pick then []
  else
    (upFrom 0 (pickCols r.wide)).flatMap fun col =>
      let x := c.elem (r.elemAt row col)
      (((if ctl then x.kroute else x.oroute).map routeOf).filter fun q => q.en && q.next).map chanOf

/-- R267: the offset after the stage list. -/
def Launch.stageEnd (l : Launch) : Nat :=
  match l.hdr with
  | some h => stageOff h l.blocks.length + 32 + 32 * l.stage.length
  | none => 0

/-- R164: the next pick of the region that may load now, also while the block after this one is already chosen. A region loads no pick while one of its
rows is Loading (notes/assumptions/10.md). -/
def Region.nextLoad (r : Region) (now : Nat) : Option (Nat × Nat) :=
  let row := r.nextPick % r.height
  let x := r.row row
  if r.going && !r.closed && r.cur.isSome && r.nextPick < r.npick && x.st == .empty && (x.since < now || x.since = 0)
      && r.rows.all (fun y => y.st != .loading) then some (row, r.nextPick) else none

/-- A pick that has passed its checks enters its row (R158, R168). Its layers run at its divider once the row is Active (R178). -/
def State.placePick (s : State) (k rn row pick : Nat) (b : List Byte) (cards : List (Nat × List Word64)) : State :=
  match s.region? k rn with
  | none => s
  | some r =>
    let blk := r.cur.getD 0
    let slot := s.slotOf r.launch blk pick
    let again := slot.isSome && r.saved.contains (blk, pick)
    let n := if again then (slot.map fun p => p.2).getD 0 else 0
    let x : Row := { st := if n = 0 then .active else .loading, pick := pick, eowmask := pkEowmask b, cls0 := pkCls0 b, cls1 := pkCls1 b
                     div := pkDiv b, acc := pkAcc b, since := s.cycle, bytes := n, restored := again, load := r.loads + 1 }
    let s := s.modRegion k rn fun r => { r with rows := setAt r.rows row x, nextPick := r.nextPick + 1, loads := r.loads + 1 }
    let s := (s.configureRow k r row b cards).calm k r row
    if n = 0 then (s.layers k r row (pkDiv b) (s.cycle + 1)).loadDone k rn row else s

/-- PICK_LOAD (R157, R164). DEDUCED: notes/assumptions/10.md. -/
def execPickLoad (k rn row pick : Nat) (s : State) : Out3 :=
  .next (match s.region? k rn with
    | none => s
    | some r =>
      if r.nextLoad s.cycle != some (row, pick) then s
      else match s.launches.get? r.launch, r.cur.bind fun b => r.blocks[b]? with
        | some l, some blk =>
          (match l.hdr with
          | none => s
          | some h =>
            let place : PickPlace :=
              { last := pick + 1 == blk.npick, ent := if pick = 0 then some (blk.entcol * 8 + blk.entch) else none
                prev := (s.core k).boundNext r pick false, prevK := (s.core k).boundNext r pick true }
            let s := s.modCore k fun c => { c with loadPtr := (rn + 1) % 8 }
            match s.loadPick k rn l.part r.image (blk.pickoff + pick * pickLen r.wide) l.stageEnd h r.wide place
                (l.placed.get? (r.cur.getD 0 * 256 + pick)) with
            | (.error x, s) => s.rejectPick k rn row pick x
            | (.ok (b, cards), s) => s.placePick k rn row pick b cards)
        | _, _ => s)

/-! ### Spill records (R167, R168, R221) -/

/-- The slices of a mask, ascending. -/
def liveSlices (m : BitVec 128) : List Nat := (upFrom 0 128).filter fun i => m.getLsbD i

/-- R167: capability position `p` is wholly live. -/
def posLive (m : BitVec 128) (p : Nat) : Bool := (upFrom (32 * p) 32).all fun i => m.getLsbD i

/-- Slices packed two to a byte, padded to 8 bytes (R167). -/
def packSlices (r : Regs) (m : BitVec 128) : List Byte :=
  let l := liveSlices m
  toBytes (l.reverse.foldl (fun v i => v * 16 + r.slices i 1) 0) ((l.length + 15) / 16 * 8)

/-- Predicates as 2-bit codes (R167). -/
def predCodes (p : BitVec 8) (n : Nat) : Nat := (upFrom 0 n).foldl (fun v i => v + b2n (p.getLsbD i) * 2 ^ (2 * i)) 0

/-- R167: a context of a spill record. -/
def spillCtx (x : Ctx) (m : BitVec 128) : List Byte :=
  if m = 0 then []
  else
    let tags := (upFrom 0 4).foldl (fun v p => v + b2n (x.regs.tags.getLsbD p && posLive m p) * 2 ^ p) 0
    toBytes (predCodes x.regs.preds 4 + x.regs.fflags.toNat % 32 * 2 ^ 8 + tags * 2 ^ 16 + x.rsr.toNat * 2 ^ 32) 8 ++ packSlices x.regs m

/-- R221: an accumulator from its image; nothing where a reserved bit is not 0. -/
def accOf (b : List Byte) : Option Acc :=
  if bits (fieldAt b 8 8) 63 16 != 0 then none
  else some (Acc.ofImage b)

/-- R167: the spill record of a row. -/
def State.spillRecord (s : State) (k : Nat) (r : Region) (row : Nat) : List Byte :=
  (upFrom 0 (pickCols r.wide)).flatMap fun col =>
    let e := r.elemAt row col
    let x := s.elem k e
    if !x.used then []
    else ((upFrom 0 4).flatMap fun c => spillCtx (x.ctx c) (x.live.getD c 0)) ++ (if (r.row row).acc && !isV e then x.acc.image else [])

/-- The bank with the slices of a mask taken from a packed number. -/
def unpackSlices (m : BitVec 128) (v : Nat) : BitVec 512 :=
  ((liveSlices m).zip (upFrom 0 128)).foldl (fun b p => b ||| BitVec.ofNat 512 (v / 16 ^ p.2 % 16 * 16 ^ p.1)) 0

/-- R168: a context restored from the bytes at the head of a record, and the rest. -/
def restoreCtx (x : Ctx) (m : BitVec 128) (b : List Byte) : Ctx × List Byte :=
  if m = 0 then (x, b)
  else
    let w := fieldAt b 0 8
    let n := (popCount m.toNat 128 + 15) / 16 * 8
    let pr := (upFrom 0 4).foldl (fun v i => v + b2n (bit w (2 * i)) * 2 ^ i) 0
    let tags := (upFrom 0 4).foldl (fun v p => v + b2n (bit w (16 + p) && posLive m p) * 2 ^ p) 0
    ({ x with
       rsr := BitVec.ofNat 32 (bits w 63 32)
       regs := { x.regs with bank := unpackSlices m (fieldAt b 8 n), tags := BitVec.ofNat 4 tags, preds := BitVec.ofNat 8 pr
                             fflags := BitVec.ofNat 64 (bits w 12 8) } }, b.drop (8 + n))

/-- The contexts of an element restored. -/
def restoreCtxs (x : Elem) (b : List Byte) : List Nat → Elem × List Byte
  | [] => (x, b)
  | c :: r =>
    let q := restoreCtx (x.ctx c) (x.live.getD c 0) b
    restoreCtxs { x with ctxs := x.ctxs.set c q.1 } q.2 r

/-- R168: the elements of a row restored; `none` where an accumulator image breaks R221. -/
def State.restoreElems (s : State) (k : Nat) (r : Region) (row : Nat) (b : List Byte) : List Nat → Option State
  | [] => some s
  | col :: rest =>
    let e := r.elemAt row col
    if !(s.elem k e).used then State.restoreElems s k r row b rest
    else
      let q := restoreCtxs (s.elem k e) b (upFrom 0 4)
      if (r.row row).acc && !isV e then
        match accOf q.2 with
        | none => none
        | some t => State.restoreElems (s.modElem k e fun _ => { q.1 with acc := t }) k r row (q.2.drop 400) rest
      else State.restoreElems (s.modElem k e fun _ => q.1) k r row q.2 rest

/-- A row changed. -/
def State.modRow (s : State) (k rn row : Nat) (f : Row → Row) : State := s.modRegion k rn fun r => { r with rows := modAt r.rows row f }

/-- RESTORE_COMPLETE (R168): the saved record is in the row, which is Active from the next cycle. -/
def execRestoreComplete (k rn row : Nat) (s : State) : Out3 :=
  .next (match s.region? k rn with
    | none => s
    | some r =>
      let x := r.row row
      if x.st != .loading || x.bytes != 0 then s
      else
        let slot := (s.slotOf r.launch (r.cur.getD 0) x.pick).getD (0, 0)
        let b := s.ctlBytes (tileLoc k (r.spillBase + slot.1)) slot.2
        let s := s.ctlCheck k rn (tileLoc k (r.spillBase + slot.1)) slot.2
        match s.restoreElems k r row b (upFrom 0 (pickCols r.wide)) with
        | none => (s.modRow k rn row fun _ => { since := s.cycle }).rejectPick k rn row x.pick { cause := 0x101 }
        | some s =>
          (((s.modRow k rn row fun x => { x with st := .active, since := s.cycle }).layers k r row x.div (s.cycle + 1)).loadDone k rn row).passRows k rn)

/-! ### Eviction (R165, R167) -/

/-- A link holds nothing. -/
def Link.clear (l : Link) : Bool := l.stages.all List.isEmpty

/-- R165: a link holds nothing that was sent under load `n` of a row. -/
def Link.without (l : Link) (n : Nat) : Bool := l.stages.all fun q => q.all fun t => t.load != n

/-- R165, condition 2: what the row's elements and nodes have sent under its present load is consumed, or has been written to the wrap buffer; R224
for packets; a request still queued has not been consumed. -/
def Core.rowConsumed (c : Core) (r : Region) (i : Nat) : Bool :=
  let n := (r.row i).load
  ((upFrom 0 (pickCols r.wide)).all fun col =>
    let x := c.elem (r.elemAt i col)
    (x.oroute.all fun w => !(routeOf w).en || (c.link (r.elemAt (i + b2n (routeOf w).next) (routeOf w).col * 8 + (routeOf w).port)).without n)
      && (x.kroute.all fun w => !(routeOf w).en || (c.klink (r.elemAt (i + b2n (routeOf w).next) (routeOf w).col * 4 + (routeOf w).port % 4)).without n)
      && (upFrom 0 4).all fun q => match (c.plink (r.elemAt (i + 1) col * 4 + q)).val with
        | some t => t.load != n
        | none => true)
    && ((if r.wide then [0, 1] else [r.half]).all fun h =>
      let m := (r.row0 + i) * 2 + h
      let nd := c.nodes.getD m {}
      (c.rbus.get? m).isNone && (c.cbus.all fun p => p.2.node != m)
        && ([nd.s0, nd.s1].all fun x => x.queue.isEmpty && (stClass x.words = 0 || x.ahead.isEmpty)))

/-- R165, condition 3: no element of the row has an instruction that has not written back. DEDUCED: notes/assumptions/36.md. -/
def Core.rowSettled (c : Core) (r : Region) (i : Nat) : Bool :=
  (upFrom 0 (pickCols r.wide)).all fun col => (c.elem (r.elemAt i col)).ctxs.all fun p => p.2.regs.flights.isEmpty

/-- R165, condition 4: the row of the pick before has finished Evicting, before this cycle. -/
def Region.prevGone (r : Region) (i now : Nat) : Bool :=
  let x := r.row i
  if x.pick = 0 then true
  else
    let q := r.row ((i + r.height - 1) % r.height)
    q.pick + 1 != x.pick || (q.st == .empty && q.since < now)

/-- R414: values that the row has sent onto long edges are accepted. -/
def State.edgesSent (s : State) (r : Region) (pick : Nat) : Bool :=
  match s.launches.get? r.launch with
  | some l => l.edges.all fun g => !(g.src == r.member && r.cur == some g.blk && g.spick == pick) || g.onWay = 0
  | none => true

/-- R165: the row may enter Evicting. -/
def State.evictable (s : State) (k : Nat) (r : Region) (i : Nat) : Bool :=
  let x := r.row i
  x.st == .passed && r.freeze == .none && !r.frozen && !r.ended && (s.core k).rowConsumed r i && (s.core k).rowSettled r i && s.edgesSent r x.pick
    && r.prevGone i s.cycle && (r.scrolls || r.nextBlock.isSome)

/-- The row is Empty: its nodes keep nothing (R260) and its layers run at divider 1 (R178). -/
def State.emptyRow (s : State) (k rn row : Nat) : State :=
  match s.region? k rn with
  | none => s
  | some r =>
    let s := s.modRow k rn row fun x => { x with st := .empty, since := s.cycle, bytes := 0, cls0 := 0, cls1 := 0 }
    let s := s.modCore k fun c =>
      { c with nodes := (if r.wide then [0, 1] else [r.half]).foldl (fun m h => m.del ((r.row0 + row) * 2 + h)) c.nodes }
    s.layers k r row 1 (s.cycle + 1)

/-- EVICTION (R165, R167): a row that has passed leaves; a pick without a spill record is gone at once. -/
def execEviction (k rn row : Nat) (s : State) : Out3 :=
  .next (
    let s := s.passRows k rn
    match s.region? k rn with
    | none => s
    | some r =>
      if !s.evictable k r row then s
      else
        let x := r.row row
        let b := r.cur.getD 0
        match s.slotOf r.launch b x.pick with
        | none => s.emptyRow k rn row
        | some (_, n) =>
          let s := s.modRegion k rn fun r => { r with saved := if r.saved.contains (b, x.pick) then r.saved else (b, x.pick) :: r.saved }
          if n = 0 then s.emptyRow k rn row
          else (s.modRow k rn row fun x => { x with st := .evicting, since := s.cycle, bytes := n }).layers k r row 1 (s.cycle + 1))

/-- SPILL_COMPLETE (R167): the record stands in its slot; the row is Empty. -/
def execSpillComplete (k rn row : Nat) (s : State) : Out3 :=
  .next (match s.region? k rn with
    | none => s
    | some r =>
      let x := r.row row
      if x.st != .evicting || x.bytes != 0 then s
      else
        let slot := (s.slotOf r.launch (r.cur.getD 0) x.pick).getD (0, 0)
        let s := s.put (tileLoc k (r.spillBase + slot.1)) ((s.spillRecord k r row).take slot.2)
        (s.emptyRow k rn row).passRows k rn)

/-! ### The wrap buffer (R166) -/

/-- R166: an entry's payload and word. -/
def State.wrapWords (s : State) (k : Nat) (r : Region) (w : WrapEntry) : Word64 × Nat :=
  let a := tileLoc k (r.wrapBase + 16 * w.slot)
  (BitVec.ofNat 64 (s.ctlWord a), s.ctlWord (a + 8))

/-- R166: an entry's target input, when the pick after the sender's stands in its row and takes part: element, network and port.
DEDUCED: notes/assumptions/54.md. -/
def Region.wrapTarget (r : Region) (w : WrapEntry) (x : Nat) : Option (Nat × Nat × Nat) :=
  let row := (w.pick + 1) % r.height
  let y := r.row row
  if y.pick = w.pick + 1 && (y.st == .active || y.st == .passed) then some (r.elemAt row (bits x 9 6), bits x 5 4, bits x 12 10) else none

/-- R166: an entry enters its target input, if there is room. -/
def State.putWrapped (s : State) (k e net port : Nat) (t : Token) : Option State :=
  let c := s.core k
  match net with
  | 0 => if (c.link (e * 8 + port)).held 0 s.cycle < 2 then
      some (s.modCore k fun c => { c with links := c.links.set (e * 8 + port) ((c.link (e * 8 + port)).push 0 t) }) else none
  | 1 => if (c.klink (e * 4 + port % 4)).held 0 s.cycle < 2 then
      some (s.modCore k fun c => { c with klinks := c.klinks.set (e * 4 + port % 4) ((c.klink (e * 4 + port % 4)).push 0 t) }) else none
  | _ =>
    let l := c.plink (e * 4 + port % 4)
    if l.val.isNone && !(l.freedAt == s.cycle && l.freed) then
      some (s.modCore k fun c => { c with plinks := c.plinks.set (e * 4 + port % 4) { l with val := some t } }) else none

/-- R166: an entry leaves the wrap buffer of a region. -/
def State.dropWrap (s : State) (k rn : Nat) (w : WrapEntry) : State :=
  s.modRegion k rn fun r =>
    let rest := r.wrap.filter fun y => y.slot != w.slot
    { r with
      wrap := rest
      wrapAt := if r.wrapCap ≤ r.wrap.length + (s.core k).wrapReserved r || rest.all (fun y => y.pick != w.pick) then s.cycle else r.wrapAt }

/-- R166: the entries delivered in this cycle, in written order: one per target input, and none past an entry that stays. An entry in an
uncorrectable unit delivers nothing (R255). DESIGN CHOICE: notes/assumptions/33.md. -/
def State.deliverWraps (s : State) (k rn : Nat) (r : Region) (busy : List (Nat × Nat × Nat)) : List WrapEntry → State
  | [] => s
  | w :: rest =>
    let (v, x) := s.wrapWords k r w
    let loc := tileLoc k (r.wrapBase + 16 * w.slot)
    if (s.unreadable loc 16).isSome then State.deliverWraps ((s.ctlCheck k rn loc 16).dropWrap k rn w) k rn r busy rest
    else match r.wrapTarget w x with
    | none => State.deliverWraps s k rn r busy rest
    | some t =>
      if busy.contains t then State.deliverWraps s k rn r busy rest
      else
        match s.putWrapped k t.1 t.2.1 t.2.2 { payload := v, ctx := bits x 1 0, kind := bits x 3 2, arrived := s.cycle } with
        | none => State.deliverWraps s k rn r (t :: busy) rest
        | some s' => State.deliverWraps (s'.dropWrap k rn w) k rn r (t :: busy) rest

/-- WRAP_DELIVERY (R166). DEDUCED: notes/assumptions/54.md. -/
def execWrapDelivery (k rn : Nat) (s : State) : Out3 :=
  .next (match s.region? k rn with
    | some r => if r.ended || r.frozen || r.freeze != .none then s else s.deliverWraps k rn r [] r.wrap
    | none => s)

/-- WRAP_OVERFLOW (R166, R375): the region freezes at once; the drain follows. DEDUCED: notes/assumptions/54.md. -/
def execWrapOverflow (k rn e : Nat) (s : State) : Out3 :=
  .next (match s.region? k rn with
    | none => s
    | some r =>
      if r.frozen || !(s.core k).wrapStuck e then s
      else
        let arg := faultArg 0 0x104 2 0 (r.colOf e) 0 (e % 16 / 8) (r.rowOf e) rn
        let s := (s.addFault k rn 33 0 0x104 arg (r.row (r.rowOf e)).pick).regionFault k rn 0x104 arg (r.row (r.rowOf e)).pick
        let s := s.modRegion k rn fun r => { r with frozen := true, drainAt := some s.cycle }
        { s with todo := .ev (.drain k rn) :: s.todo })

/-- INITIAL_RECORD_APPEND (R247): the next due initial record enters block 0's queue when it has room. DEDUCED: notes/assumptions/55.md. -/
def execInitialRecordAppend (k rn : Nat) (s : State) : Out3 :=
  .next (match s.region? k rn with
    | none => s
    | some r =>
      match r.blocks[0]? with
      | none => s
      | some b =>
        if r.due = 0 || !r.started || r.ended || r.frozen || b.qcap ≤ b.count + (s.core k).recordsReserved r 0 then s
        else
          (s.appendRecord k rn 0 (entryRecord r.nextThread [])).modRegion k rn fun r =>
            { r with due := r.due - 1, nextThread := (r.nextThread + 1) % 2 ^ 32 })

end Sys2Proof.Machine
end

