-- ==== Sys2Proof/Machine/NodeEv.lean ====
section
/-! DEFINITION. Steps of the memory nodes: STREAM_READ, STREAM_WRITE, NODE_REQUEST, STREAM_RETRY (spec/13 R259 to R275; spec/14 R287 to R289;
spec/15 R301; spec/21 R374). -/
namespace Sys2Proof.Machine

/-! ### Positions (R260, R273) -/

/-- R260: the number of positions of a pattern. -/
def streamTotal (w : List Word64) : Nat := stCount w 0 * stCount w 1 * stCount w 2 * stCount w 3

/-- R260: coordinate `d` of a position. -/
def coordOf (w : List Word64) (p d : Nat) : Nat :=
  match d with
  | 0 => p % stCount w 0
  | 1 => p / stCount w 0 % stCount w 1
  | 2 => p / (stCount w 0 * stCount w 1) % stCount w 2
  | _ => p / (stCount w 0 * stCount w 1 * stCount w 2) % stCount w 3

/-- R260: the bit address of a position. -/
def elemBitAddr (w : List Word64) (p : Nat) : Int :=
  let n := (coordOf w p 0 : Int) * stStride w 0 + (coordOf w p 1 : Int) * stStride w 1 + (coordOf w p 2 : Int) * stStride w 2
    + (coordOf w p 3 : Int) * stStride w 3
  8 * (stBase w : Int) + n * (ebits (stFmt w) : Nat)

/-- R260: the bytes that a position touches: the first, their number, and the bit at which the element starts in them. -/
def elemRange (w : List Word64) (p : Nat) : Int × Nat × Nat :=
  let a := elemBitAddr w p
  let lo := a / 8
  (lo, ((a + (ebits (stFmt w) : Nat) - 1) / 8 - lo + 1).toNat, (a % 8).toNat)

/-- R273: the byte offset of the scale that covers a position. -/
def scaleOff (w : List Word64) (p : Nat) : Nat :=
  stSbase w + 4 * (coordOf w p 0 / 32 + (stCount w 0 + 31) / 32 * (coordOf w p 1 + stCount w 1 * (coordOf w p 2 + stCount w 2 * coordOf w p 3)))

/-- R272: elements in one token or packet of a streaming read, or in one value of a streaming write. DEDUCED: notes/assumptions/36.md. -/
def perToken (w : List Word64) : Nat :=
  if stConv w != 0 then 1
  else if stDest w = 1 || stDest w = 2 then (match stFmt w with
    | 11 => 32
    | 12 => 16
    | 13 => 8
    | _ => 4)
  else 64 / ebits (stFmt w)

/-! ### Access (R254, R258, R268) -/

/-- The 64-byte lines of a tile range. -/
def linesOf (a n : Nat) : List Nat := if n = 0 then [] else upFrom (a / 64) ((a + n - 1) / 64 + 1 - a / 64)
/-- The bank of a line. -/
def lineBank (l : Nat) : Nat := l / 2 ^ 11 % 32

/-- The tile address and the length of the bytes of a position. -/
def Stream.place (x : Stream) (p : Nat) : Nat × Nat := (x.cap.base + (elemRange x.words p).1.toNat, (elemRange x.words p).2.1)
/-- The tile address of the scale that covers a position. -/
def Stream.scaleAt (x : Stream) (p : Nat) : Nat := x.cap.base + scaleOff x.words p

/-- R258, R273: the checks of an access to position `p` for permission `need`: the lines that it takes, or the cause that fails. An access that
`reads` a block-scaled stream reads the scale too. DESIGN CHOICE: notes/assumptions/5.md. -/
def Stream.check (x : Stream) (p need : Nat) (reads : Bool) : Except Nat (List Nat) :=
  let (o, n, _) := elemRange x.words p
  let scaled := stBs x.words && reads
  if streamTotal x.words ≤ p then .error 0x201
  else match capCheck x.cap o n need true with
    | some c => .error c
    | none =>
      match (if scaled then capCheck x.cap (scaleOff x.words p) 4 pRD true else none) with
      | some c => .error c
      | none => .ok (linesOf (x.place p).1 n ++ (if scaled then linesOf (x.scaleAt p) 4 else []))

/-- R255: the uncorrectable units that a read of position `p` touches, by their numbers in the tile. -/
def State.spoiled (s : State) (k : Nat) (x : Stream) (p : Nat) : List Nat :=
  ((unitsOf (x.place p).1 (x.place p).2 ++ (if stBs x.words then unitsOf (x.scaleAt p) 4 else [])).filter fun u => s.bad.contains (tileLoc k 0 / 16 + u))

/-- R254, R268: a bank can serve a line for region `rn` in this cycle. -/
def State.lineReady (s : State) (k rn l : Nat) : Bool := (s.core k).holder s.cycle (lineBank l) == some rn && !s.bankBusy k (lineBank l)

/-- R254: the banks serve what they can of the lines, one line of a bank in a cycle; those of `op` are being served in it. Each line is noted with its
bytes, and `put` writes its part. DESIGN CHOICE: notes/assumptions/11.md. -/
def State.serveLines (k rn : Nat) (op : List Nat) (put : Nat → State → State) :
    List Nat → List (Nat × List Byte) → State → List (Nat × List Byte) × State
  | [], h, s => (h, s)
  | l :: r, h, s =>
    if h.any (fun q => q.1 == l) || !(op.contains l || s.lineReady k rn l) then State.serveLines k rn op put r h s
    else State.serveLines k rn op put r (h ++ [(l, memBytes s.mem (tileLoc k (64 * l)) 64)])
      (put l (if op.contains l then s else s.useBanks k [lineBank l]))

/-- Bytes among the lines that have been served. -/
def heldValue (h : List (Nat × List Byte)) (a n : Nat) : Nat :=
  ofBytes ((upFrom a n).map fun b => ((h.find? fun q => q.1 == b / 64).map fun q => q.2.getD (b % 64) 0).getD 0)

/-- R272: the part of an element that lies in line `l`, written. -/
def State.putPart (s : State) (k : Nat) (x : Stream) (p v l : Nat) : State :=
  let (_, n, sh) := elemRange x.words p
  let a := (x.place p).1
  let new := setBits (s.load (tileLoc k a) n) sh (ebits (stFmt x.words)) v
  let lo := max a (64 * l)
  s.store (tileLoc k lo) (min (a + n) (64 * l + 64) - lo) (new / 2 ^ (8 * (lo - a)))

/-- What a cycle brings to an access: a fault with the uncorrectable unit that it met, if any, and the state; or the lines served so far, whether they
are all of them, and the state. -/
inductive Served where
  | fault (cause : Nat) (unit : Option Nat) (s : State)
  | part (held : List (Nat × List Byte)) (all : Bool) (s : State)
deriving DecidableEq, Repr

/-- R254, R255, R258, R268: a cycle of an access of stream `i` of node `n` to position `p`, of which `h` has been served; `val` is the code that a
plain write stores, and `op` the lines that the cycle already serves for the same value. -/
def State.serveAccess (s : State) (k n i rn p need : Nat) (reads : Bool) (val : Option Nat) (op : List Nat) (h : List (Nat × List Byte)) : Served :=
  let x := ((s.core k).nodes.getD n {}).stream i
  match x.check p need reads with
  | .error c => .fault c none s
  | .ok ls =>
    let q := s.serveLines k rn op (fun _ t => t) ls h
    match (if reads then (s.spoiled k x p).find? fun u => q.1.any (fun y => y.1 == u / 4) && !h.any fun y => y.1 == u / 4 else none) with
    | some u => .fault 0x3E0 (some u) q.2
    | none =>
      let r := s.serveLines k rn op (fun l t => match val with
        | some v => t.putPart k x p v l
        | none => t) ls h
      .part r.1 (ls.all fun l => r.1.any fun q => q.1 == l) r.2

/-- R254, R298: an ordered update of position `p`: its lines are served together, once the banks are free for all of them, and hold their banks for a
cycle each, so that no access comes between its reads and its writes. DESIGN CHOICE: notes/assumptions/11.md. -/
def State.serveUpdate (s : State) (k n i rn p : Nat) : Served :=
  let x := ((s.core k).nodes.getD n {}).stream i
  match x.check p pAT true with
  | .error c => .fault c none s
  | .ok ls =>
    let ls := ls.eraseDups
    if !ls.all (fun l => s.lineReady k rn l) then .part [] false s
    else
      let t := s.useBanks k (ls.map lineBank)
      match s.spoiled k x p with
      | u :: _ => .fault 0x3E0 (some u) t
      | [] => .part (ls.map fun l => (l, memBytes s.mem (tileLoc k (64 * l)) 64)) true t

/-- The cycles for which the bank of an ordered update serves its lines. -/
def updateCycles (upd : Bool) (h : List (Nat × List Byte)) : Nat :=
  if upd then (h.map fun q => (h.filter fun y => lineBank y.1 == lineBank q.1).length).foldl max 1 else 1

/-- The code of an element among the lines served (R271). -/
def Stream.heldCode (x : Stream) (h : List (Nat × List Byte)) (p : Nat) : Nat :=
  heldValue h (x.place p).1 (x.place p).2 / 2 ^ (elemRange x.words p).2.2 % 2 ^ ebits (stFmt x.words)

/-- R272: the bits of an element replaced. -/
def State.putCode (s : State) (k : Nat) (x : Stream) (p v : Nat) : State :=
  let (_, n, sh) := elemRange x.words p
  let a := tileLoc k (x.place p).1
  s.store a n (setBits (s.load a n) sh (ebits (stFmt x.words)) v)

/-- R273: the scale that covers a position, when the stream is block-scaled. -/
def Stream.heldScale (x : Stream) (h : List (Nat × List Byte)) (p : Nat) : Option Nat :=
  if stBs x.words then some (heldValue h (x.scaleAt p) 4) else none

/-- The bank of the last byte of an element (R327). -/
def Stream.bankAt (x : Stream) (p : Nat) : Nat := lineBank (((x.place p).1 + (x.place p).2 - 1) / 64)

/-- R327: the access to position `p` has been served. -/
def Stream.accessed (x : Stream) (p now : Nat) : Stream := { x with bank := some (x.bankAt p), banked := x.banked.set (x.bankAt p) now }

/-- R272, R273: an element in its delivered form. -/
def deliveredForm (w : List Word64) (code : Nat) (scale : Option Nat) : Nat :=
  match stConv w with
  | 0 => code
  | 1 => decodeElem (stFmt w) code scale
  | _ => wrap (intCode (stFmt w) code) 64

/-! ### Streams in place -/

def State.stream (s : State) (k n i : Nat) : Stream := ((s.core k).nodes.getD n {}).stream i

def State.modStream (s : State) (k n i : Nat) (f : Stream → Stream) : State :=
  s.modCore k fun c => { c with nodes := c.nodes.mod n fun y => if i = 0 then { y with s0 := f y.s0 } else { y with s1 := f y.s1 } }

/-- The region of a node and the node's row in it. -/
def Core.nodeRegion (c : Core) (n : Nat) : Option (Nat × Region × Nat) :=
  (c.regionOf (n / 2 * 16 + n % 2 * 8)).map fun p => (p.1, p.2, n / 2 - p.2.row0)

/-- R266, R377: the node may issue accesses. A stop holds back read-ahead alone (R405). -/
def Region.nodeLive (r : Region) (row : Nat) : Bool :=
  r.started && !r.frozen && r.freeze == .none && ((r.row row).st == .active || (r.row row).st == .passed)

/-- R273, R275: FNAN is set, with a record the first time since the load. -/
def State.setFnan (s : State) (k n i p : Nat) (scale : Option Nat) : State :=
  match scale, (s.core k).nodeRegion n with
  | some w, some (rn, r, row) =>
    if isNaNScale w && !(s.stream k n i).fnan then
      (s.modStream k n i fun x => { x with fnan := true }).postCore k 0x24
        (rn % 8 + row % 16 * 2 ^ 4 + n % 2 * 2 ^ 8 + i % 2 * 2 ^ 9 + r.cur.getD 0 % 2 ^ 16 * 2 ^ 16 + (r.row row).pick % 256 * 2 ^ 32) p
    else s
  | _, _ => s

/-! ### Sending (R262, R265) -/

/-- R262: the outer V-element of a half-stripe. -/
def outerElem (n : Nat) : Nat := n / 2 * 16 + n % 2 * 15

/-- R262: the channel of a stream and the latch that its tokens enter. -/
def Core.streamChan (c : Core) (r : Region) (n row : Nat) (w : List Word64) : Nat × Nat :=
  let e := r.elemAt row (stDcol w)
  (e * 8 + stDch w, c.hops (outerElem n) e false)

/-- R262: a token or packet leaves the node, if its latch has a place. -/
def State.sendFrom (s : State) (k n rn row : Nat) (r : Region) (w : List Word64) (ctx : Nat) (body : BitVec 256) : Option State :=
  let c := s.core k
  match stDest w with
  | 0 =>
    let (key, hop) := c.streamChan r n row w
    if (c.link key).held hop s.cycle < 2 then
      some (s.modCore k fun c => { c with links := c.links.set key ((c.link key).push hop
        { payload := body.setWidth 64, ctx := ctx, kind := 0, arrived := s.cycle, origin := 1 }) })
    else none
  | 1 =>
    if (c.rbus.get? n).isNone then
      some (s.modCore k fun c => { c with rbus := c.rbus.set n { body := body, rowid := stPid w, colid := 0xFF, ctx := ctx, arrived := s.cycle, node := n } })
    else none
  | 2 =>
    let bus := rn * 16 + stDcol w
    if (c.cbus.get? bus).isNone then
      some (s.modCore k fun c => { c with cbus := c.cbus.set bus { body := body, rowid := 0xFF, colid := stPid w, ctx := ctx, arrived := s.cycle, node := n } })
    else none
  | _ => some s

/-- R265: the oldest read that has not been sent leaves when it may. -/
def State.sendAhead (s : State) (k n i : Nat) : State :=
  let x := s.stream k n i
  match x.ahead, (s.core k).nodeRegion n with
  | a :: rest, some (rn, r, row) =>
    if a.at_ ≤ s.cycle then
      match s.sendFrom k n rn row r x.words a.ctx a.body with
      | some s' => s'.modStream k n i fun x => { x with ahead := rest }
      | none => s
    else s
  | _, _ => s

/-! ### STREAM_READ (R264, R272) -/

/-- R260: the stream after position `p`: it restarts, or stops after the last. -/
def Stream.next (x : Stream) : Stream :=
  if x.pos + 1 < streamTotal x.words then { x with pos := x.pos + 1 }
  else if stRep x.words then { x with pos := 0 } else { x with pos := x.pos + 1, done := true }

/-- R272: elements packed from the lowest bit. -/
def packElems (w : List Word64) (l : List Nat) : BitVec 256 :=
  if stConv w = 0 then BitVec.ofNat 256 (l.reverse.foldl (fun v x => v * 2 ^ ebits (stFmt w) + x) 0) else BitVec.ofNat 256 (l.getD 0 0)

/-- One element read into the next token; the token is whole when it has all its elements or the pattern ends. -/
def Stream.gain (x : Stream) (v now : Nat) : Stream :=
  let y := ({ x with part := x.part ++ [v], partPos := if x.part.isEmpty then x.pos else x.partPos, held := [] }.accessed x.pos now).next
  if perToken x.words ≤ y.part.length || y.done then
    { y with part := [], ahead := y.ahead ++ [{ at_ := now + 8, pos := y.partPos, ctx := stCtx x.words, body := packElems x.words y.part }] }
  else y

/-- R374: a stopped streaming read has come to its faulting position. What it had read ahead of it and lost is read again (R378, R405). -/
def Stream.atFault (x : Stream) : Bool := x.stopped && x.pos == x.faultPos

/-- R264: elements of the next token are read while the banks serve them; a fault stops the stream. `h` lists the lines that this access has and
`old` those of them that earlier cycles brought. -/
def State.gather (s : State) (k n i rn : Nat) (old h : List (Nat × List Byte)) : Nat → State
  | 0 => s
  | f + 1 =>
    let x := s.stream k n i
    if x.done || x.atFault then s
    else match s.serveAccess k n i rn x.pos pRD true none [] h with
      | .fault c u s => (s.modStream k n i fun x => { x with held := [] }).nodeFault k n i x.pos c u
      | .part h false s => s.modStream k n i fun x => { x with held := h }
      | .part h true s =>
        let sc := x.heldScale h x.pos
        let v := deliveredForm x.words (x.heldCode h x.pos) sc
        let s := (s.setFnan k n i x.pos sc).modStream k n i fun x => x.gain v s.cycle
        if (s.stream k n i).part.isEmpty then s else State.gather s k n i rn [] (h.filter fun q => !old.contains q) f

/-- STREAM_READ (R264, R265): a streaming read sends what it has ready and reads ahead. DEDUCED: notes/assumptions/36.md. -/
def execStreamRead (k n i : Nat) (s : State) : Out3 :=
  .next (match (s.core k).nodeRegion n with
    | none => s
    | some (rn, r, row) =>
      let x := s.stream k n i
      if !stEn x.words || stClass x.words != 0 || stDir x.words || !r.nodeLive row || r.stopped || r.ended then s
      else
        let s := s.sendAhead k n i
        let x := s.stream k n i
        if x.atFault || x.done || 8 ≤ x.ahead.length then s else s.gather k n i rn x.held x.held (perToken x.words))

/-! ### Requests (R263, R288, R289, R301) -/

/-- R301: a request that entered before another: by cycle, then half, then stream. -/
def enteredBefore (a b : Nat × Nat) : Bool := a.1 < b.1 || (a.1 == b.1 && a.2 < b.2)

/-- R301: the request at the head of a stream's queue is the oldest of its alias class in the pick. -/
def Core.classFirst (c : Core) (r : Region) (n i : Nat) : Bool :=
  let x := (c.nodes.getD n {}).stream i
  match x.queue with
  | [] => false
  | q :: _ =>
    (if r.wide then [n / 2 * 2, n / 2 * 2 + 1] else [n]).all fun m => [0, 1].all fun j =>
      let y := (c.nodes.getD m {}).stream j
      (m == n && j == i) || stAcls y.words != stAcls x.words || !stEn y.words || (match y.queue with
        | [] => true
        | z :: _ => !enteredBefore (z.entered, m % 2 * 2 + j) (q.entered, n % 2 * 2 + i))

/-- R289: a request is performed: it leaves its queue, and its ordering token is sent in the next cycle. -/
def State.performed (s : State) (k n i : Nat) (q : NodeReq) : State :=
  let s := s.modStream k n i fun x => { x with queue := x.queue.drop 1 }
  match q.port with
  | none => s
  | some _ =>
    (s.modCtx k q.elem q.ctx fun x => { x with regs := { x.regs with flights := x.regs.flights.map fun f =>
      if f.id == q.flight then { f with left := some 0 } else f } }).after 1 (.ev (.writeBack (.ctx k q.elem q.ctx 0) q.flight))

/-- R262, R265: a response may be read: its place in the channel is certain. DEDUCED: notes/assumptions/36.md. -/
def State.responseRoom (s : State) (k n row : Nat) (r : Region) (x : Stream) : Bool :=
  let (key, hop) := (s.core k).streamChan r n row x.words
  ((s.core k).link key).held hop s.cycle + x.ahead.length < 2

/-- R263, R272: the value of a random write as a code. -/
def storedForm (w : List Word64) (v : Nat) : Nat :=
  if stConv w = 1 then encodeElem (stFmt w) (v % 2 ^ 40) else v % 2 ^ ebits (stFmt w)

/-- NODE_REQUEST (R263): the oldest request of a random or ordered-update stream. DEDUCED: notes/assumptions/36.md. -/
def State.serveRequest (s : State) (k n i : Nat) : State :=
  match (s.core k).nodeRegion n, (s.stream k n i).queue with
  | some (rn, r, row), q :: _ =>
    let x := s.stream k n i
    let w := x.words
    let p := q.pos.getD 0
    let upd := stClass w == 2
    let rd := upd || !stDir w
    if x.stopped || stClass w = 0 || !(s.core k).classFirst r n i || (rd && !r.ended && !s.responseRoom k n row r x) then s
    else
      let val := if stDir w && !upd then some (storedForm w q.val.toNat) else none
      match (if upd then s.serveUpdate k n i rn p
          else s.serveAccess k n i rn p (if stDir w then pWR else pRD) (rd || ebits (stFmt w) % 8 != 0) val [] x.held) with
      | .fault c u s => (s.modStream k n i fun x => { x with held := [] }).nodeFault k n i p c u
      | .part h false s => s.modStream k n i fun x => { x with held := h }
      | .part h true s =>
        let s := s.modStream k n i fun x => ({ x with held := [] } : Stream).accessed p s.cycle
        let old := x.heldCode h p
        let sc := if rd then x.heldScale h p else none
        let s := s.setFnan k n i p sc
        let s := if upd then s.putCode k x p (updateNew q.op (stFmt w) old q.val.toNat) else s
        let s := if rd && !r.ended then s.modStream k n i fun x =>
            { x with ahead := x.ahead ++ [{ at_ := s.cycle + 7 + updateCycles upd h, pos := p, ctx := q.ctx, body := BitVec.ofNat 256 (deliveredForm w old sc) }] } else s
        s.performed k n i q
  | _, _ => s

/-- NODE_REQUEST (R263, R265, R289): a ready response leaves, and the oldest request is served. -/
def execNodeRequest (k n i : Nat) (s : State) : Out3 :=
  .next (match (s.core k).nodeRegion n with
    | none => s
    | some (_, r, row) =>
      let x := s.stream k n i
      if !stEn x.words || stClass x.words = 0 then s
      else
        let s := s.sendAhead k n i
        if r.nodeLive row then s.serveRequest k n i else s)

/-- R263, R272: element `j` of a value of a streaming write. -/
def writtenCode (w : List Word64) (v j : Nat) : Nat := storedForm w (if stConv w = 0 then v / 2 ^ (ebits (stFmt w) * j) else v)

/-- R263: one element written; the value is done with all its elements, or with the last position of the pattern. -/
def Stream.wrote (x : Stream) (v now : Nat) : Stream :=
  let y := ({ x with part := x.part ++ [v], partPos := if x.part.isEmpty then x.pos else x.partPos, held := [] }.accessed x.pos now).next
  if perToken x.words ≤ y.part.length || y.done then { y with part := [] } else y

/-- R263, R272: the elements of one value of a streaming write, written at successive positions while the banks serve them. A position that faults
stops the stream there, with the positions before it written (R270). DEDUCED: notes/assumptions/36.md. -/
def State.writeElems (s : State) (k n i rn : Nat) (q : NodeReq) (op : List Nat) (old : List (Nat × List Byte)) : Nat → State
  | 0 => s
  | f + 1 =>
    let x := s.stream k n i
    let v := writtenCode x.words q.val.toNat x.part.length
    match s.serveAccess k n i rn x.pos pWR (ebits (stFmt x.words) % 8 != 0) (some v) op old with
    | .fault c u s => (s.modStream k n i fun x => { x with held := [] }).nodeFault k n i x.pos c u
    | .part h false s => s.modStream k n i fun x => { x with held := h }
    | .part h true s =>
      let s := s.modStream k n i fun x => x.wrote v s.cycle
      if (s.stream k n i).part.isEmpty then s.performed k n i q
      else State.writeElems s k n i rn q (op ++ (h.filter fun q => !old.contains q).map fun q => q.1) [] f

/-- The next store of a streaming write. -/
def State.serveWrite (s : State) (k n i : Nat) : State :=
  match (s.core k).nodeRegion n, (s.stream k n i).queue with
  | some (rn, r, _), q :: _ =>
    let x := s.stream k n i
    if x.stopped || stClass x.words != 0 || !stDir x.words || !(s.core k).classFirst r n i then s
    else if x.done then s.nodeFault k n i x.pos 0x201
    else s.writeElems k n i rn q [] x.held (perToken x.words)
  | _, _ => s

/-- STREAM_WRITE (R263, R272): a streaming write takes the next value of its queue. -/
def execStreamWrite (k n i : Nat) (s : State) : Out3 :=
  .next (match (s.core k).nodeRegion n with
    | none => s
    | some (_, r, row) => if stEn (s.stream k n i).words && r.nodeLive row then s.serveWrite k n i else s)

/-! ### STREAM_RETRY (R374) -/

/-- R374, R376: the fault of a stream is resolved; the drain timer stops with the last. -/
def State.resolveFault (s : State) (k rn n i : Nat) : State :=
  s.modRegion k rn fun r =>
    let u := r.unresolved.filter fun f => !(f.1 == n && f.2.1 == i)
    { r with unresolved := u, drainAt := if u.isEmpty then none else r.drainAt }

/-- R374: the fault that a retry at the saved position meets, if any, with the uncorrectable unit of a MACHINE_CHECK. -/
def State.retryFault (s : State) (k : Nat) (x : Stream) : Option (Nat × Option Nat) :=
  let w := x.words
  let upd := stClass w == 2
  let rd := upd || !stDir w
  let reads := rd || ebits (stFmt w) % 8 != 0
  if stClass w == 0 && stDir w && x.done then some (0x201, none)
  else match x.check x.faultPos (if upd then pAT else if stDir w then pWR else pRD) reads with
    | .error c => some (c, none)
    | .ok _ => match (if reads then s.spoiled k x x.faultPos else []) with
      | u :: _ => some (0x3E0, some u)
      | [] => none

/-- R374: a retry is due: entry CAP was written, or all of the faulting unit of a MACHINE_CHECK. DEDUCED: notes/assumptions/20.md. -/
def State.retryDue (s : State) (k : Nat) (r : Region) (x : Stream) : Bool :=
  x.stopped && (s.wrote.contains (tileLoc k (s.bankOf r.launch r.member * 2 ^ 17 + 16 * stCap x.words) / 16)
    || (x.cause == 0x3E0 && match x.faultUnit with
      | some u => s.wrote.contains (tileLoc k 0 / 16 + u) && !s.bad.contains (tileLoc k 0 / 16 + u)
      | none => false))

/-- R374: a stopped stream of the row may try again, also while its row is Loading. DEDUCED: notes/assumptions/20.md. -/
def Region.retryLive (r : Region) (row : Nat) : Bool := r.started && !r.frozen && r.freeze == .none && (r.row row).st != .empty

/-- STREAM_RETRY (R374): a stopped stream reads its capability again and tries its faulting position.
DEDUCED: notes/assumptions/20.md. DEDUCED: notes/assumptions/36.md. -/
def execStreamRetry (k n i : Nat) (s : State) : Out3 :=
  .next (match (s.core k).nodeRegion n with
    | none => s
    | some (rn, r, row) =>
      let x := s.stream k n i
      if !x.stopped || !r.retryLive row then s
      else
        let e := tileLoc k (s.bankOf r.launch r.member * 2 ^ 17 + 16 * stCap x.words)
        let y := { x with cap := s.loadCap e }
        let s := s.modStream k n i fun _ => y
        match (match s.unreadable e 16 with
          | some u => some (0x3E0, some (unitAddr k u / 16))
          | none => s.retryFault k y) with
        | none => (s.modStream k n i fun x => { x with stopped := false, faultUnit := none }).resolveFault k rn n i
        | some (c, u) =>
          (s.modStream k n i fun x => { x with cause := c, faultUnit := u }).regionFault k rn c (faultArg x.faultPos c 0 0 0 i (n % 2) row rn) (r.row row).pick)

end Sys2Proof.Machine
end

