-- ==== Sys2Proof/Machine/Vector.lean ====
section
/-! DEFINITION. Row 0xA: vector lanes (spec/09 R203 to R211), and the pairwise tree of spec/03 R76. -/
namespace Sys2Proof.Machine

/-- R203: lane `i` of a value. -/
def laneOfVal (x l i : Nat) : Nat := x / 2 ^ (l * i) % 2 ^ l

/-- R203: the lanes of a value. -/
def lanesOf (x l n : Nat) : List Nat := (upFrom 0 n).map (laneOfVal x l)

/-- R203: the value of its lanes. -/
def ofLanes (l : Nat) : List Nat → Nat
  | [] => 0
  | v :: r => v % 2 ^ l + 2 ^ l * ofLanes l r

/-- R205: a source shaped to `n` lanes of `l` bits. -/
def Src.shaped (x : Src) (l n : Nat) : List Nat :=
  match x.ext with
  | .imm => List.replicate n (wrap (sext x.raw 8) l)
  | .zero => List.replicate n (zext x.raw l)
  | .own => lanesOf (zext x.raw (l * n)) l n

/-- The signedness of a lane-and-sign modifier (R204). -/
def laneSgn (m : LaneSign) : Sgn := if m.unsigned then .z else .s

/-- R207: a lane-wise operation; `f` takes the lanes of A, B and D as signed or unsigned values. -/
def laneWise (g : Sgn) (l : Nat) (f : Int → Int → Int → Int) (d a b : Operand) (s : State) : Eff :=
  let n := destWidth d / l
  let A := (s.src a).shaped l n
  let B := (s.src b).shaped l n
  let D := lanesOf (s.src d).raw l n
  quietOf s d (ofLanes l ((upFrom 0 n).map fun i =>
    wrap (f (readAs g (A.getD i 0) l) (readAs g (B.getD i 0) l) (readAs g (D.getD i 0) l)) l))

/-- R207: sat. -/
def satLane (g : Sgn) (l : Nat) (x : Int) : Int := clamp x (loOf g l) (hiOf g l)

/-- R76: one level of the pairwise tree. -/
def treeLevel {α : Type} (f : α → α → α) : List α → List α
  | x :: y :: r => f x y :: treeLevel f r
  | l => l

/-- R76: the pairwise tree, with as many levels as `fuel`. -/
def treeFold {α : Type} (f : α → α → α) (z : α) : Nat → List α → α
  | 0, l => l.headD z
  | n + 1, l => treeFold f z n (treeLevel f l)

/-- R209: the combinations. -/
def combine (op : Nat) (g : Sgn) (w : Nat) (x y : Nat) : Nat :=
  match op with
  | 0 => (x + y) % 2 ^ w
  | 1 => narrow true g (readAs g x w + readAs g y w) w
  | 2 => if readAs g x w ≤ readAs g y w then x else y
  | 3 => if readAs g x w ≥ readAs g y w then x else y
  | 4 => x &&& y
  | 5 => x ||| y
  | _ => x ^^^ y

/-- The immediate operation selector of VRED and VSCAN (R209). -/
def selOf : Operand → Nat
  | .imm v => v.toNat
  | _ => 0

/-- VADD (R207). -/
def execVadd (g : BitVec 16) (d a b : Operand) (ln : Lane) (s : State) : Out3 :=
  run (.vadd g d a b ln) (laneWise .z ln.width (fun x y _ => x + y) d a b) s

/-- VSUB (R207). -/
def execVsub (g : BitVec 16) (d a b : Operand) (ln : Lane) (s : State) : Out3 :=
  run (.vsub g d a b ln) (laneWise .z ln.width (fun x y _ => x - y) d a b) s

/-- VMUL (R207). -/
def execVmul (g : BitVec 16) (d a b : Operand) (ln : Lane) (s : State) : Out3 :=
  run (.vmul g d a b ln) (laneWise .z ln.width (fun x y _ => x * y) d a b) s

/-- VADDS (R207). -/
def execVadds (g : BitVec 16) (d a b : Operand) (ln : LaneSign) (s : State) : Out3 :=
  run (.vadds g d a b ln) (laneWise (laneSgn ln) ln.ln.width (fun x y _ => satLane (laneSgn ln) ln.ln.width (x + y)) d a b) s

/-- VMIN (R207). -/
def execVmin (g : BitVec 16) (d a b : Operand) (ln : LaneSign) (s : State) : Out3 :=
  run (.vmin g d a b ln) (laneWise (laneSgn ln) ln.ln.width (fun x y _ => if x ≤ y then x else y) d a b) s

/-- VMAX (R207). -/
def execVmax (g : BitVec 16) (d a b : Operand) (ln : LaneSign) (s : State) : Out3 :=
  run (.vmax g d a b ln) (laneWise (laneSgn ln) ln.ln.width (fun x y _ => if x ≥ y then x else y) d a b) s

/-- VADDMIN (R207): the destination is the third source. -/
def execVaddmin (g : BitVec 16) (d a b : Operand) (ln : LaneSign) (s : State) : Out3 :=
  run (.vaddmin g d a b ln) (laneWise (laneSgn ln) ln.ln.width (fun x y z => if z ≤ satLane (laneSgn ln) ln.ln.width (x + y) then z else satLane (laneSgn ln) ln.ln.width (x + y)) d a b) s

/-- VADDMAX (R207): the destination is the third source. -/
def execVaddmax (g : BitVec 16) (d a b : Operand) (ln : LaneSign) (s : State) : Out3 :=
  run (.vaddmax g d a b ln) (laneWise (laneSgn ln) ln.ln.width (fun x y z => if z ≥ satLane (laneSgn ln) ln.ln.width (x + y) then z else satLane (laneSgn ln) ln.ln.width (x + y)) d a b) s

/-- VSEL (R207): the top bit of the destination lane selects. -/
def execVsel (g : BitVec 16) (d a b : Operand) (ln : Lane) (s : State) : Out3 :=
  run (.vsel g d a b ln) (laneWise .z ln.width (fun x y z => if bit z.toNat (ln.width - 1) then x else y) d a b) s

/-- VCMP (R207). -/
def execVcmp (g : BitVec 16) (d a b : Operand) (ln : LaneSign) (s : State) : Out3 :=
  run (.vcmp g d a b ln) (laneWise (laneSgn ln) ln.ln.width (fun x y _ => if x < y then -1 else if x = y then 0 else 1) d a b) s

/-- LSHL (R208): the lanes move up; the lane that enters is the last of B. -/
def execLshl (g : BitVec 16) (d a b : Operand) (ln : Lane) (s : State) : Out3 :=
  run (.lshl g d a b ln) (fun s =>
    let n := destWidth d / ln.width
    let A := (s.src a).shaped ln.width n
    let B := (s.src b).shaped ln.width n
    quietOf s d (ofLanes ln.width (B.getD (n - 1) 0 :: A.take (n - 1)))) s

/-- LSHR (R208): the lanes move down; the lane that enters is the first of B. -/
def execLshr (g : BitVec 16) (d a b : Operand) (ln : Lane) (s : State) : Out3 :=
  run (.lshr g d a b ln) (fun s =>
    let n := destWidth d / ln.width
    let A := (s.src a).shaped ln.width n
    let B := (s.src b).shaped ln.width n
    quietOf s d (ofLanes ln.width (A.drop 1 ++ [B.getD 0 0]))) s

/-- VRED (R209). DEDUCED: notes/assumptions/58.md. -/
def execVred (g : BitVec 16) (d a b : Operand) (ln : LaneSign) (s : State) : Out3 :=
  run (.vred g d a b ln) (fun s =>
    let x := s.src a
    let w := destWidth d
    let l := ln.ln.width
    let op := selOf b
    let vs := (lanesOf x.raw l (x.width / l)).map fun v => if op ≥ 4 then zext v w else wrap (readAs (laneSgn ln) v l) w
    quietOf s d (treeFold (combine op (laneSgn ln) w) 0 5 vs)) s

/-- VSCAN (R209): each prefix is its own tree. DEDUCED: notes/assumptions/58.md. -/
def execVscan (g : BitVec 16) (d a b : Operand) (ln : LaneSign) (s : State) : Out3 :=
  run (.vscan g d a b ln) (fun s =>
    let l := ln.ln.width
    let n := destWidth d / l
    let vs := (s.src a).shaped l n
    quietOf s d (ofLanes l ((upFrom 0 n).map fun i => treeFold (combine (selOf b) (laneSgn ln) l) 0 5 (vs.take (i + 1))))) s

/-- VBCAST (R210). -/
def execVbcast (g : BitVec 16) (d a b : Operand) (ln : Lane) (s : State) : Out3 :=
  run (.vbcast g d a b ln) (fun s =>
    let x := s.src a
    let l := ln.width
    let i := (s.src b).ownZ
    let v := if i < x.width / l then laneOfVal x.raw l i else 0
    quietOf s d (ofLanes l (List.replicate (destWidth d / l) v))) s

/-- VDOT (R211): the destination is the third source. -/
def execVdot (g : BitVec 16) (d a b : Operand) (ln : LaneSign) (s : State) : Out3 :=
  run (.vdot g d a b ln) (fun s =>
    let x := s.src a
    let w := destWidth d
    let l := ln.ln.width
    let n := x.width / l
    let A := lanesOf x.raw l n
    let B := (s.src b).shaped l n
    let ps := (upFrom 0 n).map fun i => wrap (readAs (laneSgn ln) (A.getD i 0) l * readAs (laneSgn ln) (B.getD i 0) l) w
    quietOf s d (((s.src d).raw + treeFold (combine 0 .z w) 0 5 ps) % 2 ^ w)) s

end Sys2Proof.Machine
end

