-- ==== Sys2Proof/Machine/Engines.lean ====
section
/-! DEFINITION. Steps of the engines: ENGINE_UNIT, ENGINE_COMPLETION, SEGMENT_HANDOVER, COLL_TIMEOUT, MESSAGE_DELIVERY, MESSAGE_TAKE,
BARRIER_TIMEOUT, RECORD_ENQUEUE, FAR_ATOMIC_COMPLETION (spec/17 R317 to R339; spec/14 R285, R286; spec/15 R306, R307; spec/18 R357). -/
namespace Sys2Proof.Machine

/-! ### Access to the spaces (R321, R344) -/

/-- Bytes read at an address of a space by an agent of core `k`: the bytes, or the fault with its address. -/
def State.readSpace (s : State) (cache k part space a n : Nat) : Except (Nat × Nat) (List Byte) × State :=
  if space = 1 then
    match s.unreadable (tileLoc k a) n with
    | some u => (.error (0x3E0, u * 16 - tileLoc k 0), s)
    | none => (.ok (memBytes s.mem (tileLoc k a) n), s)
  else if n = 0 then (.ok [], s) else s.fetch cache k part space a needR n

/-- R357: the access of command or far atomic `id` of core `k` at a place is parked, or waits behind one of the same agent that is.
DEDUCED: notes/assumptions/44.md. -/
def State.mustPark (s : State) (k id space : Nat) (p : Place) : Option Nat :=
  match p with
  | .loc _ (some d) => if s.parks space p || s.parked.any (fun x => x.core == k && x.id == id && x.blk == d / 2 ^ 16) then some d else none
  | _ => none

/-- R306, R357: bytes of one atom written at a place by command `id` of core `k`. -/
def State.writeOrPark (s : State) (k id space : Nat) (p : Place) (v : List Byte) : State :=
  match s.mustPark k id space p with
  | some d => { s with parked := s.parked ++ [{ blk := d / 2 ^ 16, off := d % 2 ^ 16, core := k, id := id, data := v }] }
  | none => s.writePlace p v

/-- The places of the atoms of `n` bytes from an address, each with its length: `fuel` atoms at most. -/
def State.atomPlaces (s : State) (cache k part space a n : Nat) : Nat → Except (Nat × Nat) (List (Place × Nat)) × State
  | 0 => (.ok [], s)
  | f + 1 =>
    if n = 0 then (.ok [], s)
    else
      let c := min (32 - a % 32) n
      match s.place cache k part space a needW with
      | (.error x, s') => (.error (x, a), s')
      | (.ok p, s') =>
        match State.atomPlaces s' cache k part space (a + c) (n - c) f with
        | (.ok l, t) => (.ok ((p, c) :: l), t)
        | e => e

/-- The atoms of `n` bytes from an address. -/
def atomCount (a n : Nat) : Nat := if n = 0 then 0 else (a + n - 1) / 32 + 1 - a / 32

/-- Bytes written over places in turn. -/
def State.writeAtoms (s : State) (k id space : Nat) : List (Place × Nat) → List Byte → State
  | [], _ => s
  | (p, c) :: r, v => State.writeAtoms (s.writeOrPark k id space p (v.take c)) k id space r (v.drop c)

/-- Bytes written at an address of a space, all of them or, where an atom faults, none. DEDUCED: notes/assumptions/41.md. -/
def State.writeSpace (s : State) (cache k part space id a : Nat) (v : List Byte) : Except (Nat × Nat) Unit × State :=
  match s.atomPlaces cache k part space a v.length (atomCount a v.length) with
  | (.error x, s') => (.error x, s')
  | (.ok l, s') => (.ok (), s'.writeAtoms k id space l v)

/-- R254: the banks of a tile range are free in this cycle. -/
def State.banksFree (s : State) (k a n : Nat) : Bool := (partsOf a n).all fun b => !s.bankBusy k b

/-! ### The course of a command (R320, R321, R323) -/

/-- R323: the record of an engine fault. DEDUCED: notes/assumptions/38.md. -/
def State.postEngineFault (s : State) (k op dst st cause prog v : Nat) : State :=
  s.postCore k 0x25 (cause + st * 2 ^ 12 + op % 256 * 2 ^ 16 + dst % 128 * 2 ^ 24 + prog % 2 ^ 32 * 2 ^ 32) (v % 2 ^ 64)

/-- R426: the cycle in which a request that another package leaves unanswered is looked at again: the package is fenced by then. -/
def State.silence (s : State) : Nat := s.cycle + usCycles s.dtmo

/-- R321: a unit of a command faults: it ends with ST 1 and the cause. With cause 0 another package has not answered, and the unit waits (R426).
DEDUCED: notes/assumptions/38.md. -/
def State.faultCmd (s : State) (k : Nat) (m : Cmd) (cause v : Nat) : State :=
  if cause = 0 then s.modCmd k m.id fun m => { m with at_ := s.silence }
  else (s.modCmd k m.id fun m => { m with fin := some (1, cause) }).postEngineFault k m.op m.dst 1 cause m.prog v

/-- R306, R307: a write of command or far atomic `id` outside tile memory has faulted before commit. -/
def State.writeBroken (s : State) (k id cause v : Nat) : State :=
  if cause = 0 then s else s.modCore k fun c => { c with broken := c.broken ++ [(id, cause, v)] }

/-- R331, R333: a command is refused by its target: ST 3. -/
def State.refuseCmd (s : State) (k : Nat) (m : Cmd) (cause : Nat) : State :=
  (s.modCmd k m.id fun m => { m with fin := some (3, cause) }).postEngineFault k m.op m.dst 3 cause m.prog 0

/-- A command has done all its units. -/
def State.doneCmd (s : State) (k id : Nat) : State := s.modCmd k id fun m => if m.fin.isNone then { m with fin := some (0, 0) } else m

/-- A unit is performed: the next follows after a time that R443 leaves open. -/
def State.unitDone (s : State) (k id : Nat) (f : Cmd → Cmd) : State :=
  let (n, s) := s.draw
  s.modCmd k id fun m => { f m with prog := m.prog + 1, held := [], at_ := s.cycle + 1 + Config.freeDelay n }

/-- R357: some access of core `k`, issued before `id`, is parked. -/
def State.parkedBefore (s : State) (k id : Nat) : Bool := s.parked.any fun x => x.core == k && x.id < id

/-- R320, R357: the order bits of a command let it start. DESIGN CHOICE: notes/assumptions/5.md. DESIGN CHOICE: notes/assumptions/64.md. -/
def State.mayStart (s : State) (k : Nat) (m : Cmd) : Bool :=
  m.order = 0 || (((s.core k).far.all fun f => m.id ≤ f.id) && (m.order < 2 || !s.parkedBefore k m.id))

/-- R307, R320: the faulted writes before a release. -/
def Core.brokenBefore (c : Core) (id : Nat) : List (Nat × Nat × Nat) := c.broken.filter fun b => b.1 < id

/-- R307: the oldest of them: the one that issued first. -/
def Core.oldestBroken (c : Core) (id : Nat) : Nat × Nat × Nat :=
  (c.brokenBefore id).foldl (fun b x => if x.1 < b.1 then x else b) ((c.brokenBefore id).headD (0, 0, 0))

/-- R307: a release has met its faulted writes. DEDUCED: notes/assumptions/60.md. -/
def State.meetBroken (s : State) (k id : Nat) : State := s.modCore k fun c => { c with broken := c.broken.filter fun b => id ≤ b.1 }

/-- R307, R320, R323: a command with a release flag meets faulted writes: it performs nothing and reports the oldest. -/
def State.breakCmd (s : State) (k : Nat) (m : Cmd) : State :=
  let b := (s.core k).oldestBroken m.id
  ((s.modCmd k m.id fun m => { m with fin := some (1, b.2.1) }).meetBroken k m.id).postEngineFault k m.op m.dst 1 b.2.1 0 b.2.2

/-- The partition of a core, for its page tables. -/
def State.partOf (s : State) (k : Nat) : Nat := (s.core k).part.getD 0

def Cmd.P (m : Cmd) (i : Nat) : Nat := (m.words.getD i 0).toNat

/-- The launch whose member issued a command, while it has not retired. -/
def State.cmdLaunch (s : State) (m : Cmd) : Option (Nat × Launch) := m.owner.bind fun o => (s.launches.get? o.1).map fun x => (o.1, x)

/-- The number of the member that issued a command. -/
def Cmd.member (m : Cmd) : Nat := (m.owner.map Prod.snd).getD 0

/-! ### DMA (R325) -/

/-- The next destination atom of a copy: source and destination address and length; the row in progress stands in `sub` and the bytes
done of it in `data`. -/
def dmaUnit (m : Cmd) : Option (Nat × Nat × Nat) :=
  let rows := bits (m.P 2) 63 32
  let len := bits (m.P 2) 31 0
  let off := m.data.getD 0 0
  if rows ≤ m.sub || len = 0 then none
  else
    let sa := (m.c0.base : Int) + m.P 0 + (m.sub : Int) * s32 (bits (m.P 3) 63 32) + off
    let da := (m.c1.base : Int) + m.P 1 + (m.sub : Int) * s32 (bits (m.P 3) 31 0) + off
    some (sa.toNat, da.toNat, min (32 - da.toNat % 32) (len - off))

/-- After an atom of `n` bytes of a copy. -/
def dmaNext (m : Cmd) (n : Nat) : Cmd :=
  let off := m.data.getD 0 0 + n
  if bits (m.P 2) 31 0 ≤ off then { m with sub := m.sub + 1, data := [0] } else { m with data := [off] }

/-- R306, R307: a write of a command outside tile memory has faulted before commit. The release of the command itself, which follows its last write, is
the first to meet it, so it counts for later ones only where the command has none. -/
def State.cmdBroken (s : State) (k id cause v : Nat) : State :=
  if (((s.core k).cmd? id).map Cmd.order).any (2 ≤ ·) then s else s.writeBroken k id cause v

/-- R321: a write of a command at a space: a fault outside tile memory counts for a later release (R307). -/
def State.cmdWrite (s : State) (k id sp a : Nat) (v : List Byte) : Except (Nat × Nat) Unit × State :=
  match s.writeSpace (dieOf k) k (s.partOf k) sp id a v with
  | (.error x, s) => (.error x, if sp = 1 || sp = 5 then s else s.cmdBroken k id x.1 x.2)
  | r => r

/-- R324: the core and the tile address to which an address of space 1 or 5 leads. -/
def State.tileOf (s : State) (k sp a : Nat) : Option (Nat × Nat) :=
  if sp = 1 then some (k, a) else if sp = 5 then (s.targetCore k (bits a 29 22)).map fun t => (t, a % 2 ^ 22) else none

/-- R254: the banks of a range in a space are free in this cycle; only tile memory has banks. -/
def State.rangeFree (s : State) (k sp a n : Nat) : Bool :=
  match s.tileOf k sp a with
  | some (t, x) => s.banksFree t x n
  | none => true

/-- R254: the banks of a range in a space serve it. -/
def State.useRange (s : State) (k sp a n : Nat) : State :=
  match s.tileOf k sp a with
  | some (t, x) => s.useBanks t (partsOf x n)
  | none => s

/-- R254, R321: the bytes of a unit read so far, after those of `h`: in tile memory a line in a cycle, once its bank is free.
DESIGN CHOICE: notes/assumptions/11.md. -/
def State.readUnit (s : State) (k sp a n : Nat) : Nat → List Nat → Except (Nat × Nat) (List Nat) × State
  | 0, h => (.ok h, s)
  | f + 1, h =>
    if n ≤ h.length then (.ok h, s)
    else
      let b := a + h.length
      let c := if (s.tileOf k sp a).isSome then min (64 - b % 64) (n - h.length) else n - h.length
      if !s.rangeFree k sp b c then (.ok h, s)
      else match (s.useRange k sp b c).readSpace (dieOf k) k (s.partOf k) sp b c with
        | (.error x, s) => (.error x, s)
        | (.ok v, s) => State.readUnit s k sp a n f (h ++ v.map BitVec.toNat)

/-- R254: bytes written to the tile memory of core `k` from `a` on, a line in a cycle, once its bank is free: what is still to write.
DESIGN CHOICE: notes/assumptions/11.md. -/
def State.writeUnit (s : State) (k : Nat) : Nat → Nat → List Nat → List Nat × State
  | 0, _, h => (h, s)
  | f + 1, a, h =>
    let c := min (64 - a % 64) h.length
    if h.isEmpty || !s.banksFree k a c then (h, s)
    else State.writeUnit ((s.useBanks k (partsOf a c)).put (tileLoc k a) ((h.take c).map fun v => BitVec.ofNat 8 v)) k f (a + c) (h.drop c)

/-- R254, R321: one atom copied between two spaces, as the banks that it needs become free; nothing while it is not written.
DESIGN CHOICE: notes/assumptions/11.md. -/
def State.copyAtom (s : State) (k id sp0 a sp1 b n : Nat) : Option (Except (Nat × Nat) Unit) × State :=
  match s.readUnit k sp0 a n 2 ((((s.core k).cmd? id).map Cmd.held).getD []) with
  | (.error x, s) => (some (.error x), s)
  | (.ok v, s) =>
    if v.length < n || !s.rangeFree k sp1 b n then (none, s.modCmd k id fun m => { m with held := v })
    else
      let r := (s.useRange k sp1 b n).cmdWrite k id sp1 b (v.map fun x => BitVec.ofNat 8 x)
      (some r.1, r.2)

/-- ENGINE_UNIT of a DMA. -/
def State.dmaStep (s : State) (k : Nat) (m : Cmd) : State :=
  match dmaUnit m with
  | none => s.doneCmd k m.id
  | some (a, b, n) =>
    match s.copyAtom k m.id m.c0.space a m.c1.space b n with
    | (none, s) => s
    | (some (.error x), s) => s.faultCmd k m x.1 x.2
    | (some (.ok _), s) =>
      let s := s.unitDone k m.id fun m => dmaNext m n
      if (dmaUnit (dmaNext m n)).isNone then s.doneCmd k m.id else s

/-! ### Stream FIFOs (R326, R327) -/

def Cmd.seg (m : Cmd) (g : Nat) : Nat := m.segs.getD g 0
def Cmd.bankOf (m : Cmd) (g : Nat) : Nat := fifoBank m.c1 (m.P 1) g
def Cmd.setSeg (m : Cmd) (g v : Nat) : Cmd := { m with segs := setAt m.segs g v }
/-- R327: the cycle in which segment `g` last went to the region. -/
def Cmd.handedAt (m : Cmd) (g : Nat) : Nat := m.handed.getD g 0
/-- R327: segment `g` goes to the region: an access to it from the next cycle on reaches it. -/
def Cmd.handSeg (m : Cmd) (g now : Nat) : Cmd := { m with segs := setAt m.segs g 1, handed := setAt m.handed g now }

/-- The bytes that have passed the engine's side of the ring. -/
def Cmd.off (m : Cmd) : Nat := m.data.getD 0 0

/-- The segment in which byte `x` of the stream stands. -/
def Cmd.segAt (m : Cmd) (x : Nat) : Nat := x / 2 ^ 17 % max 1 m.segs.length

/-- R327: the bound stream. -/
def State.fifoStream (s : State) (k : Nat) (m : Cmd) : Stream :=
  match (s.core k).fifoNode (m.P 3) with
  | some n => s.stream k n (fifoStrm (m.P 3))
  | none => {}

/-- The next atom of a stream FIFO: its device address, its place in the ring and its length. -/
def fifoUnit (m : Cmd) : Option (Nat × Nat × Nat) :=
  if m.P 2 ≤ m.off then none
  else
    let d := m.c0.base + m.P 0 + m.off
    let n := if fifoOut (m.P 3) then min (32 - d % 32) (m.P 2 - m.off) else min 32 (m.P 2 - m.off)
    some (d, fifoBank m.c1 (m.P 1) 0 * 2 ^ 17 + m.off % (max 1 m.segs.length * 2 ^ 17), min n (2 ^ 17 - m.off % 2 ^ 17))

/-- ENGINE_UNIT of a DMAS: a segment is filled, or written out, while it is the engine's; a segment done passes on (SEGMENT_HANDOVER).
DEDUCED: notes/assumptions/38.md. -/
def State.fifoStep (s : State) (k : Nat) (m : Cmd) : State :=
  match fifoUnit m with
  | none => s.doneCmd k m.id
  | some (d, t, n) =>
    let g := m.segAt m.off
    let out := fifoOut (m.P 3)
    if m.seg g != (if out then 3 else 0) || (s.core k).holder s.cycle (m.bankOf g) != some 8 then s
    else
      match (if out then s.copyAtom k m.id 1 t m.c0.space d n else s.copyAtom k m.id m.c0.space d 1 t n) with
      | (none, s) => s
      | (some (.error x), s) => s.faultCmd k m x.1 x.2
      | (some (.ok _), s) =>
        let e := m.off + n
        let whole := e % 2 ^ 17 = 0 || m.P 2 ≤ e
        let part := out && (d + n) % 32 != 0 && e < m.P 2
        let s := s.unitDone k m.id fun m =>
          let m := { m with data := [e], prog := if part then m.prog - 1 else m.prog }
          if whole then (if out then m.setSeg g 0 else m.handSeg g s.cycle) else m
        let s := if whole && !out then s.moveToken k (m.bankOf g) (some (fifoReg (m.P 3))) else s
        if m.P 2 ≤ e then s.doneCmd k m.id else s

/-- R327: a segment still has bytes to carry from byte `off` on. -/
def Cmd.needs (m : Cmd) (g : Nat) : Bool :=
  let n := max 1 m.segs.length
  let c := m.off / 2 ^ 17
  (c + (g + n - c % n) % n) * 2 ^ 17 < m.P 2

/-- R327: some access of region `rn` to bank `b` has not been served: a request in a queue, a value of a streaming write, or a read in progress; a scale
counts with its element. -/
def State.bankPending (s : State) (k rn b : Nat) : Bool :=
  let c := s.core k
  c.nodes.any fun y => (match c.nodeRegion y.1 with
    | some (r, _, _) => r == rn
    | none => false) && [y.2.s0, y.2.s1].any fun x =>
      let w := x.words
      let at_ (p : Nat) : Bool :=
        (linesOf (x.place p).1 (x.place p).2 ++ (if stBs w then linesOf (x.scaleAt p) 4 else [])).any fun l => lineBank l == b
      stEn w && (if stClass w != 0 then x.queue.any fun q => at_ (q.pos.getD 0)
        else if stDir w then (upFrom x.pos (x.queue.length * perToken w - x.part.length)).any fun p => at_ (p % max 1 (streamTotal w))
        else !x.held.isEmpty && at_ x.pos)

/-- SEGMENT_HANDOVER (R327): the stream has reached a segment, or has moved on from it and the token returns; an empty segment of DIR 1 goes
to the region. -/
def execSegmentHandover (k id seg : Nat) (s : State) : Out3 :=
  .next (match (s.core k).cmd? id with
    | none => s
    | some m =>
      let b := m.bankOf seg
      let x := s.fifoStream k m
      if m.op != 0xE1 || m.fin.isSome || m.segs.length ≤ seg || s.cycle < m.at_ || !s.mayStart k m
          || (m.prog = 0 && 2 ≤ m.order && !((s.core k).brokenBefore id).isEmpty) then s
      else if m.seg seg = 0 && fifoOut (m.P 3) then
        if m.needs seg && (s.core k).holder s.cycle b == some 8 then
          (s.moveToken k b (some (fifoReg (m.P 3)))).modCmd k id fun m => m.handSeg seg s.cycle
        else s
      else if m.seg seg = 1 && m.handedAt seg < x.banked.getD b 0 then s.modCmd k id fun m => m.setSeg seg 2
      else if m.seg seg = 2 && (x.bank != some b || x.done) && !s.bankPending k (fifoReg (m.P 3)) b then
        (s.moveToken k b (some 8)).modCmd k id fun m => m.setSeg seg (if fifoOut (m.P 3) then 3 else 0)
      else s)

/-! ### GATH and SCAT (R328) -/

/-- The base die that serves the gathers and scatters of a core (notes/assumptions/13.md). -/
def baseDie (k : Nat) : Nat := 4 + k % 8

/-- R328: the tile address of row `m.prog` of a GATH or SCAT. -/
def Cmd.rowAt (m : Cmd) : Nat := m.c1.base + bits (m.P 3) 31 0 + m.prog * rowSize m

/-- R321, R328: a row is performed. -/
def State.rowDone (s : State) (k : Nat) (m : Cmd) : State :=
  let s := s.unitDone k m.id fun m => { m with data := [], sub := 0 }
  if bits (m.P 2) 63 32 ≤ m.prog + 1 then s.doneCmd k m.id else s

/-- R254: the bytes of a row in its line `j`: their tile address and their number. -/
def Cmd.rowLine (m : Cmd) (j : Nat) : Nat × Nat :=
  let l := m.rowAt / 64 + j
  let lo := max m.rowAt (64 * l)
  (lo, min (m.rowAt + rowSize m) (64 * l + 64) - lo)

/-- R254, R328: a line of a GATH's row is written, once its bank is free. DESIGN CHOICE: notes/assumptions/11.md. -/
def State.gathLine (s : State) (k : Nat) (m : Cmd) (h : List Nat) : State :=
  let (a, n) := m.rowLine m.sub
  if !s.banksFree k a n then s.modCmd k m.id fun m => { m with data := m.data.take 1 ++ h }
  else
    let s := (s.useBanks k (partsOf a n)).put (tileLoc k a) (((h.drop (a - m.rowAt)).take n).map fun v => BitVec.ofNat 8 v)
    if m.rowAt + rowSize m ≤ a + n then s.rowDone k m
    else s.modCmd k m.id fun m => { m with data := m.data.take 1 ++ h, sub := m.sub + 1, at_ := s.cycle + 1 }

/-- R254, R328: a line of a SCAT's row is read, once its bank is free; with the last the row is written at `a`.
DESIGN CHOICE: notes/assumptions/11.md. -/
def State.scatLine (s : State) (k : Nat) (m : Cmd) (a : Nat) (h : List Nat) : State :=
  let p := s.partOf k
  let c := baseDie k
  if rowSize m ≤ h.length then
    match s.writeSpace c k p m.c0.space m.id a (h.map fun v => BitVec.ofNat 8 v) with
    | (.error x, s) => (s.cmdBroken k m.id x.1 x.2).faultCmd k m x.1 x.2
    | (.ok _, s) => s.rowDone k m
  else
    let (b, n) := m.rowLine m.sub
    if !s.banksFree k b n then s
    else match (s.useBanks k (partsOf b n)).readSpace c k p 1 b n with
      | (.error x, s) => s.faultCmd k m x.1 x.2
      | (.ok v, s) => s.modCmd k m.id fun m => { m with data := m.data.take 1 ++ h ++ v.map BitVec.toNat, sub := m.sub + 1, at_ := s.cycle + 1 }

/-- ENGINE_UNIT of a GATH or SCAT: the index of a row is read once, the row's bytes are then read, and they are written; in the tile a line in a cycle.
DESIGN CHOICE: notes/assumptions/13.md. DESIGN CHOICE: notes/assumptions/11.md. -/
def State.gathStep (s : State) (k : Nat) (m : Cmd) : State :=
  let p := s.partOf k
  let c := baseDie k
  let w := if bits (m.P 2) 31 28 = 0 then 4 else 8
  if bits (m.P 2) 63 32 ≤ m.prog then s.doneCmd k m.id
  else match m.data with
    | [] =>
      (match s.readSpace c k p m.c0.space (m.c0.base + m.P 0 + m.prog * w) w with
      | (.error x, s) => s.faultCmd k m x.1 x.2
      | (.ok v, s) =>
        let o := m.P 1 + ofBytes v * bits (m.P 3) 63 32
        if m.c0.len < o + rowSize m then s.faultCmd k m 0x201 (ofBytes v)
        else s.modCmd k m.id fun m => { m with data := [m.c0.base + o], at_ := s.cycle + 1 })
    | a :: h =>
      if m.op = 0xE3 then s.scatLine k m a h
      else if !h.isEmpty then s.gathLine k m h
      else match s.readSpace c k p m.c0.space a (rowSize m) with
        | (.error x, s) => s.faultCmd k m x.1 x.2
        | (.ok v, s) => s.gathLine k m (v.map BitVec.toNat)

/-! ### STAGE (R329) -/

/-- R267, R329: the limits of an entry of a stage list. -/
def stageForm (b : List Byte) : Bool :=
  let w1 := fieldAt b 8 8
  let len := bits w1 63 32
  bits w1 31 22 == 0 && bits (fieldAt b 16 8) 63 1 == 0 && fieldAt b 24 8 == 0 && len % 16 == 0 && 16 ≤ len && len ≤ 0x400000
    && bits w1 21 0 % 16 == 0

/-- R329: the list's header, read as the first unit: the number of entries; the header's reserved bits are ignored (R7).
DESIGN CHOICE: notes/assumptions/28.md. -/
def State.stageHeader (s : State) (k : Nat) (m : Cmd) : State :=
  match s.readSpace (dieOf k) k (s.partOf k) m.c0.space (m.c0.base + m.P 0) 32 with
  | (.error x, s) => s.faultCmd k m x.1 x.2
  | (.ok h, s) =>
    let n := bits (fieldAt h 0 8) 10 0
    if 1024 < n then s.faultCmd k m 0x300 (m.c0.base + m.P 0)
    else if n = 0 then s.doneCmd k m.id
    else s.modCmd k m.id fun m => { m with data := [0, n], at_ := s.cycle + 1 }

/-- R329: one atom of the entry in progress. -/
def State.stageAtom (s : State) (k : Nat) (m : Cmd) (e : List Byte) (n : Nat) : State :=
  let en := stageEntryOf e
  let off := m.data.getD 0 0
  if !stageForm e then s.faultCmd k m 0x300 (m.c0.base + m.P 0 + 32 + 32 * m.sub)
  else if m.c1.len < en.dst + en.len || !inTile (s.cc k).tilecap (m.c1.base + en.dst) en.len then s.faultCmd k m 0x201 (m.c1.base + en.dst)
  else if !en.zero && m.c0.len < m.P 1 + en.src + en.len then s.faultCmd k m 0x201 (m.c0.base + m.P 1 + en.src)
  else
    let b := m.c1.base + en.dst + off
    let c := min (32 - b % 32) (en.len - off)
    if !s.banksFree k b c then s
    else
      let r : Except (Nat × Nat) (List Byte) × State := if en.zero then (.ok (List.replicate c 0), s) else s.readSpace (dieOf k) k (s.partOf k) m.c0.space (m.c0.base + m.P 1 + en.src + off) c
      match r with
      | (.error x, s) => s.faultCmd k m x.1 x.2
      | (.ok v, s) =>
        let s := (s.useBanks k (partsOf b c)).put (tileLoc k b) v
        let last := en.len ≤ off + c
        let s := s.unitDone k m.id fun m => { m with sub := if last then m.sub + 1 else m.sub, data := [if last then 0 else off + c, n] }
        if last && n ≤ m.sub + 1 then s.doneCmd k m.id else s

/-- R315: the staging step of a member on core `k` reached the STAGE loader before a command, and has not completed. -/
def State.stagingFirst (s : State) (k id : Nat) : Bool :=
  s.launches.any fun x => x.2.failing.isNone && x.2.members.any fun y => y.core == k && y.placed && !y.filled && y.staged ≤ id

/-- ENGINE_UNIT of a STAGE. -/
def State.stageStep (s : State) (k : Nat) (m : Cmd) : State :=
  if s.stagingFirst k m.id then s
  else match m.data with
  | [_, n] =>
    let o := m.P 0 + 32 + 32 * m.sub
    if m.c0.len < o + 32 then s.faultCmd k m 0x201 (m.c0.base + o)
    else (match s.readSpace (dieOf k) k (s.partOf k) m.c0.space (m.c0.base + o) 32 with
      | (.error x, s) => s.faultCmd k m x.1 x.2
      | (.ok e, s) => s.stageAtom k m e n)
  | _ => s.stageHeader k m

/-! ### Collectives (R330, R331, R425) -/

/-- R330: the combination of two elements. -/
def collCombine (fmt op a b : Nat) : Nat :=
  match fmt with
  | 5 => (match op with
    | 0 => (a + b) % 2 ^ 32
    | 1 => if sext b 32 < sext a 32 then b else a
    | 2 => if sext a 32 < sext b 32 then b else a
    | 3 => a &&& b
    | 4 => a ||| b
    | _ => a ^^^ b)
  | 10 => (match op with
    | 0 => faddTo32 (floatCode (floatFmt 10) a) (floatCode (floatFmt 10) b)
    | _ => encodeElem 10 (minmaxReal (op == 2) (floatCode (floatFmt 10) a) (floatCode (floatFmt 10) b)))
  | _ => (match op with
    | 0 => (addReal .rne 0 (readW a) (readW b)).val
    | _ => minmaxReal (op == 2) (readW a) (readW b))

/-- An element that could not be read, with the tile address of its uncorrectable unit (R255, R323). -/
def badElem (a : Nat) : Nat := 2 ^ 64 + a

/-- R389: a combination with an element that could not be read is one. -/
def collNode (fmt op a b : Nat) : Nat := if 2 ^ 64 ≤ a then a else if 2 ^ 64 ≤ b then b else collCombine fmt op a b

/-- R330: the tree of R76 over member numbers. The element of a group of one member stands as it is. DESIGN CHOICE: notes/assumptions/58.md. -/
def collTree (fmt op : Nat) (l : List Nat) : Nat := treeFold (collNode fmt op) 0 8 l

/-- The tile address of element `j` of a member's source. -/
def Cmd.collAt (m : Cmd) (j : Nat) : Nat := m.c0.base + m.P 0 + j * collBytes (m.P 2)

/-- Element `j` of a member's source as it stands. DEDUCED: notes/assumptions/38.md. -/
def State.collSource (s : State) (k : Nat) (m : Cmd) (j : Nat) : Nat :=
  let w := collBytes (m.P 2)
  let a := tileLoc k (m.collAt j)
  match s.unreadable a w with
  | some u => badElem (unitAddr k u)
  | none => if collFmt (m.P 2) = 14 && collKind (m.P 2) != 1 && collKind (m.P 2) != 3 then s.load a w % 2 ^ 40 else s.load a w

/-- R330: the elements that member `i` receives, from the sources in member order. -/
def collResult (p2 g i : Nat) (src : List (List Nat)) : List Nat :=
  let n := collCount p2
  let tree (j : Nat) := collTree (collFmt p2) (collOp p2) (src.map fun l => l.getD j 0)
  match collKind p2 with
  | 0 => (upFrom 0 n).map tree
  | 1 => ((src.map fun l => l.take n).flatten).take (g * n)
  | 2 => (upFrom 0 n).map fun j => tree (i * n + j)
  | _ => (src.getD (collRoot p2) []).take n

/-- R331: what a joining member's parameters are compared by. -/
def collParams (p2 : Nat) : Nat := p2 / 2 ^ 20 * 2 ^ 16 + bits p2 15 8

/-- The member numbers of a collective in ascending order, with core and command. -/
def insertMember (x : Nat × Nat × Nat) : List (Nat × Nat × Nat) → List (Nat × Nat × Nat)
  | [] => [x]
  | y :: r => if x.1 < y.1 then x :: y :: r else y :: insertMember x r

/-- R331: a collective of the state other than `c`. -/
def Coll.other (c x : Coll) : Bool := !(x.launch == c.launch && x.domain == c.domain && x.group == c.group && x.tag == c.tag)

/-- R331: every member has joined: each reads its source. -/
def State.collStart (s : State) (c : Coll) : State :=
  c.joined.foldl (fun (s : State) j => s.modCmd j.2.1 j.2.2 fun m => { m with sub := 2, at_ := s.cycle + 1 }) s

/-- R425: element `j` of the source of a member in another package: `n` is a draw. DESIGN CHOICE: notes/assumptions/39.md. -/
def peerElem (p2 n : Nat) : Nat := (Config.peerElement n).toNat % (if collFmt p2 != 14 then 2 ^ 32 else if collKind p2 = 1 || collKind p2 = 3 then 2 ^ 64 else 2 ^ 40)

/-- R330: the whole source, `n` elements, of a member that left while it was reading. -/
def State.collRest (s : State) (k : Nat) (m : Cmd) (n : Nat) : List Nat :=
  m.data ++ (upFrom m.data.length (n - m.data.length)).map (s.collSource k m)

/-- R330, R425: the sources of `g` members of a collective in their order; those of other packages' members are free values.
DEDUCED: notes/assumptions/38.md. -/
def State.collSources (s : State) (c : Coll) (p2 g : Nat) : List (List Nat) :=
  (upFrom 0 g).map fun i => match c.joined.find? fun j => j.1 == i with
    | some j => (((s.core j.2.1).cmd? j.2.2).map Cmd.data).getD []
    | none => (match c.left.find? fun j => j.1 == i with
      | some j => s.collRest j.2.1 j.2.2 (if collUses p2 i then collSrc p2 g else 0)
      | none => (upFrom 0 (collSrc p2 g)).map fun j => peerElem p2 (s.free + i * collSrc p2 g + j))

/-- R331: every member has read its source: the results are fixed. -/
def State.collCombined (s : State) (c : Coll) : State :=
  let g := c.size
  let p2 := ((c.joined.head?).bind fun j => ((s.core j.2.1).cmd? j.2.2).map fun m => m.P 2).getD 0
  let src := s.collSources c p2 g
  let s : State := { s with free := s.free + g * collSrc p2 g }
  c.joined.foldl (fun (s : State) j => s.modCmd j.2.1 j.2.2 fun m =>
    { m with data := collResult (m.P 2) g j.1 src, sub := 4, at_ := s.cycle + 1 }) s

/-- R331: a collective ends for every member that has joined, with a status and a cause. -/
def State.collEnd (s : State) (c : Coll) (st cause : Nat) : State :=
  let s := { s with colls := s.colls.filter c.other }
  c.joined.foldl (fun s j => match (s.core j.2.1).cmd? j.2.2 with
    | some m =>
      let s := s.modCmd j.2.1 j.2.2 fun m => { m with fin := some (st, cause) }
      if st = 3 then s.postEngineFault j.2.1 m.op m.dst 3 cause 0 0 else s
    | none => s) s

/-- R331, R425: once the members that this package has in a collective have joined, it starts; those of other packages arrive after a free time.
DESIGN CHOICE: notes/assumptions/39.md. -/
def State.collGather (s : State) (p : Nat) (c : Coll) : State :=
  if !c.domain then (if c.size ≤ c.joined.length then s.collStart c else s)
  else
    let here := (c.group.filter fun x => x.1 == s.ownPkg).length
    if c.joined.length < here then s
    else if c.size ≤ here then s.collStart c
    else
      let (n, s) := s.draw
      s.after (1 + Config.freeDelay n) (.collPeers p c.tag)

/-- R331, R425, R426: the members that other packages have in a domain collective of partition `p` arrive, with the same parameters or others.
DESIGN CHOICE: notes/assumptions/39.md. -/
def State.peersJoin (s : State) (p tag : Nat) : State :=
  let grp := (s.part p).domain
  match s.colls.find? fun c => c.domain && c.group == grp && c.tag == tag with
  | none => s
  | some c =>
    let waiting := c.joined.all fun j => (((s.core j.2.1).cmd? j.2.2).map fun m => m.sub == 1 && m.fin.isNone).getD false
    if !waiting || c.joined.length < (grp.filter fun x => x.1 == s.ownPkg).length || grp.any (fun x => s.fenced.contains x.1) then s
    else
      let (n, s) := s.draw
      if Config.peerDiffers n then s.collEnd c 3 0x306 else s.collStart c

/-- R331, R425: a member opens or joins a collective of its gang or of its domain group. In a gang BTIMEOUT runs from the first arrival, and in a
domain group each launch's runs from its own member's. DEDUCED: notes/assumptions/39.md. -/
def State.collJoin (s : State) (k : Nat) (m : Cmd) (l : Nat) (x : Launch) : State :=
  let dom := collGroup (m.P 2) == 1
  let (g, i) := s.collGroupOf k (collGroup (m.P 2))
  let key := if dom then 0 else l
  let grp := if dom then (s.part x.part).domain else []
  let tag := bits (m.P 3) 31 0
  let par := collParams (m.P 2)
  let due := if x.btimeout = 0 then none else some (s.cycle + usCycles x.btimeout)
  let timed (s : State) : State := if x.btimeout = 0 then s else s.after (usCycles x.btimeout) (.collDue key tag)
  match s.colls.find? fun c => c.launch == key && c.domain == dom && c.group == grp && c.tag == tag with
  | none =>
    let c : Coll := { launch := key, domain := dom, group := grp, size := g, tag := tag, params := par, joined := [(i, k, m.id)], due := due }
    let s := timed ({ s with colls := s.colls ++ [c] }.modCmd k m.id fun m => { m with sub := 1 })
    s.collGather x.part c
  | some c =>
    if c.joined.any fun j => j.1 == i then s
    else
      let d := { c with
        joined := insertMember (i, k, m.id) c.joined
        due := if dom then (match c.due, due with
          | some a, some b => some (min a b)
          | none, b => b
          | a, none => a) else c.due }
      if c.params != par then s.collEnd d 3 0x306
      else
        let s := { s with colls := s.colls.map fun y => if y == c then d else y }.modCmd k m.id fun m => { m with sub := 1 }
        let s := if dom then timed s else s
        s.collGather x.part d

/-- The collective that a command has joined, with its member number in it. -/
def State.collOf (s : State) (k id : Nat) : Option (Coll × Nat) :=
  s.colls.findSome? fun c => (c.joined.find? fun j => j.2 == (k, id)).map fun j => (c, j.1)

/-- R331: every member's destination is written. -/
def State.collFinished (s : State) (c : Coll) : Bool :=
  c.joined.all fun j => match (s.core j.2.1).cmd? j.2.2 with
    | some m => m.fin.isSome || m.data.length ≤ m.prog
    | none => true

/-- R331: a member has written its last element: the tokens follow once every member has. -/
def State.collSettle (s : State) (k id : Nat) : State :=
  match s.collOf k id with
  | none => s.doneCmd k id
  | some (c, _) =>
    if s.collFinished c then
      c.joined.foldl (fun s j => s.doneCmd j.2.1 j.2.2) { s with colls := s.colls.filter fun y => y != c }
    else s

/-- R330, R331: once every member has read its source the results are fixed. -/
def State.collTry (s : State) (k id : Nat) : State :=
  match s.collOf k id with
  | none => s
  | some (c, _) => if c.joined.all fun j => (((s.core j.2.1).cmd? j.2.2).map fun y => y.sub == 3).getD true then s.collCombined c else s

/-- R330, R331: a member has read its source; with the last member's the results are fixed. -/
def State.collSourced (s : State) (k id : Nat) : State := (s.modCmd k id fun m => { m with sub := 3 }).collTry k id

/-- R254, R330: a member reads the next line of its source, once its bank is free. -/
def State.collRead (s : State) (k : Nat) (m : Cmd) : State :=
  let n := match s.collOf k m.id with
    | some (c, i) => if collUses (m.P 2) i then collSrc (m.P 2) c.size else 0
    | none => 0
  let j := m.data.length
  if n ≤ j then s.collSourced k m.id
  else
    let js := (upFrom j (min 16 (n - j))).filter fun x => m.collAt x / 64 == m.collAt j / 64
    let len := js.length * collBytes (m.P 2)
    if !s.banksFree k (m.collAt j) len then s
    else
      let s := (s.useBanks k (partsOf (m.collAt j) len)).modCmd k m.id fun m => { m with data := m.data ++ js.map (s.collSource k m), at_ := s.cycle + 1 }
      if n ≤ j + js.length then s.collSourced k m.id else s

/-- R425: an all-reduce of at most 16 W40 elements over a domain group writes every token within 1.8 µs of the last arrival while no port retrains,
so each of its elements takes at most 64 cycles. DESIGN CHOICE: notes/assumptions/39.md. -/
def State.collPace (s : State) (k id : Nat) (m : Cmd) : Cmd :=
  match s.collOf k id with
  | some (c, _) =>
    if c.domain && collKind (m.P 2) == 0 && collFmt (m.P 2) == 14 && collCount (m.P 2) ≤ 16 && s.ports.all fun p => !p.2.retraining
    then { m with at_ := min m.at_ (s.cycle + 64) } else m
  | none => m

/-- R330: one destination element of a collective in progress. -/
def State.collUnit (s : State) (k : Nat) (m : Cmd) : State :=
  match m.data[m.prog]? with
  | none => s.collSettle k m.id
  | some v =>
    let w := collBytes (m.P 2)
    let a := m.c1.base + m.P 1 + m.prog * w
    if 2 ^ 64 ≤ v then s.faultCmd k m 0x3E0 (v - 2 ^ 64)
    else
      let h := if m.held.isEmpty then (toBytes v w).map BitVec.toNat else m.held
      match s.writeUnit k 2 (a + (w - h.length)) h with
      | ([], s) =>
        let s := s.unitDone k m.id id
        let s := s.modCmd k m.id (s.collPace k m.id)
        if m.data.length ≤ m.prog + 1 then s.collSettle k m.id else s
      | (r, s) => s.modCmd k m.id fun m => { m with held := r }

/-- ENGINE_UNIT of a COLL; a domain collective belongs to member 0 of a listed partition (R425). -/
def State.collStep (s : State) (k : Nat) (m : Cmd) : State :=
  match m.sub, s.cmdLaunch m with
  | 0, some (l, x) =>
    if collGroup (m.P 2) = 1 && (m.member != 0 || !(s.part x.part).domain.contains (s.ownPkg, x.part)) then s.faultCmd k m 0x300 0
    else s.collJoin k m l x
  | 0, none => s.faultCmd k m 0x300 0
  | 1, _ => s
  | 2, _ => s.collRead k m
  | 3, _ => s.collTry k m.id
  | _, _ => s.collUnit k m

/-- COLL_TIMEOUT (R331): BTIMEOUT has run out before every member has joined. `l` is 0 for a domain collective. -/
def execCollTimeout (l tag : Nat) (s : State) : Out3 :=
  .next (match s.colls.find? fun c => c.launch == l && c.tag == tag && c.due == some s.cycle with
    | some c => if c.joined.all fun j => match (s.core j.2.1).cmd? j.2.2 with
        | some m => m.sub == 1
        | none => true
      then s.collEnd c 5 0x384 else s
    | none => s)

/-! ### ENGINE_UNIT -/

/-- ENGINE_UNIT (R321): one unit of a command, once its order bits let it start. -/
def execEngineUnit (k id : Nat) (s : State) : Out3 :=
  .next (match (s.core k).cmd? id with
    | none => s
    | some m =>
      if m.fin.isSome || s.cycle < m.at_ || !s.mayStart k m then s
      else if m.prog = 0 && m.sub = 0 && 2 ≤ m.order && !((s.core k).brokenBefore id).isEmpty then s.breakCmd k m
      else match m.op with
        | 0xE0 => s.dmaStep k m
        | 0xE1 => s.fifoStep k m
        | 0xE2 => s.gathStep k m
        | 0xE3 => s.gathStep k m
        | 0xE4 => s.stageStep k m
        | 0xE5 => s.collStep k m
        | _ => s)

/-! ### ENGINE_COMPLETION (R317, R318) -/

/-- R318: the command reads or writes a space other than tile. -/
def Cmd.beyond (m : Cmd) : Bool :=
  (m.op == 0xE0 || m.op == 0xE1 || m.op == 0xE2 || m.op == 0xE3 || m.op == 0xE4) && (m.c0.space != 1 || m.c1.space != 1)

/-- R317: the status word. -/
def statusWord (prog st cause : Nat) : Nat := prog % 2 ^ 32 * 2 ^ 32 + st * 2 ^ 28 + cause % 1024

/-- A command leaves its engine. -/
def State.dropCmd (s : State) (k id : Nat) : State :=
  s.modCore k fun c => { c with engines := c.engines.map fun q => q.filter fun m => m.id != id }

/-- R339: a QWAIT whose test holds is done. -/
def State.qwaitMet (s : State) (k : Nat) (m : Cmd) : Bool :=
  m.op == 0xED && depMet ((s.part (s.partOf k)).queues.getD (m.P 0) {}).done (m.P 1)

/-- R318, R357: the command may write its token in this cycle. -/
def State.completes (s : State) (k : Nat) (m : Cmd) : Bool :=
  (m.fin.isSome || s.qwaitMet k m) && (!m.beyond || m.issued + 64 ≤ s.cycle) && s.parked.all fun x => !(x.core == k && x.id == m.id)

/-- ENGINE_COMPLETION (R317): the token is written; an MRECV that has taken nothing writes 0 (R341). -/
def execEngineCompletion (k id : Nat) (s : State) : Out3 :=
  .next (match (s.core k).cmd? id with
    | none => s
    | some m =>
      if !s.completes k m then s
      else
        let f := m.fin.getD (0, 0)
        let s := if m.op = 0xE7 then s.finishToken k id 0 (some {}) else s.finishToken k id (statusWord m.prog f.1 f.2) none
        s.dropCmd k id)

/-! ### Messages (R332 to R335) -/

/-- R409: member `j` of a launch makes no further turn: its control core has ended. -/
def State.memberEnded (s : State) (l j : Nat) (y : Member) : Bool :=
  let c := s.cc y.core
  y.started && !y.frozen && (c.member != some (l, j) || c.run == .halted || c.run == .off)

/-- R409: a sender of a gang, by launch and member number. -/
def senderKey (l m : Nat) : Nat := l * 2 ^ 16 + m

/-- R409: core `c` has a message for core `t` that has not been placed. -/
def State.sendsTo (s : State) (c t : Nat) : Bool :=
  ((s.core c).engine 3).any fun m => m.op == 0xE6 && m.fin.isNone && s.targetCore c (m.P 0) == some t

/-- R409, R410: in deterministic mode the message `m` to core `t` comes after as many messages of every lower-numbered member, the receiver
among them, except one that has ended. DEDUCED: notes/assumptions/37.md. -/
def State.msgTurn (s : State) (m : Cmd) (t : Nat) (b : Inbox) : Bool :=
  match s.cmdLaunch m with
  | none => true
  | some (l, x) =>
    let i := m.member
    (((upFrom 0 i).zip x.members).all fun p =>
      let n := b.from_.getD (senderKey l p.1) 0
      b.from_.getD (senderKey l i) 0 < n || (!s.sendsTo p.2.core t && s.memberEnded l p.1 p.2))

/-- R333: an earlier message of the same sender to the same receiver stands before it. -/
def Core.firstTo (c : Core) (m : Cmd) : Bool :=
  (c.engine 3).all fun x => x.op != 0xE6 || m.id ≤ x.id || x.P 0 != m.P 0 || x.fin.isSome

/-- R332: the tile address of the `n`-th slot from the head. -/
def Inbox.slotAt (b : Inbox) (n : Nat) : Nat := b.base + (b.head + n) % max 1 b.size * 64

/-- R333: a message whose bytes stand in the slot at the tail is placed. -/
def State.placeMessage (s : State) (t : Nat) (b : Inbox) (m : Cmd) (sender key : Nat) : State :=
  (s.modCore t fun c => { c with inbox := some { b with
    slots := b.slots ++ [(sender, if m.c0.tag then some m.c0.raw else none)]
    received := b.received, from_ := b.from_.set key (b.from_.getD key 0 + 1), filling := none } }).setLatch t 0

/-- R254: another message than command `id` of core `k` is in the slot at the tail in part. -/
def State.slotTaken (s : State) (b : Inbox) (k id : Nat) : Bool :=
  match b.filling with
  | some (c, i) => (c, i) != (k, id) && (((s.core c).cmd? i).any fun m => m.fin.isNone && !m.held.isEmpty)
  | none => false

/-- MESSAGE_DELIVERY (R333): once a slot is free; its lines are written as their banks become free (R254). -/
def execMessageDelivery (k id : Nat) (s : State) : Out3 :=
  .next (match (s.core k).cmd? id with
    | none => s
    | some m =>
      if m.op != 0xE6 || m.fin.isSome || s.cycle < m.at_ || !s.mayStart k m || !(s.core k).firstTo m then s
      else if 2 ≤ m.order && !((s.core k).brokenBefore id).isEmpty then s.breakCmd k m
      else match s.targetCore k (m.P 0) with
        | none => s.refuseCmd k m 0x302
        | some t =>
          match (s.core t).inbox with
          | none => s.refuseCmd k m 0x301
          | some b =>
            let det := ((s.cmdLaunch m).map fun x => x.2.det).getD false
            if b.size ≤ b.slots.length || (det && !s.msgTurn m t b) || s.slotTaken b k id then s
            else
              let h := if m.held.isEmpty then ((upFrom 0 8).flatMap fun i => toBytes (m.P (i + 1)) 8).map BitVec.toNat else m.held
              match s.writeUnit t 2 (b.slotAt b.slots.length + (64 - h.length)) h with
              | ([], s) =>
                (s.placeMessage t b m (s.core k).lcore (senderKey ((m.owner.map Prod.fst).getD 0) m.member)).modCmd k id fun m =>
                  { m with prog := 1, fin := some (0, 0), held := [] }
              | (r, s) => (s.modCore t fun c => { c with inbox := some { b with filling := some (k, id) } }).modCmd k id fun m => { m with held := r })

/-- MESSAGE_TAKE (R334): the oldest MRECV takes the message at the head: the copy area, then the dest, then the slot.
DESIGN CHOICE: notes/assumptions/11.md. DEDUCED: notes/assumptions/38.md. -/
def execMessageTake (k : Nat) (s : State) : Out3 :=
  .next (match (((s.core k).engine 3).filter fun m => m.op == 0xE7 && m.fin.isNone), (s.core k).inbox with
    | m :: _, some b =>
      (match b.slots with
      | [] => s
      | (sender, cap) :: rest =>
        if s.cycle < m.at_ || !s.mayStart k m then s
        else match s.readUnit k 1 (b.slotAt 0) 64 2 m.held with
        | (.error x, s) => (s.modCmd k m.id fun m => { m with fin := some (1, x.1) }).postEngineFault k m.op m.dst 1 x.1 0 x.2
        | (.ok h, s) =>
          if h.length < 64 || !s.banksFree k (m.P 0) 64 then s.modCmd k m.id fun m => { m with held := h }
          else
            let s := s.useBanks k (partsOf (m.P 0) 64)
            let n := b.received + 1
            let v := h.map fun x => BitVec.ofNat 8 x
            let unit0 : Cap := match cap with
              | some r => if r.toNat = ofBytes (v.take 16) then { raw := r, tag := true } else { raw := BitVec.ofNat 128 (ofBytes (v.take 16)) }
              | none => { raw := BitVec.ofNat 128 (ofBytes (v.take 16)) }
            let s := s.put (tileLoc k (m.P 0)) (toBytes (sender % 256 * 2 ^ 56 + n.toNat) 8 ++ toBytes 0 8 ++ v.drop 16)
            let s := (s.finishToken k m.id 0 (some unit0)).dropCmd k m.id
            s.modCore k fun c => { c with inbox := some { b with head := (b.head + 1) % max 1 b.size, slots := rest, received := n } })
    | _, _ => s)

/-! ### Barriers (R338) -/

/-- BARRIER_TIMEOUT (R338): every waiter traps at its GBAR and the generation is discarded. -/
def execBarrierTimeout (l n : Nat) (s : State) : Out3 :=
  .next (match s.launches.get? l with
    | none => s
    | some x =>
      let b := x.bar n
      if b.due != some s.cycle || b.count = 0 then s
      else
        let s := s.modBar l n fun b => { b with count := 0, gen := b.gen + 1, waiters := [], due := none, rem := none }
        b.waiters.foldl (fun s k =>
          (s.modCc k fun c => { c with gbar := none }).raise k 0x384 (BitVec.ofNat 64 (b.count + n * 2 ^ 32)) (s.cc k).pc) s)

/-! ### LAUNCH (R337) -/

/-- R239, R337: a record is appended to a queue. -/
def State.appendQueue (s : State) (p q : Nat) (r : QRec) : State :=
  s.modPart p fun x =>
    let y := x.queues.getD q {}
    { x with queues := x.queues.set q { y with recs := y.recs ++ [r], st := if y.st == .empty then .waiting else y.st } }

/-- A queue of a partition. -/
def State.queue (s : State) (p q : Nat) : Queue := (s.part p).queues.getD q {}

/-- RECORD_ENQUEUE (R337): the record of a LAUNCH enters its queue; PROG is the DONE value that its retirement produces. -/
def execRecordEnqueue (k id : Nat) (s : State) : Out3 :=
  .next (match (s.core k).cmd? id with
    | none => s
    | some m =>
      let p := s.partOf k
      let q := bits (m.P 0) 47 44
      if m.op != 0xE9 || m.fin.isSome || s.cycle < m.at_ || !s.mayStart k m || 64 ≤ (s.queue p q).recs.length then s
      else if 2 ≤ m.order && !((s.core k).brokenBefore id).isEmpty then s.breakCmd k m
      else
        let n := ((s.queue p q).done.toNat + (s.queue p q).recs.length + 1) % 2 ^ 32
        let s := s.appendQueue p q { words := m.words, rights := m.sub }
        (s.finishToken k id (statusWord n 0 0) none).dropCmd k id)

/-! ### Far atomics (R285, R286) -/

/-- R409: in deterministic mode the `k`-th far atomic of a member to a unit applies after the `k`-th of every lower-numbered member, except one that has
ended without it. DEDUCED: notes/assumptions/37.md. -/
def State.farTurn (s : State) (k : Nat) (f : Far) : Bool :=
  match s.launchOf k with
  | none => true
  | some (l, x) =>
    let u := farUnit f.space f.addr
    !x.det || ((upFrom 0 (s.memberOf k)).zip x.members).all fun p =>
      f.turn < p.2.farApplied.getD u 0 || (s.memberEnded l p.1 p.2 && p.2.farIssued.getD u 0 ≤ p.2.farApplied.getD u 0)

/-- R285, R286: the far atomic may be performed. DESIGN CHOICE: notes/assumptions/64.md. -/
def State.farReady (s : State) (k : Nat) (f : Far) : Bool :=
  f.at_ ≤ s.cycle && !f.parked && s.farTurn k f && (f.order < 2 || !s.parkedBefore k f.id) && (s.core k).far.all fun g =>
    f.id ≤ g.id || (2 > f.order && farUnit g.space g.addr != farUnit f.space f.addr)

/-- The far atomic leaves the port: its token, and its turn. -/
def State.farEnd (s : State) (k : Nat) (f : Far) (v : Nat) : State :=
  let u := farUnit f.space f.addr
  ((s.finishToken k f.id v none).modCore k fun c => { c with far := c.far.filter fun g => g.id != f.id }).modMember k fun y =>
    { y with farApplied := y.farApplied.set u (y.farApplied.getD u 0 + 1) }

/-- R285, R389: a fault after issue: 0 to the token, and an engine fault. One found before commit counts for a later release (R307). With cause 0 another
package has not answered, and the far atomic waits (R426). DEDUCED: notes/assumptions/60.md. -/
def State.farFault (s : State) (k : Nat) (f : Far) (cause v : Nat) : State :=
  if cause = 0 then s.modCore k fun c => { c with far := c.far.map fun g => if g.id == f.id then { g with at_ := s.silence } else g }
  else (s.farEnd k f 0).postEngineFault k f.op f.dst 1 cause 0 v

/-- R283, R286, R354: a far atomic on the bytes of a place, which counts as one access. A poisoned atom is found after commit, so the far atomic still
counts as performed for a later release (R277, R306). DEDUCED: notes/assumptions/41.md. -/
def State.farApply (s : State) (k : Nat) (f : Far) (p : Place) : State :=
  match s.readPlace p f.bytes with
  | (.error x, s) => s.farFault k f x f.addr
  | (.ok v, s) =>
    let old := ofBytes v
    (s.storePlace p (toBytes (atomicNew f.op .s f.bytes old f.val) f.bytes)).farEnd k f (if f.op = 0xCB then setBits f.val 0 (8 * f.bytes) old else old)

/-- FAR_ATOMIC_COMPLETION (R285, R286, R307, R357). -/
def execFarAtomicCompletion (k id : Nat) (s : State) : Out3 :=
  .next (match (s.core k).far.find? fun f => f.id == id with
    | none => s
    | some f =>
      if !s.farReady k f then s
      else if 2 ≤ f.order && !((s.core k).brokenBefore id).isEmpty then
        let b := (s.core k).oldestBroken id
        ((s.farEnd k f 0).meetBroken k id).postEngineFault k f.op f.dst 1 b.2.1 0 b.2.2
      else
        match s.place (dieOf k) k (s.partOf k) f.space f.addr needAT with
        | (.error x, s) => (s.farFault k f x f.addr).writeBroken k id x f.addr
        | (.ok p, s) =>
          match s.mustPark k id f.space p with
          | some d =>
            let s : State := { s with parked := s.parked ++ [{ blk := d / 2 ^ 16, off := d % 2 ^ 16, core := k, id := id, data := [] }] }
            s.modCore k fun c => { c with far := c.far.map fun g => if g.id == id then { g with parked := true } else g }
          | none => s.farApply k f p)

end Sys2Proof.Machine
end

