-- ==== Sys2Proof/Machine/Freeze.lean ====
section
/-! DEFINITION. Freezes and context images: the layout of an image (spec/21 R380, R381), the image area (R379), what a freeze does to the things
in progress (R377, R378), and kill (R387). -/
namespace Sys2Proof.Machine

/-! ### The sections of an image (R381; notes/assumptions/30.md) -/

def zeroBytes (n : Nat) : List Byte := List.replicate n 0

/-- R381: the run state of a control-core section. -/
def runCode : RunState → Nat
  | .running => 0
  | .waiting => 1
  | _ => 2

/-- R381: the control-core section. DESIGN CHOICE: notes/assumptions/30.md. -/
def ccSection (c : ControlCore) : List Byte :=
  toBytes c.regs.bank.toNat 64 ++ toBytes c.pc.toNat 4 ++ toBytes (predCodes c.regs.preds 8) 2 ++ toBytes c.regs.tags.toNat 1 ++ toBytes c.latches.toNat 1
    ++ toBytes (runCode c.run) 1 ++ zeroBytes 23 ++ toBytes c.epc.toNat 8 ++ toBytes c.cause.toNat 8 ++ toBytes c.eval.toNat 8 ++ toBytes c.regs.fflags.toNat 8

/-- R381: the state of a row in an image. -/
def rowCode : RowState → Nat
  | .active => 2
  | .passed => 3
  | _ => 0

/-- R381: the rows section. DESIGN CHOICE: notes/assumptions/30.md. -/
def rowsSection (c : Core) (r : Region) : List Byte :=
  (upFrom 0 r.height).flatMap fun i =>
    let x := r.row i
    let y := c.str (2 * ((r.row0 + i) / 4) + (if r.wide then 0 else r.half))
    toBytes (rowCode x.st + x.pick % 256 * 2 ^ 8 + r.cur.getD 0 % 2 ^ 16 * 2 ^ 16 + y.react.getD ((r.row0 + i) % 4) 0 % 2 ^ 16 * 2 ^ 32
      + y.level % 8 * 2 ^ 48) 8 ++ zeroBytes 8

/-- R381: the skip counts. -/
def skipSection (r : Region) : List Byte :=
  r.blocks.map (fun b => BitVec.ofNat 8 (min 255 b.skip)) ++ zeroBytes (alignUp r.blocks.length 8 - r.blocks.length)

/-- R202, R381: what is left of an IDLE. -/
def Ctx.idleLeft (x : Ctx) : Nat := ((x.regs.flights.find? fun f => f.hold).bind fun f => f.left).getD 0

/-- R381: a context word and its bank. -/
def ctxSection (x : Ctx) : List Byte :=
  toBytes (((x.thread.map BitVec.toNat).getD 0) * 2 ^ 32 + x.rsr.toNat) 8
    ++ toBytes (x.eows % 2 ^ 16 * 2 ^ 48 + x.idleLeft % 2 ^ 13 * 2 ^ 35 + x.regs.tags.toNat * 2 ^ 24 + x.regs.fflags.toNat % 32 * 2 ^ 16
        + predCodes x.regs.preds 4 * 2 ^ 8 + b2n x.thread.isSome) 8
    ++ toBytes x.regs.bank.toNat 64

/-- R381: the down-conversion store. DESIGN CHOICE: notes/assumptions/30.md. -/
def storeSection (d : DownStore) : List Byte :=
  let n := d.codes.reverse.foldl (fun v x => v * 2 ^ d.fmt.width + x % 2 ^ d.fmt.width) 0
  toBytes (match d.fmt with
    | .l6 => 0
    | .l8 => 1
    | .l12 => 2) 4 ++ toBytes (wrap d.e 32) 4 ++ toBytes n 96

/-- R381: an element. -/
def elemSection (x : Elem) (m : Bool) : List Byte :=
  toBytes (b2n x.used + x.ptr % 4 * 2 ^ 8) 8
    ++ (if x.used then ((upFrom 0 4).flatMap fun c => ctxSection (x.ctx c)) ++ (if m then x.acc.image ++ storeSection x.store else []) else [])

/-- The columns of a region. -/
def Region.cols (r : Region) : List Nat := upFrom 0 (pickCols r.wide)

/-- The places of a region in row order and then column order, as (row, column). -/
def Region.places (r : Region) : List (Nat × Nat) := (upFrom 0 r.height).flatMap fun i => r.cols.map fun c => (i, c)

def elemsSection (c : Core) (r : Region) : List Byte :=
  r.places.flatMap fun p => elemSection (c.elem (r.elemAt p.1 p.2)) (!isV (r.elemAt p.1 p.2))

/-- The halves of a region, as the nodes of row `i`. -/
def Region.nodesOf (r : Region) (i : Nat) : List Nat := (if r.wide then [0, 1] else [r.half]).map fun h => (r.row0 + i) * 2 + h

/-- R381: a stream. -/
def streamSection (x : Stream) : List Byte :=
  toBytes (x.pos % 2 ^ 32 + x.cause % 1024 * 2 ^ 32 + b2n x.stopped * 2 ^ 42 + b2n x.fnan * 2 ^ 43 + x.queue.length % 8 * 2 ^ 44) 8 ++ zeroBytes 8

def nodesSection (c : Core) (r : Region) : List Byte :=
  (upFrom 0 r.height).flatMap fun i => (r.nodesOf i).flatMap fun n =>
    streamSection (c.nodes.getD n {}).s0 ++ streamSection (c.nodes.getD n {}).s1

/-! ### Entries (R381) -/

/-- R381: word 1 of an entry. -/
def entryWord (ctx kind net row col port : Nat) : Nat :=
  ctx % 4 + kind % 4 * 2 ^ 2 + net % 8 * 2 ^ 4 + row % 16 * 2 ^ 7 + col % 16 * 2 ^ 11 + port % 8 * 2 ^ 15

def entryBytes (payload word : Nat) : List Byte := toBytes payload 8 ++ toBytes word 8

/-- The tokens of a link, each latch from the receiver's side, listed from its head. -/
def Link.entries (l : Link) (net row col port : Nat) : List (List Byte) :=
  l.stages.flatten.map fun t => entryBytes t.payload.toNat (entryWord t.ctx t.kind net row col port)

/-- R381: a bus packet: three entries. DESIGN CHOICE: notes/assumptions/30.md. -/
def packetEntries (p : Packet) (col : Bool) (row c : Nat) : List (List Byte) :=
  let b := p.body.toNat
  let id := if col then p.colid else p.rowid
  [entryBytes b (entryWord p.ctx 0 3 row c 0 + b2n col * 2 ^ 19 + id % 256 * 2 ^ 20), entryBytes (b / 2 ^ 64) (b / 2 ^ 128), entryBytes (b / 2 ^ 192) 0]

/-- R381: a queued request: two entries. DESIGN CHOICE: notes/assumptions/30.md. -/
def requestEntries (r : Region) (q : NodeReq) (st : Nat) : List (List Byte) :=
  [entryBytes q.val.toNat (entryWord q.ctx 0 4 (r.rowOf q.elem) (r.colOf q.elem) st + q.op % 256 * 2 ^ 28 + q.port.getD 0 % 4 * 2 ^ 36
      + b2n q.port.isSome * 2 ^ 38), entryBytes (q.pos.getD 0) 0]

/-- R415: the receive queues of the long edges into a member, each from its head. DESIGN CHOICE: notes/assumptions/30.md. -/
def edgeEntries (l : List LEdge) (m : Nat) : List (List Byte) :=
  (l.filter fun g => g.tgt == m).flatMap fun g =>
    g.queue.map fun v => entryBytes v.1.toNat (entryWord v.2 0 2 0xF g.tcol g.tq + g.idx % 256 * 2 ^ 20)

/-- R381, R415: the entry section of region `rn`, with the long edges of its launch. DESIGN CHOICE: notes/assumptions/30.md. -/
def regionEntries (c : Core) (rn : Nat) (r : Region) (l : List LEdge) : List (List Byte) :=
  (r.places.flatMap fun p => (upFrom 0 8).flatMap fun ch => (c.link (r.elemAt p.1 p.2 * 8 + ch)).entries 0 p.1 p.2 ch)
    ++ (r.places.flatMap fun p => (upFrom 0 4).flatMap fun k => (c.klink (r.elemAt p.1 p.2 * 4 + k)).entries 1 p.1 p.2 k)
    ++ (r.places.flatMap fun p => (upFrom 0 4).flatMap fun q => match (c.plink (r.elemAt p.1 p.2 * 4 + q)).val with
      | some t => [entryBytes t.payload.toNat (entryWord t.ctx 0 2 p.1 p.2 q)]
      | none => [])
    ++ edgeEntries l r.member
    ++ ((upFrom 0 r.height).flatMap fun i => (r.nodesOf i).flatMap fun n => match c.rbus.get? n with
      | some p => packetEntries p false i (n % 2 * 8)
      | none => [])
    ++ (r.cols.flatMap fun col => match c.cbus.get? (rn * 16 + col) with
      | some p => packetEntries p true 0 col
      | none => [])
    ++ ((upFrom 0 r.height).flatMap fun i => (r.nodesOf i).flatMap fun n =>
      ((c.nodes.getD n {}).s0.queue.flatMap fun q => requestEntries r q 0) ++ (c.nodes.getD n {}).s1.queue.flatMap fun q => requestEntries r q 1)

/-! ### The header (R380) -/

/-- The bank tokens of a region. -/
def Core.banksOf (c : Core) (rn : Nat) : List Nat := (c.bankTok.filter fun p => p.2 == rn).map fun p => p.1

/-- R378, R380: what is left of the barrier clocks of a launch, in cycles. -/
def Launch.barClocks (x : Launch) (now : Nat) : List (Option Nat) := x.bars.map fun b => match b.due with
  | some d => some (d - now)
  | none => b.rem

/-- What the header takes from outside the region. -/
structure ImageArgs where
  cc : Bool
  err : Bool
  lease : Option (Nat × Nat)
  bars : List (Option Nat)
deriving DecidableEq, Repr

/-- R378, R380: the remaining barrier timeout in µs. DESIGN CHOICE: notes/assumptions/30.md. -/
def barLeft (l : List (Option Nat)) : Nat := ((l.findSome? fun x => x).getD 0 + 999) / 1000

/-- R380: the header's words, with a CRC field of `crc`. DESIGN CHOICE: notes/assumptions/30.md. -/
def headerBytes (c : Core) (x : Launch) (m : Nat) (mem : Member) (reg : Option (Nat × Region)) (a : ImageArgs) (len nent crc : Nat) : List Byte :=
  let r := reg.map fun p => p.2
  let banks := match reg with
    | some p => (c.banksOf p.1).foldl (fun v b => v + 2 ^ b) 0
    | none => 0
  let wr := match r with
    | some y => (match y.wrap with
      | w :: _ => w.slot
      | [] => y.wrapNext) * 2 ^ 32 + y.wrapNext % 2 ^ 32
    | none => 0
  toBytes (len * 2 ^ 32 + 1 * 2 ^ 24 + b2n a.cc * 2 ^ 23 + b2n r.isSome * 2 ^ 22 + bits (x.word 0) 19 18 * 2 ^ 20 + bits (x.word 0) 17 16 * 2 ^ 18
      + b2n x.det * 2 ^ 17 + b2n a.err * 2 ^ 16 + nent % 2 ^ 16) 8
    ++ toBytes (if x.fab then x.image else 0) 8
    ++ toBytes ((r.map Region.pass).getD 0 % 2 ^ 32 * 2 ^ 32 + ((r.bind Region.cur).getD 0) % 2 ^ 16 * 2 ^ 16 + ((r.map fun y => y.blocks.length).getD 0) % 2 ^ 16) 8
    ++ toBytes (banks * 2 ^ 32 + m % 2 ^ 16 * 2 ^ 16 + mem.bank % 256 * 2 ^ 8 + x.tbanks % 256) 8
    ++ toBytes wr 8
    ++ toBytes (match a.lease with
      | some (p, n) => n * 2 ^ 32 + p * 2 ^ 24
      | none => 0) 8
    ++ toBytes (barLeft a.bars % 2 ^ 32 * 2 ^ 32 + crc) 8
    ++ toBytes ((r.map fun y => y.cver.toNat).getD 0) 8

/-- R380, R381: the bytes of an image; `bare` leaves the entries out (spec/23 R405). -/
def imageBytes (c : Core) (x : Launch) (m : Nat) (mem : Member) (reg : Option (Nat × Region)) (a : ImageArgs) (bare : Bool) : List Byte :=
  let entries := match reg with
    | some (rn, r) => if bare then [] else regionEntries c rn r x.edges
    | none => []
  let body := (if a.cc then ccSection c.cc else []) ++ (match reg with
    | some (_, r) => rowsSection c r ++ skipSection r ++ elemsSection c r ++ nodesSection c r
    | none => []) ++ entries.flatten
  let len := 64 + body.length
  let crc := crc32c (headerBytes c x m mem reg a len entries.length 0 ++ body)
  headerBytes c x m mem reg a len entries.length crc ++ body

/-! ### The image area (R379) -/

/-- R379: the image area of a partition. -/
def imageArea : Nat := 4 * 2 ^ 20

/-- The images of a partition, as offset and length. -/
def State.imagesIn (s : State) (p : Nat) : List (Nat × Nat) := (s.images.filter fun x => x.2.part == p).map fun x => (x.2.off, x.2.len)

/-- R379: the first offset at which `n` bytes fit. -/
def firstFit (used : List (Nat × Nat)) (n : Nat) : Option Nat :=
  let cand := 0 :: used.map fun u => u.1 + u.2
  let ok := cand.filter fun o => o + n ≤ imageArea && used.all fun u => u.1 + u.2 ≤ o || o + n ≤ u.1
  ok.foldl (fun m o => match m with
    | some x => some (min x o)
    | none => some o) none

/-- R379, R411: where an image of `n` bytes may stand: nowhere while the fatal dump holds the area. DESIGN CHOICE: notes/assumptions/26.md. -/
def State.imageFit (s : State) (p n : Nat) : Option Nat := if s.dumpHeld then none else firstFit (s.imagesIn p) n

/-- Where the image area of a partition lies. DESIGN CHOICE: notes/assumptions/30.md. -/
def imageLoc (p off : Nat) : Nat := dumpLoc (p * imageArea + off)

/-- R379: an image is freed. -/
def State.freeImage (s : State) (i : Nat) : State := { s with images := s.images.del i }

/-! ### What an image carries -/

/-- Entries of a map with their keys changed, where the function gives a new one. -/
def rekey {α : Type} (m : SMap α) (f : Nat → Option Nat) : SMap α := m.filterMap fun p => (f p.1).map fun k => (k, p.2)

/-- Entries put into a map, with their keys changed. -/
def SMap.merge {α : Type} (m n : SMap α) (f : Nat → Nat) : SMap α := n.foldl (fun m p => m.set (f p.1) p.2) m

/-- The map without the keys of a kind. -/
def SMap.without {α : Type} (m : SMap α) (f : Nat → Bool) : SMap α := m.filter fun p => !f p.1

/-- The number of an element within a region. -/
def Region.relElem (r : Region) (e : Nat) : Nat := r.rowOf e * 16 + r.colOf e
def Region.absElem (r : Region) (x : Nat) : Nat := r.elemAt (x / 16) (x % 16)

/-- R172, R382: keys of `n` per element. -/
def Region.relKey (r : Region) (n x : Nat) : Option Nat := if r.holds (x / n) then some (r.relElem (x / n) * n + x % n) else none
def Region.absKey (r : Region) (n x : Nat) : Nat := r.absElem (x / n) * n + x % n

/-- A node lies in a region. -/
def Region.holdsNode (r : Region) (n : Nat) : Bool := r.holds (n / 2 * 16 + n % 2 * 8)
def Region.relNode (r : Region) (n : Nat) : Option Nat := if r.holdsNode n then some ((n / 2 - r.row0) * 2 + (if r.wide then n % 2 else 0)) else none
def Region.absNode (r : Region) (x : Nat) : Nat := (r.row0 + x / 2) * 2 + (if r.wide then x % 2 else r.half)

/-- Something of the strings of a region, by row and half; it is given the string and the layer. -/
def Core.stringsOf {α : Type} (c : Core) (r : Region) (f : Str → Nat → α) : SMap α :=
  (upFrom 0 r.height).flatMap fun i => (r.nodesOf i).map fun n =>
    (i * 2 + (if r.wide then n % 2 else 0), f (c.str (2 * ((r.row0 + i) / 4) + n % 2)) ((r.row0 + i) % 4))

/-- The image of a region of a core, as the state that it carries. -/
def Core.capture (c : Core) (rn : Nat) (r : Region) (i : Image) : Image :=
  { i with
    region := some { r with cards := [] }
    elems := rekey c.elems fun e => if r.holds e then some (r.relElem e) else none
    links := rekey c.links (r.relKey 8), klinks := rekey c.klinks (r.relKey 4), plinks := rekey c.plinks (r.relKey 4)
    rbus := rekey c.rbus r.relNode, cbus := rekey c.cbus fun b => if b / 16 = rn then some (b % 16) else none
    nodes := rekey c.nodes r.relNode, react := c.stringsOf r fun x i => x.react.getD i 0, levels := c.stringsOf r fun x _ => x.level, banks := c.banksOf rn }

/-- R377: the region's latches, elements, buses and nodes hold nothing. -/
def Core.wipe (c : Core) (rn : Nat) (r : Region) : Core :=
  { c with
    elems := c.elems.without r.holds, links := c.links.without fun x => r.holds (x / 8), klinks := c.klinks.without fun x => r.holds (x / 4)
    plinks := c.plinks.without fun x => r.holds (x / 4), rbus := c.rbus.without r.holdsNode, cbus := c.cbus.without fun b => b / 16 == rn
    nodes := c.nodes.without r.holdsNode }

/-! ### Inboxes (spec/17 R332) -/

/-- R332: a member's inbox comes to its core; that of the control core's member is served first. DESIGN CHOICE: notes/assumptions/38.md. -/
def Core.addInbox (c : Core) (box : Option Inbox) (ctrl : Bool) : Core :=
  match box with
  | none => c
  | some b =>
    if ctrl then { c with inbox := some b, others := c.inbox.toList ++ c.others }
    else if c.inbox.isNone then { c with inbox := some b } else { c with others := c.others ++ [b] }

/-- The inbox of launch `l` leaves its core. DEDUCED: notes/assumptions/38.md. -/
def Core.dropInbox (c : Core) (l : Nat) : Core :=
  let r := (c.inbox.toList ++ c.others).filter fun b => b.launch != l
  { c with inbox := r.head?, others := r.drop 1 }

/-- The inbox of launch `l` on its core. DEDUCED: notes/assumptions/38.md. -/
def Core.inboxFor (c : Core) (l : Nat) : Option Inbox := (c.inbox.toList ++ c.others).find? fun b => b.launch == l

/-! ### Requests and the wave (R377, R378, R392) -/

/-- R392: of two reasons for a freeze, the greater prevails. -/
def Why.rank : Why → Nat
  | .preempt => 0
  | .drain .. => 1
  | .abort _ => 2
  | .kill => 3
  | .reset => 4
  | .dump => 5

/-- R392: a freeze that is requested while another is in progress. -/
def FreezeStage.join (f : FreezeStage) (w : Why) : FreezeStage :=
  let more (v : Why) : Why := if v.rank < w.rank then w else v
  match f with
  | .none => .requested w
  | .requested v => .requested (more v)
  | .halting v => .halting (more v)

/-- R377: a freeze of a region is requested: nothing fires from here on, and the wave passes. -/
def State.requestFreeze (s : State) (k rn : Nat) (w : Why) : State :=
  match s.region? k rn with
  | none => s
  | some r =>
    let s := s.modRegion k rn fun r => { r with freeze := r.freeze.join w, frozen := true }
    if r.freeze == .none then { s with todo := s.todo ++ [.ev (.freezeWave k rn)] } else s

/-- R378: read-ahead not yet sent is discarded; it is read again from its first position. An access that its banks have served in part, and a value that
is written in part, begin again. DEDUCED: notes/assumptions/36.md. -/
def Stream.rewind (x : Stream) : Stream :=
  let back (x : Stream) : Stream := if x.part.isEmpty then x else { x with pos := x.partPos, done := false, part := [] }
  let y := { x with held := [] }
  if stClass x.words != 0 then y
  else if stDir x.words then back y
  else match x.ahead with
    | a :: _ => { y with pos := a.pos, done := false, ahead := [], part := [] }
    | [] => back y

/-- R123, R406: the DSTOPs that wait for a stop of a region read status 1. DEDUCED: notes/assumptions/56.md. -/
def State.endStops (s : State) (k rn : Nat) : State :=
  match s.region? k rn with
  | none => s
  | some r => r.stopToks.foldl (fun (s : State) t => s.writeToken k t.1 t.2 1 none) (s.modRegion k rn fun r => { r with stopReqs := [], stopToks := [] })

/-! ### Scan runs (spec/22 R395, R396) -/

/-- R393: the fabric is reinitialised, for 4 µs, after a run, or after a core reset (R438). DEDUCED: notes/assumptions/29.md. -/
def State.reinitialise (s : State) (k : Nat) (run : Bool := true) : State :=
  (s.modCore k fun c => { c with scan := none, reinit := some (s.cycle + usCycles 4), reran := run }).after (usCycles 4) (.ev (.reinitialisationEnd k))

/-- R124: the token of a scan run. -/
def scanToken (status us sig : Nat) : Nat := us % 2 ^ 24 * 2 ^ 40 + status % 256 * 2 ^ 32 + sig % 2 ^ 32

/-- R395, R396: a scan run is aborted; `tell` says that its token is written. A run that completes in this cycle completes.
DEDUCED: notes/assumptions/29.md. -/
def State.abortScan (s : State) (k : Nat) (tell : Bool) : State :=
  match (s.core k).scan with
  | none => s
  | some x =>
    if x.finish ≤ s.cycle then s
    else
      let s := if tell then s.writeToken k x.tok x.dst (scanToken 1 ((s.cycle - x.start) / 1000) 0) none else s
      s.reinitialise k

/-- R378: the control core's part of a freeze for pre-emption or gang abort: its commands end with ST 4, its GBAR is withdrawn. -/
def State.freezeCc (s : State) (k : Nat) : State :=
  ((s.core k).cmds.foldl (fun (s : State) m => s.endCmd k m.id 4) (s.abortScan k true)).withdraw k

/-- FREEZE_WAVE (R377, R378, R406): the wave reaches a region, or, as region 8, the control core. -/
def execFreezeWave (k rn : Nat) (s : State) : Out3 :=
  .next (if rn = 8 then s.freezeCc k
    else match s.region? k rn with
      | none => s
      | some r =>
        match r.freeze with
        | .requested w =>
          let s := s.endStops k rn
          let s := s.modRegion k rn fun r => { r with freeze := .halting w, stopped := false }
          s.modCore k fun c => { c with nodes := c.nodes.map fun p => if r.holdsNode p.1 then (p.1, { s0 := p.2.s0.rewind, s1 := p.2.s1.rewind }) else p }
        | _ => s)

/-! ### The halt (R377) -/

/-- R377: every fired instruction has written back, IDLE apart; rows have ended their loads and spills; what the banks have accepted is in latches.
A FENCE and an ordered request wait for requests that a frozen node does not serve. -/
def Core.halted (c : Core) (r : Region) : Bool :=
  (r.rows.all fun x => x.st != .loading && x.st != .evicting)
    && (c.elems.all fun p => !r.holds p.1 || p.2.ctxs.all fun q => q.2.regs.flights.all fun f => f.hold || f.fence || f.left.isNone)
    && (c.nodes.all fun p => !r.holdsNode p.1 || [p.2.s0, p.2.s1].all fun x => stClass x.words == 0 || x.ahead.isEmpty)

/-- R415: a link has acknowledged every value of edge `e` of launch `l`. -/
def State.edgeAcked (s : State) (l e : Nat) : Bool :=
  s.groups.all fun g => (g.2.waiting ++ g.2.buffer.map Flit.body).all fun p => let q := payloadEdge p; !(q.1 == l && q.2.1 == e)

/-- R415: every value on a long edge from or to the member has reached its receive queue, its links have acknowledged it, and no fired write of the
source is still to come. -/
def State.edgesQuiet (s : State) (r : Region) : Bool :=
  match s.launches.get? r.launch with
  | some x => ((upFrom 0 x.edges.length).zip x.edges).all fun g =>
      (g.2.src != r.member && g.2.tgt != r.member) || (g.2.onWay = 0 && s.edgeReserved r.launch g.2 = 0 && s.edgeAcked r.launch g.1)
  | none => true

/-- R378, R384: the control core may be saved: nothing of it is in flight, at an engine or at the port. -/
def Core.ccSettled (c : Core) : Bool := c.cc.regs.drained && c.far.isEmpty && c.cmds.isEmpty && (c.cc.wait == .debug || (c.cc.trapping.isNone && !c.cc.halting))

/-- R386: the lease that a launch's partition holds for it, as percent and µs. -/
def State.leaseOf (s : State) (l : Nat) : Option (Nat × Nat) :=
  match s.launches.get? l with
  | none => none
  | some x => (match (s.part x.part).lease with
    | some y => if y.launch = some l then some (y.pct, y.left) else none
    | none => none)

/-! ### Kill (R387) -/

/-- R387: the images of a launch are discarded. -/
def State.dropImages (s : State) (l : Nat) : State :=
  ({ s with images := s.images.filter fun x => x.2.launch != l } : State).modLaunch l fun x =>
    { x with members := x.members.map fun m => { m with image := none } }

/-- R342, R387: the commands of a control core end without their tokens; far atomics go on. -/
def State.dropCmds (s : State) (k : Nat) : State := (s.core k).cmds.foldl (fun (s : State) m => (s.leaveColl k m.id).dropCmd k m.id) s

/-- R387, R396: a control core enters Halted without a trap. -/
def State.haltCore (s : State) (k : Nat) : State :=
  let s := (s.abortScan k false).withdraw k
  (s.dropCmds k).modCc k fun c =>
    if c.run == .off then c else { c with run := .halted, wait := .nothing, halting := false, trapping := none, reports := [], fill := none, fillFault := none }

/-- R387: one member is killed. -/
def State.killMember (s : State) (l m : Nat) (x : Member) (w : Why) : State :=
  let s := match x.region with
    | some rn => if ((s.region? x.core rn).map fun r => r.launch == l && r.member == m).getD false then s.requestFreeze x.core rn w else s
    | none => s
  if (s.cc x.core).member = some (l, m) then s.haltCore x.core else s

/-- R386: the lease in the image of a pre-empted launch is returned. -/
def State.returnShelved (s : State) (l p : Nat) : State :=
  match s.images.findSome? fun i => if i.2.launch = l then i.2.lease else none with
  | some (_, n) => s.postPart p 0x09 2 n
  | none => s

/-- R249: the member whose core makes a launch fail. -/
def State.blame (s : State) (l k : Nat) : State :=
  s.modLaunch l fun x => if x.failing.isNone && x.failLcore.isNone then { x with failLcore := some (s.core k).lcore } else x

/-- R386, R387: a kill of every member of a launch, whose lease is returned; the launch retires failed once its freezes have ended. -/
def State.kill (s : State) (l cause : Nat) (w : Why) : State :=
  match s.launches.get? l with
  | none => s
  | some x =>
    let s := if x.preempted then s.returnShelved l x.part else s
    let s := s.modLaunch l fun x => { x with failing := some (x.failing.getD cause), preempted := false }
    let s := ((upFrom 0 x.members.length).zip x.members).foldl (fun (s : State) p => s.killMember l p.1 p.2 w) s
    if (s.leaseOf l).isSome then s.endLease x.part 2 else s

/-- R370, R387: launch `l` fails with a cause; its images are discarded. -/
def State.failLaunch (s : State) (l cause : Nat) : State := (s.kill l cause .kill).dropImages l

/-! ### The end of a freeze (R377, R379) -/

/-- R377: the rows are Empty, the cards are freed, the bank tokens pass to the free pool. -/
def State.emptyRegion (s : State) (k rn : Nat) : State :=
  match s.region? k rn with
  | none => s
  | some r =>
    let s := (upFrom 0 r.height).foldl (fun (s : State) i => s.layers k r i 1 (s.cycle + 1)) s
    let s := ((s.core k).banksOf rn).foldl (fun (s : State) b => s.moveToken k b none) s
    let s := s.modCore k fun c => c.wipe rn r
    s.modRegion k rn fun r => { r with freeze := .none, frozen := true, rows := r.rows.map fun _ => { since := s.cycle }, ncard := 0, cards := [], due := 0, drainAt := none }

/-- R379: an image of a member is written: its number, or nothing where it does not fit. DESIGN CHOICE: notes/assumptions/26.md. -/
def State.saveImage (s : State) (k l m : Nat) (reg : Option (Nat × Region)) (a : ImageArgs) : State :=
  match s.launches.get? l with
  | none => s
  | some x =>
    let c := s.core k
    let b := imageBytes c x m ((x.members[m]?).getD { core := k }) reg a false
    match s.imageFit x.part b.length with
    | none => s.modLaunch l fun x => { x with lost := true }
    | some off =>
      let i : Image := { part := x.part, launch := l, member := m, off := off, len := b.length, err := a.err, lease := a.lease, bars := a.bars
                         cc := if a.cc then some c.cc else none, inbox := c.inboxFor l, broken := if a.cc then c.broken else [] }
      let i := match reg with
        | some (rn, r) => c.capture rn r i
        | none => i
      let n := s.nextId
      let s : State := { s with images := s.images.set n i, nextId := n + 1 }
      (s.put (imageLoc x.part off) b).modLaunch l fun x => { x with members := modAt x.members m fun y => { y with image := some n } }

/-- R386: the lease goes into member 0's image; the partition no longer holds it. -/
def State.shelveLease (s : State) (l m : Nat) : State :=
  match s.launches.get? l, s.leaseOf l with
  | some x, some (_, n) =>
    if m = 0 then (({ s with suspended := s.suspended.filter (· != x.part) } : State).modPart x.part fun y => { y with lease := none }).postPart x.part 0x06 0 n
    else s
  | _, _ => s

/-- R384, R391: once the last member of a victim has its image, PREEMPT is posted. -/
def State.preempted (s : State) (l : Nat) : State :=
  match s.launches.get? l with
  | none => s
  | some x =>
    if x.preempted && x.members.all fun m => m.image.isSome then
      s.post { part := x.part, type := 0x2B, arg0 := x.queue % 16 * 2 ^ 24 + x.prio * 2 ^ 40
               arg1 := (((x.members[0]?).bind Member.image).bind fun i => s.images.get? i).map Image.off |>.getD 0 }
    else s

/-- R380: what the image of a member takes from outside its region. -/
def State.imageArgs (s : State) (l m : Nat) (x : Launch) (cc err : Bool) : ImageArgs :=
  { cc := cc, err := err, lease := if m = 0 then s.leaseOf l else none, bars := x.barClocks s.cycle }

/-- R378: the clocks of a launch go on: its barriers' timeouts and its lease. -/
def State.startClocks (s : State) (l : Nat) : State :=
  let s := s.modLaunch l fun x => { x with bars := x.bars.map fun b => if b.count = 0 then b else match b.rem with
    | some d => { b with due := some (s.cycle + d), rem := none }
    | none => b }
  match s.launches.get? l, s.leaseOf l with
  | some x, some _ => s.modPart x.part fun y => { y with lease := y.lease.map fun z => { z with frozen := false } }
  | _, _ => s

/-- R374, R378: every stopped stream of a region tries again at once. -/
def State.retryAll (s : State) (k : Nat) (r : Region) : State :=
  let l := (s.core k).nodes.flatMap fun p => if r.holdsNode p.1 then
      (if p.2.s0.stopped then [Turn.ev (.streamRetry k p.1 0)] else []) ++ (if p.2.s1.stopped then [Turn.ev (.streamRetry k p.1 1)] else []) else []
  { s with todo := l ++ s.todo }

/-- R379: a pre-emption that would not fit is not performed: the member goes on where it stands. DESIGN CHOICE: notes/assumptions/26.md. -/
def State.thaw (s : State) (k l m : Nat) (reg : Option (Nat × Region)) : State :=
  let s := match reg with
    | some (rn, r) => (s.modRegion k rn fun r => { r with freeze := .none, frozen := !r.reloading.isEmpty }).retryAll k r
    | none => s
  let s := s.modLaunch l fun x => { x with members := modAt x.members m fun y => { y with frozen := false } }
  let s := s.modLaunch l fun x => { x with preempted := x.members.any fun y => y.frozen }
  if ((s.launches.get? l).map fun x => x.preempted).getD false then s else s.startClocks l

/-- R377, R384, R398: the whole of a pre-empted member is saved; its core holds neither its region nor its control core any longer, and its region's
bank tokens pass to the control core. A control core that is Off is not saved. -/
def State.savePreempted (s : State) (k l m : Nat) (reg : Option (Nat × Region)) : State :=
  match s.launches.get? l with
  | none => s
  | some x =>
    let cc := x.ctrl && (s.cc k).member == some (l, m) && (s.cc k).run != .off
    let a := s.imageArgs l m x cc false
    if (s.imageFit x.part (imageBytes (s.core k) x m ((x.members[m]?).getD { core := k }) reg a false).length).isNone then s.thaw k l m reg
    else
      let s := (s.saveImage k l m reg a).shelveLease l m
      let s := match reg with
        | some (rn, r) =>
          let s := ((s.core k).banksOf rn).foldl (fun (s : State) b => s.moveToken k b (some 8)) s
          let s := (upFrom 0 r.height).foldl (fun (s : State) i => s.layers k r i 1 (s.cycle + 1)) s
          s.modCore k fun c => { c.wipe rn r with regions := c.regions.del rn }
        | none => s
      let s := s.modCore k fun c => c.dropInbox l
      let s := if cc then s.modCore k fun c =>
          { c with broken := []
                   cc := { c.cc with run := .idle, wait := .nothing, regs := {}, reports := [], member := none, fill := none, fillFault := none } } else s
      (s.modLaunch l fun x => { x with members := modAt x.members m fun y => { y with frozen := true, region := none } }).preempted l

/-- R373, R376: the column, half and row of the oldest unresolved fault, from the bits [16:3] of its record; SLOT and STRM are 0 in the record of a drain. -/
def drainPlace (place : Nat) : Nat := bits place 9 6 * 2 ^ 6 + bits place 4 0

/-- FREEZE_END (R377, R379, R384, R388, R392): the region, or as region 8 the member without a region, has come to its halt and is read out. -/
def execFreezeEnd (k rn : Nat) (s : State) : Out3 :=
  .next (if rn = 8 then
      match (s.cc k).member with
      | some (l, m) => (match s.launches.get? l with
        | some x => if x.preempted && !x.fab && ((x.members[m]?).map Member.frozen).getD false && (s.core k).ccSettled then s.savePreempted k l m none else s
        | none => s)
      | none => s
    else match s.region? k rn with
      | none => s
      | some r =>
        match r.freeze, s.launches.get? r.launch with
        | .halting w, some x =>
          if !((s.core k).halted r && s.edgesQuiet r) then s
          else match w with
            | .preempt => if x.ctrl && !(s.core k).ccSettled then s else s.savePreempted k r.launch r.member (some (rn, r))
            | .drain cause place pick =>
              let s := s.saveImage k r.launch r.member (some (rn, r)) (s.imageArgs r.launch r.member x false false)
              let s := (s.regionFault k rn cause (faultArg 0 cause 4 0 0 0 0 0 rn + drainPlace place * 2 ^ 3) pick).emptyRegion k rn
              (s.blame r.launch k).kill r.launch cause .kill
            | .abort err => (s.saveImage k r.launch r.member (some (rn, r)) (s.imageArgs r.launch r.member x false err)).emptyRegion k rn
            | .dump => s
            | _ => s.emptyRegion k rn
        | _, _ => s)

end Sys2Proof.Machine
end

