-- ==== Sys2Proof/Machine/LaunchEv.lean ====
section
/-! DEFINITION. Steps of launches: RECORD_CHECK, MEMBER_PLACEMENT, STAGING_FILL, MEMBER_START, LAUNCH_COMPLETION, and the choice of victims of a
pre-emption (spec/12 R237 to R249; spec/21 R384). -/
namespace Sys2Proof.Machine

/-! ### The checks of a record (R245) -/

/-- R172, R245: the banks that a record may ask for: with a region, 8 for each 8 × 4 of its area. DEDUCED: notes/assumptions/28.md. -/
def bankCap (w : List Word64) : Nat :=
  let f (hi lo : Nat) := bits (stW w 0) hi lo
  if f 20 20 = 0 then 32 else min 32 (8 * (f 19 18 + 1) * 2 ^ f 17 16)

/-- R245, check 1: the format, reserved bits and limits of a record. DEDUCED: notes/assumptions/28.md. -/
def recFormat (w : List Word64) : Bool :=
  let f (i hi lo : Nat) := bits (stW w i) hi lo
  f 0 63 56 == 1 && f 0 43 43 == 0 && f 0 39 32 == 0 && f 0 15 3 == 0 && f 6 31 24 == 0 && f 7 63 56 == 0 && f 8 63 48 == 0 && f 8 39 32 == 0
    && [9, 10].all (fun i => f i 62 60 == 0 && f i 55 32 == 0) && [13, 14, 15].all (fun i => stW w i == 0)
    && f 0 19 18 ≤ 1 && f 0 17 16 ≤ 2 && 1 ≤ f 6 63 56 && f 6 63 56 ≤ bankCap w && f 0 21 20 != 0 && f 3 31 0 % 8 == 0

/-- The core whose loader serves a partition's queues. DESIGN CHOICE: notes/assumptions/51.md. -/
def State.loader (s : State) (p : Nat) : Nat := (s.part p).cores.headD 0

/-- R245, check 4: the header and block table of an image. DEDUCED: notes/assumptions/28.md. -/
def State.checkImage (s : State) (p : Nat) (x : Launch) : Except Nat (Option ImageHdr × List Block) × State :=
  match s.readImage (s.loader p) p x.image 64 with
  | (.error e, s) => (.error e.1, s)
  | (.ok b, s) =>
    if !hdrOk b (bits (x.word 0) 55 48) then (.error 0x381, s)
    else
      let h : ImageHdr := { ncard := hdrNcard b, nblk := hdrNblk b, draft := hdrKind b == 1, cardOff := fieldAt b 8 8, crcOff := fieldAt b 16 8
                            blkOff := fieldAt b 24 8 }
      match s.readImage (s.loader p) p (x.image + h.blkOff) (16 * h.nblk) with
      | (.error e, s) => (.error e.1, s)
      | (.ok v, s) =>
        if (upFrom 0 h.nblk).all fun i => blkOk (fieldAt v (16 * i) 8) then (.ok (some h, blocksOf v h.nblk), s) else (.error 0x381, s)

/-- R245: the checks of a record in order: the cause of the first that fails, or the image's header and blocks. -/
def State.checkRecord (s : State) (p : Nat) (r : QRec) : Except Nat (Option ImageHdr × List Block) × State :=
  let x : Launch := { part := p, queue := 0, words := r.words }
  if !recFormat r.words then (.error 0x385, s)
  else if x.rights &&& (s.part p).rights &&& r.rights != x.rights then (.error 0x386, s)
  else if !x.fab then (.ok (none, []), s)
  else if bits (x.word 0) 55 48 != 1 then (.error 0x381, s)
  else s.checkImage p x

/-- A queue changed. -/
def State.modQueue (s : State) (p q : Nat) (f : Queue → Queue) : State := s.modPart p fun x => { x with queues := x.queues.set q (f (x.queues.getD q {})) }

/-- R249: ARG0 of a record about a queue. -/
def queueArg (done : BitVec 32) (q low : Nat) : Nat := done.toNat * 2 ^ 32 + q % 16 * 2 ^ 24 + low

/-- R245: the head record is refused: its queue stops. -/
def State.refuseRecord (s : State) (p q cause : Nat) : State :=
  let x := s.queue p q
  let s := match x.launch with
    | some l => { s with launches := s.launches.del l }
    | none => s
  (s.modQueue p q fun y => { y with st := .stopped, cause := cause, checked := false, launch := none }).post
    { part := p, type := 0x22, arg0 := queueArg x.done q cause, arg1 := ((x.recs.head?).map fun r => stW r.words 12).getD 0 }

/-- R240: the dependences of a record are met. -/
def State.depsMet (s : State) (p : Nat) (w : List Word64) : Bool :=
  [9, 10].all fun i => !bit (stW w i) 63 || depMet (s.queue p (bits (stW w i) 59 56)).done (bits (stW w i) 31 0)

/-- RECORD_CHECK (R245, R240): a record that has become head is checked; with its dependences met it enters Placing. -/
def execRecordCheck (p q : Nat) (s : State) : Out3 :=
  .next (
    let x := s.queue p q
    match x.st, x.recs with
    | .waiting, r :: _ =>
      if x.checked then (if s.depsMet p r.words then s.modQueue p q fun y => { y with st := .placing } else s)
      else
        match s.checkRecord p r with
        | (.error c, s) => s.refuseRecord p q c
        | (.ok (h, bs), s) =>
          let l := s.nextId + 1
          let y : Launch := { part := p, queue := q, words := r.words, hdr := h, blocks := bs }
          ({ s with nextId := l, launches := s.launches.set l y } : State).modQueue p q fun z => { z with checked := true, launch := some l }
    | _, _ => s)

/-! ### The loader's checks (R243) -/

/-- Two byte ranges, given by start and length, overlap. -/
def overlap (a n b m : Nat) : Bool := n != 0 && m != 0 && a < b + m && b < a + n

/-- R243: the spill area and the entry queues within an allocation of `alloc` bytes; `need` is what R169 requires and `queues` the bytes of the
queues. DEDUCED: notes/assumptions/28.md. -/
def layoutOk (x : Launch) (need queues : Nat) : Bool :=
  let alloc := x.tbanks * 2 ^ 17
  x.spilloff + x.spilllen ≤ alloc && !overlap x.spilloff x.spilllen 0 256 && need ≤ x.spilllen
    && (queues = 0 || x.qoff + queues ≤ alloc) && !overlap x.qoff queues 0 256 && !overlap x.qoff queues x.spilloff x.spilllen

/-- R238: the launch capability table is read once. No rule refuses a record for it, so no entry of a table that cannot be read passes
(notes/assumptions/32.md). -/
def State.readTable (s : State) (p : Nat) (x : Launch) : List (BitVec 128) × State :=
  match s.fetch (dieOf (s.loader p)) (s.loader p) p 2 (x.captab % 2 ^ 64) needR 256 with
  | (.error _, s) => (List.replicate 16 0, s)
  | (.ok b, s) => ((upFrom 0 16).map fun i => BitVec.ofNat 128 (fieldAt b (16 * i) 16), s)

/-- R174: the picks of an image as they are loaded: a draft is placed first. DESIGN CHOICE: notes/assumptions/9.md. -/
def State.placedPicks (s : State) (p : Nat) (x : Launch) (h : ImageHdr) : Except Nat (Option Placed) × State :=
  if h.draft then s.placeDraft (s.loader p) p x.image h.cardOff x.wide 0 {} x.blocks else (.ok (some { blocks := x.blocks }), s)

/-- R243: the checks of the image: for a draft its placement, its picks, spill area, queues and stage list; the launch with what they give.
DESIGN CHOICE: notes/assumptions/9.md. -/
def State.loadImage (s : State) (p : Nat) (x : Launch) (h : ImageHdr) : Except Nat Launch × State :=
  let k := s.loader p
  match s.placedPicks p x h with
  | (.error e, s) => (.error e, s)
  | (.ok none, s) => (.error 0x381, s)
  | (.ok (some pl), s) =>
    match s.readBlocks k p x.image x.wide pl.picks 0 pl.blocks with
    | (.error e, s) => (.error e, s)
    | (.ok (bs, sz), s) =>
      let slots := layoutSlots 0 sz
      let qs := layoutQueues x.qoff bs
      if !layoutOk x (slots.2 + 16 * ringNeeds bs) (qs.2 - x.qoff) then (.error 0x381, s)
      else match s.readStage k p (x.image + stageOff h bs.length) (x.tbanks * 2 ^ 17) with
        | (.error e, s) => (.error e, s)
        | (.ok none, s) => (.error 0x381, s)
        | (.ok (some st), s) => (.ok { x with blocks := qs.1, slots := slots.1, stage := st, placed := pl.picks, cols := pl.cols }, s)

/-- R238, R243: what the loader reads when it places the first member. DEDUCED: notes/assumptions/28.md. -/
def State.loadLaunch (s : State) (p : Nat) (x : Launch) : Except Nat Launch × State :=
  let (t, s) := s.readTable p x
  match (if x.fab then x.hdr else none) with
  | some h => s.loadImage p { x with table := t } h
  | none => (if layoutOk x 0 0 then .ok { x with table := t } else .error 0x381, s)

/-! ### Placing a member (R238, R247 steps 1 and 2) -/

/-- R238: an entry of the launch capability table passes for a member whose allocation starts at bank `b`. -/
def State.tableOk (s : State) (x : Launch) (b : Nat) (c : Cap) : Bool :=
  c.sound && (match c.space with
    | 1 => b * 2 ^ 17 ≤ c.base && c.base + c.len ≤ (b + x.tbanks) * 2 ^ 17
    | 5 => bits c.base 29 22 < (s.part x.part).cores.length && !(s.part x.part).removed.contains (bits c.base 29 22) && c.base % 2 ^ 22 + c.len ≤ 0x400000
    | 8 => x.direct && c.base + c.len ≤ 2 ^ 41
    | _ => true)

/-- R238: the capability table is written into an allocation. DEDUCED: notes/assumptions/32.md. -/
def State.writeTable (s : State) (x : Launch) (k b : Nat) : State :=
  ((upFrom 0 16).zip x.table).foldl (fun (s : State) p =>
    let c : Cap := { raw := p.2, tag := true }
    s.storeCap (tileLoc k (b * 2 ^ 17 + 16 * p.1)) (if s.tableOk x b c then c else {})) s

/-- R247, step 2: instruction-cache entries of a code segment are discarded. -/
def ControlCore.dropCode (c : ControlCore) (x : Launch) (root : Nat) : ControlCore :=
  { c with icache := c.icache.filter fun l => !(l.root == root && l.va < x.code + x.codelen && x.code < l.va + 128) }

/-- The region of a member as placement makes it. -/
def regionFor (x : Launch) (l m : Nat) (t : Spot) : Region :=
  let base := t.bank * 2 ^ 17
  { launch := l, member := m, row0 := t.row0, height := x.height, half := t.half, wide := x.wide, image := x.image, ncard := (x.hdr.map ImageHdr.ncard).getD 0
    blocks := x.blocks.map fun b => { b with qbase := base + b.qbase }, rows := List.replicate x.height {}
    spillBase := base + x.spilloff, wrapBase := base + x.spilloff + (x.slots.foldl (fun v q => max v (q.2.2.1 + alignUp q.2.2.2 64)) 0)
    wrapRing := ringNeeds x.blocks, det := x.det, nextThread := x.tbase }

/-- R247, step 2: card-store entries of an image are discarded, in every region that holds some. DEDUCED: notes/assumptions/19.md. -/
def dropCards (image : Nat) (rs : SMap Region) : SMap Region := rs.map fun r => if r.2.image = image then (r.1, { r.2 with cards := [] }) else r

/-- R180, R241, R247: a member is placed: its banks, table and region, whose reactive terms are 0. DEDUCED: notes/assumptions/19.md. -/
def State.placeMember (s : State) (l : Nat) (x : Launch) (t : Spot) : State :=
  let m := x.members.length
  let s := s.writeTable x t.core t.bank
  let root := (s.part x.part).root2
  let s := s.modCore t.core fun c =>
    { c with
      bankOwner := (upFrom t.bank x.tbanks).foldl (fun o b => o.set b l) c.bankOwner
      regions := if x.fab then (dropCards x.image c.regions).set t.reg (regionFor x l m t) else c.regions
      cc := if x.ctrl then { c.cc.dropCode x root with member := some (l, m) } else c.cc }
  let s := if x.fab then (upFrom 0 x.height).foldl (fun (s : State) i => s.calm t.core (shapeAt x t.row0 t.half) i) s else s
  s.modLaunch l fun x => { x with members := x.members ++
    [{ core := t.core, region := if x.fab then some t.reg else none, bank := t.bank, placed := true, staged := s.nextId }] }

/-- R241, R242: the members still to place, `n` of them, placed one after another; nothing where one finds no core. `lvl` as in `State.spotAt`. -/
def State.placeRest (s : State) (lvl l : Nat) : Nat → Option State
  | 0 => some s
  | n + 1 =>
    match s.launches.get? l with
    | none => none
    | some x => (match s.spot x lvl with
      | some t => State.placeRest (s.placeMember l x t) lvl l n
      | none => none)

/-- R242: with COSCHED = 0 members are placed as long as one finds a core, at most `n`. -/
def State.placeMany (s : State) (l : Nat) : Nat → State
  | 0 => s
  | n + 1 =>
    match s.placeRest 0 l 1 with
    | some t => State.placeMany t l n
    | none => s

/-! ### Long edges (spec/24 R412) -/

/-- R412: entry 14 declares a long-edge table. -/
def Cap.edgeTable (c : Cap) : Bool :=
  c.valid && c.space == 1 && c.rd && c.len % 16 == 0 && 16 ≤ c.len && c.len ≤ 256

/-- R412: the words of entry `i`: its edge, or nothing where a check fails. -/
def edgeOf (x : Launch) (m i w0 w1 : Nat) : Option (Option LEdge) :=
  if w1 != 0 then none
  else if !bit w0 63 then (if w0 = 0 then some none else none)
  else
    let g : LEdge := { idx := i, src := m, tgt := bits w0 55 48, blk := bits w0 47 32, spick := bits w0 31 24, tpick := bits w0 23 16, scol := bits w0 15 12
                       tcol := bits w0 11 8, sq := bits w0 7 6, tq := bits w0 5 4 }
    let n := ((x.blocks[g.blk]?).map Block.npick).getD 0
    if bits w0 62 56 != 0 || bits w0 3 0 != 0 || g.tgt = m || x.gang ≤ g.tgt || x.blocks.length ≤ g.blk || n ≤ g.spick || n ≤ g.tpick
        || pickCols x.wide ≤ g.scol || pickCols x.wide ≤ g.tcol then none
    else some (some g)

/-- R172, R174: the columns of a draft's edge as the device has placed them. DESIGN CHOICE: notes/assumptions/9.md. -/
def placedEdge (x : Launch) (g : LEdge) : LEdge :=
  let at_ (pick col : Nat) : Nat := ((x.cols.get? (g.blk * 256 + pick)).bind fun m => m[col]?).getD col
  { g with scol := at_ g.spick g.scol, tcol := at_ g.tpick g.tcol }

/-- R255, R412: the long-edge table of a member has an uncorrectable unit. DESIGN CHOICE: notes/assumptions/33.md. -/
def State.edgeLost (s : State) (x : Launch) (y : Member) : Bool :=
  let c := s.loadCap (tileLoc y.core (y.bank * 2 ^ 17 + 16 * 14))
  c.edgeTable && x.cosched && x.fab && (s.unreadable (tileLoc y.core c.base) c.len).isSome

/-- R412: the entries of one member's table. DEDUCED: notes/assumptions/28.md. -/
def State.edgesOf (s : State) (x : Launch) (m : Nat) (y : Member) : Option (List LEdge) :=
  let c := s.loadCap (tileLoc y.core (y.bank * 2 ^ 17 + 16 * 14))
  if !c.edgeTable then some []
  else if !x.cosched || !x.fab || s.edgeLost x y then none
  else
    let es := (upFrom 0 (c.len / 16)).map fun i =>
      edgeOf x m i (s.load (tileLoc y.core (c.base + 16 * i)) 8) (s.load (tileLoc y.core (c.base + 16 * i + 8)) 8)
    if es.all Option.isSome then some (es.filterMap fun e => e.join) else none

/-- No element of a list equals another. -/
def allDistinct {α : Type} [BEq α] : List α → Bool
  | [] => true
  | x :: r => !r.contains x && allDistinct r

/-- R255, R412: the report in `s` of an uncorrectable unit in a member's long-edge table, as the placed members of `t` read it.
DESIGN CHOICE: notes/assumptions/33.md. -/
def State.edgeCheck (t s : State) (x : Launch) (y : Member) : State :=
  let c := t.loadCap (tileLoc y.core (y.bank * 2 ^ 17 + 16 * 14))
  if t.edgeLost x y then s.unitCheck y.core (tileLoc y.core c.base) c.len false else s

/-- R412: the edges of the members that are placed; nothing where the record is to be refused. -/
def State.gangEdges (s : State) (x : Launch) : Option (List LEdge) :=
  let es := ((upFrom 0 x.members.length).zip x.members).map fun p => s.edgesOf x p.1 p.2
  if !es.all Option.isSome then none
  else
    let l := (es.filterMap id).flatten
    if allDistinct (l.map fun g => (g.src, g.spick, g.scol, g.sq)) && allDistinct (l.map fun g => (g.tgt, g.tpick, g.tcol, g.tq)) then
      some (l.map (placedEdge x))
    else none

/-! ### MEMBER_PLACEMENT (R241 to R244, R395) -/

/-- R173, R242: a record that could never fit: more members than there are cores that hold one when they are empty. -/
def State.neverFits (s : State) (x : Launch) : Bool :=
  let cores := (s.part x.part).liveCores
  let fit := cores.filter fun k => !x.fab || (({} : Core).freeRegion x (s.badStrings k)).isSome
  fit.length < x.gang || (x.ctrl && x.tbanks < 4)

/-- R395: a record of priority 0 that no other cores suffice for aborts the runs of the scanning cores that it chooses, and waits for their
reinitialisation. DEDUCED: notes/assumptions/29.md. -/
def State.abortScansFor (s : State) (l : Nat) (x : Launch) (n : Nat) : Option State :=
  if x.prio != 0 then none
  else
    match s.placeRest 2 l n with
    | none => none
    | some t =>
      let ks := ((((t.launches.get? l).map Launch.members).getD []).map Member.core).filter fun k => (s.core k).scanning s.cycle
      some ((ks.foldl (fun (s : State) k => s.abortScan k true) s).modLaunch l fun x => { x with aborted := x.aborted ++ ks })

/-- R395, R396: the launch runs for a control core whose fabric is being scanned. DEDUCED: notes/assumptions/29.md. -/
def State.scans (s : State) (l : Nat) (x : Launch) : Bool :=
  x.members.any fun m => (s.core m.core).scan.isSome && (s.cc m.core).member.any fun j => j.1 == l

/-- R384: launches that may be pre-empted for a priority, the first victim first; one that has not started counts as the latest. Only priority 0 aborts a
scan run (R395). DEDUCED: notes/assumptions/27.md. DEDUCED: notes/assumptions/29.md. -/
def State.victims (s : State) (p prio : Nat) : List Nat :=
  let run := s.launches.filter fun y => y.2.part == p && prio < y.2.prio && y.2.failing.isNone && !y.2.preempted
    && (prio == 0 || !s.scans y.1 y.2) && (s.queue p y.2.queue).st == .running && (s.queue p y.2.queue).launch == some y.1
  let at_ (x : Launch) : Nat := x.startedAt.getD (s.cycle + 1)
  (run.foldl (fun (l : List (Nat × Launch)) y =>
    let before := l.filter fun z => y.2.prio < z.2.prio || (z.2.prio = y.2.prio && at_ y.2 ≤ at_ z.2)
    before ++ y :: l.filter fun z => !before.contains z) []).map fun y => y.1

/-- The state as it would stand with a launch's regions and control cores gone, its banks kept (R384), and the scan runs of its control cores aborted
(R396). -/
def State.without (s : State) (l : Nat) : State :=
  match s.launches.get? l with
  | none => s
  | some x => x.members.foldl (fun (s : State) m => s.modCore m.core fun c =>
      { c with
        regions := match m.region with
          | some r => c.regions.del r
          | none => c.regions
        scan := if c.cc.member.any (fun j => j.1 == l) then none else c.scan
        cc := match c.cc.member with
          | some (j, _) => if j = l then { c.cc with run := .idle, member := none } else c.cc
          | none => c.cc }) s

/-- R379, R381: the entries by which what is in flight may still lengthen the image of a member. -/
def State.entryGrowth (s : State) (k : Nat) (x : Launch) (m : Nat) (reg : Option (Nat × Region)) : Nat :=
  match reg with
  | none => 0
  | some (_, r) =>
    let c := s.core k
    (c.elems.filter fun e => r.holds e.1).foldl (fun v e => e.2.ctxs.foldl (fun v q => q.2.regs.flights.foldl (fun v f => v + 1 + 2 * f.outs.length) v) v)
        ((c.nodes.filter fun n => r.holdsNode n.1).foldl (fun v n => v + n.2.s0.ahead.length + n.2.s1.ahead.length)
          ((x.edges.filter fun g => g.tgt == m).foldl (fun v g => v + g.onWay) 0))

/-- R379, R384: the images of a victim fit in what is left of the image area. DESIGN CHOICE: notes/assumptions/26.md. -/
def State.imagesFit (s : State) (l : Nat) (used : List (Nat × Nat)) : Option (List (Nat × Nat)) :=
  match s.launches.get? l with
  | none => none
  | some x =>
    ((upFrom 0 x.members.length).zip x.members).foldl (fun u p => match u with
      | none => none
      | some u =>
        let reg := p.2.region.bind fun rn => (s.region? p.2.core rn).map fun r => (rn, r)
        let n := (imageBytes (s.core p.2.core) x p.1 p.2 reg { cc := x.ctrl, err := false, lease := none, bars := [] } false).length
          + 16 * s.entryGrowth p.2.core x p.1 reg
        (firstFit u n).map fun o => (o, n) :: u) (some used)

/-- R384: the fewest victims, taken in order, whose going lets the record be placed. DEDUCED: notes/assumptions/27.md. -/
def State.chooseVictims (s : State) (l n : Nat) (t : State) (used : List (Nat × Nat)) : List Nat → Option (List Nat)
  | [] => none
  | v :: r =>
    match s.imagesFit v used with
    | none => none
    | some u =>
      let t := t.without v
      if (t.placeRest 2 l n).isSome then some [v] else (State.chooseVictims s l n t u r).map fun w => v :: w

/-- R384: a victim that was chosen for a record is still freezing. DEDUCED: notes/assumptions/27.md. -/
def State.freezing (s : State) (x : Launch) : Bool :=
  x.prey.any fun v => match s.launches.get? v with
    | some y => y.preempted && y.members.any fun m => m.image.isNone && m.frozen
    | none => false

/-- R242, R384, R395: the check of a co-scheduled record waits for its own victims and for the reinitialisations of the runs aborted for it.
DEDUCED: notes/assumptions/27.md. -/
def State.awaits (s : State) (x : Launch) : Bool := x.cosched && (s.freezing x || x.aborted.any fun k => (s.core k).reinit.isSome)

/-- R384: the victims that a launch's remaining members call for. -/
def State.victimsFor (s : State) (l : Nat) (x : Launch) : Option (List Nat) :=
  if s.dumpHeld then none
  else s.chooseVictims l (x.gang - x.members.length) s (s.imagesIn x.part) (s.victims x.part x.prio)

/-- R242: every member has its place: the launch runs in its queue. -/
def State.placedAll (s : State) (p q l : Nat) : State :=
  match s.launches.get? l with
  | some x => if x.gang ≤ x.members.length then s.modQueue p q fun y => { y with st := .running } else s
  | none => s

/-- R242, R384, R395: a record whose next member finds no core: scan runs are aborted for it, victims are pre-empted, or, with COSCHED = 1, it is
refused; its check waits only for its own victims and aborted runs. DEDUCED: notes/assumptions/60.md. -/
def State.noPlace (s : State) (p q l : Nat) (x : Launch) : State :=
  match s.abortScansFor l x (if x.cosched then x.gang - x.members.length else 1) with
  | some t => t
  | none =>
    if s.freezing x then s
    else if (s.victimsFor l x).isSome then { s with todo := .ev (.preemption p q) :: s.todo }
    else if x.cosched then s.refuseRecord p q 0x382
    else s

/-- R241, R242: the members that can be placed now: all of them with COSCHED = 1, as many as find a core otherwise; nothing where none does. -/
def State.placeNow (s : State) (l : Nat) (x : Launch) : Option State :=
  let n := x.gang - x.members.length
  if x.cosched then s.placeRest 0 l n else (s.placeRest 0 l 1).map fun t => t.placeMany l (n - 1)

/-- MEMBER_PLACEMENT (R241 to R244): with COSCHED = 1 every member at once, otherwise every one that finds a core. The loader's checks are made with the
first. -/
def execMemberPlacement (p q : Nat) (s : State) : Out3 :=
  .next (
    let y := s.queue p q
    match y.st, y.launch.bind s.launches.get?, y.launch with
    | .placing, some x, some l =>
      if x.failing.isSome || x.gang ≤ x.members.length || s.awaits x then s
      else if x.members.isEmpty && s.neverFits x then s.refuseRecord p q 0x381
      else
        (match s.placeNow l x with
        | none => s.noPlace p q l x
        | some r =>
          if x.members.isEmpty then
            match s.loadLaunch p x with
            | (.error c, s) => s.refuseRecord p q c
            | (.ok x', s) =>
              (match (s.modLaunch l fun _ => x').placeNow l x' with
              | none => s
              | some t => (match t.launches.get? l with
                | some z => (match t.gangEdges z with
                  | some es => (t.modLaunch l fun z => { z with edges := es }).placedAll p q l
                  | none => (z.members.foldl (fun (s : State) y => t.edgeCheck s z y) s).refuseRecord p q (if z.members.any (t.edgeLost z) then 0x3E0 else 0x381))
                | none => s))
          else r.placedAll p q l)
    | _, _, _ => s)

/-! ### STAGING_FILL (R247 step 3, spec/13 R267) -/

/-- R267: one entry of the stage list. -/
def State.fillEntry (s : State) (k p img bank : Nat) (e : StageEntry) : Except Nat Unit × State :=
  let a := tileLoc k (bank * 2 ^ 17 + e.dst)
  if e.zero then (.ok (), s.put a (zeroBytes e.len))
  else match s.readImage k p (img + e.src) e.len with
    | (.error x, s) => (.error x.1, s)
    | (.ok v, s) => (.ok (), s.put a v)

def State.fillEntries (s : State) (k p img bank : Nat) : List StageEntry → Except Nat Unit × State
  | [] => (.ok (), s)
  | e :: r => (match s.fillEntry k p img bank e with
    | (.ok _, s) => State.fillEntries s k p img bank r
    | x => x)

/-- R267: the banks that the entries of a stage list write, one for each line. -/
def stageBanks (bank : Nat) (l : List StageEntry) : List Nat := l.flatMap fun e => partsOf (bank * 2 ^ 17 + e.dst) e.len

/-- R315: a STAGE command of core `k` reached the loader before the staging step of a member, and has not completed. -/
def State.stageAhead (s : State) (k n : Nat) : Bool := ((s.core k).engine 2).any fun m => m.fin.isNone && m.id < n

/-- STAGING_FILL (R247 step 3, R267, R315): in the loader's order, once the banks are free; a fault fails the launch before any start token.
DESIGN CHOICE: notes/assumptions/11.md. -/
def execStagingFill (l m : Nat) (s : State) : Out3 :=
  .next (match s.launches.get? l with
    | none => s
    | some x =>
      match x.members[m]? with
      | none => s
      | some y =>
        if !y.placed || y.filled || x.failing.isSome || s.stageAhead y.core y.staged || (stageBanks y.bank x.stage).any (fun b => s.bankBusy y.core b) then s
        else match (s.useBanks y.core (stageBanks y.bank x.stage)).fillEntries y.core x.part x.image y.bank x.stage with
          | (.error c, s) => (s.blame l y.core).failLaunch l c
          | (.ok _, s) => s.modLaunch l fun x => { x with members := modAt x.members m fun y => { y with filled := true } })

/-! ### MEMBER_START (R247 step 4, spec/01 R29, spec/13 R268, spec/17 R332) -/

/-- R17: $COREID of a core. -/
def State.coreId (s : State) (k p : Nat) : Word64 :=
  BitVec.ofNat 64 (p % 64 * 2 ^ 18 + (s.core k).lcore % 256 * 2 ^ 8 + ((s.part p).cores.length - 1) % 256)

/-- R247: the start argument. -/
def startArg (x : Launch) (m : Nat) : Nat := x.word 11 * 2 ^ 64 + x.gang * 2 ^ 32 + m % 2 ^ 16

/-- R29: the bank at a core start. -/
def startBank (arg : Nat) : BitVec 512 := BitVec.ofNat 512 (0xFFFFFFF8 * 2 ^ 480 + 0x00080000 * 2 ^ 448 + arg)

/-- R247: $CODECAP of a launch. -/
def Launch.codecap (x : Launch) : Cap :=
  let c := mkCap x.code x.codelen (pXI + pRD) 2
  { c with tag := c.sound }

/-- R247: $TILECAP of a member. -/
def Launch.tilecap (x : Launch) (bank : Nat) : Cap := mkCap (bank * 2 ^ 17) (x.tbanks * 2 ^ 17) (pRD + pWR + pAT + pCL + pCS) 1

/-- R29: a core start. The physical core's cache stays; `halt` says whether debug halt is enabled (R408). -/
def ControlCore.start (c : ControlCore) (x : Launch) (l m bank now : Nat) (id : Word64) (root : Nat) (halt : Bool) : ControlCore :=
  { run := .running, regs := { bank := startBank (startArg x m) }, pc := BitVec.ofNat 32 x.entry, coreid := id, codecap := x.codecap, tilecap := x.tilecap bank
    nextIssue := now, icache := (c.dropCode x root).icache, member := some (l, m), debugHalt := halt }

/-- R332: the inbox that entry 15 of a member's table declares. -/
def inboxOf (l : Nat) (c : Cap) : Option Inbox :=
  if c.valid && c.space == 1 && c.rd && c.wr && 128 ≤ c.len && c.len ≤ 65536 && popCount c.len 40 == 1 then
    some { launch := l, base := c.base, size := c.len / 64 } else none

/-- R247, R186: the first member's start: its cycle, and the lease that the record asks for. -/
def State.firstStart (s : State) (l : Nat) (x : Launch) : State :=
  if x.startedAt.isSome then s
  else
    let s := s.modLaunch l fun x => { x with startedAt := some s.cycle }
    if x.lpct = 0 then s else (s.askLease x.part (leaseDur x.ldur) (leasePct x.lpct) (some l)).2

/-- MEMBER_START (R247 step 4): the control core starts, the member has its inbox (R332), the start token is issued and the initial records become due.
DESIGN CHOICE: notes/assumptions/24.md. DEDUCED: notes/assumptions/38.md. -/
def execMemberStart (l m : Nat) (s : State) : Out3 :=
  .next (match s.launches.get? l with
    | none => s
    | some x =>
      match x.members[m]? with
      | none => s
      | some y =>
        if !y.placed || !y.filled || y.started || y.frozen || x.failing.isSome then s
        else
          let k := y.core
          let h := y.region.getD 8
          let s := (upFrom y.bank x.tbanks).foldl (fun (s : State) b => s.moveToken k b (some (if x.fab then h else 8))) s
          let id := s.coreId k x.part
          let root := (s.part x.part).root2
          let (n, s) := s.draw
          let ctrl := x.ctrl && (s.cc k).run != .off
          let e15 := tileLoc k (y.bank * 2 ^ 17 + 16 * 15)
          let box := if (s.unreadable e15 16).isSome then none else inboxOf l (s.loadCap e15)
          let s := (s.modCore k fun c => c.addInbox box x.ctrl).modCore k fun c => { c with
            cc := if ctrl then c.cc.start x l m y.bank s.cycle id root (x.debug && Config.debugHalt n) else c.cc
            broken := if ctrl then [] else c.broken
            regions := match y.region with
              | some rn => c.regions.mod rn fun r => { r with started := true, due := x.nthr }
              | none => c.regions }
          ((s.modLaunch l fun x => { x with members := modAt x.members m fun y => { y with started := true } }).unitCheck k e15 16 ctrl).firstStart l x)

/-! ### LAUNCH_COMPLETION (R248) -/

/-- R248, R398: the control core of a member has ended. -/
def State.ccEnded (s : State) (l m : Nat) (y : Member) : Bool :=
  let c := s.cc y.core
  c.run == .off || c.member != some (l, m) || c.run == .halted

/-- R248: every member has started and the launch is complete. -/
def State.complete (s : State) (l : Nat) (x : Launch) : Bool :=
  x.gang ≤ x.members.length && (x.members.all fun y => y.started)
    && (!x.ctrl || ((upFrom 0 x.members.length).zip x.members).all fun p => s.ccEnded l p.1 p.2)
    && (!x.fab || x.gang * x.nthr ≤ x.ended)

/-- R387, R388: the freezes of a launch that fails have ended, and its control cores, for which a gang abort waits until its time limit.
DEDUCED: notes/assumptions/61.md. -/
def State.settled (s : State) (l : Nat) (x : Launch) : Bool :=
  (((upFrom 0 x.members.length).zip x.members).all fun p => match p.2.region.bind fun rn => s.region? p.2.core rn with
      | some r => !(r.launch == l && r.member == p.1) || (r.frozen && r.freeze == .none)
      | none => true)
    && (match x.abort with
      | some (_, _, t) => t ≤ s.cycle || ((upFrom 0 x.members.length).zip x.members).all fun p => s.ccEnded l p.1 p.2
      | none => true)

/-- R333: a message to the full ring of a core that has no MRECV in flight, where the member that it goes to has ended: no slot frees.
DEDUCED: notes/assumptions/60.md. -/
def State.stuckMessage (s : State) (k l : Nat) (m : Cmd) : Bool :=
  match s.targetCore k (m.P 0) with
  | none => false
  | some t => (match (s.core t).inbox with
    | some b => b.launch == l && b.size ≤ b.slots.length && !((s.core t).engine 3).any fun x => x.op == 0xE7 && x.fin.isNone
    | none => false)

/-- R248: a command that still has bytes to write: a copy, gather, scatter or staging; a collective that does not wait for members; a stream FIFO with a
segment to write out; a message on its way; an MRECV with a message to take. DEDUCED: notes/assumptions/60.md. -/
def State.storing (s : State) (k l : Nat) (m : Cmd) : Bool :=
  m.fin.isNone && (m.op == 0xE0 || m.op == 0xE2 || m.op == 0xE3 || m.op == 0xE4 || (m.op == 0xE5 && m.sub != 1)
    || (m.op == 0xE1 && fifoOut (m.P 3) && m.segs.contains 3) || (m.op == 0xE6 && !s.stuckMessage k l m)
    || (m.op == 0xE7 && ((s.core k).inbox.map fun b => !b.slots.isEmpty).getD false))

/-- R263: the requests of a stream write tile memory. -/
def Stream.stores (x : Stream) : Bool := stEn x.words && (stClass x.words == 2 || stDir x.words)

/-- R130, R248: a store of a region is still to be performed: its instruction has not written back, or it stands in the queue of its stream.
DEDUCED: notes/assumptions/60.md. -/
def Core.storesLeft (c : Core) (r : Region) : Bool :=
  (c.elems.any fun p => r.holds p.1 && p.2.flightOuts.any fun o => match o with
    | .request _ i _ _ _ _ => (((c.nodes.getD (nodeOf p.1) {}).stream i).stores)
    | _ => false)
  || c.nodes.any fun p => r.holdsNode p.1 && [p.2.s0, p.2.s1].any fun x => x.stores && !x.queue.isEmpty

/-- R248, step 5: no region of the launch that is not frozen has a store left. DEDUCED: notes/assumptions/60.md. -/
def State.regionsStored (s : State) (l : Nat) (x : Launch) : Bool :=
  ((upFrom 0 x.members.length).zip x.members).all fun p => match p.2.region.bind fun rn => s.region? p.2.core rn with
    | some r => !(r.launch == l && r.member == p.1) || r.frozen || !(s.core p.2.core).storesLeft r
    | none => true

/-- R248, step 5; R357, R387: the far atomics of the members, the stores of their commands and those of their regions are performed. Commands without stores
go on in Halted (R113). DEDUCED: notes/assumptions/60.md. -/
def State.storesDone (s : State) (l : Nat) (x : Launch) : Bool :=
  (x.members.all fun y => (s.cc y.core).member.all (fun j => j.1 != l)
    || ((s.core y.core).far.isEmpty && ((s.core y.core).cmds.all fun m => !s.storing y.core l m) && s.parked.all fun a => a.core != y.core))
  && s.regionsStored l x

/-- R248: a launch is complete: nothing more fires or loads in its regions, and their stores are still performed. DEDUCED: notes/assumptions/60.md. -/
def State.endRegions (s : State) (l : Nat) (x : Launch) : State :=
  ((upFrom 0 x.members.length).zip x.members).foldl (fun (s : State) p => match p.2.region with
    | some rn => s.modRegion p.2.core rn fun r => if r.launch == l && r.member == p.1 then { r with ended := true } else r
    | none => s) s

/-- R248, steps 1 and 3: one member's region, banks and control core are released. -/
def State.releaseMember (s : State) (l m : Nat) (x : Launch) (y : Member) : State :=
  let k := y.core
  let s := match y.region with
    | some rn => (match s.region? k rn with
      | some r =>
        if r.launch == l && r.member == m then
          let s := s.endStops k rn
          let s := (upFrom 0 r.height).foldl (fun (s : State) i => s.layers k r i 1 (s.cycle + 1)) s
          s.modCore k fun c => { c.wipe rn r with regions := c.regions.del rn }
        else s
      | none => s)
    | none => s
  let s := (upFrom y.bank x.tbanks).foldl (fun (s : State) b => s.moveToken k b none) s
  let s := if (s.cc k).member = some (l, m) then (s.withdraw k).modCore k fun c =>
      { c with broken := [], cc := { c.cc with member := none, reports := [], run := if c.cc.run == .off then .off else .halted, wait := .nothing } }
    else s
  s.modCore k fun c => { c.dropInbox l with bankOwner := c.bankOwner.filter fun b => b.2 != l }

/-- R397: the quarantine of every core that a maintenance launch has scanned ends with it. -/
def State.endQuarantine (s : State) (l : Nat) : State :=
  { s with cores := s.cores.map fun p => (p.1, if p.2.quarantine = some l then { p.2 with quarantine := none } else p.2) }

/-- R248, step 4: the flag summary. -/
def State.flagSummary (s : State) (l : Nat) (x : Launch) : Nat :=
  ((upFrom 0 x.members.length).zip x.members).foldl (fun v p =>
    let c := s.cc p.2.core
    if x.ctrl && c.member == some (l, p.1) && c.run == .halted then v ||| (c.regs.fflags.toNat % 32) else v) (x.flags % 32)

/-- R240, R246, R248, step 6; R435: DONE advances, E2 is set in every control core of the partition, and the vector is raised. -/
def State.advanceDone (s : State) (p q : Nat) : State :=
  let s := s.modQueue p q fun y =>
    { y with done := y.done + 1, recs := y.recs.drop 1, st := if y.recs.length ≤ 1 then .empty else .waiting, checked := false, launch := none, cause := 0 }
  (s.latchAll p 2).interrupt p (q + 1)

/-- R248, R249: a launch retires. Collectives that wait for members keep their timeouts (R113, R331). DEDUCED: notes/assumptions/60.md. -/
def State.retire (s : State) (p q l : Nat) (x : Launch) : State :=
  let fl := s.flagSummary l x
  let s := (((upFrom 0 x.members.length).zip x.members).foldl (fun (s : State) y => s.releaseMember l y.1 x y.2) s).endQuarantine l
  let s := if (s.leaseOf l).isSome then s.endLease p 0 else s
  let s : State := { s with images := s.images.filter fun i => i.2.launch != l, launches := s.launches.del l }
  let s := s.advanceDone p q
  let d := (s.queue p q).done
  match x.failing with
  | some c => s.post { part := p, type := 0x21, die := ((x.failLcore.bind fun j => (s.part p).cores[j]?).map dieOf).getD 0, lcore := x.failLcore, arg0 := queueArg d q (c % 1024), arg1 := x.evtag }
  | none => s.post { part := p, type := 0x20, arg0 := queueArg d q fl, arg1 := x.evtag }

/-- R388: the time limit of a gang abort has passed: the control cores that still run enter Halted. -/
def State.abortExpired (s : State) (l : Nat) (x : Launch) : State :=
  match x.abort with
  | some (_, _, t) => if t ≤ s.cycle then ((upFrom 0 x.members.length).zip x.members).foldl (fun (s : State) p =>
      if (s.cc p.2.core).member = some (l, p.1) && (s.cc p.2.core).run != .halted then s.haltCore p.2.core else s) s else s
  | none => s

/-- R398: CORE_REMOVED of a partition is posted before a LAUNCH_DONE: a launch does not retire in the cycle of one. -/
def State.removing (s : State) (p : Nat) : Bool := s.posts.any fun r => r.type == 0x23 && r.part == p

/-- LAUNCH_COMPLETION (R248): a launch that is complete, or that has failed and settled, retires. DEDUCED: notes/assumptions/60.md. -/
def execLaunchCompletion (p q : Nat) (s : State) : Out3 :=
  .next (
    let y := s.queue p q
    match y.launch.bind s.launches.get?, y.launch with
    | some x, some l =>
      if !(y.st == .running || y.st == .placing) || s.removing p then s
      else
        let s := s.abortExpired l x
        let ended := if x.failing.isSome then s.settled l x else y.st == .running && !x.preempted && s.complete l x
        if !ended then s
        else
          let s := s.endRegions l x
          if s.storesDone l x then s.retire p q l x else s
    | _, _ => s)

end Sys2Proof.Machine
end

