-- ==== Sys2Proof/Machine/FaultEv.lean ====
section
/-! DEFINITION. Steps of faults, pre-emption and errors: DRAIN, PREEMPTION, RESTORE, GANG_ABORT, UNCORRECTABLE_ERROR, FATAL_DUMP (spec/21 R376,
R382 to R392; spec/23 R411). -/
namespace Sys2Proof.Machine

/-! ### DRAIN (R376) -/

/-- R376, R392: a write that may resolve a fault of the region has been served in this cycle; its retry comes in the next. -/
def State.resolving (s : State) (k : Nat) (r : Region) : Bool :=
  (r.unresolved.all fun f => f.1 < 32) && r.unresolved.any fun f => s.retryDue k r (s.stream k f.1 f.2.1)

/-- DRAIN (R376): the time limit of a region's oldest unresolved fault has passed, or its wrap buffer has overflowed. -/
def execDrain (k rn : Nat) (s : State) : Out3 :=
  .next (match s.region? k rn with
    | none => s
    | some r =>
      match r.drainAt, r.unresolved with
      | some t, (_, _, cause, place, pick) :: _ =>
        if s.cycle < t || (t = s.cycle && s.resolving k r) then s
        else (s.requestFreeze k rn (.drain cause place pick)).modRegion k rn fun r => { r with drainAt := none }
      | _, _ => s)

/-! ### PREEMPTION (R384) -/

/-- R378, R386: the barrier clocks of a launch that freezes, and the clock of its lease, stop. -/
def State.stopClocks (s : State) (l : Nat) : State :=
  let s := s.modLaunch l fun x => { x with bars := x.bars.map fun b => match b.due with
    | some d => { b with due := none, rem := some (d - s.cycle) }
    | none => b }
  match s.launches.get? l, s.leaseOf l with
  | some x, some _ => s.modPart x.part fun y => { y with lease := y.lease.map fun z => { z with frozen := true } }
  | _, _ => s

/-- R384: one member of a victim is to freeze. -/
def State.preemptMember (s : State) (l m : Nat) (x : Launch) (y : Member) : State :=
  let s := s.modLaunch l fun x => { x with members := modAt x.members m fun y => { y with frozen := true } }
  let s := match y.region with
    | some rn => s.requestFreeze y.core rn .preempt
    | none => s
  if x.ctrl then { s with todo := s.todo ++ [.ev (.freezeWave y.core 8)] } else s

/-- R384: a victim is frozen whole. -/
def State.preemptLaunch (s : State) (l : Nat) : State :=
  match s.launches.get? l with
  | none => s
  | some x =>
    let s := (s.stopClocks l).modLaunch l fun x => { x with preempted := true }
    ((upFrom 0 x.members.length).zip x.members).foldl (fun (s : State) p => s.preemptMember l p.1 x p.2) s

/-- PREEMPTION (R384): running launches of lower priority give up regions, cards and control cores for the record of a queue.
DEDUCED: notes/assumptions/27.md. -/
def execPreemption (p q : Nat) (s : State) : Out3 :=
  .next (
    let y := s.queue p q
    match y.st, y.launch.bind s.launches.get?, y.launch with
    | .placing, some x, some l =>
      if s.freezing x || (s.placeNow l x).isSome then s
      else match s.victimsFor l x with
        | some vs =>
          let ks := vs.flatMap fun v => ((s.launches.get? v).map fun y => (y.members.map Member.core).filter fun k => (s.core k).scanning s.cycle).getD []
          vs.foldl State.preemptLaunch (s.modLaunch l fun x => { x with preempting := true, prey := x.prey ++ vs, aborted := x.aborted ++ ks })
        | none => s
    | _, _, _ => s)

/-! ### RESTORE (R382, R383, R385, R386) -/

/-- R383, R385: where a member can resume: its own core, or another where its banks are free. -/
def State.restoreSpot (s : State) (x : Launch) (m : Nat) (y : Member) : Option Spot :=
  (s.part x.part).liveCores.findSome? fun k =>
    if s.reserved x.part x.prio k || ((upFrom 0 x.members.length).zip x.members).any (fun p => p.1 != m && p.2.core == k && p.2.image.isNone) then none
    else if k = y.core then s.spotAt x k 0 (some y.bank)
    else s.spotAt x k 0 (if (s.core k).banksFreeAt y.bank x.tbanks then some y.bank else none)

/-- R383: the allocation of a member, banks `bank` to `bank + n − 1`, moves to another core, bank for bank, with every unit's tag. The
source banks are free from the next cycle on (R241). -/
def State.moveBanks (s : State) (l src dst bank n : Nat) : State :=
  let a := tileLoc src (bank * 2 ^ 17)
  let b := tileLoc dst (bank * 2 ^ 17)
  let len := n * 2 ^ 17
  let cells := (s.mem.filter fun c => a ≤ c.1 && c.1 < a + len).map fun c => (c.1 - a + b, c.2)
  let here := s.mem.filter fun c => !(b ≤ c.1 && c.1 < b + len)
  let units (l : List Nat) := (l.filter fun u => !(b / 16 ≤ u && u < (b + len) / 16)) ++ (l.filter fun u => a / 16 ≤ u && u < (a + len) / 16).map fun u => u - a / 16 + b / 16
  let s : State := { s with mem := cells.foldl (fun m c => memWrite m c.1 c.2) here, tags := (units s.tags).foldl insertNum [], bad := units s.bad }
  let s := s.after 1 (.freeBanks src l bank n)
  let s := s.modCore dst fun c => { c with bankOwner := (upFrom bank n).foldl (fun o i => o.set i l) c.bankOwner }
  let s := (upFrom bank n).foldl (fun (s : State) i => s.moveToken src i none) s
  (upFrom bank n).foldl (fun (s : State) i => s.moveToken dst i (some 8)) s

/-- R381, R382: the strings of a restored region take its reactive terms and throttle levels. DEDUCED: notes/assumptions/27.md. -/
def State.putStrings (s : State) (k : Nat) (i : Image) (r : Region) : State :=
  let at_ (p : Nat) : Nat := 2 * ((r.row0 + p / 2) / 4) + (if r.wide then p % 2 else r.half)
  s.modCore k fun c => { c with
    strings := i.levels.foldl (fun m p => m.set (at_ p.1) { m.getD (at_ p.1) {} with level := p.2, base := p.2 })
      (i.react.foldl (fun m p =>
        m.set (at_ p.1) { m.getD (at_ p.1) {} with react := setAt (m.getD (at_ p.1) {}).react ((r.row0 + p.1 / 2) % 4) p.2 }) c.strings) }

/-- R241, R383: the banks that a member has moved from are free. DEDUCED: notes/assumptions/27.md. -/
def State.freeMoved (s : State) (k l b n : Nat) : State :=
  s.modCore k fun c => { c with bankOwner := c.bankOwner.filter fun o => !(o.2 == l && b ≤ o.1 && o.1 < b + n) }

/-- R382, step 1: a row's pick is reloaded; `none` where it fails. -/
def State.reloadRow (s : State) (k rn : Nat) (x : Launch) (row : Nat) : Option State :=
  match s.region? k rn, x.hdr with
  | some r, some h =>
    let y := r.row row
    if y.st == .empty then some s
    else
      match r.cur.bind fun b => r.blocks[b]? with
      | none => none
      | some blk =>
        let place : PickPlace :=
          { last := y.pick + 1 == blk.npick, ent := if y.pick = 0 then some (blk.entcol * 8 + blk.entch) else none
            prev := (s.core k).boundNext r y.pick false, prevK := (s.core k).boundNext r y.pick true }
        match s.loadPick k rn x.part r.image (blk.pickoff + y.pick * pickLen r.wide) x.stageEnd h r.wide place
            (x.placed.get? (r.cur.getD 0 * 256 + y.pick)) with
        | (.error _, _) => none
        | (.ok (b, cards), s) =>
          let s := (s.configureRow k r row b cards).layers k r row (pkDiv b) (s.cycle + 1)
          some (s.modRow k rn row fun z => { z with restored := true })
  | _, _ => none

def State.reloadRows (s : State) (k rn : Nat) (x : Launch) : List Nat → Option State
  | [] => some s
  | i :: r => (s.reloadRow k rn x i).bind fun t => State.reloadRows t k rn x r

/-- R164, R400: a pick that a restore loads again is in its row, one of a core in a cycle; after the last, firing resumes (R382, step 4), and stopped streams
retry (R374). DEDUCED: notes/assumptions/27.md. -/
def State.reloaded (s : State) (k rn row : Nat) : State :=
  let s := (s.pickLoaded k rn row).modRegion k rn fun r => { r with reloading := r.reloading.drop 1 }
  match s.region? k rn with
  | some r => if r.reloading.isEmpty then (s.modRegion k rn fun r => { r with frozen := false }).retryAll k r else s
  | none => s

/-- R382, R403: an element takes its saved state; a history is never saved. -/
def Elem.resume (x old : Elem) : Elem :=
  { x with ptr := old.ptr, ctxs := old.ctxs.map fun c => (c.1, { c.2 with history := [] }), acc := old.acc, store := old.store }

/-- R381, R382: a context from its 80 bytes of an image, which carry everything of it but its held flights. -/
def Ctx.ofImage (x : Ctx) (b : List Byte) : Ctx :=
  let a := fieldAt b 0 8
  let w := fieldAt b 8 8
  { x with
    rsr := BitVec.ofNat 32 (bits a 31 0), thread := if bit w 0 then some (BitVec.ofNat 32 (bits a 63 32)) else none, eows := bits w 63 48
    regs := { x.regs with
      bank := BitVec.ofNat 512 (fieldAt b 16 64), tags := BitVec.ofNat 4 (bits w 27 24), fflags := BitVec.ofNat 64 (bits w 20 16)
      preds := BitVec.ofNat 8 ((upFrom 0 4).foldl (fun v i => v + b2n (bit w (8 + 2 * i)) * 2 ^ i) 0)
      flights := x.regs.flights.map fun f => if f.hold then { f with left := some (bits w 47 35) } else f } }

/-- R381: the down-conversion store from its 104 bytes, in the form of `storeSection`. DESIGN CHOICE: notes/assumptions/30.md. -/
def DownStore.ofImage (b : List Byte) : DownStore :=
  let f : LFmt := if fieldAt b 0 4 = 0 then .l6 else if fieldAt b 0 4 = 1 then .l8 else .l12
  { fmt := f, codes := (upFrom 0 64).map fun i => fieldAt b 8 96 / 2 ^ (f.width * i) % 2 ^ f.width, e := sext (fieldAt b 4 4) 32 }

/-- R221, R381, R382: an element that is used, from the bytes of its section of an image. -/
def Elem.ofImage (x : Elem) (m : Bool) (b : List Byte) : Elem :=
  let y := { x with
    ptr := bits (fieldAt b 0 8) 9 8
    ctxs := (upFrom 0 4).foldl (fun t c => t.set c ((x.ctx c).ofImage ((b.drop (8 + 80 * c)).take 80))) x.ctxs }
  if m then { y with acc := Acc.ofImage ((b.drop 328).take 400), store := DownStore.ofImage ((b.drop 728).take 104) } else y

/-- R381: the sections of the used elements among those of an element section, by number within the region. -/
def elemSections : List (Nat × Bool) → List Byte → SMap (Bool × List Byte)
  | [], _ => []
  | (e, m) :: r, b =>
    if !bit (fieldAt b 0 8) 0 then elemSections r (b.drop 8)
    else
      let n := 328 + (if m then 504 else 0)
      (elemSections r (b.drop n)).set e (m, b.take n)

/-- R379, R381: the bytes of an image from its rows section on, as they stand in the image area. -/
def State.imageRows (s : State) (i : Image) : List Byte :=
  (memBytes s.mem (imageLoc i.part i.off) i.len).drop (64 + (if i.cc.isSome then 128 else 0))

/-- R221, R381, R382: the elements of an image, with what its bytes carry of them. DESIGN CHOICE: notes/assumptions/30.md. -/
def State.imageElems (s : State) (i : Image) (r : Region) : SMap Elem :=
  let b := elemSections (r.places.map fun p => (r.relElem (r.elemAt p.1 p.2), !isV (r.elemAt p.1 p.2)))
    ((s.imageRows i).drop (16 * r.height + alignUp r.blocks.length 8))
  i.elems.map fun p => match b.get? p.1 with
    | some v => (p.1, p.2.ofImage v.1 v.2)
    | none => p

/-- R381, R382: the blocks of a region with the skip counts of its image, which saturate at 255. DESIGN CHOICE: notes/assumptions/30.md. -/
def State.imageBlocks (s : State) (i : Image) (r : Region) : List Block :=
  r.blocks.zipWith (fun x v => { x with skip := v.toNat }) (((s.imageRows i).drop (16 * r.height)).take r.blocks.length)

/-- R382: a stream takes its saved state; requests name the elements of the new region. One whose capability's unit is bad at its reload is stopped.
DEDUCED: notes/assumptions/20.md. -/
def Stream.resume (x old : Stream) (f : Nat → Nat) : Stream :=
  let y := { old with words := x.words, cap := x.cap, ahead := [], part := [], queue := old.queue.map fun q => { q with elem := f q.elem } }
  if x.stopped && !old.stopped then { y with stopped := true, cause := x.cause, faultPos := old.pos, faultUnit := x.faultUnit } else y

/-- R382, steps 2 to 4: the saved state of a region is written into the new one. DEDUCED: notes/assumptions/27.md.
DESIGN CHOICE: notes/assumptions/30.md. -/
def State.putRegion (s : State) (k rn : Nat) (i : Image) (old r : Region) : State :=
  let f (e : Nat) : Nat := r.absElem (old.relElem e)
  let s := s.modCore k fun c => { c with
    elems := (s.imageElems i old).foldl (fun m p => m.set (r.absElem p.1) ((m.getD (r.absElem p.1) {}).resume p.2)) c.elems
    links := c.links.merge i.links (r.absKey 8), klinks := c.klinks.merge i.klinks (r.absKey 4), plinks := c.plinks.merge i.plinks (r.absKey 4)
    rbus := c.rbus.merge (i.rbus.map fun p => (p.1, { p.2 with taken := p.2.taken.map f, node := r.absNode p.1 })) r.absNode
    cbus := c.cbus.merge (i.cbus.map fun p => (p.1, { p.2 with taken := p.2.taken.map f, node := r.absNode ((old.relNode p.2.node).getD 0) })) fun b => rn * 16 + b
    nodes := i.nodes.foldl (fun m p =>
      let y := m.getD (r.absNode p.1) {}
      m.set (r.absNode p.1) { s0 := y.s0.resume p.2.s0 f, s1 := y.s1.resume p.2.s1 f }) c.nodes }
  i.banks.foldl (fun (s : State) b => s.moveToken k b (some rn)) s

/-- R383: the control core of a member resumes on a core; a WFE whose time has passed ends in the next cycle. DEDUCED: notes/assumptions/27.md. -/
def State.resumeCc (s : State) (k l m : Nat) (x : Launch) (c : ControlCore) (broken : List (Nat × Nat × Nat)) : State :=
  let w := match c.wait with
    | .event a d (some u) => WaitFor.event a d (some (max u (s.cycle + 1)))
    | v => v
  let id := s.coreId k x.part
  let s := s.modCore k fun y => { y with
    broken := broken
    cc := { c with wait := w, icache := (y.cc.dropCode x (s.part x.part).root2).icache, fill := none, fillFault := none, member := some (l, m), coreid := id
                   nextIssue := max c.nextIssue (s.cycle + 1) } }
  match w with
  | .event _ _ (some u) => s.after (u - s.cycle) (.ev (.wfeTimeout k))
  | _ => s

/-- R386: the lease of a launch resumes with member 0. DEDUCED: notes/assumptions/27.md. -/
def State.resumeLease (s : State) (l p : Nat) (lease : Option (Nat × Nat)) : State :=
  match lease with
  | none => s
  | some (pct, n) =>
    if (s.part p).lease.isNone && s.leaseFits p pct then
      (s.modPart p fun x => { x with lease := some { pct := pct, left := n, launch := some l, boost := s.boost p pct } }).postPart p 0x07 0 n
    else s.postPart p 0x09 3 n

/-- R381, R382: the reserved bits of a control-core section are 0. -/
def ccSectionOk (b : List Byte) : Bool :=
  fieldAt b 70 1 < 16 && fieldAt b 71 1 < 16 && fieldAt b 72 1 ≤ 2 && zeroAt b 73 23
    && (let c := fieldAt b 104 8; bits c 34 17 == 0 && bits c 15 12 == 0 && !bit c 10) && bits (fieldAt b 120 8) 63 5 == 0

/-- R381, R382: the reserved bits of the rows are 0. -/
def rowsSectionOk (b : List Byte) (h : Nat) : Bool :=
  (upFrom 0 h).all fun i => bits (fieldAt b (16 * i) 8) 7 3 == 0 && bits (fieldAt b (16 * i) 8) 63 51 == 0 && zeroAt b (16 * i + 8) 8

/-- R221, R381, R382: the reserved bits of an element that is used are 0. -/
def usedElemOk (b : List Byte) (m : Bool) : Bool :=
  ((upFrom 0 4).all fun c => let w := fieldAt b (80 * c + 8) 8; bits w 34 28 == 0 && bits w 23 21 == 0 && bits w 7 1 == 0)
    && (!m || (accOf (b.drop 320)).isSome)

/-- R381, R382: the elements, of which `m` lists which are M-elements; what follows them, or nothing where a reserved bit is not 0. -/
def takeElems : List Bool → List Byte → Option (List Byte)
  | [], b => some b
  | m :: r, b =>
    let w := fieldAt b 0 8
    if w / 2 % 2 ^ 7 != 0 || w / 2 ^ 10 != 0 then none
    else if !bit w 0 then takeElems r (b.drop 8)
    else if usedElemOk (b.drop 8) m then takeElems r (b.drop (8 + 320 + (if m then 504 else 0))) else none

/-- R381, R382: the reserved bits of at most `n` entries are 0. -/
def entriesOk : Nat → List Byte → Bool
  | 0, _ => true
  | n + 1, b =>
    let w := fieldAt b 8 8
    let k := bits w 6 4
    b.isEmpty || (!bit w 18 && bits w 63 39 == 0 && entriesOk n (b.drop (if k = 3 then 48 else if k = 4 then 32 else 16)))

/-- R381, R382: the reserved bits of the region's sections are 0. -/
def regionSectionsOk (b : List Byte) (r : Region) : Bool :=
  let skip := alignUp r.blocks.length 8
  let nodes := r.height * (if r.wide then 2 else 1) * 2
  rowsSectionOk b r.height && zeroAt b (16 * r.height + r.blocks.length) (skip - r.blocks.length)
    && (match takeElems (r.places.map fun p => !isV (r.elemAt p.1 p.2)) (b.drop (16 * r.height + skip)) with
      | none => false
      | some v => ((upFrom 0 nodes).all fun i => bits (fieldAt v (16 * i) 8) 63 47 == 0 && zeroAt v (16 * i + 8) 8)
          && entriesOk (v.length / 16) (v.drop (16 * nodes)))

/-- R382: the header of an image: its version, its CRC, ERR and its reserved bits. -/
def imageHeaderOk (b : List Byte) : Bool :=
  let w := fieldAt b 0 8
  bits w 31 24 == 1 && !bit w 16 && bits (fieldAt b 40 8) 23 0 == 0 && zeroAt b 60 4 && crc32c (blankAt b 48 4) == fieldAt b 48 4

/-- R382: the bytes of an image, as they stand in the image area, may be restored. DESIGN CHOICE: notes/assumptions/30.md. -/
def State.imageOk (s : State) (i : Image) : Bool :=
  let b := memBytes s.mem (imageLoc i.part i.off) i.len
  imageHeaderOk b && (i.cc.isNone || ccSectionOk (b.drop 64))
    && (match i.region with
      | some r => regionSectionsOk (b.drop (64 + (if i.cc.isSome then 128 else 0))) r
      | none => true)

/-- R373, R382: an unresolved fault of a region `old` that continues as `r`: its node, and the half of its record, are those of the new place. -/
def movedFault (old r : Region) (f : Nat × Nat × Nat × Nat × Nat) : Nat × Nat × Nat × Nat × Nat :=
  let place := if r.wide then f.2.2.2.1 else f.2.2.2.1 - bits f.2.2.2.1 4 4 * 2 ^ 4 + r.half % 2 * 2 ^ 4
  (if f.1 < 32 then r.absNode ((old.relNode f.1).getD 0) else f.1, f.2.1, f.2.2.1, place, f.2.2.2.2)

/-- R382, R383: a member resumes at a place. `none` where its image is refused. DEDUCED: notes/assumptions/27.md. -/
def State.restoreMember (s : State) (l m : Nat) (x : Launch) (y : Member) (n : Nat) (i : Image) (t : Spot) : Option State :=
  let s := if t.core = y.core then s else s.moveBanks l y.core t.core y.bank x.tbanks
  let r? : Option State := if i.err || !s.imageOk i then none else match i.region with
    | none => some s
    | some old =>
      let unresolved := old.unresolved.map fun f => movedFault old { old with row0 := t.row0, half := t.half } f
      let r : Region := { old with
        row0 := t.row0, half := t.half, freeze := .none, frozen := true, stopped := false, unresolved := unresolved
        reloading := (upFrom 0 old.height).filter fun i => (old.row i).st != .empty
        rows := old.rows.map fun z => { z with since := s.cycle }, blocks := s.imageBlocks i old
        drainAt := if unresolved.isEmpty then none else some (s.cycle + usCycles (s.part x.part).drain) }
      let s := s.modCore t.core fun c => { c with regions := c.regions.set t.reg r }
      ((s.putStrings t.core i r).reloadRows t.core t.reg x (upFrom 0 r.height)).map fun s =>
        (s.putRegion t.core t.reg i old r).modRegion t.core t.reg fun r => { r with frozen := !r.reloading.isEmpty }
  match r? with
  | none => none
  | some s =>
    let s := match i.cc with
      | some c => s.resumeCc t.core l m x c i.broken
      | none => s
    let s := s.modCore t.core fun c => c.addInbox i.inbox x.ctrl
    let s := if m = 0 then s.resumeLease l x.part i.lease else s
    let reg := if i.region.isSome then t.reg else 0
    let s := s.post { part := x.part, type := 0x2C, die := dieOf t.core, lcore := some (s.core t.core).lcore, arg0 := reg % 8 + m % 256 * 2 ^ 8, arg1 := i.off }
    let s := (s.freeImage n).modLaunch l fun x => { x with members := modAt x.members m fun y =>
      { y with core := t.core, region := if i.region.isSome then some t.reg else none, frozen := false, image := none } }
    let s := s.modLaunch l fun x => { x with preempted := x.members.any fun y => y.frozen }
    some (if ((s.launches.get? l).map Launch.preempted).getD false then s else s.startClocks l)

/-- R385: the members of a launch that resume together. -/
def State.restoreAll (s : State) (l : Nat) : List Nat → Option State
  | [] => some s
  | m :: r =>
    match s.launches.get? l with
    | none => none
    | some x =>
      match x.members[m]?, ((x.members[m]?).bind Member.image).bind s.images.get?, (x.members[m]?).bind Member.image with
      | some y, some i, some n => (match s.restoreSpot x m y with
        | some t => (s.restoreMember l m x y n i t).bind fun s => State.restoreAll s l r
        | none => none)
      | _, _, _ => none

/-- R385: each of some members has a place, one after another. DEDUCED: notes/assumptions/27.md. -/
def State.restoreRoom (s : State) (l : Nat) : List Nat → Bool
  | [] => true
  | m :: r =>
    match s.launches.get? l with
    | none => false
    | some x =>
      match x.members[m]? with
      | none => false
      | some y => (match s.restoreSpot x m y with
        | some t =>
          let reg : Region := { shapeAt x t.row0 t.half with launch := l, member := m, ncard := (x.hdr.map ImageHdr.ncard).getD 0 }
          State.restoreRoom ((s.modCore t.core fun c => { c with
            regions := if x.fab then c.regions.set t.reg reg else c.regions
            bankOwner := (upFrom t.bank x.tbanks).foldl (fun o b => o.set b l) c.bankOwner
            cc := if x.ctrl then { c.cc with member := some (l, m) } else c.cc }).modLaunch l fun x =>
              { x with members := modAt x.members m fun y => { y with core := t.core, image := none } }) l r
        | none => false)

/-- RESTORE (R382 to R386): a pre-empted member resumes when it can be placed, with COSCHED = 1 every member of its gang at once; a refused restore
fails the launch with PICK_REJECT. DEDUCED: notes/assumptions/27.md. -/
def execRestore (l m : Nat) (s : State) : Out3 :=
  .next (match s.launches.get? l with
    | none => s
    | some x =>
      let ms := if x.cosched then (upFrom 0 x.members.length).filter fun i => ((x.members[i]?).bind Member.image).isSome else [m]
      if !x.preempted || x.failing.isSome || (x.members.any fun y => y.frozen && y.image.isNone) || ((x.members[m]?).bind Member.image).isNone
          || !s.restoreRoom l ms then s
      else match s.restoreAll l ms with
        | some t => t
        | none => (match x.members[m]? with
          | some y => (s.blame l y.core).failLaunch l 0x101
          | none => s))

/-! ### GANG_ABORT (R388) -/

/-- R388, step 3: a control core of the gang takes its report; without a handler it enters Halted. DEDUCED: notes/assumptions/61.md. -/
def State.abortCore (s : State) (k cause lcore : Nat) : State :=
  let s := (s.abortScan k false).freezeCc k
  if causeVec (s.cc k).cause = 0 then
    s.modCc k fun c => if c.run == .off then c else { c with run := .halted, wait := .nothing, halting := false, trapping := none, reports := [] }
  else s.modCc k fun c => c.hold cause (BitVec.ofNat 64 lcore) s.cycle

/-- R388, R392, steps 1 and 3: one member of an aborted gang; a failing member without a region has its image at once.
DEDUCED: notes/assumptions/61.md. -/
def State.abortMember (s : State) (l m : Nat) (x : Launch) (y : Member) (failing cause lcore : Nat) : State :=
  let s := s.modLaunch l fun x => { x with members := modAt x.members m fun y => if y.image.isNone then { y with frozen := false } else y }
  let s := match y.region with
    | some rn => s.requestFreeze y.core rn (.abort (m == failing))
    | none => if m = failing && y.image.isNone then s.saveImage y.core l m none (s.imageArgs l m x false true) else s
  if (s.cc y.core).member = some (l, m) then s.abortCore y.core (if m = failing then cause else 0x383) lcore else s

/-- GANG_ABORT (R388, R392): an error in member `m` ends the whole gang. DEDUCED: notes/assumptions/61.md. -/
def execGangAbort (l m : Nat) (cause : BitVec 10) (s : State) : Out3 :=
  .next (match s.launches.get? l with
    | none => s
    | some x =>
      if x.failing.isSome then s
      else match x.members[m]? with
        | none => s
        | some y =>
          let lc := (s.core y.core).lcore
          let s := ((s.stopClocks l).blame l y.core).modLaunch l fun x =>
            { x with failing := some cause.toNat, preempted := false, abort := some (cause.toNat, m, s.cycle + usCycles (s.part x.part).drain) }
          let s := s.postCore y.core 0x2A (cause.toNat + 2 * 2 ^ 12 + dieOf y.core % 4 * 2 ^ 16) 0
          ((upFrom 0 x.members.length).zip x.members).foldl (fun (s : State) p => s.abortMember l p.1 x p.2 m cause.toNat lc) s)

/-! ### UNCORRECTABLE_ERROR (R389, R390) -/

/-- R390: two words of four 16-bit counters added, each saturating. -/
def addCounts (v w : Nat) : Nat := (upFrom 0 4).foldl (fun n i => n + min 65535 (v / 2 ^ (16 * i) % 2 ^ 16 + w / 2 ^ (16 * i) % 2 ^ 16) * 2 ^ (16 * i)) 0

/-- R390: a saturating counter of a die: 3 TILECE, 2 FABCE, 1 HBMCE, 0 UE. A read in the same cycle leaves the count of this cycle (R6).
DESIGN CHOICE: notes/assumptions/35.md. -/
def State.countError (s : State) (die i : Nat) : State :=
  { s with errcNew := s.errcNew.set die (addCounts (s.errcNew.getD die 0) (2 ^ (16 * i))) }

/-- R6, R390, R421: the counts of the cycle that has ended are in their registers. -/
def State.settleCounts (s : State) : State :=
  { s with
    errc := s.errcNew.foldl (fun m p => m.set p.1 (addCounts (m.getD p.1 0) p.2)) s.errc, errcNew := []
    groups := s.groups.map fun p => (p.1, { p.2 with
      crcerr := BitVec.ofNat 16 (min 65535 (p.2.crcerr.toNat + p.2.crcNew.toNat)), crcNew := 0
      replays := BitVec.ofNat 16 (min 65535 (p.2.replays.toNat + p.2.replaysNew.toNat)), replaysNew := 0 }) }


/-- R389: the gang abort of the launch that holds a region of a core, or, as region 8, its control core. DESIGN CHOICE: notes/assumptions/35.md. -/
def State.abortHolder (s : State) (k rn cause : Nat) : State :=
  let j := if rn = 8 then (s.cc k).member else (s.region? k rn).map fun r => (r.launch, r.member)
  match j with
  | some (l, m) => { s with todo := .ev (.gangAbort l m (BitVec.ofNat 10 cause)) :: s.todo }
  | none => s.mcheck k cause 0 0

/-- R358: a corrected error of an HBM atom: its second within 24 h has it remapped. -/
def State.atomError (s : State) (a : Nat) : State :=
  let k := a / 32 * 32
  let again : Bool := match s.atomErrs.get? k with
    | some t => s.cycle ≤ t + usCycles (86400 * 1000000)
    | none => false
  if again then { s with atomErrs := s.atomErrs.del k, todo := .remap k :: s.todo }
  else { s with atomErrs := s.atomErrs.set k s.cycle }

/-- R306, R389: an uncorrectable error of media at `a`: the units at the locations of `us` are poisoned, and the control core that wrote them hears of it.
DESIGN CHOICE: notes/assumptions/35.md. DEDUCED: notes/assumptions/45.md. -/
def State.mediaError (s : State) (k a : Nat) (us : List Nat) : State :=
  let s := s.countError (dieOf k) 0
  let s : State := { s with bad := us.foldl (fun l u => if l.contains u then l else u :: l) s.bad }
  (s.mcheck k 0x3E0 1 a).modCc k fun c => c.hold 0x3E0 (BitVec.ofNat 64 a) s.cycle

/-- UNCORRECTABLE_ERROR (R255, R389, R390): an error is detected. DESIGN CHOICE: notes/assumptions/15.md. DESIGN CHOICE: notes/assumptions/35.md.
DEDUCED: notes/assumptions/45.md. -/
def execUncorrectableError (e : ErrorSite) (s : State) : Out3 :=
  .next (match e with
    | .corrected die cls => s.countError die (if cls = 0 then 3 else if cls = 1 then 2 else 1)
    | .correctedAtom die a => (s.countError die 1).atomError a
    | .verifyAtom k a =>
      let b := a / 32 * 32
      if s.remaps.contains (0, b) then s
      else if s.remapFree b then { s with todo := .remap b :: s.todo }
      else s.mediaError k b [mediaLoc 0 b / 16, mediaLoc 0 b / 16 + 1]
    | .tileUnit k a =>
      let s := s.countError (dieOf k) 0
      { s with bad := if s.bad.contains (tileLoc k a / 16) then s.bad else tileLoc k a / 16 :: s.bad }
    | .accEntry k el row col =>
      ((s.countError (dieOf k) 0).modElem k el fun x => { x with acc := { x.acc with poison := x.acc.poison ||| BitVec.ofNat 64 (2 ^ (row % 8 * 8 + col % 8)) } }).mcheck
        k 0x3E0 1 0
    | .storeCode k el i =>
      ((s.countError (dieOf k) 0).modElem k el fun x => { x with store := { x.store with codes := setAt x.store.codes i (lNaN x.store.fmt) } }).mcheck k 0x3E0 1 0
    | .slice k rn => (s.countError (dieOf k) 0).abortHolder k rn 0x3E1
    | .cardStore k rn => (s.countError (dieOf k) 0).abortHolder k rn 0x3E2
    | .fabric k rn =>
      let s := s.countError (dieOf k) 0
      if rn < 9 then s.abortHolder k rn 0x3E3 else { s with todo := .dump 0x3E3 (dieOf k) :: s.todo }
    | .media k tier a =>
      if tier % 2 = 0 && s.remaps.contains (0, a / 32 * 32) then s else s.mediaError k a [mediaLoc (tier % 2) a / 16])

/-! ### FATAL_DUMP (spec/23 R411) -/

/-- R8, R438: package reset: every register takes its reset value and every partition is destroyed; device memory and the dump area are kept. The
counters of the model go on. PRESUMED: notes/assumptions/4.md. DEDUCED: notes/assumptions/48.md. -/
def State.packageReset (s : State) : State :=
  { State.reset with
    mem := s.mem.filter fun c => 2 ^ 30 ≤ c.1, bad := s.bad.filter fun u => 2 ^ 26 ≤ u, timeBase := s.time, free := s.free, nextId := s.nextId
    dumpHeld := s.dumpHeld, tripped := s.tripped, sensors := s.sensors, site := s.site, ownPkg := s.ownPkg, boot := s.boot }

/-- R173, R188: the cores of which a repair and trim record tells, each with the spares that it gives it. -/
def SMap.withSpares (m : SMap Core) (t : TrimRecord) : SMap Core :=
  ((t.faultyM.map fun p => p.1) ++ t.opTables.map fun o => o.core).dedup.foldl (fun m k => m.set k { m.getD k {} with spares := trimSpares t k }) m

/-- R441: bring-up from step `n`, failing at step `fail`, or at none where that is below `n`: BOOTSTAT, the trim record with its lane spares (R421),
the indirection table (R352), the module's number and READY of partition 0, each where its step is passed. DEDUCED: notes/assumptions/48.md. -/
def State.bringUpFrom (s : State) (n fail : Nat) (b : BringUp) : State :=
  let fails := n ≤ fail && fail ≤ 7
  let passed := if fails then fail - 1 else 7
  let s := if 5 ≤ passed then s.buildRoutes else s
  { s with
    boot := some b
    bootstat := (if fails then fail else 0) * 2 ^ 8 + passed
    trim := if 3 ≤ passed then some b.trim else s.trim
    cores := if 3 ≤ passed then s.cores.withSpares b.trim else s.cores
    groups := if 3 ≤ passed then b.trim.laneSpares.foldl (fun m x =>
        let g := m.getD x.1 {}
        m.set x.1 { g with spmap := g.spmap.set (x.2.1 % 4) x.2.2 }) s.groups else s.groups
    indir := if 4 ≤ passed then b.indirection.foldl (fun m e => m.set e.1 e.2) s.indir else s.indir
    ownPkg := if 5 ≤ passed then b.ownPkg % 64 else s.ownPkg
    parts := if 7 ≤ passed then s.parts.set 0 { s.parts.getD 0 {} with ready := true } else s.parts }

/-- R438: bring-up repeats from step 3; what it takes from outside the package is as at power-on, and the step that fails is left open.
DEDUCED: notes/assumptions/48.md. -/
def State.bootAgain (s : State) : State :=
  match s.boot with
  | none => s
  | some b =>
    let (n, s) := s.draw
    s.bringUpFrom 3 (Config.bootFails n) b

/-- R411: the image of one region of a core as it stands. DESIGN CHOICE: notes/assumptions/35.md. -/
def State.dumpImage (s : State) (k rn : Nat) (r : Region) : List Byte :=
  match s.launches.get? r.launch with
  | none => []
  | some x =>
    imageBytes (s.core k) x r.member ((x.members[r.member]?).getD { core := k }) (some (rn, r))
      (s.imageArgs r.launch r.member x false !(s.core k).halted r) false

/-- R411: region images, first fit, from an offset of the dump area; those that do not fit are left out. -/
def packImages (off : Nat) : List (List Byte) → List (Nat × List Byte)
  | [] => []
  | b :: r => if b.isEmpty || 2 ^ 28 < off + b.length then packImages off r else (off, b) :: packImages (off + b.length) r

/-- R411: the header of the dump. -/
def dumpHeader (cause die time n : Nat) : List Byte :=
  let f (crc : Nat) : List Byte := toBytes (2 ^ 48 + cause % 1024 * 2 ^ 38 + die % 4 * 2 ^ 36) 8 ++ toBytes time 8 ++ toBytes n 8 ++ toBytes crc 8 ++ zeroBytes 4064
  f (crc32c (f 0))

/-- R411: counters and tails. -/
def State.dumpCounters (s : State) : List Byte :=
  ((upFrom 0 4).flatMap fun d => toBytes (addCounts (s.errc.getD d 0) (s.errcNew.getD d 0)) 8)
    ++ (upFrom 0 64).flatMap fun p => toBytes (s.part p).eqtail 8 ++ toBytes (s.part p).trtail 8

/-- The firmware log: its bytes are the firmware's. DESIGN CHOICE: notes/assumptions/35.md. -/
def logBytes (n : Nat) : Nat → List Byte
  | 0 => []
  | f + 1 => Config.firmwareLog n :: logBytes (n + 1) f

/-- R398, R411: the dump is written over the dump area; the section of a control core that is Off is zeros. DESIGN CHOICE: notes/assumptions/35.md. -/
def State.writeDump (s : State) (cause die : Nat) : State :=
  let imgs := packImages 0x10A000 (s.cores.flatMap fun c => c.2.regions.map fun r => s.dumpImage c.1 r.1 r.2)
  let cc := (upFrom 0 256).flatMap fun k => if (s.cc k).run == .off then zeroBytes 128 else ccSection (s.cc k)
  let s : State := { s with images := [] }
  let s := (((s.put (dumpLoc 0) (dumpHeader cause die s.time imgs.length)).put (dumpLoc 0x1000) cc).put (dumpLoc 0x9000) s.dumpCounters).put (dumpLoc 0xA000)
    (logBytes s.free (2 ^ 20))
  imgs.foldl (fun (s : State) p => s.put (dumpLoc p.1) p.2) { s with free := s.free + 2 ^ 20 }

/-- R411: every region freezes for the dump. -/
def State.freezeAll (s : State) : State :=
  s.cores.foldl (fun (s : State) c => c.2.regions.foldl (fun (s : State) r => s.requestFreeze c.1 r.1 .dump) s) s

/-- R411: every region has come to its halt. -/
def State.allHalted (s : State) : Bool := s.cores.all fun c => c.2.regions.all fun r => c.2.halted r.2

/-- R411, R438: the dump is written and package reset follows, with bring-up unless a trip holds the package in reset (R189). -/
def State.endDump (s : State) (cause die : Nat) : State :=
  let s : State := { (s.writeDump cause die).packageReset with dumpHeld := true }
  if s.tripped then s else s.bootAgain

/-- FATAL_DUMP (R411): the freeze of every region is attempted; once each has halted, after 2 µs at most, the dump is written. The clocks of a tripped
package run until then. Of two errors the first counts. DESIGN CHOICE: notes/assumptions/35.md. -/
def execFatalDump (cause : BitVec 10) (die : Nat) (s : State) : Out3 :=
  .next (match s.dumping with
    | some (c, d, t) => if t ≤ s.cycle || s.allHalted then s.endDump c d else s
    | none =>
      if s.cores.all (fun c => c.2.regions.isEmpty) then s.endDump cause.toNat die
      else { s.freezeAll with dumping := some (cause.toNat, die, s.cycle + usCycles 2) })

end Sys2Proof.Machine
end

