-- ==== Sys2Proof/Machine/DebugEv.lean ====
section
/-! DEFINITION. Steps of debug and test: samples and critical-path walks (spec/23 R402 to R404), REGION_STOP (R405), SCAN_COMPLETE and
REINITIALISATION_END (spec/22 R393 to R397). -/
namespace Sys2Proof.Machine

/-! ### Samples (R402) -/

/-- R402, R404, R433: the sample exponent and the walk ratio of a partition. -/
def Part.sampleExp (p : Part) : Nat := bits p.trctl 12 8
def Part.walkRatio (p : Part) : Nat := bits p.trctl 7 4

/-- R402, R404: after context `c` of element `e` has fired: every 2^n-th firing of its region writes a SAMPLE, and every 2^r-th SAMPLE starts a
walk. DEDUCED: notes/assumptions/25.md. -/
def State.sample (s : State) (k e c : Nat) : State :=
  match (s.core k).regionOf e, (s.core k).part with
  | some (rn, r), some p =>
    let n := (s.part p).sampleExp
    if n = 0 || r.firings % 2 ^ n != 0 || !s.tracing r.launch then s
    else match (s.ctx k e c).history with
      | [] => s
      | f :: _ =>
        let d := ((s.core k).str (strOf e)).div.getD (layerOf e) 1
        let s := s.traceRegion k rn 0x03 f.desc.toNat ((f.cycle - f.met) / max 1 d % 2 ^ 32 + f.seq % 2 ^ 32 * 2 ^ 32)
        let s := s.modRegion k rn fun r => { r with samples := r.samples + 1 }
        if (r.samples + 1) % 2 ^ (s.part p).walkRatio != 0 then s
        else
          let w : Walk := { region := rn, step := 0, elem := e, ctx := c, seq := f.seq, after := f.cycle, at_ := s.cycle + 1, launch := r.launch, cver := r.cver.toNat }
          s.modCore k fun x => { x with walks := x.walks ++ [w] }
  | _, _ => s

/-! ### Boundaries (R405) -/

/-- R405: a response of a request that has still to leave its node; streaming read-ahead is discarded by the stop instead. -/
def Node.answering (n : Node) : Bool := [n.s0, n.s1].any fun x => stClass x.words != 0 && !x.ahead.isEmpty

/-- R405: a reconfiguration boundary. DEDUCED: notes/assumptions/56.md. -/
def Core.boundary (c : Core) (rn : Nat) (r : Region) : Bool :=
  (c.elems.all fun p => !r.holds p.1 || p.2.ctxs.all fun q => q.2.regs.flights.isEmpty)
    && (c.links.all fun p => !r.holds (p.1 / 8) || p.2.clear) && (c.klinks.all fun p => !r.holds (p.1 / 4) || p.2.clear)
    && (c.plinks.all fun p => !r.holds (p.1 / 4) || p.2.val.isNone) && (c.rbus.all fun p => !r.holdsNode p.1) && (c.cbus.all fun p => p.1 / 16 != rn)
    && (c.nodes.all fun p => !r.holdsNode p.1 || (p.2.s0.queue.isEmpty && p.2.s1.queue.isEmpty && !p.2.answering)) && r.wrap.isEmpty
    && ((r.rows.all fun x => x.st == .empty)
      || (!r.scrolls && (upFrom 0 r.height).all fun i =>
        if i < r.npick then (r.row i).st == .passed && (r.row i).wave == r.waves else (r.row i).st == .empty))

/-! ### CRITICAL_PATH_STEP (R404) -/

/-- The firing that a walk is to name, while it is in its context's history. -/
def State.walkFiring (s : State) (k : Nat) (w : Walk) : Option Firing := (s.ctx k w.elem w.ctx).history.find? fun f => f.seq == w.seq && f.cycle ≤ w.after

/-- R404: the reason for which a walk ends with the firing that it names, 0 while it goes on. DEDUCED: notes/assumptions/25.md. -/
def endReason (step : Nat) (f : Firing) : Nat :=
  if f.cls = 5 || f.cls = 6 then 5 else if f.origin = 1 then 1 else if f.origin = 0 then 2 else if 63 ≤ step then 4 else 0

/-- R404: a CRIT record; it carries the CVER at which the walk last stood. DEDUCED: notes/assumptions/25.md. -/
def State.crit (s : State) (k : Nat) (w : Walk) (f : Option Firing) (reason : Nat) : State :=
  match (s.core k).part.bind fun p => s.parts.get? p with
  | none => s
  | some p =>
    if !bit p.trctl 0 then s
    else { s with traces := s.traces ++ [{
      core := k, type := 0x04, reg := w.region, cver := w.cver, arg0 := (f.map fun f => f.desc.toNat).getD 0
      arg1 := w.step % 256 + reason * 2 ^ 8 + ((f.map fun f => w.after - f.cycle).getD 0) % 2 ^ 32 * 2 ^ 32 }] }

/-- R404: the region of a walk, while its launch holds it. -/
def State.walkRegion (s : State) (k : Nat) (w : Walk) : Option Region :=
  (s.region? k w.region).bind fun r => if r.launch = w.launch then some r else none

/-- The firing that an origin names (R403). DEDUCED: notes/assumptions/25.md. -/
def originElem (r : Region) (o : Nat) : Nat × Nat × Nat :=
  let p := (o - 2) / 2 ^ 32
  (r.elemAt (p / 64) (p / 4 % 16), p % 4, (o - 2) % 2 ^ 32)

/-- R404: one step of a walk: the state, and the walk that goes on. A region that has left its core has been frozen, or its launch has retired, and
nothing of its history is left. DEDUCED: notes/assumptions/25.md. -/
def State.walkStep (s : State) (k : Nat) (w : Walk) : Option Walk × State :=
  match s.walkRegion k w with
  | none => (none, s.crit k w none (if (s.launches.get? w.launch).isSome then 6 else 3))
  | some r =>
    let w := { w with cver := r.cver.toNat }
    if r.frozen || r.freeze != .none || r.stopped || !r.stopReqs.isEmpty && (s.core k).boundary w.region r then
      (none, s.crit k w (s.walkFiring k w) 6)
    else match s.walkFiring k w with
      | none => (none, s.crit k w none 3)
      | some f =>
        let x := endReason w.step f
        let s := s.crit k w (some f) x
        if x != 0 then (none, s)
        else
          let (e, c, q) := originElem r f.origin
          (some { w with step := w.step + 1, elem := e, ctx := c, seq := q, after := f.cycle, at_ := s.cycle + 4 }, s)

/-- CRITICAL_PATH_STEP (R404): the walks of a core whose next step is due. DEDUCED: notes/assumptions/25.md. -/
def execCriticalPathStep (k : Nat) (s : State) : Out3 :=
  .next (
    let ws := (s.core k).walks
    let s := s.modCore k fun c => { c with walks := [] }
    ws.foldl (fun (s : State) w =>
      let r := if w.at_ ≤ s.cycle then s.walkStep k w else (some w, s)
      r.2.modCore k fun c => { c with walks := c.walks ++ r.1.toList }) s)

/-! ### REGION_STOP (R405) -/

/-- REGION_STOP (R123, R405): at a boundary with a stop requested the region stops: a STOP record for each request, and each DSTOP's token
reads 0. DEDUCED: notes/assumptions/56.md. -/
def execRegionStop (k rn : Nat) (s : State) : Out3 :=
  .next (match s.region? k rn with
    | none => s
    | some r =>
      if r.stopReqs.isEmpty || r.frozen || r.freeze != .none || !(r.stopped || (s.core k).boundary rn r) then s
      else
        let s := s.modCore k fun c => { c with nodes := c.nodes.map fun p => if r.holdsNode p.1 then (p.1, { s0 := p.2.s0.rewind, s1 := p.2.s1.rewind }) else p }
        let s := s.modRegion k rn fun r => { r with stopped := true, stopReqs := [], stopToks := [] }
        let s := r.stopReqs.foldl (fun (s : State) n => s.traceRegion k rn 0x05 (n % 16) r.pass) s
        r.stopToks.foldl (fun (s : State) t => s.writeToken k t.1 t.2 0 none) s)

/-! ### Scan runs (spec/22 R393 to R397) -/

/-- SCAN_COMPLETE (R394, R397): the token takes the signature; one that differs from the expected quarantines the core.
DESIGN CHOICE: notes/assumptions/6.md. DEDUCED: notes/assumptions/29.md. -/
def execScanComplete (k : Nat) (s : State) : Out3 :=
  .next (match (s.core k).scan with
    | none => s
    | some x =>
      if s.cycle < x.finish then s
      else
        let sig := (if Config.fabricFaulty k then Config.scanSignature x.pattern k else x.expected).toNat
        let s := (s.writeToken k x.tok x.dst (scanToken 0 x.runUs sig) none).reinitialise k
        if sig = x.expected.toNat then s
        else
          (s.modCore k fun c => { c with quarantine := if (s.launches.get? x.launch).isSome then some x.launch else c.quarantine }).postCore k 0x2D
            (sig + x.pattern % 2 ^ 16 * 2 ^ 32) x.expected.toNat)

/-- R393: the fabric as package reset leaves it. -/
def Core.cleanFabric (c : Core) : Core :=
  { c with elems := [], links := [], klinks := [], plinks := [], rbus := [], cbus := [], nodes := [], regions := [], walks := [], loadPtr := 0, movePtr := 0 }

/-- REINITIALISATION_END (R393): the fabric stands as package reset leaves it. -/
def execReinitialisationEnd (k : Nat) (s : State) : Out3 :=
  .next (match (s.core k).reinit with
    | some t => if t ≤ s.cycle then s.modCore k fun c => { c.cleanFabric with reinit := none } else s
    | none => s)

end Sys2Proof.Machine
end

