-- ==== Sys2Proof/Machine/Float.lean ====
section
/-! DEFINITION. Rows 0x5 and 0x6: W40 arithmetic, conversions and W40 fields (spec/05 R101 to R109). -/
namespace Sys2Proof.Machine

/-- R102: a rounded operation of one W40 source. -/
def float1 (f : Rounding → Nat → Real40 → Flagged) (d a : Operand) (m : Rounding) (s : State) : Eff :=
  resultOf s d m (f m (s.offset 0) (s.src a).real)

/-- R102: a rounded operation of two W40 sources. -/
def float2 (f : Rounding → Nat → Real40 → Real40 → Flagged) (d a b : Operand) (m : Rounding) (s : State) : Eff :=
  resultOf s d m (f m (s.offset 0) (s.src a).real (s.src b).real)

/-- R102: FMA and FNMA, whose third source is the destination. DEDUCED: notes/assumptions/58.md. -/
def floatFma (sub : Bool) (d a b : Operand) (m : Rounding) (s : State) : Eff :=
  resultOf s d m (fmaReal m (s.offset 0) sub (s.src a).real (s.src b).real (s.src d).real)

/-- R102: FEXP2 and FLOG2, on the operand's word. -/
def floatWord (f : Rounding → Nat → Nat → Flagged) (d a : Operand) (m : Rounding) (s : State) : Eff :=
  resultOf s d m (f m (s.offset 0) ((s.src a).raw % 2 ^ 40))

/-- R105: integer to W40. -/
def ofInt (g : Sgn) (d a : Operand) (m : Rounding) (s : State) : Eff :=
  let x := s.src a
  resultOf s d m (ofIntReal m (s.offset 0) (match g with
    | .s => x.ownS
    | .z => (x.ownZ : Nat)))

/-- R105: W40 to integer at the destination's width. -/
def toInt (g : Sgn) (d a : Operand) (m : Rounding) (s : State) : Eff :=
  resultOf s d m (toIntReal g m (s.offset 0) (s.src a).real (destWidth d))

/-- FADD (R102). -/
def execFadd (g : BitVec 16) (d a b : Operand) (m : Rounding) (s : State) : Out3 :=
  run (.fadd g d a b m) (float2 addReal d a b m) s

/-- FSUB (R102). -/
def execFsub (g : BitVec 16) (d a b : Operand) (m : Rounding) (s : State) : Out3 :=
  run (.fsub g d a b m) (float2 (fun m h x y => addReal m h x y.neg) d a b m) s

/-- FMUL (R102). -/
def execFmul (g : BitVec 16) (d a b : Operand) (m : Rounding) (s : State) : Out3 :=
  run (.fmul g d a b m) (float2 mulReal d a b m) s

/-- FMA (R102). -/
def execFma (g : BitVec 16) (d a b : Operand) (m : Rounding) (s : State) : Out3 :=
  run (.fma g d a b m) (floatFma false d a b m) s

/-- FNMA (R102). -/
def execFnma (g : BitVec 16) (d a b : Operand) (m : Rounding) (s : State) : Out3 :=
  run (.fnma g d a b m) (floatFma true d a b m) s

/-- FMIN (R69, R104). -/
def execFmin (g : BitVec 16) (d a b : Operand) (s : State) : Out3 :=
  run (.fmin g d a b) (fun s => quietOf s d (minmaxReal false (s.src a).real (s.src b).real)) s

/-- FMAX (R69, R104). -/
def execFmax (g : BitVec 16) (d a b : Operand) (s : State) : Out3 :=
  run (.fmax g d a b) (fun s => quietOf s d (minmaxReal true (s.src a).real (s.src b).real)) s

/-- FABS (R104). -/
def execFabs (g : BitVec 16) (d a : Operand) (s : State) : Out3 :=
  run (.fabs g d a) (fun s => quietOf s d (absReal (s.src a).real)) s

/-- FNEG (R104). -/
def execFneg (g : BitVec 16) (d a : Operand) (s : State) : Out3 :=
  run (.fneg g d a) (fun s => quietOf s d (negReal (s.src a).real)) s

/-- FRCP (R102, R103). -/
def execFrcp (g : BitVec 16) (d a : Operand) (m : Rounding) (s : State) : Out3 :=
  run (.frcp g d a m) (float1 rcpReal d a m) s

/-- FRSQ (R102, R103). -/
def execFrsq (g : BitVec 16) (d a : Operand) (m : Rounding) (s : State) : Out3 :=
  run (.frsq g d a m) (float1 rsqReal d a m) s

/-- FEXP2 (R102, R103). -/
def execFexp2 (g : BitVec 16) (d a : Operand) (m : Rounding) (s : State) : Out3 :=
  run (.fexp2 g d a m) (floatWord exp2Real d a m) s

/-- FLOG2 (R102, R103). -/
def execFlog2 (g : BitVec 16) (d a : Operand) (m : Rounding) (s : State) : Out3 :=
  run (.flog2 g d a m) (floatWord log2Real d a m) s

/-- FDIV (R102, R103). -/
def execFdiv (g : BitVec 16) (d a b : Operand) (m : Rounding) (s : State) : Out3 :=
  run (.fdiv g d a b m) (float2 divReal d a b m) s

/-- FSQRT (R102, R103). -/
def execFsqrt (g : BitVec 16) (d a : Operand) (m : Rounding) (s : State) : Out3 :=
  run (.fsqrt g d a m) (float1 sqrtReal d a m) s

/-- FSCALE (R102, R103). -/
def execFscale (g : BitVec 16) (d a b : Operand) (m : Rounding) (s : State) : Out3 :=
  run (.fscale g d a b m) (fun s => resultOf s d m (scaleReal m (s.offset 0) (s.src a).real (s.src b).ownS)) s

/-- FCVTS (R105). -/
def execFcvts (g : BitVec 16) (d a : Operand) (m : Rounding) (s : State) : Out3 :=
  run (.fcvts g d a m) (ofInt .s d a m) s

/-- FCVTZ (R105). -/
def execFcvtz (g : BitVec 16) (d a : Operand) (m : Rounding) (s : State) : Out3 :=
  run (.fcvtz g d a m) (ofInt .z d a m) s

/-- FTOIS (R105). -/
def execFtois (g : BitVec 16) (d a : Operand) (m : Rounding) (s : State) : Out3 :=
  run (.ftois g d a m) (toInt .s d a m) s

/-- FTOIZ (R105). -/
def execFtoiz (g : BitVec 16) (d a : Operand) (m : Rounding) (s : State) : Out3 :=
  run (.ftoiz g d a m) (toInt .z d a m) s

/-- FRND (R106). -/
def execFrnd (g : BitVec 16) (d a : Operand) (m : Rounding) (s : State) : Out3 :=
  run (.frnd g d a m) (float1 rndReal d a m) s

/-- FNORM (R106). -/
def execFnorm (g : BitVec 16) (d a : Operand) (s : State) : Out3 :=
  run (.fnorm g d a) (fun s => resultOf s d .rne (normReal (s.src a).real)) s

/-- FGETE (R107). -/
def execFgete (g : BitVec 16) (d a : Operand) (s : State) : Out3 :=
  run (.fgete g d a) (fun s => quietOf s d (wrap (getExp (s.src a).real) (destWidth d))) s

/-- FGETM (R107). -/
def execFgetm (g : BitVec 16) (d a : Operand) (s : State) : Out3 :=
  run (.fgetm g d a) (fun s => quietOf s d (zext (getSig (s.src a).real) (destWidth d))) s

/-- FSETE (R107). -/
def execFsete (g : BitVec 16) (d a b : Operand) (m : Rounding) (s : State) : Out3 :=
  run (.fsete g d a b m) (fun s => resultOf s d m (setExp m (s.offset 0) (s.src a).real (s.src b).ownS)) s

/-- FTOL (R108). -/
def execFtol (g : BitVec 16) (d a : Operand) (f : LFmt) (s : State) : Out3 :=
  run (.ftol g d a f) (fun s => resultOf s d .rne (ftolReal f (s.src a).real)) s

/-- LTOF (R108): the code is the low bits of A at its own width, an immediate's 8 bits among them. -/
def execLtof (g : BitVec 16) (d a : Operand) (f : LFmt) (s : State) : Out3 :=
  run (.ltof g d a f) (fun s => quietOf s d (ltofReal f (zext (s.src a).ownZ f.width))) s

/-- F32W (R109). DESIGN CHOICE: notes/assumptions/65.md. -/
def execF32w (g : BitVec 16) (d a : Operand) (s : State) : Out3 :=
  run (.f32w g d a) (fun s => quietOf s d (ofBinary32 ((s.src a).to .z 32))) s

/-- WF32 (R109). -/
def execWf32 (g : BitVec 16) (d a : Operand) (m : Rounding) (s : State) : Out3 :=
  run (.wf32 g d a m) (fun s => resultOf s d m (toBinary32 m (s.offset 0) (s.src a).real)) s

end Sys2Proof.Machine
end

