-- ==== Sys2Proof/Machine/LinkEv.lean ====
section
/-! DEFINITION. Steps of long edges, Jenlor links and the domain: EDGE_VALUE_ARRIVAL, FLIT_RECEIVE, ACKNOWLEDGE_TIMER, LANE_MAP_RESEND,
LANE_MAP_SWITCH, PORT_RETRAIN, PORT_RETRAIN_END, DOMAIN_TIMEOUT, DOMAIN_REBUILD (spec/24 R413 to R427). -/
namespace Sys2Proof.Machine

/-- EDGE_VALUE_ARRIVAL (R413, R414): the oldest value on an edge of launch `l` enters its receive queue. -/
def execEdgeValueArrival (l e : Nat) (s : State) : Out3 :=
  .next (match (s.launches.get? l).bind fun x => x.edges[e]? with
    | none => s
    | some g =>
      match g.flying with
      | (t, v, c) :: rest => if t ≤ s.cycle then s.modEdge l e fun g => { g with flying := rest, queue := g.queue ++ [(v, c)], noted := g.noted ++ [(s.cycle, g.sent.headD 0)], sent := g.sent.drop 1 } else s
      | [] => s)

/-! ### Flits (R416) -/

/-- One bit into a CRC-16 of polynomial 0x8BB7 (notes/assumptions/31.md). -/
def crc16Bit (c : Nat) (b : Bool) : Nat :=
  let x := c * 2 % 2 ^ 16
  if bit c 15 != b then x ^^^ 0x8BB7 else x

/-- Bits `n − 1` to 0 of a number, highest first, into the CRC. PRESUMED: notes/assumptions/31.md. -/
def crc16Run (v : Nat) (c : Nat) : Nat → Nat
  | 0 => c
  | n + 1 => crc16Run v (crc16Bit c (bit v n)) n

/-- R416: the CRC of a flit, over bits [255:32] and [15:0]. PRESUMED: notes/assumptions/31.md. -/
def flitCrc (raw : BitVec 256) : Nat := crc16Run (bits raw.toNat 255 32 * 2 ^ 16 + bits raw.toNat 15 0) 0 240

/-- R416: fields of a flit. -/
def flitType (raw : BitVec 256) : Nat := bits raw.toNat 7 5
def flitSeq (raw : BitVec 256) : BitVec 8 := BitVec.ofNat 8 (bits raw.toNat 15 8)
def flitGood (raw : BitVec 256) : Bool := flitCrc raw == bits raw.toNat 31 16

/-- R416: a flit of a type with a SEQ and a payload. -/
def mkFlit (type seq payload : Nat) : BitVec 256 :=
  let v := payload % 2 ^ 224 * 2 ^ 32 + seq % 2 ^ 8 * 2 ^ 8 + type % 8 * 2 ^ 5
  BitVec.ofNat 256 (v + flitCrc (BitVec.ofNat 256 v) * 2 ^ 16)

/-- R416: the group of the other direction of the same pair; an Eraux port, from 48 on, is both. -/
def otherWay (g : Nat) : Nat := if 48 ≤ g then g else if g / 8 % 2 = 0 then g + 8 else g - 8

/-- A saturating counter of 16 bits. -/
def sat16 (v : BitVec 16) : BitVec 16 := if v = 0xFFFF then v else v + 1

/-- R417: the receiver owes a control flit, once. -/
def LaneGroup.owe (x : LaneGroup) (a : Nat × BitVec 8) : LaneGroup := if x.answer.contains a then x else { x with answer := x.answer ++ [a] }

/-! ### Lane repair (R418, R419) -/

/-- R421: the lowest free spare. -/
def LaneGroup.freeSpare (x : LaneGroup) : Option Nat := (upFrom 0 4).find? fun i => (x.spmap.get? i).isNone

/-- R427: a LINK_REPAIR record, in the physical function's queue. -/
def State.postRepair (s : State) (g lane spare : Nat) (retired : Bool) : State :=
  s.post { part := 0, type := 0x2E
           arg0 := g / 16 % 4 + g % 8 * 2 ^ 2 + g / 8 % 2 * 2 ^ 5 + lane % 64 * 2 ^ 6 + spare % 4 * 2 ^ 12 + b2n retired * 2 ^ 16
           arg1 := 4 - (s.group g).spmap.length }

/-- R419: the next group of the same pair and direction that is not retired. -/
def State.nextGroup (s : State) (g : Nat) : Option Nat :=
  ((upFrom 1 7).map fun i => g / 8 * 8 + (g + i) % 8).find? fun h => !(s.group h).retired

/-- R417, R419: the payloads of a group that its receiver has not passed on, oldest first, and those that still wait. -/
def LaneGroup.window (x : LaneGroup) : List (BitVec 224) :=
  let n := (x.eseq - BitVec.ofNat 8 (((x.buffer.head?).map Flit.seq).getD x.eseq.toNat)).toNat
  (if n ≤ x.buffer.length then x.buffer.drop n else x.buffer).map Flit.body ++ x.waiting

/-- R419: a group retires and carries no data from then on, while the acknowledges of the other direction still use its lanes; its flows move on, its unacknowledged window goes first on the next group, and a pair without groups is package-fatal.
DESIGN CHOICE: notes/assumptions/35.md. DEDUCED: notes/assumptions/53.md. -/
def State.retireGroup (s : State) (g lane : Nat) : State :=
  let x := s.group g
  let s := (s.modGroup g fun y => { y with retired := true, buffer := [], waiting := [], sent := 0, sinceAck := 0, answer := [], remap := none, latched := [] }).postRepair g lane 0 true
  match s.nextGroup g with
  | none => { s with todo := .dump 0x3E3 (g / 16 % 4) :: s.todo }
  | some h => s.modGroup h fun y => { y with waiting := x.window ++ y.waiting }

/-- R418: how long after its start a remap switches the map. At most four lanes find a spare, so lanes that wait for one another switch within 256 ns of
their latch too. DESIGN CHOICE: notes/assumptions/53.md. -/
def remapCycles : Nat := 64

/-- R418: the next latched lane is mapped onto the lowest free spare; without one the group retires. DEDUCED: notes/assumptions/53.md. -/
def State.startRemap (s : State) (g : Nat) : State :=
  let x := s.group g
  match x.remap, x.latched with
  | none, lane :: _ =>
    (match x.freeSpare with
    | some sp =>
      ((s.modGroup g fun y => { y with remap := some (lane, sp), echoed := false, answer := [(4, 0)] }).after 32 (.ev (.laneMapResend g))).after remapCycles
        (.ev (.laneMapSwitch g))
    | none => s.retireGroup g lane)
  | _, _ => s

/-- R418: charges of a lane within the last 1 ms. -/
def LaneGroup.charged (x : LaneGroup) (lane now : Nat) : Nat := (x.charges.filter fun c => c.1 == lane && now < c.2 + 1000000).length

/-- R418: lanes whose bits differ between two copies of a flit. -/
def lanesApart (a b : BitVec 256) : List Nat := (upFrom 0 64).filter fun n => bits a.toNat (4 * n + 3) (4 * n) != bits b.toNat (4 * n + 3) (4 * n)

/-- R418: a lane is charged one error; the fourth within 1 ms latches a repair. -/
def State.chargeLane (s : State) (g lane : Nat) : State :=
  let s := s.modGroup g fun x => { x with charges := (x.charges.filter fun c => s.cycle < c.2 + 1000000) ++ [(lane, s.cycle)] }
  let x := s.group g
  if x.charged lane s.cycle < 4 || x.latched.contains lane || x.retired then s
  else
    let s := s.modGroup g fun x => { x with latched := x.latched ++ [lane], charges := x.charges.filter fun c => c.1 != lane }
    if x.freeSpare.isNone && x.remap.isNone then s.retireGroup g lane else s.startRemap g

/-! ### FLIT_RECEIVE (R417) -/

/-- R417: a data flit in sequence is accepted: its payload passes on, and the lanes that failed in its first copy are charged.
DEDUCED: notes/assumptions/53.md. -/
def State.acceptFlit (s : State) (g : Nat) (raw : BitVec 256) : State :=
  let x := s.group g
  let n := x.sinceAck + 1
  let s := s.modGroup g fun y => { y with
    eseq := y.eseq + 1, discarding := false, failed := y.failed.filter fun f => flitSeq f != flitSeq raw, passed := y.passed + 1, arrived := y.arrived ++ [raw.extractLsb' 32 224], sinceAck := if 32 ≤ n then 0 else n
    answer := if 32 ≤ n then (y.owe (2, y.eseq + 1)).answer else y.answer }
  let s := if n = 1 then s.after 64 (.ev (.acknowledgeTimer g)) else s
  match x.failed with
  | some f => if flitSeq f = flitSeq raw && g < 48 then (lanesApart f raw).foldl (fun (s : State) l => s.chargeLane g l) s else s
  | none => s

/-- R417, R418: a flit whose CRC is bad is discarded. Unless it reads as a control flit, data is discarded until ESEQ arrives good, one negative acknowledge
goes back, and the raw bits of the first such flit of the episode are kept. DEDUCED: notes/assumptions/53.md. -/
def State.badFlit (s : State) (g : Nat) (raw : BitVec 256) : State :=
  s.modGroup g fun y =>
    let y := { y with crcNew := sat16 y.crcNew }
    if 2 ≤ flitType raw && flitType raw ≤ 4 then y
    else { y with
      discarding := true, failed := if y.discarding && y.failed.isSome then y.failed else some raw
      answer := if y.discarding || y.remap.isSome then y.answer else (y.owe (3, y.eseq)).answer }

/-- R417: a good data flit. DEDUCED: notes/assumptions/53.md. -/
def State.dataFlit (s : State) (g : Nat) (raw : BitVec 256) : State :=
  let x := s.group g
  let q := flitSeq raw
  if x.remap.isSome then s
  else if q = x.eseq then s.acceptFlit g raw
  else if (x.eseq - q).toNat ≤ 128 then s.modGroup g fun y => y.owe (2, y.eseq)
  else s.modGroup g fun y => { y with discarding := true, answer := if y.discarding then y.answer else (y.owe (3, y.eseq)).answer }

/-- R417: an acknowledge or negative acknowledge reaches the sender: flits before ESEQ leave its buffer, and a negative one has the rest sent again.
DEDUCED: notes/assumptions/53.md. -/
def State.ackFlit (s : State) (g : Nat) (e : BitVec 8) (neg : Bool) : State :=
  s.modGroup g fun y =>
    let old := BitVec.ofNat 8 (((y.buffer.head?).map Flit.seq).getD y.nextSeq.toNat)
    let n := (e - old).toNat
    let n := if n ≤ min 128 y.buffer.length then n else 0
    let again := neg && y.remap.isNone && !y.retired
    { y with buffer := y.buffer.drop n, sent := if again then 0 else y.sent - n, replaysNew := if again then sat16 y.replaysNew else y.replaysNew }

/-- R421: SPMAP. -/
def spmapWord (m : SMap Nat) : Nat := m.foldl (fun v p => v + p.2 % 64 * 2 ^ (6 * p.1)) 0

/-- R418: the map that a remap in progress makes. -/
def LaneGroup.newMap (x : LaneGroup) : SMap Nat :=
  match x.remap with
  | some (lane, sp) => x.spmap.set sp lane
  | none => x.spmap

/-- R417, R418: a lane-map flit that arrives over group `g`: what the receiver of the other direction announces is echoed by its sender, which stands here,
and the echo of this direction's own map is noted. DEDUCED: notes/assumptions/53.md. -/
def State.mapFlit (s : State) (g w : Nat) : State :=
  let hears (x : LaneGroup) : Bool := x.remap.isSome && spmapWord x.newMap == w
  let s := s.modGroup (otherWay g) fun y => if hears y then { y with echoDue := true } else y
  s.modGroup g fun y => if hears y then { y with echoed := true } else y

/-- R422: a port stands out of service for at most 10 µs. -/
def State.retrainPort (s : State) (n : Nat) : State :=
  let x := s.ports.getD n {}
  if x.retraining then s
  else ({ s with ports := s.ports.set n { x with retraining := true, crcerr := 0 } } : State).after (usCycles 10) (.retrained n)

/-- R417: the receiver of a group takes a flit. A retired group takes the control flits of the other direction only (R419). DESIGN CHOICE:
notes/assumptions/53.md. -/
def State.takeFlit (s : State) (g : Nat) (raw : BitVec 256) : State :=
  if !flitGood raw then (if (s.group g).retired then s else s.badFlit g raw)
  else match flitType raw with
    | 1 => if (s.group g).retired then s else s.dataFlit g raw
    | 2 => s.ackFlit (otherWay g) (BitVec.ofNat 8 (bits raw.toNat 39 32)) false
    | 3 => s.ackFlit (otherWay g) (BitVec.ofNat 8 (bits raw.toNat 39 32)) true
    | 4 => s.mapFlit g (bits raw.toNat 55 32)
    | _ => s

/-- R422: an Eraux port that is in service takes a flit as a group does, and counts one that fails its CRC; past the firmware's threshold it retrains.
DEDUCED: notes/assumptions/53.md. -/
def State.portFlit (s : State) (n : Nat) (raw : BitVec 256) : State :=
  if (s.ports.getD n {}).retraining then s
  else if flitGood raw then s.takeFlit (48 + n) raw
  else
    let c := (s.ports.getD n {}).crcerr + 1
    let s := s.takeFlit (48 + n) raw
    let s := { s with ports := s.ports.set n { s.ports.getD n {} with crcerr := c } }
    if Config.portThreshold < c then s.retrainPort n else s

/-- FLIT_RECEIVE (R417): the receiver of a lane group takes a flit; from 48 on, `g` names an Eraux port. DESIGN CHOICE: notes/assumptions/15.md. -/
def execFlitReceive (g : Nat) (raw : BitVec 256) (s : State) : Out3 := .next (if 48 ≤ g then s.portFlit (g - 48) raw else s.takeFlit g raw)

/-! ### What the ends send (R413, R417, R418, R420) -/

/-- R416: a flit leaves on the lanes of a group, which may change its bits, and reaches the receiver; on an Eraux port it leaves the package (R422).
DESIGN CHOICE: notes/assumptions/53.md. -/
def State.transmit (s : State) (g : Nat) (raw : BitVec 256) : State :=
  if 48 ≤ g then { s with portFlits := s.portFlits ++ [(g - 48, raw)] }
  else
    let (n, s) := s.draw
    s.after 16 (.flit g (raw ^^^ Config.wireError n))

/-- R417, R418: the control flits that a group's receiver has to send go back on the other direction. -/
def State.sendAnswer (s : State) (g : Nat) : State :=
  let x := s.group g
  x.answer.foldl (fun (s : State) a => s.transmit (otherWay g) (mkFlit a.1 0 (if a.1 = 4 then spmapWord x.newMap else a.2.toNat)))
    (s.modGroup g fun y => { y with answer := [] })

/-- R413, R420: a payload that has crossed a link goes on to the next one of its path; over the last it brings the oldest crossing value of its edge to its
end. -/
def State.relay (s : State) (p : BitVec 224) : State :=
  let (l, e, hop) := payloadEdge p
  match (s.launches.get? l).bind fun x => x.edges[e]? with
  | none => s
  | some g =>
    let path := linkPath (s.memberCore l g.src 0) (s.memberCore l g.tgt 0)
    if hop + 1 < path.length then s.handOver path e (hop + 1) (edgePayload l e (hop + 1) (bits p.toNat 65 64) (BitVec.ofNat 64 p.toNat))
    else match g.crossing with
      | v :: r => s.modEdge l e fun g => { g with crossing := r, flying := g.flying ++ [(max v.1 (s.cycle + 1), v.2)] }
      | [] => s

/-- R417, R418: the sender echoes the lane map of its group. DEDUCED: notes/assumptions/53.md. -/
def State.sendEcho (s : State) (g : Nat) : State :=
  let x := s.group g
  if x.echoDue then (s.modGroup g fun y => { y with echoDue := false }).transmit g (mkFlit 4 0 (spmapWord x.newMap)) else s

/-- R417, R422: the replay buffer, of `cap` flits, takes waiting payloads. -/
def LaneGroup.fill (x : LaneGroup) (cap : Nat) : LaneGroup :=
  let n := min (cap - x.buffer.length) x.waiting.length
  { x with
    buffer := x.buffer ++ ((upFrom 0 n).zip x.waiting).map fun p => { seq := (x.nextSeq + BitVec.ofNat 8 p.1).toNat, body := p.2 }
    waiting := x.waiting.drop n, nextSeq := x.nextSeq + BitVec.ofNat 8 n }

/-- R422: a group is an Eraux port that is out of service. -/
def State.portDown (s : State) (g : Nat) : Bool := 48 ≤ g && (s.ports.getD (g - 48) {}).retraining

/-- R416, R417, R422: up to 8 flits of a replay buffer of 128 are sent in a cycle, none while a lane is remapped; of a port's buffer of 512, up to 7. At most
128 flits stand sent and not acknowledged. DESIGN CHOICE: notes/assumptions/53.md. -/
def State.sendData (s : State) (g : Nat) : State :=
  let x := (s.group g).fill (if 48 ≤ g then 512 else 128)
  if x.remap.isSome || x.retired then s
  else
    let fs := (x.buffer.drop x.sent).take (min (if 48 ≤ g then 7 else 8) (128 - x.sent))
    fs.foldl (fun (s : State) f => s.transmit g (mkFlit 1 f.seq f.body.toNat)) (s.modGroup g fun _ => { x with sent := x.sent + fs.length })

/-- R417: the ends of a lane group hand over what has arrived and send what they have to. What arrives at a port is another package's.
DEDUCED: notes/assumptions/53.md. -/
def State.linkTurn (s : State) (g : Nat) : State :=
  if s.portDown g then s
  else
    let ps := if 48 ≤ g then [] else (s.group g).arrived
    let s := ps.foldl (fun (s : State) p => s.relay p) (s.modGroup g fun x => { x with arrived := [] })
    ((s.sendAnswer g).sendEcho g).sendData g

/-- R417: a group has something to hand over or to send. -/
def LaneGroup.busy (x : LaneGroup) : Bool := !x.answer.isEmpty || x.echoDue || !x.arrived.isEmpty || !x.waiting.isEmpty || x.sent < x.buffer.length

/-- ACKNOWLEDGE_TIMER (R417, R418): an acknowledge is sent while a flit is unacknowledged; during a remap it waits.
DEDUCED: notes/assumptions/53.md. -/
def execAcknowledgeTimer (g : Nat) (s : State) : Out3 :=
  .next (
    if (s.group g).sinceAck = 0 && (s.group g).buffer.isEmpty then s
    else if (s.group g).remap.isSome then s.after 64 (.ev (.acknowledgeTimer g))
    else s.modGroup g fun y => { y with answer := if y.answer.isEmpty then [(2, y.eseq)] else y.answer, sinceAck := 0 })

/-- LANE_MAP_RESEND (R417): a lane map is resent every 32 ns until it is echoed. -/
def execLaneMapResend (g : Nat) (s : State) : Out3 :=
  .next (
    let x := s.group g
    if x.remap.isNone || x.echoed then s
    else (s.modGroup g fun y => y.owe (4, 0)).after 32 (.ev (.laneMapResend g)))

/-- LANE_MAP_SWITCH (R418): both ends switch the map; the sender replays its whole buffer, and lanes latched meanwhile join the next remap.
DEDUCED: notes/assumptions/53.md. -/
def execLaneMapSwitch (g : Nat) (s : State) : Out3 :=
  .next (
    let x := s.group g
    match x.remap with
    | none => s
    | some (lane, sp) =>
      let s := s.modGroup g fun y => { y with
        spmap := y.spmap.set sp lane, remap := none, echoed := false, latched := y.latched.filter (· != lane), replaysNew := sat16 y.replaysNew, answer := [], sent := 0
        discarding := false, echoDue := false }
      (s.postRepair g lane sp false).startRemap g)

/-- PORT_RETRAIN (R422). -/
def execPortRetrain (n : Nat) (s : State) : Out3 := .next (s.retrainPort n)

/-- PORT_RETRAIN_END (R422). -/
def execPortRetrainEnd (n : Nat) (s : State) : Out3 := .next { s with ports := s.ports.mod n fun x => { x with retraining := false } }

/-! ### The domain (R425, R426) -/

/-- R426: partitions whose window table or domain group names a package. -/
def State.peersOf (s : State) (pkg : Nat) : List Nat :=
  (s.parts.filter fun x => x.2.windows.any (fun w => winV w.2 && winPkg w.2 == pkg) || x.2.domain.any fun d => d.1 == pkg).map fun x => x.1

/-- R426: a package is fenced, for a reason: 0 shoot-down, 1 domain timeout; its flits and its route are dropped. DESIGN CHOICE:
notes/assumptions/39.md. -/
def State.fence (s : State) (pkg reason : Nat) : State :=
  if s.fenced.contains pkg then s
  else
    let s := ({ s with fenced := insertNum s.fenced pkg } : State).dropRoutes pkg
    let ps := insertNum (s.peersOf pkg) 0
    let s := ps.foldl (fun (s : State) p => s.post { part := p, type := 0x2F, arg0 := pkg % 64 + reason * 2 ^ 8 }) s
    let cs := s.colls.filter fun c => c.domain && c.joined.any fun j => (s.part (s.partOf j.2.1)).domain.any fun d => d.1 == pkg
    cs.foldl (fun (s : State) c => s.collEnd c 4 0x383) s

/-- DOMAIN_TIMEOUT (R426): a request to a package has gone unanswered for the domain timeout. -/
def execDomainTimeout (pkg : Nat) (s : State) : Out3 := .next (s.fence pkg 1)

/-- R426: a step that ends the domain timeout of a request. -/
def Turn.isSilent : Turn → Bool
  | .silent _ => true
  | _ => false

/-- DOMAIN_REBUILD (R422, R426): the firmware builds the domain anew, its routing tables with it; this package takes its number, and no timeout of a
request to the old domain fences a package of the new one. -/
def execDomainRebuild (own : Nat) (s : State) : Out3 :=
  .next ({ s with
    fenced := [], ownPkg := own % 64
    timers := s.timers.filter fun t => !t.2.isSilent, todo := s.todo.filter fun t => !t.isSilent } : State).buildRoutes

end Sys2Proof.Machine
end

