-- ==== Sys2Proof/Machine/XlateEv.lean ====
section
/-! DEFINITION. Steps of translation and tiers: SHOOTDOWN_ACK, SHOOTDOWN_COMPLETE, SHOOTDOWN_TIMEOUT, TRACKER_PERIOD, BLOCK_SWITCH,
PARKED_REPLAY, ATOM_REMAP (spec/18 R347 to R359). -/
namespace Sys2Proof.Machine

/-! ### Shoot-downs (R349 to R351) -/

/-- R349: fields of a descriptor. -/
def Shoot.word (x : Shoot) (i : Nat) : Nat := (x.words.getD i 0).toNat
def Shoot.npage (x : Shoot) : Nat := bits (x.word 0) 63 32 + 1
def Shoot.space (x : Shoot) : Nat := bits (x.word 0) 23 20
def Shoot.size (x : Shoot) : Nat := bits (x.word 0) 19 18
def Shoot.scope (x : Shoot) : Nat := bits (x.word 0) 17 16
def Shoot.req (x : Shoot) : Nat := bits (x.word 0) 15 0
def Shoot.va (x : Shoot) : Nat := x.word 1
def Shoot.tmo (x : Shoot) : Nat := bits (x.word 2) 31 0

/-- R349: the bytes of a page of the descriptor's SIZE. -/
def Shoot.page (x : Shoot) : Nat := 2 ^ (15 + 12 * x.size)

/-- R349: the range, as a first address and the first one after it, of the 2^51 addresses of a space. -/
def Shoot.range (x : Shoot) : Nat × Nat :=
  if x.size = 3 then (0, 2 ^ 51) else (x.va % 2 ^ 51, x.va % 2 ^ 51 + x.npage * x.page)

/-- R349: a descriptor that status 2 answers. DEDUCED: notes/assumptions/42.md. -/
def Shoot.malformed (x : Shoot) : Bool :=
  !(x.space == 2 || x.space == 3) || 2 ≤ x.scope || !canonical x.va || (x.size < 3 && x.va % x.page != 0) || 10000 < x.tmo || 2 ^ 51 < x.range.2

/-- R349: the timeout in cycles. -/
def Shoot.limit (x : Shoot) : Nat := usCycles (if x.tmo = 0 then 50 else x.tmo)

/-- R350: an entry of a cache that the shoot-down of partition `p` removes: all that it covers lies in the range. DEDUCED: notes/assumptions/42.md. -/
def Shoot.removes (x : Shoot) (p : Nat) (e : XEntry) : Bool :=
  let n := 2 ^ (15 + 12 * (3 - e.lvl))
  e.part == p && e.space == x.space && x.range.1 ≤ e.va * n && (e.va + 1) * n ≤ x.range.2

/-- A shoot-down in flight changed. -/
def State.modShoot (s : State) (p id : Nat) (f : Shoot → Shoot) : State :=
  s.modPart p fun x => { x with shoots := x.shoots.map fun y => if y.id = id then f y else y }

def State.shoot? (s : State) (p id : Nat) : Option Shoot := (s.part p).shoots.find? fun x => x.id == id

/-- R349: of the shoot-downs of a partition, the first eight are in flight; a later one waits. DEDUCED: notes/assumptions/42.md. -/
def State.shootRuns (s : State) (p id : Nat) : Bool := ((s.part p).shoots.take 8).any fun x => x.id == id

/-- R350: an access of the partition that was translated before is still outstanding. -/
def State.outstanding (s : State) (p : Nat) : Bool := s.parked.any fun x => (s.core x.core).part == some p

/-- R350: every cache and package has answered. -/
def Shoot.answered (x : Shoot) : Bool := x.caches.isEmpty && x.pkgs.isEmpty

/-- SHOOTDOWN_ACK (R350, R426): a cache removes what the range covers and acknowledges; from 12 on, `cache` names package `cache − 12`, whose answer
counts no more once it is fenced.
DEDUCED: notes/assumptions/42.md. -/
def execShootdownAck (p id cache : Nat) (s : State) : Out3 :=
  .next (match s.shoot? p id with
    | none => s
    | some x =>
      if !(x.caches.contains cache || (12 ≤ cache && x.pkgs.contains (cache - 12) && !s.fenced.contains (cache - 12))) then s
      else if !s.shootRuns p id || s.outstanding p then s.after 1 (.ev (.shootdownAck p id cache))
      else
        let s : State := { s with xcache := s.xcache.filter fun e => !(e.cache == cache && x.removes p e) }
        let s := s.modShoot p id fun y => { y with caches := removeNum y.caches cache, pkgs := if 12 ≤ cache then removeNum y.pkgs (cache - 12) else y.pkgs }
        if ((s.shoot? p id).map Shoot.answered).getD false then { s with todo := .ev (.shootdownComplete p id) :: s.todo } else s)

/-- R349: word 3. -/
def shootWord (st fenced : Nat) : Nat := st * 2 ^ 56 + fenced % 2 ^ 8 * 2 ^ 48

/-- R350, R435: the root writes word 3 of a descriptor, and vector 17 follows.
DEDUCED: notes/assumptions/42.md. DESIGN CHOICE: notes/assumptions/51.md. -/
def State.endShoot (s : State) (p addr w : Nat) : State :=
  match s.place 0 0 p 2 ((addr + 24) % 2 ^ 64) needW with
  | (.ok x, s) => (s.writePlace x (toBytes w 8)).interrupt p 17
  | (.error _, s) => s

/-- SHOOTDOWN_COMPLETE (R350). -/
def execShootdownComplete (p id : Nat) (s : State) : Out3 :=
  .next (match s.shoot? p id with
    | none => s
    | some x =>
      if !x.answered then s
      else
        (s.endShoot p x.addr (shootWord (if x.fenced.isEmpty then 0 else 1) x.fenced.length)).modPart p fun y =>
          { y with shoots := y.shoots.filter fun z => z.id != id })

/-- SHOOTDOWN_TIMEOUT (R351, R426): a package that has not answered counts as acknowledged and is fenced. -/
def execShootdownTimeout (p id pkg : Nat) (s : State) : Out3 :=
  .next (match s.shoot? p id with
    | none => s
    | some x =>
      if !x.pkgs.contains pkg then s
      else
        let s := s.modShoot p id fun y => { y with pkgs := removeNum y.pkgs pkg, fenced := insertNum y.fenced pkg }
        let s := (s.fence pkg 0).post { part := p, type := 0x26, arg0 := pkg % 64 + x.req * 2 ^ 16, arg1 := x.va }
        if ((s.shoot? p id).map Shoot.answered).getD false then { s with todo := .ev (.shootdownComplete p id) :: s.todo } else s)

/-- R350: the packages that import the space of partition `p`. -/
def State.importers (s : State) (p space : Nat) : List Nat :=
  ((s.part p).windows.map fun x => x.2).foldl (fun l w =>
    if winV w && winExp w && winSp w == space && winPkg w != s.ownPkg && !s.fenced.contains (winPkg w) then insertNum l (winPkg w) else l) []

/-- R443: an acknowledgement that comes after a time left open. -/
def State.awaitAck (s : State) (p id cache : Nat) : State :=
  let (n, s) := s.draw
  s.after (1 + Config.freeDelay n) (.ev (.shootdownAck p id cache))

/-- R349 to R351: a shoot-down begins. DEDUCED: notes/assumptions/42.md. -/
def State.startShoot (s : State) (p addr : Nat) (words : List Word64) : State :=
  let id := s.nextId
  let s : State := { s with nextId := id + 1 }
  let x : Shoot := { id := id, addr := addr, words := words, caches := upFrom 0 12 }
  if x.malformed then s.endShoot p addr (shootWord 2 0)
  else
    let x := { x with pkgs := if x.scope = 1 then s.importers p x.space else [] }
    let s := s.modPart p fun y => { y with shoots := y.shoots ++ [x] }
    let s := x.pkgs.foldl (fun (s : State) g => s.after x.limit (.ev (.shootdownTimeout p id g))) s
    (x.caches ++ x.pkgs.map (12 + ·)).foldl (fun (s : State) c => s.awaitAck p id c) s

/-! ### Hot-page tracking (R354) -/

/-- R353: the frames of a tier that an entry names or a copy has reserved. -/
def State.usedFrames (s : State) (tier : Bool) : List Nat :=
  ((s.indir.filter fun e => entBacked e.2.toNat && entTier e.2.toNat == tier).map fun e => entFrame e.2.toNat)
    ++ (s.copies.filter fun c => c.tier == tier).map Copy.frame

/-- A free frame of `size` frames from `base`, looked for from place `x` on. -/
def freeFrom (base size x : Nat) (used : List Nat) : Nat → Option Nat
  | 0 => none
  | n + 1 => if used.contains (base + x % size) then freeFrom base size (x + 1) used n else some (base + x % size)

/-- R354: a free frame for a move of a stack: of its HBM, or of the second tier. DESIGN CHOICE: notes/assumptions/40.md. -/
def State.freeFrame (s : State) (stack : Nat) (up : Bool) : Option Nat × State :=
  let base := if up then stack * hbmFrames else 0
  let size := if up then hbmFrames else tierFrames
  let used := (s.usedFrames !up).filter fun f => base ≤ f && f < base + size
  let (n, s) := s.draw
  (freeFrom base size (Config.frameFrom n) used (min size (used.length + 1)), s)

/-- R354: a block that the tracker of a stack may move out of a tier. DEDUCED: notes/assumptions/43.md. -/
def State.movable (s : State) (stack : Nat) (tier : Bool) (e : Nat × BitVec 32) : Bool :=
  let w := e.2.toNat
  e.1 % 8 == stack && entBacked w && entTier w == tier && !entPin w && !entMig w && s.moves.all fun m => m.1 != e.1

/-- A block inserted before the first that it precedes. -/
def insertBlock (before : Nat → Nat → Bool) (b : Nat) : List Nat → List Nat
  | [] => [b]
  | x :: r => if before b x then b :: x :: r else x :: insertBlock before b r

/-- R354: the count of a block. -/
def State.count (s : State) (b : Nat) : Nat := s.heat.getD b 0

/-- R354: the candidates, hottest first, ties to the lower block. -/
def State.hotBlocks (s : State) (stack : Nat) : List Nat :=
  (((s.indir.filter (s.movable stack true)).map fun e => e.1).filter fun b => 64 ≤ s.count b).foldl
    (fun l b => insertBlock (fun x y => s.count y < s.count x || (s.count x == s.count y && x < y)) b l) []

/-- R354: the HBM blocks, coldest first, ties to the higher block. -/
def State.coldBlocks (s : State) (stack : Nat) : List Nat :=
  ((s.indir.filter (s.movable stack false)).map fun e => e.1).foldl
    (fun l b => insertBlock (fun x y => s.count x < s.count y || (s.count x == s.count y && y < x)) b l) []

/-- R354: the choice of moves: candidates, HBM blocks by coldness, free HBM frames and moves chosen so far. DEDUCED: notes/assumptions/43.md. -/
def chooseMoves (count : Nat → Nat) : List Nat → List Nat → Nat → Nat → List (Nat × Bool)
  | [], _, _, _ => []
  | b :: r, cold, free, n =>
    if 4096 ≤ n then []
    else if free != 0 then (b, true) :: chooseMoves count r cold (free - 1) (n + 1)
    else match cold with
      | v :: cold => if count v < count b then (v, false) :: (b, true) :: chooseMoves count r cold 0 (n + 2) else []
      | [] => []

/-- R355: Chosen: the new frame is reserved, MIG is set and the copy begins; it ends within 20 µs (R354). DEDUCED: notes/assumptions/43.md. -/
def State.startMove (s : State) (m : Nat × Bool) : Option State :=
  match s.freeFrame (m.1 % 8) m.2 with
  | (none, _) => none
  | (some f, s) =>
    let w := s.indirEntry m.1
    let (n, s) := s.draw
    some (({ s with
      indir := s.indir.set m.1 (mkEnt (entTier w) true (entPin w) (entFrame w))
      copies := s.copies ++ [{ blk := m.1, tier := !m.2, frame := f }] } : State).after (1 + Config.freeDelay n % usCycles 20) (.switched m.1))

/-- R354: the moves of a stack begin in order, at most 16 copies at a time; a promotion waits for its frame. DEDUCED: notes/assumptions/43.md. -/
def State.startMoves (stack : Nat) : List (Nat × Bool) → State → State
  | [], s => s
  | m :: r, s =>
    if m.1 % 8 != stack then State.startMoves stack r s
    else if 16 ≤ (s.copies.filter fun c => c.blk % 8 == stack).length then s
    else match s.startMove m with
      | some t => State.startMoves stack r { t with moves := t.moves.filter fun x => x != m }
      | none => s

/-- TRACKER_PERIOD (R354, R359): moves are chosen, every count of the stack is halved, and a TIER_MOVE tells of the moves.
DEDUCED: notes/assumptions/43.md. -/
def execTrackerPeriod (stack : Nat) (s : State) : Out3 :=
  .next (
    let free := hbmFrames - ((s.usedFrames false).filter fun f => frameStack f == stack).length - (s.moves.filter fun m => m.1 % 8 == stack && m.2).length
    let ms := chooseMoves s.count (s.hotBlocks stack) (s.coldBlocks stack) free 0
    let s : State := { s with heat := s.heat.map (fun h => if h.1 % 8 = stack then (h.1, h.2 / 2) else h), moves := s.moves ++ ms }
    let s := State.startMoves stack s.moves s
    let up := (ms.filter fun m => m.2).length
    if ms.isEmpty then s else s.post { part := 0, type := 0x27, arg0 := stack % 8 + up % 2 ^ 12 * 2 ^ 16, arg1 := ms.length - up })

/-! ### BLOCK_SWITCH (R355, R356) -/

/-- The cells of memory with `n` bytes from `b` made equal to those from `a`. -/
def memCopy (m : List Host.Cell) (a b n : Nat) : List Host.Cell :=
  (m.filter fun c => a ≤ c.1 && c.1 < a + n).foldl (fun m c => memWrite m (b + (c.1 - a)) c.2) (m.filter fun c => !(b ≤ c.1 && c.1 < b + n))

/-- R355, R356: a frame's 64 KiB and its poison stand in another. DEDUCED: notes/assumptions/44.md. -/
def State.copyFrame (s : State) (a b : Nat) : State :=
  { s with
    mem := memCopy s.mem a b (2 ^ 16)
    bad := (s.bad.filter fun u => !(b / 16 ≤ u && u < b / 16 + 2 ^ 12)) ++
      (s.bad.filter fun u => a / 16 ≤ u && u < a / 16 + 2 ^ 12).map fun u => b / 16 + (u - a / 16)
    wrote := upFrom (b / 16) (2 ^ 12) ++ s.wrote }

/-- BLOCK_SWITCH (R355, R357): the entry names the new frame and MIG is 0; parked accesses are replayed within 1 µs, and waiting moves begin.
DEDUCED: notes/assumptions/44.md. -/
def execBlockSwitch (blk : Nat) (s : State) : Out3 :=
  .next (match s.copyOf blk with
    | none => s
    | some c =>
      let w := s.indirEntry blk
      let s := s.copyFrame (mediaLoc (b2n (entTier w)) (entFrame w * 2 ^ 16)) (mediaLoc (b2n c.tier) (c.frame * 2 ^ 16))
      let s : State := { s with indir := s.indir.set blk (mkEnt c.tier false (entPin w) c.frame), copies := s.copies.filter fun x => x.blk != blk }
      let (n, s) := s.draw
      let s := if s.parked.any fun x => x.blk == blk then s.after (1 + Config.freeDelay n % usCycles 1) (.replay blk) else s
      State.startMoves (blk % 8) s.moves s)

/-! ### PARKED_REPLAY (R357) -/

/-- R357: one parked access is performed: a write, or a far atomic. -/
def State.replayOne (s : State) (x : Parked) : State :=
  let d := x.blk * 2 ^ 16 + x.off
  match x.data with
  | _ :: _ => (s.heatUp d).putDpa d x.data
  | [] =>
    match (s.core x.core).far.find? fun f => f.id == x.id with
    | none => s
    | some f =>
      let s := s.modCore x.core fun c => { c with far := c.far.map fun g => if g.id == x.id then { g with parked := false } else g }
      match s.media d with
      | some l => s.farApply x.core f (.loc l (some d))
      | none => (s.farFault x.core f 0x214 f.addr).writeBroken x.core x.id 0x214 f.addr

/-- PARKED_REPLAY (R357): the accesses parked at a block are performed in order against its new frame. DEDUCED: notes/assumptions/44.md. -/
def execParkedReplay (blk : Nat) (s : State) : Out3 :=
  .next (
    if entMig (s.indirEntry blk) then s
    else
      (s.parked.filter fun x => x.blk == blk).foldl State.replayOne { s with parked := s.parked.filter fun x => x.blk != blk })

/-! ### ATOM_REMAP (R358, R359) -/

/-- ATOM_REMAP (R358): an HBM atom moves into its base die's table while that has room; no value changes. DEDUCED: notes/assumptions/45.md. -/
def execAtomRemap (tier media : Nat) (s : State) : Out3 :=
  .next (
    let a := media / 32 * 32
    let k := frameStack (a / 2 ^ 16)
    if tier != 0 || 8 * hbmFrames * 2 ^ 16 ≤ a || !s.remapFree a then s
    else ({ s with remaps := (0, a) :: s.remaps } : State).post { part := 0, type := 0x28, arg0 := k + (s.remapped k + 1) % 2 ^ 13 * 2 ^ 16, arg1 := a })

end Sys2Proof.Machine
end

