-- ==== Sys2Proof/Machine/HostEv.lean ====
section
/-! DEFINITION. Steps of the host interface: BAR2 and BAR0 accesses, the registers of the functions, queues, debug, partitions, resets and
bring-up (spec/26 R430 to R441; spec/12 R246; spec/21 R379, R387, R390; spec/23 R405, R408, R411; spec/24 R421). -/
namespace Sys2Proof.Machine

/-- R431, R189: the function exists and the package is not held in reset. DESIGN CHOICE: notes/assumptions/46.md. DEDUCED: notes/assumptions/47.md. -/
def State.fnUp (s : State) (f : Nat) : Bool := !s.tripped && (f == 0 || (s.vfEnable && f ≤ s.numVfs && f < 64))

/-- R433: the function takes writes to its page. -/
def State.pageUp (s : State) (f : Nat) : Bool := s.fnUp f && ((s.part f).resetting).isNone

/-- R440: a HOST_FAULT record; `kind` is 0 for BAR2, 1 for SUBMIT. DEDUCED: notes/assumptions/52.md. -/
def State.hostFault (s : State) (f cause kind va : Nat) : State := s.post { part := f, type := 0x31, arg0 := cause % 1024 + kind * 2 ^ 10, arg1 := va % 2 ^ 64 }

/-! ### BAR2 (R432) -/

/-- R431, R432: the virtual address of a BAR2 offset. -/
def State.bar2Addr (s : State) (f off : Nat) : Nat := ((s.part f).apbase + off % 2 ^ 36) % 2 ^ 64

/-- BAR2_READ (R432): the bytes, or Completer Abort and a HOST_FAULT. DESIGN CHOICE: notes/assumptions/51.md. -/
def execBar2Read (f off n : Nat) (s : State) : Out3 :=
  .next (
    if !s.fnUp f then s
    else
      let va := s.bar2Addr f off
      match s.fetch 0 0 f 2 va needR n with
      | (.ok v, s) => { s with reply := .bytes v }
      | (.error x, s) => ({ s with reply := .abort } : State).hostFault f x.1 0 va)

/-- BAR2_WRITE (R432): the bytes are written, or the write is dropped with a HOST_FAULT. DESIGN CHOICE: notes/assumptions/51.md. -/
def execBar2Write (f off : Nat) (data : List Byte) (s : State) : Out3 :=
  .next (
    if !s.fnUp f then s
    else
      let va := s.bar2Addr f off
      match s.atomPlaces 0 0 f 2 va data.length (atomCount va data.length) with
      | (.ok l, s) => (l.foldl (fun (r : State × List Byte) p => (r.1.writePlace p.1 (r.2.take p.2), r.2.drop p.2)) (s, data)).1
      | (.error x, s) => s.hostFault f x.1 0 va)

/-! ### Reading registers (R433, R436) -/

/-- R433: a field placed in a register. -/
def field (v hi lo : Nat) : Nat := v % 2 ^ (hi + 1 - lo) * 2 ^ lo

/-- R433: the ID register. -/
def State.idReg (s : State) (f : Nat) : Nat :=
  field 0x4256 63 48 + field Config.revision.toNat 47 40 + field f 37 32 + field ((s.part f).cores.length + 255) 7 0

/-- The physical core of a logical number. -/
def State.coreOf (s : State) (f lc : Nat) : Option Nat := (s.part f).cores[lc]?

/-- R433: the registers of every function. DEDUCED: notes/assumptions/50.md. -/
def State.readPage (s : State) (f off : Nat) : Nat :=
  let x := s.part f
  if 0x100 ≤ off && off ≤ 0x178 && off % 8 = 0 then (x.queues.getD ((off - 0x100) / 8) {}).done.toNat
  else if 0xB8 ≤ off && off ≤ 0xD0 && off % 8 = 0 then
    match s.coreOf f x.fbkpsel with
    | some k => ((s.core k).fbkp.getD ((off - 0xB8) / 8) 0).toNat
    | none => 0
  else match off with
    | 0x000 => s.idReg f
    | 0x008 => b2n x.ready + 2 * b2n x.resetting.isSome
    | 0x010 => x.rights % 8
    | 0x018 => x.root2
    | 0x020 => x.root3
    | 0x028 => x.apbase
    | 0x030 => x.eqbase
    | 0x038 => x.eqctl
    | 0x040 => x.eqhead
    | 0x048 => x.eqtail
    | 0x050 => x.trbase
    | 0x058 => x.trctl
    | 0x060 => x.drain
    | 0x068 => x.irqctl
    | 0x0A0 => x.dbgpc.toNat
    | 0x0A8 => x.dbgstat.toNat
    | 0x0B0 => x.fbkpsel
    | _ => 0

/-- R436: the lane group that LSEL selects. -/
def State.lselGroup (s : State) : Nat := bits s.lsel 1 0 * 16 + bits s.lsel 5 5 * 8 + bits s.lsel 4 2

/-- R421: the status word of a lane group. -/
def LaneGroup.status (g : LaneGroup) : Nat :=
  field g.crcerr.toNat 63 48 + field g.replays.toNat 47 32 + spmapWord g.spmap * 2 ^ 8 + (g.spmap.foldl (fun v p => v ||| 2 ^ p.1) 0) % 16 * 2 ^ 4
    + b2n g.retired * 2 ^ 3

/-- R436: the physical function's registers, those that a read clears apart. DEDUCED: notes/assumptions/50.md. -/
def State.readPf (s : State) (off : Nat) : Nat :=
  let x := s.part s.psel
  if 0x810 ≤ off && off ≤ 0x828 && off % 8 = 0 then x.pcores / 2 ^ (8 * (off - 0x810)) % 2 ^ 64
  else match off with
    | 0x800 => s.psel
    | 0x808 => field (if x.resetting.isSome then 1 else x.pctl) 9 8
    | 0x830 => x.rights % 8
    | 0x838 => x.pqos.toNat
    | 0x840 => s.wsel
    | 0x848 => (x.windows.getD s.wsel (0, 0)).1.toNat
    | 0x850 => (x.windows.getD s.wsel (0, 0)).2.toNat
    | 0x858 => s.dgsel
    | 0x860 => (x.dgroup.getD s.dgsel 0).toNat
    | 0x868 => s.dtmo
    | 0x870 => s.trkper
    | 0x888 => s.bootstat
    | 0x898 => s.lsel
    | 0x8C8 => x.pboost
    | _ => 0

/-- R6, R390: a die's counters are read and cleared; what this cycle counts survives. -/
def State.readErrc (s : State) (die : Nat) : State := { s with reply := .word (BitVec.ofNat 64 (s.errc.getD die 0)), errc := s.errc.set die 0 }

/-- R6, R421: the selected group's status is read and its counts are cleared; what this cycle counts survives. -/
def State.readLstat (s : State) : State :=
  ({ s with reply := .word (BitVec.ofNat 64 (s.group s.lselGroup).status) } : State).modGroup s.lselGroup fun g => { g with crcerr := 0, replays := 0 }

/-- BAR0_READ_FLUSH (R432, R433, R436): earlier BAR2 writes are performed; the register's value is the reply. -/
def execBar0ReadFlush (f off : Nat) (s : State) : Out3 :=
  .next (
    if !s.fnUp f then s
    else if f = 0 && 0x8A8 ≤ off && off ≤ 0x8C0 && off % 8 = 0 then s.readErrc ((off - 0x8A8) / 8)
    else if f = 0 && off = 0x8A0 then s.readLstat
    else { s with reply := .word (BitVec.ofNat 64 (if f = 0 && 0x800 ≤ off then s.readPf off else s.readPage f off)) })

/-- ERROR_COUNTER_READ (R390). -/
def execErrorCounterRead (die : Nat) (s : State) : Out3 := .next (if s.fnUp 0 && die < 4 then s.readErrc die else s)

/-- LANE_STATUS_READ (R421). -/
def execLaneStatusRead (s : State) : Out3 := .next (if s.fnUp 0 then s.readLstat else s)

/-! ### Writing registers (R433, R436) -/

/-- R435: after IRQCTL or EQHEAD changes, TIMER may already have run out for the oldest unread record, or runs on. DEDUCED: notes/assumptions/22.md. -/
def State.rearm (s : State) (f : Nat) : State :=
  let x := s.part f
  match x.unread with
  | t :: _ =>
    let due := t + usCycles (bits x.irqctl 31 16)
    if !bit x.irqctl 0 then s else if due ≤ s.cycle then s.interrupt f 0 else s.after (due - s.cycle) (.irq f)
  | [] => s

/-- R435: after IRQCTL is written with EN = 1, enough records may stand unread. DEDUCED: notes/assumptions/22.md. -/
def State.rethresh (s : State) (f : Nat) : State :=
  let x := s.part f
  if bit x.irqctl 0 && 1 ≤ bits x.irqctl 47 32 && bits x.irqctl 47 32 ≤ x.unreadCount then s.interrupt f 0 else s

/-- R191, R435: software advances the head. -/
def State.writeHead (s : State) (f v : Nat) : State :=
  let x := s.part f
  let n := (v + 2 ^ 16 - x.eqhead) % 2 ^ 16
  let s := s.modPart f fun x => { x with eqhead := v % 2 ^ 16, unread := x.unread.drop n }
  if n = 0 then s else s.rearm f

/-- R402, R433: a sample exponent in its range. DEDUCED: notes/assumptions/50.md. -/
def sampleOk (n : Nat) : Bool := n == 0 || (10 ≤ n && n ≤ 24)

/-- R407, R433: a breakpoint word without its reserved bits. DEDUCED: notes/assumptions/50.md. -/
def fbkpWord (v : Word64) : Word64 := v &&& 0xF8FFFFFFFFFFFFFF#64

/-- R407: the breakpoint words of a core may be written: not while only launches without DEBUG hold its regions. DEDUCED: notes/assumptions/24.md. -/
def State.fbkpUp (s : State) (k : Nat) : Bool :=
  let l := (s.core k).regions
  l.isEmpty || l.any fun r => ((s.launches.get? r.2.launch).map Launch.debug).getD false

/-- R6, R407: the function writes a breakpoint word; the write wins over the counts of the same cycle. -/
def State.writeFbkp (s : State) (k i : Nat) (v : Word64) : State :=
  if s.fbkpUp k then s.modCore k fun c => { c with fbkp := setAt c.fbkp i (fbkpWord v), fbkpAt := setAt c.fbkpAt i s.cycle } else s

/-- R433: a register of a function's page is written. DEDUCED: notes/assumptions/50.md. -/
def State.writePage (s : State) (f off : Nat) (v : Word64) : State :=
  let n := v.toNat
  if 0xB8 ≤ off && off ≤ 0xD0 && off % 8 = 0 then
    match s.coreOf f (s.part f).fbkpsel with
    | some k => s.writeFbkp k ((off - 0xB8) / 8) v
    | none => s
  else match off with
    | 0x018 => s.modPart f fun x => { x with root2 := bits n 43 15 * 2 ^ 15 }
    | 0x020 => s.modPart f fun x => { x with root3 := bits n 43 15 * 2 ^ 15 }
    | 0x028 => if canonical n then s.modPart f fun x => { x with apbase := bits n 63 36 * 2 ^ 36 } else s
    | 0x030 => s.modPart f fun x => { x with eqbase := bits n 63 15 * 2 ^ 15 }
    | 0x040 => s.writeHead f (n % 2 ^ 16)
    | 0x050 => s.modPart f fun x => { x with trbase := bits n 63 15 * 2 ^ 15 }
    | 0x058 =>
      if sampleOk (bits n 12 8) then
        s.modPart f fun x => { x with trctl := field (bits n 20 16) 20 16 + field (bits n 12 8) 12 8 + field (bits n 7 4) 7 4 + n % 2 }
      else s
    | 0x060 => if 1 ≤ n && n ≤ 10000 then s.modPart f fun x => { x with drain := n } else s
    | 0x068 =>
      let s := s.modPart f fun x => { x with irqctl := field (bits n 47 32) 47 32 + field (bits n 31 16) 31 16 + n % 2 }
      (s.rethresh f).rearm f
    | 0x0A0 => s.modPart f fun x => { x with dbgpc := BitVec.ofNat 32 n }
    | 0x0B0 => s.modPart f fun x => { x with fbkpsel := n % 256 }
    | _ => s

/-- R437: the selected partition, where it does not exist yet, changed. -/
def State.modNew (s : State) (f : Part → Part) : State := if (s.part s.psel).ready then s else s.modPart s.psel f

/-- R436: PQOS without a weight of 0. DEDUCED: notes/assumptions/50.md. -/
def qosOk (n : Nat) : Bool := bits n 31 24 != 0 && bits n 23 16 != 0 && bits n 15 8 != 0 && bits n 7 0 != 0

/-- R436: a register of the physical function is written. DEDUCED: notes/assumptions/50.md. -/
def State.writePf (s : State) (off : Nat) (v : Word64) : State :=
  let n := v.toNat
  if 0x810 ≤ off && off ≤ 0x828 && off % 8 = 0 then s.modNew fun x => { x with pcores := setBits x.pcores (8 * (off - 0x810)) 64 n }
  else match off with
    | 0x800 => { s with psel := n % 64 }
    | 0x830 => s.modNew fun x => { x with rights := n % 8 }
    | 0x838 => if qosOk n then s.modPart s.psel fun x => { x with pqos := BitVec.ofNat 32 n } else s
    | 0x840 => { s with wsel := n % 64 }
    | 0x848 => s.modNew fun x => { x with windows := x.windows.set s.wsel (v &&& 0xC0FFF8001FFFFFFF#64, (x.windows.getD s.wsel (0, 0)).2) }
    | 0x850 => if !canonical (n / 2 ^ 15 * 2 ^ 15) then s else s.modNew fun x => { x with windows := x.windows.set s.wsel ((x.windows.getD s.wsel (0, 0)).1, v &&& 0xFFFFFFFFFFFF8000#64) }
    | 0x858 => { s with dgsel := n % 64 }
    | 0x860 => s.modPart s.psel fun x => { x with dgroup := x.dgroup.set s.dgsel (v &&& 0x8000000000003F3F#64) }
    | 0x868 => if 1 ≤ n && n ≤ 10000 then { s with dtmo := n } else s
    | 0x870 => if 1 ≤ n && n ≤ 1000 then { s with trkper := n } else s
    | 0x898 => { s with lsel := n % 64 }
    | 0x8C8 => if n % 2 ^ 12 ≤ 2200 then s.modPart s.psel fun x => { x with pboost := n % 2 ^ 12 } else s
    | _ => s

/-- REGISTER_WRITE (R433, R436): a register without behaviour of its own; the others have steps of their own. DESIGN CHOICE: notes/assumptions/15.md. -/
def execRegisterWrite (f off : Nat) (v : Word64) (s : State) : Out3 :=
  .next (if !s.pageUp f then s else if f = 0 && 0x800 ≤ off then s.writePf off v else s.writePage f off v)

/-- EQCTL_WRITE (R433): while EN = 1, only a write that clears EN acts; an N out of its range leaves the register. DEDUCED: notes/assumptions/50.md. -/
def execEqctlWrite (f : Nat) (v : Word64) (s : State) : Out3 :=
  .next (
    let n := v.toNat
    if !s.pageUp f || bits n 20 16 < 6 || 16 < bits n 20 16 || (bit (s.part f).eqctl 0 && bit n 0) then s
    else s.modPart f fun x => { x with eqctl := field (bits n 20 16) 20 16 + n % 2 })

/-! ### Queues (R434, R433, R246, R387) -/

/-- R434: the record that an address names, as an engine read. DESIGN CHOICE: notes/assumptions/51.md. -/
def State.readRecord (s : State) (f a : Nat) : Except (Nat × Nat) (List Word64) × State :=
  match s.fetch 0 0 f 2 a needR 128 with
  | (.ok v, s) => (.ok (wordsOf v 16), s)
  | (.error x, s) => (.error x, s)

/-- SUBMIT (R432, R434): the record is read and enters its queue, or is dropped with a HOST_FAULT. DESIGN CHOICE: notes/assumptions/15.md. -/
def execSubmit (f : Nat) (v : Word64) (s : State) : Out3 :=
  .next (
    let a := v.toNat / 2 ^ 7 * 2 ^ 7
    if !s.pageUp f then s
    else match s.readRecord f a with
      | (.error x, s) => s.hostFault f x.1 1 a
      | (.ok w, s) =>
        let q := bits (stW w 0) 47 44
        if 64 ≤ (s.queue f q).recs.length then s.hostFault f 0x381 1 a else s.appendQueue f q { words := w, src := some a })

/-- SKIP (R246): a Stopped queue's head retires as failed. DEDUCED: notes/assumptions/60.md. -/
def execSkip (f q : Nat) (s : State) : Out3 :=
  .next (
    let x := s.queue f q
    if !s.pageUp f || x.st != .stopped then s
    else
      let tag := ((x.recs.head?).map fun r => stW r.words 12).getD 0
      let s := s.advanceDone f q
      s.post { part := f, type := 0x21, arg0 := queueArg (s.queue f q).done q (x.cause % 1024), arg1 := tag })

/-- RETRY (R246): a record that SUBMIT placed is read again, and the head is checked again. DEDUCED: notes/assumptions/60.md. -/
def execRetry (f q : Nat) (s : State) : Out3 :=
  .next (
    let x := s.queue f q
    let again (s : State) (h : QRec → QRec) : State :=
      s.modQueue f q fun y => { y with st := .waiting, checked := false, launch := none, cause := 0, recs := (y.recs.take 1).map h ++ y.recs.drop 1 }
    if !s.pageUp f || x.st != .stopped then s
    else match (x.recs.head?).bind QRec.src with
      | none => again s id
      | some a => (match s.readRecord f a with
        | (.error e, s) => s.hostFault f e.1 1 a
        | (.ok w, s) => again s fun r => { r with words := w }))

/-- QUEUE_KILL (R433, R387): the head launch of a queue that is Placing or Running is killed. -/
def execQueueKill (f q : Nat) (s : State) : Out3 :=
  .next (
    let x := s.queue f q
    match x.launch with
    | some l => if s.pageUp f && (x.st == .placing || x.st == .running) then s.failLaunch l 0x387 else s
    | none => s)

/-- REGION_ABORT (R387): the launch that owns a region is killed. -/
def execRegionAbort (f lc r : Nat) (s : State) : Out3 :=
  .next (match s.coreOf f lc with
    | some k => (match s.region? k r with
      | some x => if s.pageUp f then (s.blame x.launch k).failLaunch x.launch 0x387 else s
      | none => s)
    | none => s)

/-- IMGFREE (R379): the image at an offset of the partition's image area is freed. DESIGN CHOICE: notes/assumptions/27.md. -/
def execImgfree (f off : Nat) (s : State) : Out3 :=
  .next (if s.pageUp f then { s with images := s.images.filter fun i => !(i.2.part == f && i.2.off == off) } else s)

/-- SHOOT (R349, R432): the descriptor is read, and the shoot-down begins. DEDUCED: notes/assumptions/52.md. -/
def execShoot (f : Nat) (v : Word64) (s : State) : Out3 :=
  .next (
    let a := v.toNat / 2 ^ 5 * 2 ^ 5
    if !s.pageUp f then s
    else match s.fetch 0 0 f 2 a needR 32 with
      | (.error x, s) => s.hostFault f x.1 0 a
      | (.ok b, s) => s.startShoot f a (wordsOf b 4))

/-! ### Debug (R405, R408, R433) -/

/-- R433: DBGCTL acts only with DEBUG granted. -/
def State.debugUp (s : State) (f : Nat) : Bool := s.pageUp f && bit (s.part f).rights 1

/-- R408: a debug-halted control core resumes at a PC. -/
def State.resumeAt (s : State) (k : Nat) (pc : BitVec 32) : State :=
  let c := s.cc k
  if c.run == .waiting && c.wait == .debug then
    let s := s.modCc k fun c => ({ c with run := .running, wait := .nothing, pc := pc, nextIssue := s.cycle } : ControlCore).settle
    if c.trapping.isSome then { s with todo := .ev (.trapEntry k) :: s.todo } else s
  else s

/-- DEBUG_RESUME (R408): at PC + 8. -/
def execDebugResume (f lc : Nat) (s : State) : Out3 :=
  .next (match s.coreOf f lc with
    | some k => if s.debugUp f then s.resumeAt k ((s.cc k).pc + 8) else s
    | none => s)

/-- DEBUG_RESUME_AT_DBGPC (R408). -/
def execDebugResumeAtDbgpc (f lc : Nat) (s : State) : Out3 :=
  .next (match s.coreOf f lc with
    | some k => if s.debugUp f then s.resumeAt k (s.part f).dbgpc else s
    | none => s)

/-- REGION_RESUME (R405). -/
def execRegionResume (f lc r : Nat) (s : State) : Out3 :=
  .next (match s.coreOf f lc with
    | some k => if s.debugUp f then s.modRegion k r fun x => { x with stopped := false } else s
    | none => s)

/-- REGION_IMAGE_WRITE (R405, R379, R380): a stopped region's image, with NENT 0, goes into the image area, and DBGSTAT names its offset.
DESIGN CHOICE: notes/assumptions/26.md. -/
def execRegionImageWrite (f lc rn : Nat) (s : State) : Out3 :=
  .next (match s.coreOf f lc with
    | none => s
    | some k =>
      match s.region? k rn with
      | none => s
      | some r =>
        match s.launches.get? r.launch with
        | none => s
        | some x =>
          if !s.debugUp f || !r.stopped || r.freeze != .none then s
          else
            let b := imageBytes (s.core k) x r.member ((x.members[r.member]?).getD { core := k }) (some (rn, r)) (s.imageArgs r.launch r.member x false false) true
            match s.imageFit f b.length with
            | none => s.modPart f fun y => { y with dbgstat := 0 }
            | some off =>
              let n := s.nextId
              let s : State := { s with nextId := n + 1, images := s.images.set n { part := f, launch := r.launch, member := r.member, off := off, len := b.length } }
              (s.put (imageLoc f off) b).modPart f fun y => { y with dbgstat := BitVec.ofNat 64 (2 ^ 63 + off) })

/-! ### Partitions (R437, R438) -/

/-- R437, R438: the register page of a partition takes its reset values; what the physical function holds of it stays.
DEDUCED: notes/assumptions/49.md. -/
def Part.clearPage (x : Part) : Part :=
  { ready := x.ready, cores := x.cores, removed := x.removed, rights := x.rights, pcores := x.pcores, pctl := x.pctl, pboost := x.pboost, pqos := x.pqos
    windows := x.windows, dgroup := x.dgroup }

/-- R28, R438: a control core goes Idle; a core out of the logical map stays Off. DEDUCED: notes/assumptions/49.md. -/
def ControlCore.goIdle (c : ControlCore) : ControlCore := { run := if c.run == .off then .off else .idle, coreid := c.coreid }

/-- R342, R438: a control core goes Idle and its commands end without their tokens. -/
def State.idleCore (s : State) (k : Nat) : State := (((s.abortScan k false).withdraw k).dropCmds k).modCc k ControlCore.goIdle

/-- R182: the counts of the string registers restart. -/
def Core.clearCounts (c : Core) : Core :=
  { c with fillCount := 0, throtCount := 0, strings := c.strings.map fun p => (p.1, { p.2 with imbalance := 0 }) }

/-- R438, R437: zeros and tags 0 in the tile memory of a core. -/
def State.scrub (s : State) (k : Nat) : State :=
  { s with
    mem := s.mem.filter fun c => !(tileLoc k 0 ≤ c.1 && c.1 < tileLoc (k + 1) 0)
    tags := s.tags.filter fun u => !(tileLoc k 0 / 16 ≤ u && u < tileLoc (k + 1) 0 / 16)
    bad := s.bad.filter fun u => !(tileLoc k 0 / 16 ≤ u && u < tileLoc (k + 1) 0 / 16) }

/-- R438: core reset, its launches killed already: the control core goes Idle, the bank tokens go to the free pool (R268) and the fabric is
reinitialised (R393). DEDUCED: notes/assumptions/49.md. -/
def State.resetCore (s : State) (k : Nat) : State :=
  ((s.idleCore k).modCore k fun c => { c.clearCounts with
    bankTok := [], inbox := none, others := [], broken := [], scan := none, fbkp := [0, 0, 0, 0] }).reinitialise k false

/-- CORE_RESET (R433, R438, R439): CORERST. DEDUCED: notes/assumptions/49.md. -/
def execCoreReset (k : Nat) (s : State) : Out3 :=
  .next (
    if !s.pageUp 0 || ((s.core k).part.bind fun p => (s.part p).resetting).isSome then s
    else
      let ls := (s.launches.filter fun x => x.2.members.any fun m => m.core == k).map fun x => x.1
      (ls.foldl (fun (s : State) l => (s.blame l k).failLaunch l 0x387) s).resetCore k)

/-- R437: the cores of a map in ascending order. -/
def coresOf (m : Nat) : List Nat := (upFrom 0 256).filter fun k => bit m k

/-- R437: the test of a creation. -/
def State.mayCreate (s : State) (p : Nat) : Bool :=
  let x := s.part p
  !x.ready && s.fnUp p && !(coresOf x.pcores).isEmpty && (coresOf x.pcores).all fun k => (s.core k).part.isNone && (s.cc k).run != .off

/-- PARTITION_CREATE (R437): the selected partition is created, or PCTL reads 2. -/
def execPartitionCreate (s : State) : Out3 :=
  .next (
    let p := s.psel
    if !s.pageUp 0 then s
    else if !s.mayCreate p then s.modPart p fun x => { x with pctl := 2 }
    else
      let ks := coresOf (s.part p).pcores
      let s := ((upFrom 0 ks.length).zip ks).foldl (fun (s : State) c => ((s.resetCore c.2).scrub c.2).modCore c.2 fun x =>
        { x with part := some p, lcore := c.1, bankOwner := [], quarantine := none }) s
      s.modPart p fun x => { x.clearPage with ready := true, cores := ks, removed := [], pctl := 0 })

/-- R438, step 1: the regions of a core freeze. -/
def State.quench (s : State) (k : Nat) : State := (s.core k).regions.foldl (fun (s : State) r => s.requestFreeze k r.1 .reset) s

/-- R438, step 1: every region of a core has frozen. -/
def State.stilled (s : State) (k : Nat) : Bool := (s.core k).regions.all fun r => r.2.freeze == .none

/-- R438, step 2: once every region of the partition has frozen, its control cores go Idle, and their commands end without their tokens.
DEDUCED: notes/assumptions/49.md. -/
def State.resetIdle (s : State) (p : Nat) : State :=
  let x := s.part p
  if x.resetting.isNone then s
  else if x.cores.all s.stilled then x.cores.foldl State.idleCore s
  else s.after 1 (.resetIdle p)

/-- R386, R438: the leases in the images that a reset discards: forfeited where the cores pass on, returned otherwise, in the physical function's queue.
DEDUCED: notes/assumptions/49.md. -/
def State.dropLeases (s : State) (p reason : Nat) : State :=
  ((s.images.filter fun i => i.2.part == p).filterMap fun i => i.2.lease).foldl (fun (s : State) l =>
    if reason = 2 then s.forfeit 0 l.2 else s.postPart 0 0x09 2 l.2) s

/-- R438, R439: a partition reset begins, for a reason of PART_RESET; a second is one with the first. DEDUCED: notes/assumptions/49.md. -/
def State.beginReset (s : State) (p reason : Nat) : State :=
  let x := s.part p
  if !x.ready then s
  else if x.resetting.isSome then (if reason = 2 then s.modPart p fun x => { x with resetting := some 2 } else s)
  else
    let s := s.modPart p fun x => { x with
      resetting := some reason
      queues := x.queues.map fun q => (q.1, { q.2 with st := .empty, recs := [], checked := false, launch := none, cause := 0 }) }
    let s := s.dropLeases p reason
    let s : State := { s with
      images := s.images.filter fun i => i.2.part != p
      launches := s.launches.map fun y => if y.2.part = p then (y.1, { y.2 with failing := some 0x387, preempted := false }) else y }
    let s := (x.cores.foldl State.quench s).resetIdle p
    let (n, s) := s.draw
    s.after (1 + Config.freeDelay n % usCycles 5000) (.resetEnd p)

/-- PARTITION_RESET (R438): PCTL 3 on the selected partition; one that does not exist is refused. DEDUCED: notes/assumptions/49.md. -/
def execPartitionReset (s : State) : Out3 :=
  .next (if !s.pageUp 0 then s else if (s.part s.psel).ready then (s.modPart s.psel fun x => { x with pctl := 0 }).beginReset s.psel 1
    else s.modPart s.psel fun x => { x with pctl := 2 })

/-- PARTITION_DESTROY (R437). DEDUCED: notes/assumptions/49.md. -/
def execPartitionDestroy (s : State) : Out3 :=
  .next (if !s.pageUp 0 then s else if (s.part s.psel).ready then (s.modPart s.psel fun x => { x with pctl := 0 }).beginReset s.psel 2
    else s.modPart s.psel fun x => { x with pctl := 2 })

/-- FUNCTION_LEVEL_RESET (R438). -/
def execFunctionLevelReset (f : Nat) (s : State) : Out3 := .next (if s.fnUp f then s.beginReset f 0 else s)

/-- VF_DISABLE (R431): NumVFs becomes `n`, 0 clearing VF Enable; the partitions above it are reset and destroyed.
DESIGN CHOICE: notes/assumptions/46.md. -/
def execVfDisable (n : Nat) (s : State) : Out3 :=
  .next (
    if s.tripped then s
    else
      let ps := (s.parts.filter fun x => max 1 (n + 1) ≤ x.1 && x.2.ready).map fun x => x.1
      ps.foldl (fun (s : State) p => s.beginReset p 2) { s with vfEnable := n != 0, numVfs := min n 63 })

/-- R438, steps 1 and 2: every region of a core has frozen, its control core is Idle, and its far atomics are done. DEDUCED: notes/assumptions/49.md. -/
def State.quenched (s : State) (k : Nat) : Bool := (s.core k).far.isEmpty && s.stilled k && ((s.cc k).run == .idle || (s.cc k).run == .off)

/-- R438, steps 3 and 4: a core of a partition once the reset ends. -/
def State.clearCore (s : State) (k : Nat) : State :=
  (s.scrub k).modCore k fun c => { c.cleanFabric with
    bankTok := [], bankOwner := [], inbox := none, others := [], broken := [], quarantine := none, fbkp := [0, 0, 0, 0]
    strings := c.strings.map fun p => (p.1, { p.2 with heavy := 0, light := 0 }) }

/-- R438, step 4: the lease ends, with its record in the physical function's queue. -/
def State.resetLease (s : State) (p : Nat) : State :=
  match (s.part p).lease with
  | some l => ({ s with suspended := s.suspended.filter (· != p) } : State).postPart 0 0x09 2 l.left
  | none => s

/-- R437: a destroyed partition's cores are released. -/
def State.releaseCores (s : State) (p : Nat) : State :=
  ((s.part p).cores.foldl (fun (s : State) k => s.modCore k fun c => { c with part := none, lcore := 0 }) s).modPart p fun x =>
    { x with ready := false, cores := [], removed := [] }

/-- PARTITION_RESET_COMPLETE (R350, R438): steps 3 to 6, once the regions have frozen, the far atomics are done and the shoot-downs in flight have
completed. Vector 18 follows the record (R435). DEDUCED: notes/assumptions/49.md. -/
def execPartitionResetComplete (p : Nat) (s : State) : Out3 :=
  .next (match (s.part p).resetting with
    | none => s
    | some reason =>
      let x := s.part p
      if !x.cores.all s.quenched || !x.shoots.isEmpty then s.after 1 (.resetEnd p)
      else
        let ls := (s.launches.filter fun y => y.2.part == p).map fun y => y.1
        let s := x.cores.foldl State.clearCore s
        let s := s.resetLease p
        let s : State := { s with
          launches := s.launches.filter fun y => y.2.part != p, colls := s.colls.filter fun c => c.domain || !ls.contains c.launch }
        let s := s.modPart p Part.clearPage
        let s := if reason = 2 then s.releaseCores p else s
        s.post { part := 0, type := 0x30, arg0 := p % 64 + reason * 2 ^ 8 })

/-! ### Resets of the package and bring-up (R438, R441) -/

/-- PACKAGE_RESET (R433, R438): PKGRST. -/
def execPackageReset (s : State) : Out3 := .next (if s.pageUp 0 then s.packageReset.bootAgain else s)

/-- R189: every sensor reads below 95 °C. DEDUCED: notes/assumptions/47.md. -/
def State.cool (s : State) : Bool := s.sensors.all fun x => decide (x.2 < 95 * 16)

/-- FUNDAMENTAL_RESET (R438): a fundamental or hot reset; the host's action that ends a trip once every sensor is below 95 °C (R189).
DEDUCED: notes/assumptions/47.md. -/
def execFundamentalReset (s : State) : Out3 :=
  .next (if s.tripped && !s.cool then s else ({ s.packageReset with tripped := false } : State).bootAgain)

/-- DUMP_RELEASE (R411). -/
def execDumpRelease (s : State) : Out3 := .next (if s.pageUp 0 then { s with dumpHeld := false } else s)

/-- BRING_UP (R441): power-on; a package that has come up ignores it. DESIGN CHOICE: notes/assumptions/15.md. DEDUCED: notes/assumptions/48.md. -/
def execBringUp (b : BringUp) (s : State) : Out3 := .next (if s.boot.isSome then s else s.bringUpFrom 1 b.fails b)

end Sys2Proof.Machine
end

