-- ==== Sys2Proof/Machine/IntOps.lean ====
section
/-! DEFINITION. Rows 0x0 to 0x2: the integer add family, multiply and divide, logic and bits (spec/04 R82 to R88). -/
namespace Sys2Proof.Machine

/-- R40, R41, R82: an operation of two sources at the destination's width. -/
def int2 (g : Sgn) (sat : Bool) (f : Nat → Int → Int → Int) (d a b : Operand) (s : State) : Eff :=
  let w := destWidth d
  quietOf s d (narrow sat g (f w ((s.src a).val g w) ((s.src b).val g w)) w)

/-- R82: an operation of one source. -/
def int1 (g : Sgn) (f : Int → Int) (d a : Operand) (s : State) : Eff :=
  let w := destWidth d
  quietOf s d (narrow false g (f ((s.src a).val g w)) w)

/-- R83: the sum or difference with the carry predicate `p`, which receives the carry; the dest field's value stands (R42). -/
def carryOp (f : Nat → Int → Int → Int → Int × Bool) (d a b : Operand) (p : Nat) (s : State) : Eff :=
  let w := destWidth d
  let r := f w ((s.src a).val .z w) ((s.src b).val .z w) (b2n (s.regs.preds.getLsbD p))
  (({} : Eff).pred p r.2).put s.ctxNo d (wrap r.1 w)

/-- R83: ADDC and SUBB. -/
def addCarry (w : Nat) (a b c : Int) : Int × Bool := (a + b + c, a + b + c ≥ ((2 ^ w : Nat) : Int))
def subBorrow (_w : Nat) (a b c : Int) : Int × Bool := (a - b - c, a - b - c < 0)

/-- R84: the high half of a product. -/
def highHalf (w : Nat) (a b : Int) : Int := (a * b) / ((2 ^ w : Nat) : Int)

/-- R86: a bitwise operation on patterns of width `w`. -/
def bitwise (f : Nat → Nat → Nat → Nat) (d a b : Operand) (s : State) : Eff :=
  let w := destWidth d
  quietOf s d (f w ((s.src a).to .z w) ((s.src b).to .z w))

/-- R63, R87: a shift. -/
def shiftOp (g : Sgn) (f : Nat → Int → Nat → Int) (d a b : Operand) (s : State) : Eff :=
  let w := destWidth d
  quietOf s d (wrap (f w ((s.src a).val g w) ((s.src b).to g w)) w)

/-- R87: the four shifts of a value of width `w` by `n`. -/
def shl (w : Nat) (a : Int) (n : Nat) : Int := if n ≥ w then 0 else a * ((2 ^ n : Nat) : Int)
def shrz (w : Nat) (a : Int) (n : Nat) : Int := if n ≥ w then 0 else a / ((2 ^ n : Nat) : Int)
def shrs (w : Nat) (a : Int) (n : Nat) : Int := if n ≥ w then (if a < 0 then -1 else 0) else a / ((2 ^ n : Nat) : Int)
def rotl (w : Nat) (a : Int) (n : Nat) : Int :=
  let k := n % w
  a * ((2 ^ k : Nat) : Int) + a / ((2 ^ (w - k) : Nat) : Int)

/-- R88: CLZ and POPC, over the source's own width. -/
def countOp (f : Nat → Nat → Nat) (d a : Operand) (s : State) : Eff :=
  let x := s.src a
  quietOf s d (f x.ownZ x.width)

/-- ADD (R82): wrapping sum. -/
def execAdd (g : BitVec 16) (d a b : Operand) (s : State) : Out3 :=
  run (.add g d a b) (int2 .s false (fun _ x y => x + y) d a b) s

/-- SUB (R82): wrapping difference. -/
def execSub (g : BitVec 16) (d a b : Operand) (s : State) : Out3 :=
  run (.sub g d a b) (int2 .s false (fun _ x y => x - y) d a b) s

/-- ADDS (R82): signed saturating sum. -/
def execAdds (g : BitVec 16) (d a b : Operand) (s : State) : Out3 :=
  run (.adds g d a b) (int2 .s true (fun _ x y => x + y) d a b) s

/-- SUBS (R82): signed saturating difference. -/
def execSubs (g : BitVec 16) (d a b : Operand) (s : State) : Out3 :=
  run (.subs g d a b) (int2 .s true (fun _ x y => x - y) d a b) s

/-- ADDZ (R82): unsigned saturating sum. -/
def execAddz (g : BitVec 16) (d a b : Operand) (s : State) : Out3 :=
  run (.addz g d a b) (int2 .z true (fun _ x y => x + y) d a b) s

/-- SUBZ (R82): unsigned saturating difference. -/
def execSubz (g : BitVec 16) (d a b : Operand) (s : State) : Out3 :=
  run (.subz g d a b) (int2 .z true (fun _ x y => x - y) d a b) s

/-- MINS (R82). -/
def execMins (g : BitVec 16) (d a b : Operand) (s : State) : Out3 :=
  run (.mins g d a b) (int2 .s false (fun _ x y => if x ≤ y then x else y) d a b) s

/-- MINZ (R82). -/
def execMinz (g : BitVec 16) (d a b : Operand) (s : State) : Out3 :=
  run (.minz g d a b) (int2 .z false (fun _ x y => if x ≤ y then x else y) d a b) s

/-- MAXS (R82). -/
def execMaxs (g : BitVec 16) (d a b : Operand) (s : State) : Out3 :=
  run (.maxs g d a b) (int2 .s false (fun _ x y => if x ≥ y then x else y) d a b) s

/-- MAXZ (R82). -/
def execMaxz (g : BitVec 16) (d a b : Operand) (s : State) : Out3 :=
  run (.maxz g d a b) (int2 .z false (fun _ x y => if x ≥ y then x else y) d a b) s

/-- MUL (R84): the low half of the product. -/
def execMul (g : BitVec 16) (d a b : Operand) (s : State) : Out3 :=
  run (.mul g d a b) (int2 .s false (fun _ x y => x * y) d a b) s

/-- MULHS (R84): the high half, signed. -/
def execMulhs (g : BitVec 16) (d a b : Operand) (s : State) : Out3 :=
  run (.mulhs g d a b) (int2 .s false highHalf d a b) s

/-- MULHZ (R84): the high half, unsigned. -/
def execMulhz (g : BitVec 16) (d a b : Operand) (s : State) : Out3 :=
  run (.mulhz g d a b) (int2 .z false highHalf d a b) s

/-- DIVS (R85). -/
def execDivs (g : BitVec 16) (d a b : Operand) (s : State) : Out3 :=
  run (.divs g d a b) (int2 .s false (fun w x y => quotient .s x y w) d a b) s

/-- DIVZ (R85). -/
def execDivz (g : BitVec 16) (d a b : Operand) (s : State) : Out3 :=
  run (.divz g d a b) (int2 .z false (fun w x y => quotient .z x y w) d a b) s

/-- REMS (R85): the remainder with the sign of A. -/
def execRems (g : BitVec 16) (d a b : Operand) (s : State) : Out3 :=
  run (.rems g d a b) (int2 .s false (fun _ x y => remainder x y) d a b) s

/-- REMZ (R85). -/
def execRemz (g : BitVec 16) (d a b : Operand) (s : State) : Out3 :=
  run (.remz g d a b) (int2 .z false (fun _ x y => remainder x y) d a b) s

/-- NEG (R82). -/
def execNeg (g : BitVec 16) (d a : Operand) (s : State) : Out3 :=
  run (.neg g d a) (int1 .s (fun x => -x) d a) s

/-- ABS (R82). -/
def execAbs (g : BitVec 16) (d a : Operand) (s : State) : Out3 :=
  run (.abs g d a) (int1 .s (fun x => if x < 0 then -x else x) d a) s

/-- ADDC (R83): pN is carry in and carry out. -/
def execAddc (g : BitVec 16) (d a b : Operand) (p : BitVec 3) (s : State) : Out3 :=
  run (.addc g d a b p) (carryOp addCarry d a b p.toNat) s

/-- SUBB (R83): pN is borrow in and borrow out. -/
def execSubb (g : BitVec 16) (d a b : Operand) (p : BitVec 3) (s : State) : Out3 :=
  run (.subb g d a b p) (carryOp subBorrow d a b p.toNat) s

/-- MAD (R84): the destination is the third source. -/
def execMad (g : BitVec 16) (d a b : Operand) (s : State) : Out3 :=
  run (.mad g d a b) (fun s => int2 .s false (fun w x y => (s.src d).val .s w + x * y) d a b s) s

/-- AND (R86). -/
def execAnd (g : BitVec 16) (d a b : Operand) (s : State) : Out3 :=
  run (.and g d a b) (bitwise (fun _ x y => x &&& y) d a b) s

/-- OR (R86). -/
def execOr (g : BitVec 16) (d a b : Operand) (s : State) : Out3 :=
  run (.or g d a b) (bitwise (fun _ x y => x ||| y) d a b) s

/-- XOR (R86). -/
def execXor (g : BitVec 16) (d a b : Operand) (s : State) : Out3 :=
  run (.xor g d a b) (bitwise (fun _ x y => x ^^^ y) d a b) s

/-- ANDN (R86): A and not B. -/
def execAndn (g : BitVec 16) (d a b : Operand) (s : State) : Out3 :=
  run (.andn g d a b) (bitwise (fun w x y => x &&& (2 ^ w - 1 - y)) d a b) s

/-- NOT (R86): not A over w bits. -/
def execNot (g : BitVec 16) (d a : Operand) (s : State) : Out3 :=
  run (.not g d a) (bitwise (fun w x _ => 2 ^ w - 1 - x) d a a) s

/-- SHL (R87). -/
def execShl (g : BitVec 16) (d a b : Operand) (s : State) : Out3 :=
  run (.shl g d a b) (shiftOp .z shl d a b) s

/-- SHRZ (R87). -/
def execShrz (g : BitVec 16) (d a b : Operand) (s : State) : Out3 :=
  run (.shrz g d a b) (shiftOp .z shrz d a b) s

/-- SHRS (R87): both sources are sign-extended. -/
def execShrs (g : BitVec 16) (d a b : Operand) (s : State) : Out3 :=
  run (.shrs g d a b) (shiftOp .s shrs d a b) s

/-- ROTL (R87). -/
def execRotl (g : BitVec 16) (d a b : Operand) (s : State) : Out3 :=
  run (.rotl g d a b) (shiftOp .z rotl d a b) s

/-- CLZ (R88). -/
def execClz (g : BitVec 16) (d a : Operand) (s : State) : Out3 :=
  run (.clz g d a) (countOp leadingZeros d a) s

/-- POPC (R88). -/
def execPopc (g : BitVec 16) (d a : Operand) (s : State) : Out3 :=
  run (.popc g d a) (countOp popCount d a) s

/-- BREV (R88): the bits of A in reverse order. -/
def execBrev (g : BitVec 16) (d a : Operand) (s : State) : Out3 :=
  run (.brev g d a) (bitwise (fun w x _ => reverseBits x w) d a a) s

end Sys2Proof.Machine
end

