-- ==== Sys2Proof/Machine/PowerEv.lean ====
section
/-! DEFINITION. Steps of the power and temperature controllers: INTERVAL_START, TOKEN_INSTALMENT, INTERVAL_END, POWER_CAP_ACTION, LEASE_EXPIRY,
SENSOR_SAMPLE, LEAKAGE_MEASUREMENT, OPPOINT (spec/08 R178 to R190). -/
namespace Sys2Proof.Machine

/-! ### Strings (R178 to R181) -/

/-- R155, R178: the class and the divisor of its pick for layer `i` of string `n`; nothing for a layer whose row is Empty, Loading or Evicting. The one
half of a single-width pick has CCLASS0. -/
def Core.layerPick (c : Core) (n i : Nat) : Option (Nat × Nat) :=
  match c.regionOf (layerElem n i) with
  | none => none
  | some (_, r) =>
    let x := r.row (r.rowOf (layerElem n i))
    if x.st == .active || x.st == .passed then some (if r.wide && n % 2 = 1 then x.cls1 else x.cls0, x.div) else none

/-- R178: the expected current of a layer, in units of 1/48 mA, in which it is exact for every divisor. -/
def expected (x : Option (Nat × Nat)) (t : Nat) : Nat :=
  match x with
  | some (c, d) => 40 * c * 48 / divAt d t
  | none => 0

/-- R179: the planned filler for a gap in units of 1/48 mA. -/
def planned (g : Nat) : Nat := if 160 * 48 < g then 32 * ((g - 160 * 48 + (40 * 48 - 1)) / (40 * 48)) else 0

/-- R179: the quotas of a string's layers at throttle level `t`. -/
def quotas (l : List (Option (Nat × Nat))) (react : List Nat) (t : Nat) : List Nat :=
  let e := l.map fun x => expected x t
  let m := e.foldl max 0
  (e.zip react).map fun p => planned (m - p.1) + p.2

/-- R179: the filler limit of a layer that runs at divisor `d`. -/
def fillerCap (d : Nat) : Nat := min 256 (6 * (128 / d))

/-- R178: the divisor of a layer at throttle level `t`. DEDUCED: notes/assumptions/57.md. -/
def layerDiv (x : Option (Nat × Nat)) (t : Nat) : Nat := divAt ((x.map fun p => p.2).getD 1) t

/-- R181: no quota exceeds its cap at throttle level `t`. -/
def fits (l : List (Option (Nat × Nat))) (react : List Nat) (t : Nat) : Bool :=
  ((quotas l react t).zip l).all fun p => p.1 ≤ fillerCap (layerDiv p.2 t)

/-- R181: the throttle level: the least from `lo` up to 4 under which no quota exceeds its cap; 4 where none does.
DESIGN CHOICE: notes/assumptions/57.md. -/
def leastLevel (l : List (Option (Nat × Nat))) (react : List Nat) (lo : Nat) : Nat :=
  ((upFrom lo (5 - lo)).find? fun t => fits l react t).getD 4

/-! ### INTERVAL_START -/

/-- R184: P_p, from the active lease of a partition. -/
def State.percent (s : State) (p : Nat) : Nat :=
  match (s.part p).lease with
  | some l => if l.active then l.pct else 70
  | none => 70

/-- R184: the heavy and the light budget. -/
def heavyBudget (pct k : Nat) : Nat := 3072 * pct * k / 6400
def lightBudget (k : Nat) : Nat := 4096 * k / 64

/-- R183: the first instalment holds the remainder. -/
def firstInstalment (b : Nat) : Nat := b / 8 + b % 8

/-- R181: the divisors of a new interval: a layer that is at its boundary in this cycle takes its own at once, any other at its next boundary. -/
def Str.divide (x : Str) (ds : List Nat) (now : Nat) : Str :=
  let here (i : Nat) : Bool := x.next.getD i 0 == now + x.div.getD i 1
  { x with
    want := ds
    div := (upFrom 0 4).map fun i => if here i then ds.getD i 1 else x.div.getD i 1
    next := (upFrom 0 4).map fun i => if here i then now + ds.getD i 1 else x.next.getD i 0 }

/-- R179, R181, R183: a string at the start of an interval. DEDUCED: notes/assumptions/57.md. -/
def Str.start (x : Str) (l : List (Option (Nat × Nat))) (hot : Bool) (pct k now : Nat) : Str :=
  let t := leastLevel l x.react (b2n x.unmet)
  let u := if hot then min 4 (t + 1) else t
  { x.divide (l.map fun y => layerDiv y u) now with
    base := t, level := u, quota := quotas l x.react u, filler := [0, 0, 0, 0], starved := [], barred := [0, 0, 0, 0]
    heavyGrant := heavyBudget pct k, lightGrant := lightBudget k
    heavy := firstInstalment (heavyBudget pct k), light := firstInstalment (lightBudget k)
    heavySince := if x.heavy = 0 then now else x.heavySince, lightSince := if x.light = 0 then now else x.lightSince
    episode := if t = 0 then 0 else x.episode + 1 }

/-- R190: the records of a string's throttle transitions. DEDUCED: notes/assumptions/21.md. -/
def State.throtRecord (s : State) (k n : Nat) (old new : Str) (l : List (Option (Nat × Nat))) : State :=
  if old.base = 0 && new.base != 0 then s.postStr k n 0x02 (if fits l old.react 0 then 2 else 1) new.base
  else if old.base != 0 && new.base = 0 then s.postStr k n 0x03 old.episode 0
  else s

/-- One string at the start of an interval. -/
def State.startString (s : State) (k n : Nat) : State :=
  let c := s.core k
  let x := c.str n
  let l := (upFrom 0 4).map (c.layerPick n)
  let y := x.start l (s.thermal.contains (dieOf k)) (match c.part with
    | some p => s.percent p
    | none => 70) s.scale s.cycle
  (s.modCore k fun c => { c with strings := c.strings.set n y }).throtRecord k n x y l

/-- The cores of partitions. -/
def State.homes (s : State) : List Nat := (s.cores.filter fun p => p.2.part.isSome).map fun p => p.1

/-- Every string of every core of a partition. -/
def State.eachString (s : State) (f : State → Nat → Nat → State) : State :=
  s.homes.foldl (fun s k => (upFrom 0 8).foldl (fun s n => f s k n) s) s

/-- INTERVAL_START (R179, R181, R183, R184). -/
def execIntervalStart (s : State) : Out3 := .next (s.eachString State.startString)

/-! ### TOKEN_INSTALMENT -/

/-- R183: a further instalment. -/
def Str.instalment (x : Str) (now : Nat) : Str :=
  { x with
    heavy := x.heavy + x.heavyGrant / 8, light := x.light + x.lightGrant / 8
    heavySince := if x.heavy = 0 then now else x.heavySince, lightSince := if x.light = 0 then now else x.lightSince }

/-- TOKEN_INSTALMENT (R183). -/
def execTokenInstalment (s : State) : Out3 :=
  .next (s.eachString fun s k n => s.modCore k fun c => { c with strings := c.strings.set n ((c.str n).instalment s.cycle) })

/-! ### INTERVAL_END -/

/-- The layer of the least value, ties to the lower. -/
def lightest (l : List Nat) : Nat :=
  (((upFrom 0 l.length).zip l).foldl (fun (m : Option (Nat × Nat)) p => match m with
    | some q => if p.2 < q.2 then some p else some q
    | none => some p) none).map (fun p => p.1) |>.getD 0

/-- R180: the measured imbalance. -/
def imbalanceOf (l : List Nat) : Nat := l.foldl max 0 - l.getD (lightest l) 0

/-- R180: the reactive terms after an interval. -/
def reactNext (react ms : List Nat) : List Nat :=
  let d := imbalanceOf ms
  if 160 < d then modAt react (lightest ms) (· + 32 * ((d - 160 + 39) / 40))
  else if 80 < d then react
  else react.map fun x => 32 * (x / 64)

/-- R190: the shortfalls of a string's layers. -/
def Str.short (x : Str) : List Nat := (x.quota.zip x.filler).map fun p => p.1 - p.2

/-- The layer of the greatest value, ties to the lower. -/
def greatest (l : List Nat) : Nat :=
  (((upFrom 0 l.length).zip l).foldl (fun (m : Option (Nat × Nat)) p => match m with
    | some q => if q.2 < p.2 then some p else some q
    | none => some p) none).map (fun p => p.1) |>.getD 0

/-- R190: the shortfall of each layer that lacked heavy tokens, or layer cycles in which its elements fired nothing; one that a freeze, a release or the lack
of a region explains does not count. DEDUCED: notes/assumptions/57.md. -/
def Str.lacking (x : Str) : List Nat :=
  (upFrom 0 4).map fun i => if x.starved.contains i || x.barred.getD i 0 < x.short.getD i 0 then x.short.getD i 0 else 0

/-- One string at the end of an interval, with the mean currents of its layers. DEDUCED: notes/assumptions/57.md. -/
def State.endString (s : State) (k n : Nat) (ms : List Nat) : State :=
  let c := s.core k
  let x := c.str n
  let sh := x.short
  let met := sh.all fun v => v == 0
  let lack := x.lacking
  let i := greatest lack
  let empty := c.stringEmpty n
  let y := { x with imbalance := if empty then 0 else imbalanceOf ms, react := reactNext x.react ms, unmet := x.starved.any fun j => 0 < sh.getD j 0, lastMet := met }
  let s := s.modCore k fun c =>
    { c with strings := c.strings.set n y, throtCount := if 1 ≤ x.level && !empty then c.throtCount + 1 else c.throtCount }
  if lack.any (· != 0) && x.lastMet then s.postStr k n 0x04 i (lack.getD i 0) else s

/-- INTERVAL_END (R180, R182, R190). -/
def execIntervalEnd (ms : List Meas) (s : State) : Out3 :=
  .next (s.eachString fun s k n =>
    s.endString k n (((ms.find? fun m => m.core == k && m.str == n).map Meas.mA).getD [0, 0, 0, 0]))

/-! ### POWER_CAP_ACTION (R185) -/

/-- A lease changed, with the record of a suspension or a resumption that this makes. -/
def State.setLease (s : State) (p : Nat) (f : Lease → Lease) : State :=
  match (s.part p).lease with
  | none => s
  | some l =>
    let m := f l
    let away (x : Lease) : Bool := x.capped || x.hot
    let s := s.modPart p fun x => { x with lease := some m, suspendedIn := if !away l && away m then some (s.cycle / 128) else x.suspendedIn }
    if !away l && away m then s.postPart p 0x06 0 l.left
    else if away l && !away m then s.postPart p 0x07 0 l.left
    else s

/-- R185: the package's power weight of a partition. -/
def Part.powerWeight (p : Part) : Nat := bits p.pqos.toNat 7 0

/-- R185: partitions inserted in ascending order of weight, then of number. -/
def insertWeight (s : State) (p : Nat) : List Nat → List Nat
  | [] => [p]
  | q :: r => if (s.part p).powerWeight < (s.part q).powerWeight then p :: q :: r else q :: insertWeight s p r

/-- R185: the partitions with an active lease, in the order of suspension. -/
def State.suspendOrder (s : State) : List Nat :=
  (s.parts.filter fun x => match x.2.lease with
    | some l => l.active
    | none => false).foldl (fun l x => insertWeight s x.1 l) []

/-- R185, step 1: leases are suspended until the projected power is within the limit. DESIGN CHOICE: notes/assumptions/23.md. -/
def suspendLeases : List Nat → State → State
  | [], s => s
  | p :: r, s =>
    let s := ({ s with suspended := s.suspended ++ [p] }).setLease p fun l => { l with capped := true }
    let (n, s) := s.draw
    if Config.projectedPower n ≤ 2200 then s else suspendLeases r s

/-- R185: suspended leases resume, the last suspended first. -/
def State.resumeLeases (s : State) : State :=
  { s.suspended.reverse.foldl (fun s p => s.setLease p fun l => { l with capped := false }) s with suspended := [] }

/-- R185, step 2: with no active lease left, k falls by 1, down to 16. -/
def State.lowerScale (s : State) : State :=
  if s.suspendOrder.isEmpty && 16 < s.scale then { s with scale := s.scale - 1 } else s

/-- R185: k rises by 1, and once it is back at 64 the suspended leases resume. -/
def State.raiseScale (s : State) : State :=
  let s : State := { s with scale := min 64 (s.scale + 1) }
  if s.scale = 64 then s.resumeLeases else s

/-- POWER_CAP_ACTION (R185), with the power averaged over 1 ms and the peak sample of the last interval: an average above the limit counts
towards its 10 ms. DESIGN CHOICE: notes/assumptions/23.md. -/
def execPowerCapAction (avg peak : Nat) (s : State) : Out3 :=
  .next (
    let high := if 2200 < avg then s.overMs + 128 else 0
    let s := { s with avgW := avg, overMs := high }
    if 10000000 ≤ high || 2400 < peak then (suspendLeases s.suspendOrder s).lowerScale
    else if avg < 2100 then s.raiseScale
    else s)

/-! ### LEASE_EXPIRY -/

/-- LEASE_EXPIRY (R186): a lease whose time has run out ends. -/
def execLeaseExpiry (p : Nat) (s : State) : Out3 :=
  .next (match (s.part p).lease with
    | some l => if l.left = 0 then s.endLease p 1 else s
    | none => s)

/-! ### SENSOR_SAMPLE (R187, R189) -/

/-- The partitions that hold cores on a die, ascending. DEDUCED: notes/assumptions/21.md. -/
def State.partsOn (s : State) (die : Nat) : List Nat :=
  (s.parts.filter fun x => x.2.cores.any fun k => dieOf k == die).map fun x => x.1

/-- An event record about a die, to each of some partitions. DEDUCED: notes/assumptions/21.md. -/
def State.postDie (s : State) (ps : List Nat) (die type arg0 arg1 : Nat) : State :=
  ps.foldl (fun s p => s.post { part := p, type := type, die := die, arg0 := arg0, arg1 := arg1 }) s

/-- R189: the thresholds, in °C. -/
def thresholds : List (Nat × Nat) := [(0, 95), (1, 105), (2, 115)]

/-- R189: a sensor stands above a threshold: it rises at the threshold and falls 2 °C below it. -/
def standsAbove (old : Bool) (t : Nat) (r : Int) : Bool := (t * 16 : Int) ≤ r || (old && ((t - 2 : Nat) * 16 : Int) ≤ r)

/-- R187: one sensor's reading. -/
def State.readSensor (s : State) (die n : Nat) (r : Int) : State := { s with sensors := s.sensors.set (die * 48 + n) r }

/-- R189: the sensor of a die with the hottest reading. -/
def State.hottestSensor (s : State) (die : Nat) : Nat := ((upFrom 0 48).find? fun n => s.sensor die n == s.hottest die).getD 0

/-- R189: the records of the thresholds that the hottest sensor of a die has crossed. -/
def State.crossings (s : State) (die : Nat) : State :=
  let old := s.above.getD die 0
  let r := s.hottest die
  let new := thresholds.foldl (fun v p => v + b2n (standsAbove (bit old p.1) p.2 r) * 2 ^ p.1) 0
  let s := { s with above := s.above.set die new }
  thresholds.foldl (fun s p =>
    if bit old p.1 == bit new p.1 then s
    else s.postDie (s.partsOn die) die 0x0A (s.hottestSensor die + p.2 * 2 ^ 8 + b2n (bit new p.1) * 2 ^ 16) (wrap r 64)) s

/-- R189: the leases of partitions on a die are suspended, or resume when no die of theirs is hot. DESIGN CHOICE: notes/assumptions/23.md. -/
def State.heatLeases (s : State) (die : Nat) : State :=
  (s.partsOn die).foldl (fun s p =>
    let hot := (s.part p).cores.any fun k => s.thermal.contains (dieOf k)
    s.setLease p fun l => { l with hot := hot }) s

/-- R189: the actions at 115 °C and 112 °C. -/
def State.heatStep (s : State) (die : Nat) : State :=
  let h := s.hottest die
  let n := s.hottestSensor die
  if s.thermal.contains die then
    if h < 112 * 16 then
      ({ s with thermal := removeNum s.thermal die }.postDie (s.partsOn die) die 0x0C n (wrap h 64)).heatLeases die
    else s.heatLeases die
  else if 115 * 16 ≤ h then
    ({ s with thermal := insertNum s.thermal die }.postDie (s.partsOn die) die 0x0B n (wrap h 64)).heatLeases die
  else s

/-- R188: a temperature's bin. -/
def binOf (r : Int) : Nat := if r < 400 then 0 else min 20 ((r - 400) / 80).toNat

/-- R188: a bin changes only when the reading passes its edge by 1 °C. DEDUCED: notes/assumptions/57.md. -/
def nextBin (old : Nat) (r : Int) : Nat :=
  if old < binOf (r - 16) then binOf (r - 16) else if binOf (r + 16) < old then binOf (r + 16) else old

/-- R188: the operating-point data of a string. -/
def State.opTable (s : State) (k n : Nat) : Option OpTable :=
  match s.trim with
  | some t => t.opTables.find? fun o => o.core == k && o.str == n
  | none => none

/-- R188: the temperature bins of the strings of a die; a string whose bin changes looks its entry up. -/
def State.rebin (s : State) (die : Nat) : State :=
  (s.cores.filter fun p => dieOf p.1 == die).foldl (fun (s : State) p => (upFrom 0 8).foldl (fun (s : State) n =>
    match s.opTable p.1 n with
    | none => s
    | some o =>
      let b := nextBin ((s.core p.1).str n).tempBin (s.sensor die o.sensor)
      if b = ((s.core p.1).str n).tempBin then s
      else
        let s := s.modCore p.1 fun c => { c with strings := c.strings.set n { c.str n with tempBin := b } }
        { s with todo := .lookup p.1 n :: s.todo }) s) s

/-- SENSOR_SAMPLE (R187, R188, R189): the readings of a die's sensors. At 125 °C the package trips: the fatal dump follows, then the package is
held in reset (R411). DESIGN CHOICE: notes/assumptions/23.md. DEDUCED: notes/assumptions/47.md. -/
def execSensorSample (die : Nat) (rd : List Int) (s : State) : Out3 :=
  .next (
    let s := ((upFrom 0 48).zip rd).foldl (fun s p => s.readSensor die p.1 p.2) s
    let s := ((s.crossings die).heatStep die).rebin die
    let h := s.hottest die
    if 125 * 16 ≤ h && !s.tripped then
      let s : State := { s with tripped := true }
      let s := s.postDie (s.parts.map fun x => x.1) die 0x0D (s.hottestSensor die) (wrap h 64)
      { s with todo := s.todo ++ [.dump 0x3C0 die] }
    else s)

/-! ### LEAKAGE_MEASUREMENT and OPPOINT (R188) -/

/-- LEAKAGE_MEASUREMENT (R188): a string that has fired nothing for 2 µs. DESIGN CHOICE: notes/assumptions/23.md. -/
def execLeakageMeasurement (k n mA : Nat) (s : State) : Out3 :=
  .next (
    let x := (s.core k).str n
    if s.cycle < x.lastFire + 2000 then s
    else
      let b := match s.opTable k n with
        | some o => min 7 (o.thresholds.filter fun t => t ≤ mA).length
        | none => x.leakBin
      let s := s.modCore k fun c => { c with strings := c.strings.set n { c.str n with leakage := mA, leakBin := b, measured := true } }
      if b = x.leakBin then s else { s with todo := .lookup k n :: s.todo })

/-- OPPOINT (R188): the entry of the present bins is looked up; a change posts OPPOINT and the voltage slews to it. DEDUCED: notes/assumptions/21.md. -/
def execOppoint (k n : Nat) (s : State) : Out3 :=
  .next (match s.opTable k n with
    | none => s
    | some o =>
      let x := (s.core k).str n
      let v := o.mV.getD (x.tempBin * 8 + x.leakBin) x.target
      if v = x.target then s
      else
        (s.modCore k fun c => { c with strings := c.strings.set n { c.str n with mV := x.volt s.cycle, target := v, slewAt := s.cycle } }).postStr k n 0x01
          (v % 2 ^ 16 + x.target % 2 ^ 16 * 2 ^ 16 + x.tempBin * 2 ^ 32 + x.leakBin * 2 ^ 40) x.leakage)

end Sys2Proof.Machine
end

