-- ==== Sys2Proof/Machine/PredOps.lean ====
section
/-! DEFINITION. Row 0x4: compares and predicates (spec/04 R97 to R100). -/
namespace Sys2Proof.Machine

/-- R97: an integer compare at the width of the wider source. -/
def cmpInt (g : Sgn) (f : Int → Int → Bool) (d a b : Operand) (s : State) : Eff :=
  let x := s.src a
  let y := s.src b
  let w := max x.width y.width
  quietOf s d (b2n (f (x.val g w) (y.val g w)))

/-- R98: a W40 compare. -/
def cmpFloat (signalling : Bool) (f : Real40 → Real40 → Bool) (d a b : Operand) (s : State) : Eff :=
  let x := (s.src a).real
  let y := (s.src b).real
  (quietOf s d (b2n (f x y))).raiseFlags (compareFlags signalling x y)

/-- R98: ordered comparison of two values that are no NaN. -/
def ordered (f : Int → Bool) (x y : Real40) : Bool := !x.isNaN && !y.isNaN && f (cmpReal x y)

/-- R99: a source's truth value. -/
def truth (s : State) (o : Operand) : Bool := (s.src o).ownZ != 0

/-- R99: predicate logic of two sources. -/
def logic2 (f : Bool → Bool → Bool) (d a b : Operand) (s : State) : Eff := quietOf s d (b2n (f (truth s a) (truth s b)))

/-- CEQ (R97). -/
def execCeq (g : BitVec 16) (d a b : Operand) (s : State) : Out3 :=
  run (.ceq g d a b) (cmpInt .z (fun x y => x == y) d a b) s

/-- CNE (R97). -/
def execCne (g : BitVec 16) (d a b : Operand) (s : State) : Out3 :=
  run (.cne g d a b) (cmpInt .z (fun x y => x != y) d a b) s

/-- CLTS (R97). -/
def execClts (g : BitVec 16) (d a b : Operand) (s : State) : Out3 :=
  run (.clts g d a b) (cmpInt .s (fun x y => x < y) d a b) s

/-- CLTZ (R97). -/
def execCltz (g : BitVec 16) (d a b : Operand) (s : State) : Out3 :=
  run (.cltz g d a b) (cmpInt .z (fun x y => x < y) d a b) s

/-- CLES (R97). -/
def execCles (g : BitVec 16) (d a b : Operand) (s : State) : Out3 :=
  run (.cles g d a b) (cmpInt .s (fun x y => x ≤ y) d a b) s

/-- CLEZ (R97). -/
def execClez (g : BitVec 16) (d a b : Operand) (s : State) : Out3 :=
  run (.clez g d a b) (cmpInt .z (fun x y => x ≤ y) d a b) s

/-- FCEQ (R98). -/
def execFceq (g : BitVec 16) (d a b : Operand) (s : State) : Out3 :=
  run (.fceq g d a b) (cmpFloat false (ordered fun c => c == 0) d a b) s

/-- FCLT (R98). -/
def execFclt (g : BitVec 16) (d a b : Operand) (s : State) : Out3 :=
  run (.fclt g d a b) (cmpFloat true (ordered fun c => c < 0) d a b) s

/-- FCLE (R98). -/
def execFcle (g : BitVec 16) (d a b : Operand) (s : State) : Out3 :=
  run (.fcle g d a b) (cmpFloat true (ordered fun c => c ≤ 0) d a b) s

/-- FCUN (R98). -/
def execFcun (g : BitVec 16) (d a b : Operand) (s : State) : Out3 :=
  run (.fcun g d a b) (cmpFloat false (fun x y => x.isNaN || y.isNaN) d a b) s

/-- PMOV (R99). -/
def execPmov (g : BitVec 16) (d a : Operand) (s : State) : Out3 :=
  run (.pmov g d a) (logic2 (fun x _ => x) d a a) s

/-- PAND (R99). -/
def execPand (g : BitVec 16) (d a b : Operand) (s : State) : Out3 :=
  run (.pand g d a b) (logic2 (fun x y => x && y) d a b) s

/-- POR (R99). -/
def execPor (g : BitVec 16) (d a b : Operand) (s : State) : Out3 :=
  run (.por g d a b) (logic2 (fun x y => x || y) d a b) s

/-- PXOR (R99). -/
def execPxor (g : BitVec 16) (d a b : Operand) (s : State) : Out3 :=
  run (.pxor g d a b) (logic2 (fun x y => x != y) d a b) s

/-- PNOT (R99). -/
def execPnot (g : BitVec 16) (d a : Operand) (s : State) : Out3 :=
  run (.pnot g d a) (logic2 (fun x _ => !x) d a a) s

/-- SELP (R100): A or B on the predicate that the modifier names. -/
def execSelp (g : BitVec 16) (d a b : Operand) (p : BitVec 3) (s : State) : Out3 :=
  run (.selp g d a b p) (fun s =>
    let w := destWidth d
    quietOf s d (if s.regs.preds.getLsbD p.toNat then (s.src a).to .z w else (s.src b).to .z w)) s

end Sys2Proof.Machine
end

