-- ==== Sys2Proof/Machine/SliceOps.lean ====
section
/-! DEFINITION. Row 0x3: slices (spec/04 R89 to R96). -/
namespace Sys2Proof.Machine

/-- An operand that names $FFLAGS (R131). -/
def isFflags : Operand → Bool
  | .sreg n => n == 0x10
  | _ => false

/-- R89, R75: MOV. In an element a read or write of $FFLAGS waits for the context's earlier write-backs. -/
def movEff (d a : Operand) (s : State) : Option (Eff × State) :=
  if (isFflags d || isFflags a) && !s.regs.flights.all Flight.owed then none
  else some (quietOf s d ((s.src a).to .z (destWidth d)), s)

/-- MOV (R89). -/
def execMov (g : BitVec 16) (d a : Operand) (s : State) : Out3 :=
  runBoth (.mov g d a) (movEff d a) (fun s => some (quietOf s d ((s.src a).to .z (destWidth d)), .next, s)) s

/-- MOVI (R90). -/
def execMovi (g : BitVec 16) (d : Operand) (imm : BitVec 28) (s : State) : Out3 :=
  run (.movi g d imm) (fun s => quietOf s d (wrap (sext imm.toNat 28) (destWidth d))) s

/-- R91: the immediate at the top of a width. -/
def topImm (imm w : Nat) : Nat := if w ≥ 28 then imm * 2 ^ (w - 28) else imm / 2 ^ (28 - w)

/-- MOVHI (R91). -/
def execMovhi (g : BitVec 16) (d : Operand) (imm : BitVec 28) (s : State) : Out3 :=
  run (.movhi g d imm) (fun s => quietOf s d (topImm imm.toNat (destWidth d))) s

/-- R92: the low bits of A, as many as B says, extended. -/
def extendOp (signed : Bool) (d a b : Operand) (s : State) : Eff :=
  let x := s.src a
  let m := min (s.src b).count x.width
  let v : Int := if m = 0 then 0 else if signed then sext x.raw m else (zext x.raw m : Nat)
  quietOf s d (wrap v (destWidth d))

/-- SEXT (R92). -/
def execSext (g : BitVec 16) (d a b : Operand) (s : State) : Out3 := run (.sext g d a b) (extendOp true d a b) s

/-- ZEXT (R92). -/
def execZext (g : BitVec 16) (d a b : Operand) (s : State) : Out3 := run (.zext g d a b) (extendOp false d a b) s

/-- R93: the base slice and element size of the restricted operand. -/
def baseOf : Operand → Nat × Nat
  | .slice p c => (p.toNat, c.toNat + 1)
  | _ => (0, 1)

/-- R93: the first addressed slice, when the addressed slices lie in the bank. -/
def addressed (o : Operand) (i : Nat) : Option (Nat × Nat) :=
  let (p, c) := baseOf o
  if p + i * c + c ≤ 128 then some (p + i * c, c) else none

/-- R93: SLEXT waits while an addressed slice is pending. -/
def slextEff (d a b : Operand) (s : State) : Option Eff :=
  match addressed a (s.src b).count with
  | none => some (quietOf s d 0)
  | some (q, c) =>
    if sliceMask q c &&& s.regs.pending != 0 then none
    else some (quietOf s d (zext (s.regs.slices q c) (min (4 * c) (destWidth d))))

/-- R93, R49: a SLEXT of the control core whose addressed slices are pending does not issue, whatever its guard. DEDUCED: notes/assumptions/17.md. -/
def slextWaits (d a b : Operand) (s : State) : Bool :=
  match s.site with
  | .cc _ => (slextEff d a b s).isNone
  | .ctx .. => false

/-- SLEXT (R93). -/
def execSlext (g : BitVec 16) (d a b : Operand) (s : State) : Out3 :=
  if (Instr.slext g d a b).wf .cc && slextWaits d a b s then .next s
  else runBoth (.slext g d a b) (fun s => (slextEff d a b s).map fun e => (e, s)) (fun s => (slextEff d a b s).map fun e => (e, .next, s)) s

/-- SLINS (R93): the addressed slices are written; out of range, nothing is. -/
def execSlins (g : BitVec 16) (d a b : Operand) (s : State) : Out3 :=
  run (.slins g d a b) (fun s =>
    match addressed d (s.src b).count with
    | none => {}
    | some (q, c) => ({} : Eff).slices q c ((s.src a).to .z (4 * c))) s

/-- PACK (R94): a forms the low bits. -/
def execPack (g : BitVec 16) (d a b : Operand) (s : State) : Out3 :=
  run (.pack g d a b) (fun s =>
    let x := s.src a
    quietOf s d (zext (x.ownZ + (s.src b).ownZ * 2 ^ x.width) (destWidth d))) s

/-- UNPK (R94): b is split across dest and srcA; the dest field's value stands (R42). -/
def execUnpk (g : BitVec 16) (d a b : Operand) (s : State) : Out3 :=
  run (.unpk g d a b) (fun s =>
    let v := (s.src b).ownZ
    let w := destWidth d
    (({} : Eff).put s.ctxNo a (zext (v / 2 ^ w) (destWidth a))).put s.ctxNo d (zext v w)) s

/-- SWAP (R95): the dest field's value stands where the fields overlap. -/
def execSwap (g : BitVec 16) (d a : Operand) (s : State) : Out3 :=
  run (.swap g d a) (fun s =>
    (({} : Eff).put s.ctxNo a ((s.src d).to .z (destWidth a))).put s.ctxNo d ((s.src a).to .z (destWidth d))) s

/-- SLCLR (R96): a run of slices cleared. -/
def execSlclr (g : BitVec 16) (d a : Operand) (s : State) : Out3 :=
  run (.slclr g d a) (fun s =>
    let p := (baseOf d).1
    let n := min (p + (s.src a).count) 128 - p
    if n = 0 then {} else ({} : Eff).slices p n 0) s

end Sys2Proof.Machine
end

