-- ==== Sys2Proof/Machine/Dispatch.lean ====
section
/-! DEFINITION. One arm per step of the machine: a direct call of its meaning. -/
namespace Sys2Proof.Machine

def exec (i : Instr) (s : State) : Host.Outcome State Fault Refusal :=
  match i with
  | .add g d a b => Sys2Proof.Machine.execAdd g d a b s
  | .sub g d a b => Sys2Proof.Machine.execSub g d a b s
  | .adds g d a b => Sys2Proof.Machine.execAdds g d a b s
  | .subs g d a b => Sys2Proof.Machine.execSubs g d a b s
  | .addz g d a b => Sys2Proof.Machine.execAddz g d a b s
  | .subz g d a b => Sys2Proof.Machine.execSubz g d a b s
  | .neg g d a => Sys2Proof.Machine.execNeg g d a s
  | .abs g d a => Sys2Proof.Machine.execAbs g d a s
  | .mins g d a b => Sys2Proof.Machine.execMins g d a b s
  | .minz g d a b => Sys2Proof.Machine.execMinz g d a b s
  | .maxs g d a b => Sys2Proof.Machine.execMaxs g d a b s
  | .maxz g d a b => Sys2Proof.Machine.execMaxz g d a b s
  | .addc g d a b p => Sys2Proof.Machine.execAddc g d a b p s
  | .subb g d a b p => Sys2Proof.Machine.execSubb g d a b p s
  | .mul g d a b => Sys2Proof.Machine.execMul g d a b s
  | .mulhs g d a b => Sys2Proof.Machine.execMulhs g d a b s
  | .mulhz g d a b => Sys2Proof.Machine.execMulhz g d a b s
  | .mad g d a b => Sys2Proof.Machine.execMad g d a b s
  | .divs g d a b => Sys2Proof.Machine.execDivs g d a b s
  | .divz g d a b => Sys2Proof.Machine.execDivz g d a b s
  | .rems g d a b => Sys2Proof.Machine.execRems g d a b s
  | .remz g d a b => Sys2Proof.Machine.execRemz g d a b s
  | .and g d a b => Sys2Proof.Machine.execAnd g d a b s
  | .or g d a b => Sys2Proof.Machine.execOr g d a b s
  | .xor g d a b => Sys2Proof.Machine.execXor g d a b s
  | .andn g d a b => Sys2Proof.Machine.execAndn g d a b s
  | .not g d a => Sys2Proof.Machine.execNot g d a s
  | .shl g d a b => Sys2Proof.Machine.execShl g d a b s
  | .shrz g d a b => Sys2Proof.Machine.execShrz g d a b s
  | .shrs g d a b => Sys2Proof.Machine.execShrs g d a b s
  | .rotl g d a b => Sys2Proof.Machine.execRotl g d a b s
  | .clz g d a => Sys2Proof.Machine.execClz g d a s
  | .popc g d a => Sys2Proof.Machine.execPopc g d a s
  | .brev g d a => Sys2Proof.Machine.execBrev g d a s
  | .mov g d a => Sys2Proof.Machine.execMov g d a s
  | .movi g d imm => Sys2Proof.Machine.execMovi g d imm s
  | .movhi g d imm => Sys2Proof.Machine.execMovhi g d imm s
  | .sext g d a b => Sys2Proof.Machine.execSext g d a b s
  | .zext g d a b => Sys2Proof.Machine.execZext g d a b s
  | .slext g d a b => Sys2Proof.Machine.execSlext g d a b s
  | .slins g d a b => Sys2Proof.Machine.execSlins g d a b s
  | .pack g d a b => Sys2Proof.Machine.execPack g d a b s
  | .unpk g d a b => Sys2Proof.Machine.execUnpk g d a b s
  | .swap g d a => Sys2Proof.Machine.execSwap g d a s
  | .slclr g d a => Sys2Proof.Machine.execSlclr g d a s
  | .ceq g d a b => Sys2Proof.Machine.execCeq g d a b s
  | .cne g d a b => Sys2Proof.Machine.execCne g d a b s
  | .clts g d a b => Sys2Proof.Machine.execClts g d a b s
  | .cltz g d a b => Sys2Proof.Machine.execCltz g d a b s
  | .cles g d a b => Sys2Proof.Machine.execCles g d a b s
  | .clez g d a b => Sys2Proof.Machine.execClez g d a b s
  | .fceq g d a b => Sys2Proof.Machine.execFceq g d a b s
  | .fclt g d a b => Sys2Proof.Machine.execFclt g d a b s
  | .fcle g d a b => Sys2Proof.Machine.execFcle g d a b s
  | .fcun g d a b => Sys2Proof.Machine.execFcun g d a b s
  | .pmov g d a => Sys2Proof.Machine.execPmov g d a s
  | .pand g d a b => Sys2Proof.Machine.execPand g d a b s
  | .por g d a b => Sys2Proof.Machine.execPor g d a b s
  | .pxor g d a b => Sys2Proof.Machine.execPxor g d a b s
  | .pnot g d a => Sys2Proof.Machine.execPnot g d a s
  | .selp g d a b p => Sys2Proof.Machine.execSelp g d a b p s
  | .fadd g d a b rm => Sys2Proof.Machine.execFadd g d a b rm s
  | .fsub g d a b rm => Sys2Proof.Machine.execFsub g d a b rm s
  | .fmul g d a b rm => Sys2Proof.Machine.execFmul g d a b rm s
  | .fma g d a b rm => Sys2Proof.Machine.execFma g d a b rm s
  | .fnma g d a b rm => Sys2Proof.Machine.execFnma g d a b rm s
  | .fmin g d a b => Sys2Proof.Machine.execFmin g d a b s
  | .fmax g d a b => Sys2Proof.Machine.execFmax g d a b s
  | .fabs g d a => Sys2Proof.Machine.execFabs g d a s
  | .fneg g d a => Sys2Proof.Machine.execFneg g d a s
  | .frcp g d a rm => Sys2Proof.Machine.execFrcp g d a rm s
  | .frsq g d a rm => Sys2Proof.Machine.execFrsq g d a rm s
  | .fexp2 g d a rm => Sys2Proof.Machine.execFexp2 g d a rm s
  | .flog2 g d a rm => Sys2Proof.Machine.execFlog2 g d a rm s
  | .fdiv g d a b rm => Sys2Proof.Machine.execFdiv g d a b rm s
  | .fsqrt g d a rm => Sys2Proof.Machine.execFsqrt g d a rm s
  | .fscale g d a b rm => Sys2Proof.Machine.execFscale g d a b rm s
  | .fcvts g d a rm => Sys2Proof.Machine.execFcvts g d a rm s
  | .fcvtz g d a rm => Sys2Proof.Machine.execFcvtz g d a rm s
  | .ftois g d a rm => Sys2Proof.Machine.execFtois g d a rm s
  | .ftoiz g d a rm => Sys2Proof.Machine.execFtoiz g d a rm s
  | .frnd g d a rm => Sys2Proof.Machine.execFrnd g d a rm s
  | .fnorm g d a => Sys2Proof.Machine.execFnorm g d a s
  | .fgete g d a => Sys2Proof.Machine.execFgete g d a s
  | .fgetm g d a => Sys2Proof.Machine.execFgetm g d a s
  | .fsete g d a b rm => Sys2Proof.Machine.execFsete g d a b rm s
  | .ftol g d a f => Sys2Proof.Machine.execFtol g d a f s
  | .ltof g d a f => Sys2Proof.Machine.execLtof g d a f s
  | .f32w g d a => Sys2Proof.Machine.execF32w g d a s
  | .wf32 g d a rm => Sys2Proof.Machine.execWf32 g d a rm s
  | .br g off => Sys2Proof.Machine.execBr g off s
  | .jmp g a => Sys2Proof.Machine.execJmp g a s
  | .jal g d off => Sys2Proof.Machine.execJal g d off s
  | .jalr g d a => Sys2Proof.Machine.execJalr g d a s
  | .loop g d a => Sys2Proof.Machine.execLoop g d a s
  | .waitp g a => Sys2Proof.Machine.execWaitp g a s
  | .halt g => Sys2Proof.Machine.execHalt g s
  | .nop g => Sys2Proof.Machine.execNop g s
  | .trap g a b => Sys2Proof.Machine.execTrap g a b s
  | .eret g => Sys2Proof.Machine.execEret g s
  | .srd g d a => Sys2Proof.Machine.execSrd g d a s
  | .swr g d a => Sys2Proof.Machine.execSwr g d a s
  | .cfence g => Sys2Proof.Machine.execCfence g s
  | .wfe g d a b => Sys2Proof.Machine.execWfe g d a b s
  | .bkpt g a => Sys2Proof.Machine.execBkpt g a s
  | .emit g d a b => Sys2Proof.Machine.execEmit g d a b s
  | .deq g a => Sys2Proof.Machine.execDeq g a s
  | .peekk g d a => Sys2Proof.Machine.execPeekk g d a s
  | .ctok g d a b => Sys2Proof.Machine.execCtok g d a b s
  | .pass g d a => Sys2Proof.Machine.execPass g d a s
  | .retire g x => Sys2Proof.Machine.execRetire g x s
  | .exit g a b nv => Sys2Proof.Machine.execExit g a b nv s
  | .eow g d a => Sys2Proof.Machine.execEow g d a s
  | .tidx g d a b => Sys2Proof.Machine.execTidx g d a b s
  | .idle g a => Sys2Proof.Machine.execIdle g a s
  | .vadd g d a b ln => Sys2Proof.Machine.execVadd g d a b ln s
  | .vsub g d a b ln => Sys2Proof.Machine.execVsub g d a b ln s
  | .vadds g d a b ln => Sys2Proof.Machine.execVadds g d a b ln s
  | .vmin g d a b ln => Sys2Proof.Machine.execVmin g d a b ln s
  | .vmax g d a b ln => Sys2Proof.Machine.execVmax g d a b ln s
  | .vaddmin g d a b ln => Sys2Proof.Machine.execVaddmin g d a b ln s
  | .vaddmax g d a b ln => Sys2Proof.Machine.execVaddmax g d a b ln s
  | .vmul g d a b ln => Sys2Proof.Machine.execVmul g d a b ln s
  | .vsel g d a b ln => Sys2Proof.Machine.execVsel g d a b ln s
  | .lshl g d a b ln => Sys2Proof.Machine.execLshl g d a b ln s
  | .lshr g d a b ln => Sys2Proof.Machine.execLshr g d a b ln s
  | .vred g d a b ln => Sys2Proof.Machine.execVred g d a b ln s
  | .vscan g d a b ln => Sys2Proof.Machine.execVscan g d a b ln s
  | .vbcast g d a b ln => Sys2Proof.Machine.execVbcast g d a b ln s
  | .vcmp g d a b ln => Sys2Proof.Machine.execVcmp g d a b ln s
  | .vdot g d a b ln => Sys2Proof.Machine.execVdot g d a b ln s
  | .mzero g a => Sys2Proof.Machine.execMzero g a s
  | .mmac g src b => Sys2Proof.Machine.execMmac g src b s
  | .mmac8 g src b => Sys2Proof.Machine.execMmac8 g src b s
  | .mmac12 g src b => Sys2Proof.Machine.execMmac12 g src b s
  | .mmacw g q => Sys2Proof.Machine.execMmacw g q s
  | .mdown g f => Sys2Proof.Machine.execMdown g f s
  | .mread g d a b rm => Sys2Proof.Machine.execMread g d a b rm s
  | .mnorm g a => Sys2Proof.Machine.execMnorm g a s
  | .mxget g d a => Sys2Proof.Machine.execMxget g d a s
  | .mtask g d a b p => Sys2Proof.Machine.execMtask g d a b p s
  | .mpois g a x => Sys2Proof.Machine.execMpois g a x s
  | .ld g d a b m => Sys2Proof.Machine.execLd g d a b m s
  | .st g d a b m => Sys2Proof.Machine.execSt g d a b m s
  | .ldf g d a b m => Sys2Proof.Machine.execLdf g d a b m s
  | .stf g d a b m => Sys2Proof.Machine.execStf g d a b m s
  | .aadd g d a b m => Sys2Proof.Machine.execAadd g d a b m s
  | .amin g d a b m => Sys2Proof.Machine.execAmin g d a b m s
  | .amax g d a b m => Sys2Proof.Machine.execAmax g d a b m s
  | .aand g d a b m => Sys2Proof.Machine.execAand g d a b m s
  | .aor g d a b m => Sys2Proof.Machine.execAor g d a b m s
  | .axor g d a b m => Sys2Proof.Machine.execAxor g d a b m s
  | .axchg g d a b m => Sys2Proof.Machine.execAxchg g d a b m s
  | .acas g d a b m => Sys2Proof.Machine.execAcas g d a b m s
  | .afadd g d a b m => Sys2Proof.Machine.execAfadd g d a b m s
  | .fence g d a => Sys2Proof.Machine.execFence g d a s
  | .join g d a b => Sys2Proof.Machine.execJoin g d a b s
  | .fork g d a => Sys2Proof.Machine.execFork g d a s
  | .csetb g d a b => Sys2Proof.Machine.execCsetb g d a b s
  | .candp g d a b => Sys2Proof.Machine.execCandp g d a b s
  | .cgetb g d a => Sys2Proof.Machine.execCgetb g d a s
  | .cgetl g d a => Sys2Proof.Machine.execCgetl g d a s
  | .cgetp g d a => Sys2Proof.Machine.execCgetp g d a s
  | .ctest g d a b => Sys2Proof.Machine.execCtest g d a b s
  | .cmov g d a => Sys2Proof.Machine.execCmov g d a s
  | .cldc g d a b => Sys2Proof.Machine.execCldc g d a b s
  | .cstc g d a b => Sys2Proof.Machine.execCstc g d a b s
  | .cclr g d a => Sys2Proof.Machine.execCclr g d a s
  | .csub g d a b => Sys2Proof.Machine.execCsub g d a b s
  | .dma g d a b m => Sys2Proof.Machine.execDma g d a b m s
  | .dmas g d a b m => Sys2Proof.Machine.execDmas g d a b m s
  | .gath g d a b m => Sys2Proof.Machine.execGath g d a b m s
  | .scat g d a b m => Sys2Proof.Machine.execScat g d a b m s
  | .stage g d a b m => Sys2Proof.Machine.execStage g d a b m s
  | .coll g d a b m => Sys2Proof.Machine.execColl g d a b m s
  | .msg g d a b m => Sys2Proof.Machine.execMsg g d a b m s
  | .mrecv g d a b m => Sys2Proof.Machine.execMrecv g d a b m s
  | .bankt g a b => Sys2Proof.Machine.execBankt g a b s
  | .launch g d a b m => Sys2Proof.Machine.execLaunch g d a b m s
  | .gbar g a => Sys2Proof.Machine.execGbar g a s
  | .epoll g d a => Sys2Proof.Machine.execEpoll g d a s
  | .ecancel g a => Sys2Proof.Machine.execEcancel g a s
  | .qwait g d a b => Sys2Proof.Machine.execQwait g d a b s
  | .lease g d a b => Sys2Proof.Machine.execLease g d a b s
  | .lrel g => Sys2Proof.Machine.execLrel g s
  | .pwrq g d a b => Sys2Proof.Machine.execPwrq g d a b s
  | .tstamp g d => Sys2Proof.Machine.execTstamp g d s
  | .mark g a b => Sys2Proof.Machine.execMark g a b s
  | .dstop g d a => Sys2Proof.Machine.execDstop g d a s
  | .scant g d a => Sys2Proof.Machine.execScant g d a s
  | .scanq g d a => Sys2Proof.Machine.execScanq g d a s
  | .lcmap g d a b => Sys2Proof.Machine.execLcmap g d a b s
  | .writeBack x id => Sys2Proof.Machine.execWriteBack x id s
  | .trapEntry k => Sys2Proof.Machine.execTrapEntry k s
  | .asynchronousTrap k => Sys2Proof.Machine.execAsynchronousTrap k s
  | .instructionCacheFill k => Sys2Proof.Machine.execInstructionCacheFill k s
  | .wfeTimeout k => Sys2Proof.Machine.execWfeTimeout k s
  | .tokenTransfer k net link => Sys2Proof.Machine.execTokenTransfer k net link s
  | .busPacketDiscard k col bus => Sys2Proof.Machine.execBusPacketDiscard k col bus s
  | .fillerFiring k e => Sys2Proof.Machine.execFillerFiring k e s
  | .leaseExpiry p => Sys2Proof.Machine.execLeaseExpiry p s
  | .passStart k r => Sys2Proof.Machine.execPassStart k r s
  | .entryTokenSend k r => Sys2Proof.Machine.execEntryTokenSend k r s
  | .pickLoad k r row pick => Sys2Proof.Machine.execPickLoad k r row pick s
  | .restoreComplete k r row => Sys2Proof.Machine.execRestoreComplete k r row s
  | .eviction k r row => Sys2Proof.Machine.execEviction k r row s
  | .spillComplete k r row => Sys2Proof.Machine.execSpillComplete k r row s
  | .wrapDelivery k r => Sys2Proof.Machine.execWrapDelivery k r s
  | .wrapOverflow k r e => Sys2Proof.Machine.execWrapOverflow k r e s
  | .initialRecordAppend k r => Sys2Proof.Machine.execInitialRecordAppend k r s
  | .streamRead k n x => Sys2Proof.Machine.execStreamRead k n x s
  | .streamWrite k n x => Sys2Proof.Machine.execStreamWrite k n x s
  | .nodeRequest k n x => Sys2Proof.Machine.execNodeRequest k n x s
  | .streamRetry k n x => Sys2Proof.Machine.execStreamRetry k n x s
  | .engineUnit k id => Sys2Proof.Machine.execEngineUnit k id s
  | .engineCompletion k id => Sys2Proof.Machine.execEngineCompletion k id s
  | .segmentHandover k id seg => Sys2Proof.Machine.execSegmentHandover k id seg s
  | .messageDelivery k id => Sys2Proof.Machine.execMessageDelivery k id s
  | .messageTake k => Sys2Proof.Machine.execMessageTake k s
  | .recordEnqueue k id => Sys2Proof.Machine.execRecordEnqueue k id s
  | .farAtomicCompletion k id => Sys2Proof.Machine.execFarAtomicCompletion k id s
  | .recordCheck p q => Sys2Proof.Machine.execRecordCheck p q s
  | .memberPlacement p q => Sys2Proof.Machine.execMemberPlacement p q s
  | .stagingFill l m => Sys2Proof.Machine.execStagingFill l m s
  | .memberStart l m => Sys2Proof.Machine.execMemberStart l m s
  | .launchCompletion p q => Sys2Proof.Machine.execLaunchCompletion p q s
  | .drain k r => Sys2Proof.Machine.execDrain k r s
  | .freezeWave k r => Sys2Proof.Machine.execFreezeWave k r s
  | .freezeEnd k r => Sys2Proof.Machine.execFreezeEnd k r s
  | .preemption p q => Sys2Proof.Machine.execPreemption p q s
  | .restore l m => Sys2Proof.Machine.execRestore l m s
  | .gangAbort l m cause => Sys2Proof.Machine.execGangAbort l m cause s
  | .criticalPathStep k => Sys2Proof.Machine.execCriticalPathStep k s
  | .regionStop k r => Sys2Proof.Machine.execRegionStop k r s
  | .scanComplete k => Sys2Proof.Machine.execScanComplete k s
  | .reinitialisationEnd k => Sys2Proof.Machine.execReinitialisationEnd k s
  | .edgeValueArrival k e => Sys2Proof.Machine.execEdgeValueArrival k e s
  | .acknowledgeTimer g => Sys2Proof.Machine.execAcknowledgeTimer g s
  | .laneMapResend g => Sys2Proof.Machine.execLaneMapResend g s
  | .laneMapSwitch g => Sys2Proof.Machine.execLaneMapSwitch g s
  | .shootdownAck p id cache => Sys2Proof.Machine.execShootdownAck p id cache s
  | .shootdownComplete p id => Sys2Proof.Machine.execShootdownComplete p id s
  | .shootdownTimeout p id pkg => Sys2Proof.Machine.execShootdownTimeout p id pkg s
  | .trackerPeriod stack => Sys2Proof.Machine.execTrackerPeriod stack s
  | .blockSwitch blk => Sys2Proof.Machine.execBlockSwitch blk s
  | .intervalStart => Sys2Proof.Machine.execIntervalStart s
  | .tokenInstalment => Sys2Proof.Machine.execTokenInstalment s
  | .intervalEnd ms => Sys2Proof.Machine.execIntervalEnd ms s
  | .powerCapAction avg peak => Sys2Proof.Machine.execPowerCapAction avg peak s
  | .sensorSample die rd => Sys2Proof.Machine.execSensorSample die rd s
  | .leakageMeasurement k str mA => Sys2Proof.Machine.execLeakageMeasurement k str mA s
  | .oppoint k str => Sys2Proof.Machine.execOppoint k str s
  | .collTimeout l tag => Sys2Proof.Machine.execCollTimeout l tag s
  | .barrierTimeout l n => Sys2Proof.Machine.execBarrierTimeout l n s
  | .uncorrectableError e => Sys2Proof.Machine.execUncorrectableError e s
  | .fatalDump cause die => Sys2Proof.Machine.execFatalDump cause die s
  | .flitReceive g raw => Sys2Proof.Machine.execFlitReceive g raw s
  | .portRetrain n => Sys2Proof.Machine.execPortRetrain n s
  | .domainTimeout pkg => Sys2Proof.Machine.execDomainTimeout pkg s
  | .parkedReplay blk => Sys2Proof.Machine.execParkedReplay blk s
  | .atomRemap tier media => Sys2Proof.Machine.execAtomRemap tier media s
  | .bar2Read f off n => Sys2Proof.Machine.execBar2Read f off n s
  | .bar2Write f off data => Sys2Proof.Machine.execBar2Write f off data s
  | .bar0ReadFlush f off => Sys2Proof.Machine.execBar0ReadFlush f off s
  | .submit f v => Sys2Proof.Machine.execSubmit f v s
  | .skip f q => Sys2Proof.Machine.execSkip f q s
  | .retry f q => Sys2Proof.Machine.execRetry f q s
  | .queueKill f q => Sys2Proof.Machine.execQueueKill f q s
  | .shoot f v => Sys2Proof.Machine.execShoot f v s
  | .regionAbort f lc r => Sys2Proof.Machine.execRegionAbort f lc r s
  | .imgfree f off => Sys2Proof.Machine.execImgfree f off s
  | .debugResume f lc => Sys2Proof.Machine.execDebugResume f lc s
  | .debugResumeAtDbgpc f lc => Sys2Proof.Machine.execDebugResumeAtDbgpc f lc s
  | .regionResume f lc r => Sys2Proof.Machine.execRegionResume f lc r s
  | .regionImageWrite f lc r => Sys2Proof.Machine.execRegionImageWrite f lc r s
  | .eqctlWrite f v => Sys2Proof.Machine.execEqctlWrite f v s
  | .registerWrite f off v => Sys2Proof.Machine.execRegisterWrite f off v s
  | .errorCounterRead die => Sys2Proof.Machine.execErrorCounterRead die s
  | .laneStatusRead => Sys2Proof.Machine.execLaneStatusRead s
  | .partitionCreate => Sys2Proof.Machine.execPartitionCreate s
  | .partitionDestroy => Sys2Proof.Machine.execPartitionDestroy s
  | .partitionReset => Sys2Proof.Machine.execPartitionReset s
  | .partitionResetComplete p => Sys2Proof.Machine.execPartitionResetComplete p s
  | .functionLevelReset f => Sys2Proof.Machine.execFunctionLevelReset f s
  | .vfDisable n => Sys2Proof.Machine.execVfDisable n s
  | .coreReset k => Sys2Proof.Machine.execCoreReset k s
  | .packageReset => Sys2Proof.Machine.execPackageReset s
  | .fundamentalReset => Sys2Proof.Machine.execFundamentalReset s
  | .dumpRelease => Sys2Proof.Machine.execDumpRelease s
  | .irqTimer f => Sys2Proof.Machine.execIrqTimer f s
  | .bringUp b => Sys2Proof.Machine.execBringUp b s
  | .portRetrainEnd n => Sys2Proof.Machine.execPortRetrainEnd n s
  | .domainRebuild own => Sys2Proof.Machine.execDomainRebuild own s

end Sys2Proof.Machine
end

