-- ==== Sys2Proof/Machine/Schedule.lean ====
section
/-! DEFINITION. Which steps a cycle holds, and their order: the fetch of a control core (spec/01 R18 to R22), the arbiter of an element (spec/06
R145; spec/23 R409), the rotations of the controller (spec/07 R164) and of the engines (spec/17 R315), and the turns of a cycle. A step of
spec/95 that is not due changes nothing, so a turn offers it. -/
namespace Sys2Proof.Machine

/-! ### The control core (R18 to R22) -/

/-- The member that core `k` runs for stands frozen (R377). -/
def State.ccFrozen (s : State) (k : Nat) : Bool :=
  match (s.cc k).member with
  | some (l, m) => (((s.launches.get? l).bind fun x => x.members[m]?).map Member.frozen).getD false
  | none => false

/-- The cached line at an address (R21). -/
def State.line? (s : State) (k va : Nat) : Option Line := (s.cc k).icache.find? fun l => l.va == lineOf va && l.root == s.rootOf k

/-- The line that the fetch at an address lacks: its own, or the next one that its word runs into (R21). DEDUCED: notes/assumptions/5.md. -/
def State.lacking (s : State) (k va : Nat) : Option Nat :=
  if (s.line? k va).isNone then some (lineOf va)
  else if va % 128 > 120 && (s.line? k (va + 7)).isNone then some (lineOf (va + 7))
  else none

/-- R20: the fault of the fetch itself. -/
def ControlCore.fetchFault (c : ControlCore) : Option Nat :=
  if !c.codecap.tag then some 0x200 else if !c.codecap.xi then some 0x202 else if c.codecap.len < c.pc.toNat + 8 then some 0x201 else none

/-- R21, R22: a miss asks for the line, once. -/
def State.miss (s : State) (k va : Nat) : State :=
  if (s.cc k).fill = some va then s
  else
    let (n, s) := s.draw
    (s.modCc k fun c => { c with fill := some va }).after (1 + Config.freeDelay n) (.ev (.instructionCacheFill k))

/-- R51: the word at the PC issues, or traps as an illegal one. -/
def State.issueWord (s : State) (k : Nat) (w : Word64) : Out3 :=
  match decode .cc w with
  | .ok i => exec i { s with site := .cc k }
  | .error x => .next (s.raise k (illegalCode x) w (s.cc k).pc)

/-- The fetch and issue of core `k`. -/
def State.fetchIssue (s : State) (k : Nat) : Out3 :=
  let c := s.cc k
  match c.fetchFault with
  | some x => .next (s.raise k x (c.pc.zeroExtend 64) c.pc)
  | none =>
    match s.lacking k c.fetchVa, s.line? k c.fetchVa with
    | none, some l => s.issueWord k (codeWord l (s.line? k (c.fetchVa + 7)) c.fetchVa)
    | some va, _ =>
      (match c.fillFault with
      | some (pc, x, v) => if pc = c.pc then .next ((s.modCc k fun c => { c with fillFault := none }).raise k x v pc) else .next (s.miss k va)
      | none => .next (s.miss k va))
    | none, none => .next s

/-- The turn of a control core (R18, R372): a report that may be delivered, else the next instruction. DEDUCED: notes/assumptions/59.md. -/
def State.issue (s : State) (k : Nat) : Out3 :=
  let c := s.cc k
  if s.ccFrozen k then .next s
  else if c.deliverable s.cycle then exec (.asynchronousTrap k) s
  else if c.run != .running || s.cycle < c.nextIssue || c.halting || c.trapping.isSome || c.gbar.isSome then .next s
  else s.fetchIssue k

/-! ### The arbiter of an element (R145, R409) -/

/-- The kind of an element's words. -/
def kindOf (e : Nat) : SiteKind := if isV e then .vElem else .mElem

/-- One slot of a context is tried. -/
def State.trySlot (s : State) (k e c slot : Nat) (w : Word64) : Out3 :=
  match decode (kindOf e) w with
  | .ok i => exec i { s with site := .ctx k e c slot, fired := false }
  | .error _ => .next { s with fired := false }

/-- R145: the slots of a context in ascending order, up to one that fires or that stops the region (R166). -/
def State.trySlots (s : State) (k e c : Nat) : Nat → List Word64 → Out3
  | _, [] => .next { s with fired := false }
  | n, w :: r =>
    match s.trySlot k e c n w with
    | .next t => if t.fired || t.todo.length != s.todo.length then .next t else State.trySlots s k e c (n + 1) r
    | o => o

/-- R145: contexts in an order, up to one that fires. -/
def State.tryCtxs (s : State) (k e : Nat) (card : List Word64) : List Nat → Out3
  | [] => .next { s with fired := false }
  | c :: r =>
    match s.trySlots k e c 0 card with
    | .next t => if t.fired then .next (t.sample k e c) else if t.todo.length != s.todo.length then .next t else State.tryCtxs s k e card r
    | o => o

/-- R409: the rank of a context whose next firing is by `slot`: its thread, the number in its thread-entry token, or after every thread.
DEDUCED: notes/assumptions/37.md. -/
def State.rank (s : State) (k e c : Nat) (w : Word64) : Nat :=
  match (s.ctx k e c).thread with
  | some t => t.toNat
  | none => match decode (kindOf e) w with
    | .ok i => if threadGuard i.shape.guard then ((s.chanHead k e c (guardCH i.shape.guard)).map fun t => t.payload.toNat % 2 ^ 32).getD (2 ^ 32) else 2 ^ 32
    | .error _ => 2 ^ 32

/-- The slot of a context that would fire. -/
def State.wouldFire (s : State) (k e c : Nat) : Nat → List Word64 → Option Nat
  | _, [] => none
  | n, w :: r =>
    match s.trySlot k e c n w with
    | .next t => if t.fired then some n else State.wouldFire s k e c (n + 1) r
    | _ => none

/-- Contexts inserted by rank, then in order. -/
def insertRank (x : Nat × Nat) : List (Nat × Nat) → List (Nat × Nat)
  | [] => [x]
  | y :: r => if x.1 < y.1 then x :: y :: r else y :: insertRank x r

/-- R145, R409: the order of the contexts. DEDUCED: notes/assumptions/37.md. -/
def State.ctxOrder (s : State) (k e : Nat) (det : Bool) : List Nat :=
  let x := s.elem k e
  let cs := (upFrom 0 4).map fun i => (x.ptr + i) % 4
  if !det then cs
  else (cs.foldl (fun l c => match s.wouldFire k e c 0 x.card with
    | some n => insertRank (s.rank k e c (x.card.getD n 0), c) l
    | none => insertRank (2 ^ 33, c) l) []).map fun p => p.2

/-- The turn of an element at a layer-cycle edge: at most one firing, and none in a region that is frozen; the pointer moves on in every layer cycle
(R145). A stop holds back the controller and read-ahead alone, so an element of a stopped region may fire (spec/23 R405).
DESIGN CHOICE: notes/assumptions/56.md. DESIGN CHOICE: notes/assumptions/10.md. -/
def State.fire (s : State) (k e : Nat) : Out3 :=
  match (s.core k).regionOf e with
  | none => .next s
  | some (_, r) =>
    let x := s.elem k e
    let st := (r.row (r.rowOf e)).st
    let turn (t : State) : Out3 := .next (t.modElem k e fun x => { x with ptr := (x.ptr + 1) % 4 })
    if !x.used || !(st == .active || st == .passed) then .next s
    else if !r.started || r.frozen || r.ended || r.freeze != .none then turn s
    else match s.tryCtxs k e x.card (s.ctxOrder k e r.det) with
      | .next t => turn t
      | o => o

/-! ### Rotations of the controller (R164) -/

/-- Region numbers from a pointer on. -/
def rotate8 (p : Nat) : List Nat := (upFrom 0 8).map fun i => (p + i) % 8

/-- R382: the next row whose pick a restore loads again. -/
def Region.nextReload (r : Region) : Option Nat := if r.freeze == .none then r.reloading.head? else none

/-- R164: the pick load of this cycle, offered to the regions in rotating order. DEDUCED: notes/assumptions/10.md. -/
def State.loadTurn (s : State) (k : Nat) : State :=
  match (rotate8 (s.core k).loadPtr).findSome? fun rn => (s.region? k rn).bind fun r =>
      (r.nextReload.map fun i => (rn, some i, 0, 0)).orElse fun _ => (r.nextLoad s.cycle).map fun p => (rn, none, p) with
  | some (rn, some row, _) => (s.modCore k fun c => { c with loadPtr := (rn + 1) % 8 }).reloaded k rn row
  | some (rn, none, row, pick) => { s with todo := .ev (.pickLoad k rn row pick) :: s.todo }
  | none => s

/-- R164, R168: the row of a region whose spill or restore moves next: the one of the lowest pick. A spill begins in the cycle in which its row enters
Evicting, a restore in the cycle after its pick has loaded. DESIGN CHOICE: notes/assumptions/10.md. -/
def Region.moving (r : Region) (now : Nat) : Option Nat :=
  (((upFrom 0 r.height).filter fun i => 0 < (r.row i).bytes && ((r.row i).st == .evicting || (r.row i).since < now)).foldl (fun (m : Option Nat) i => match m with
    | some j => if (r.row i).pick < (r.row j).pick then some i else some j
    | none => some i) none)

/-- R164, R167, R168: 64 bytes of one row move. -/
def State.moveTurn (s : State) (k : Nat) : State :=
  match (rotate8 (s.core k).movePtr).findSome? fun rn => ((s.region? k rn).bind fun r => r.moving s.cycle).map fun i => (rn, i) with
  | none => s
  | some (rn, i) =>
    let x := ((s.region? k rn).map fun r => r.row i).getD {}
    let s := (s.modCore k fun c => { c with movePtr := (rn + 1) % 8 }).modRow k rn i fun y => { y with bytes := y.bytes - 64 }
    if 64 < x.bytes then s
    else { s with todo := .ev (if x.st == .loading then .restoreComplete k rn i else .spillComplete k rn i) :: s.todo }

/-! ### Turns -/

/-- A list of `n` drawn values. -/
def State.draws {α : Type} (s : State) (f : Nat → α) : Nat → List α × State
  | 0 => ([], s)
  | n + 1 =>
    let (i, s) := s.draw
    let r := State.draws s f n
    (f i :: r.1, r.2)

/-- R180: the layer currents of every string of the partitions' cores. DESIGN CHOICE: notes/assumptions/23.md. -/
def State.measures (s : State) : List Meas × State :=
  (s.homes.flatMap fun k => (upFrom 0 8).map fun n => (k, n)).foldl (fun (r : List Meas × State) p =>
    let d := r.2.draws Config.layerCurrent 4
    (r.1 ++ [{ core := p.1, str := p.2, mA := d.1 }], d.2)) ([], s)

/-- R179: the filler that a core may fire in this cycle, after its instructions: by string and ascending layer, each in rotating column order. -/
def Core.fillerTurns (c : Core) (k now : Nat) : List Turn :=
  c.strings.flatMap fun x => (upFrom 0 4).flatMap fun i =>
    if x.2.filler.getD i 0 < x.2.quota.getD i 0 && x.2.edge i now then
      (upFrom 0 8).map fun j => .ev (.fillerFiring k (layerElem x.1 i + (x.2.fillPtr.getD i 0 + 1 + j) % 8))
    else []

/-- A turn is carried out. DESIGN CHOICE: notes/assumptions/1.md. DESIGN CHOICE: notes/assumptions/15.md. -/
def State.turn (s : State) (t : Turn) : Out3 :=
  match t with
  | .ev i => exec i s
  | .issue k => s.issue k
  | .fire k e => s.fire k e
  | .load k => .next (s.loadTurn k)
  | .move k => .next (s.moveTurn k)
  | .filler k => .next { s with todo := (s.core k).fillerTurns k s.cycle ++ s.todo }
  | .fail k l cause => .next ((s.blame l k).failLaunch l cause)
  | .flush => .next s.flush
  | .measure => let r := s.measures; execIntervalEnd r.1 r.2
  | .power =>
    let (a, s) := s.draw
    let (b, s) := s.draw
    execPowerCapAction (Config.averagePower a) (Config.peakPower b) s
  | .sense die => let r := s.draws Config.sensorReading 48; execSensorSample die r.1 r.2
  | .leak k n =>
    let (a, s) := s.draw
    execLeakageMeasurement k n (Config.leakageCurrent a) s
  | .lookup k n => execOppoint k n s
  | .cancel k id => .next (s.endCmd k id 2)
  | .remap a => execAtomRemap 0 a s
  | .link g => .next (s.linkTurn g)
  | .flit g raw => execFlitReceive g raw s
  | .silent pkg => execDomainTimeout pkg s
  | .dump cause die => execFatalDump (BitVec.ofNat 10 cause) die s
  | .replay blk => execParkedReplay blk s
  | .switched blk => execBlockSwitch blk s
  | .collDue l tag => execCollTimeout l tag s
  | .collPeers p tag => .next (s.peersJoin p tag)
  | .barDue l n => execBarrierTimeout l n s
  | .resetIdle p => .next (s.resetIdle p)
  | .resetEnd p => execPartitionResetComplete p s
  | .irq f => execIrqTimer f s
  | .retrained n => execPortRetrainEnd n s
  | .freeBanks k l b n => .next (s.freeMoved k l b n)
  | .interval => execIntervalStart s
  | .instalment => execTokenInstalment s

/-! ### A cycle begins -/

/-- One cycle of a flight that counts. -/
def Flight.tick (f : Flight) : Flight :=
  match f.left with
  | some (n + 1) => { f with left := some n }
  | _ => f

/-- R15: the flights of a control core count cycles. -/
def Regs.tick (r : Regs) : Regs := { r with flights := r.flights.map Flight.tick }

/-- R129, R202: the flights of an element count layer cycles; IDLE stands still in a frozen region (R377). -/
def Core.tickElem (c : Core) (e now : Nat) (x : Elem) : Elem :=
  if !c.edge e now then x
  else
    let cold := c.frozenAt e
    { x with ctxs := x.ctxs.map fun p => (p.1, { p.2 with regs := { p.2.regs with flights := p.2.regs.flights.map fun f =>
      if f.hold && cold then f else f.tick } }) }

/-- R15, R127: the flights and the layer clocks of a core. DEDUCED: notes/assumptions/57.md. -/
def Core.tick (c : Core) (now : Nat) : Core :=
  let c : Core := { c with strings := c.strings.map fun p => (p.1, p.2.tick now) }
  { c with cc := { c.cc with regs := c.cc.regs.tick }, elems := c.elems.map fun p => (p.1, c.tickElem p.1 now p.2) }

/-- R186: an active lease counts its µs. -/
def Lease.tick (l : Lease) : Lease :=
  if !l.active then l
  else if l.ticks + 1 < 1000 then { l with ticks := l.ticks + 1 } else { l with ticks := 0, left := l.left - 1 }

def Part.tick (p : Part) : Part := { p with lease := p.lease.map Lease.tick }

/-- Pairs inserted by rank, then in order. -/
def insertBy {α : Type} (x : Nat × α) : List (Nat × α) → List (Nat × α)
  | [] => [x]
  | y :: r => if x.1 < y.1 then x :: y :: r else y :: insertBy x r

/-- Values in the order of their ranks. -/
def byRank {α : Type} (l : List (Nat × α)) : List α := (l.foldl (fun m x => insertBy x m) []).map fun p => p.2

/-- The flights that write back in this cycle, the control cores' first (R15, R129), the elements' in the order of their firing (R199). -/
def State.backs (s : State) : List Turn :=
  (s.cores.flatMap fun (p : Nat × Core) => (p.2.cc.regs.flights.filter fun (f : Flight) => f.left == some 0).map fun (f : Flight) =>
    Turn.ev (.writeBack (.cc p.1) f.id))
    ++ byRank (α := Turn) (s.cores.flatMap fun (p : Nat × Core) => p.2.elems.flatMap fun (e : Nat × Elem) =>
      e.2.ctxs.flatMap fun (c : Nat × Ctx) => (c.2.regs.flights.filter fun (f : Flight) => f.left == some 0).map fun (f : Flight) =>
        (f.id, Turn.ev (.writeBack (.ctx p.1 e.1 c.1 0) f.id)))

/-- R374: the stopped streams whose capability's entry was written, or whose uncorrectable unit was. -/
def State.retries (s : State) : List Turn :=
  s.cores.flatMap fun p => p.2.nodes.flatMap fun n => match p.2.nodeRegion n.1 with
    | none => []
    | some (_, r, _) => ([0, 1].filter fun i => s.retryDue p.1 r (n.2.stream i)).map fun i => .ev (.streamRetry p.1 n.1 i)

/-- R179, R180, R183, R185, R187, R188, R354: the steps that the clock alone makes due at the start of a cycle.
DESIGN CHOICE: notes/assumptions/15.md. DESIGN CHOICE: notes/assumptions/23.md. -/
def State.clockTurns (s : State) : List Turn :=
  (if s.cycle % 128 = 0 then [.power, .interval] else if s.cycle % 16 = 0 then [.instalment] else [])
    ++ (if s.cycle % 10000 = 0 then (upFrom 0 4).map fun d => .sense d else [])
    ++ (s.cores.flatMap fun p => ((upFrom 0 8).filter fun n => let x := p.2.str n; !x.measured && x.lastFire + 2000 ≤ s.cycle).map fun n => .leak p.1 n)
    ++ (if s.cycle % usCycles 1000 = 0 then s.cores.flatMap fun p => (upFrom 0 8).map fun n => .lookup p.1 n else [])
    ++ (if s.cycle % usCycles (1000 * s.trkper) = 0 then (upFrom 0 8).map fun t => .ev (.trackerPeriod t) else [])
    ++ ((s.parts.filter fun p => (p.2.lease.map fun l => l.left == 0).getD false).map fun p => .ev (.leaseExpiry p.1))
    ++ (if s.cycle % 64 = 0 then (s.groups.filter fun g => !g.2.buffer.isEmpty).map fun g => .ev (.acknowledgeTimer g.1) else [])

/-- The turns of a memory node (R265). DEDUCED: notes/assumptions/36.md. -/
def nodeTurns (k : Nat) (n : Nat × Node) : List Turn :=
  [0, 1].flatMap fun i =>
    let w := (n.2.stream i).words
    if !stEn w then [] else if stClass w != 0 then [.ev (.nodeRequest k n.1 i)] else if stDir w then [.ev (.streamWrite k n.1 i)] else [.ev (.streamRead k n.1 i)]

/-- R315: the command that a DMA engine serves in this cycle: the next of those that may, after the one that it served last.
DESIGN CHOICE: notes/assumptions/64.md. -/
def State.dmaNext? (s : State) (k i : Nat) : Option Nat :=
  let may := ((s.core k).engine i).filter fun m => m.fin.isNone && m.at_ ≤ s.cycle && s.mayStart k m
  let last := (s.core k).served.getD i 0
  match may.find? fun m => last < m.id with
  | some m => some m.id
  | none => (may.head?).map Cmd.id

/-- The turns of the members of a launch that a test picks out. -/
def memberTurns (l : Nat × Launch) (f : Launch → Member → Bool) (g : Nat → Nat → Turn) : List Turn :=
  ((upFrom 0 l.2.members.length).zip l.2.members).filterMap fun m => if f l.2 m.2 then some (g l.1 m.1) else none

/-- R254, R315: the turns of the STAGE loader of a core: its commands, and the staging steps of members. DESIGN CHOICE: notes/assumptions/11.md. -/
def State.stageTurns (s : State) (k : Nat) : List Turn :=
  ((((s.core k).engine 2).find? fun m => m.fin.isNone).map fun m => .ev (.engineUnit k m.id)).toList
    ++ s.launches.flatMap fun l => memberTurns l (fun _ m => m.core == k && m.placed && !m.filled) fun l m => .ev (.stagingFill l m)

/-- R315: the turns of the DMA engines of a core. DESIGN CHOICE: notes/assumptions/11.md. -/
def State.dmaTurns (s : State) (k : Nat) : List Turn := [0, 1].filterMap fun i => (s.dmaNext? k i).map fun id => .ev (.engineUnit k id)

/-- R315: the turns of the message unit of a core. DESIGN CHOICE: notes/assumptions/11.md. -/
def State.messageTurns (s : State) (k : Nat) : List Turn :=
  let c := s.core k
  ((c.engine 3).filter fun m => m.op == 0xE6).map (fun m => .ev (.messageDelivery k m.id))
    ++ (if (c.engine 3).any fun m => m.op == 0xE7 then [.ev (.messageTake k)] else [])

/-- R315: the turns of the port of a core, and what its commands bring to their end. DESIGN CHOICE: notes/assumptions/11.md. -/
def State.portTurns (s : State) (k : Nat) : List Turn :=
  let c := s.core k
  ((c.engine 4).map fun m => if m.op = 0xE9 then .ev (.recordEnqueue k m.id) else .ev (.engineUnit k m.id))
    ++ (c.far.map fun f => .ev (.farAtomicCompletion k f.id))
    ++ (c.cmds.flatMap fun m => if m.op = 0xE1 then (upFrom 0 m.segs.length).map fun g => .ev (.segmentHandover k m.id g) else [])
    ++ (c.cmds.filter fun m => m.fin.isSome || m.op == 0xED || m.op == 0xE7).filterMap fun m =>
      if m.op = 0xE7 && m.fin.isNone then none else some (.ev (.engineCompletion k m.id))

/-- R254, R315: the turns of the engines: those of one kind before the next, on every core, so that a bank meets them in the fixed order. -/
def State.engineTurns (s : State) : List Turn :=
  (s.cores.flatMap fun p => s.stageTurns p.1) ++ (s.cores.flatMap fun p => s.dmaTurns p.1) ++ (s.cores.flatMap fun p => s.messageTurns p.1)
    ++ s.cores.flatMap fun p => s.portTurns p.1

/-- R145, R179: the firings of a core at the layer-cycle edges of this cycle, then its filler. DEDUCED: notes/assumptions/57.md. -/
def Core.fireTurns (c : Core) (k now : Nat) : List Turn :=
  ((c.elems.filter fun p => p.2.used && c.edge p.1 now).map fun p => .fire k p.1) ++ [.filler k]

/-- R135, R140, R143: the networks of a core. -/
def Core.netTurns (c : Core) (k : Nat) : List Turn :=
  ((c.links.filter fun p => 1 < p.2.stages.length).map fun p => .ev (.tokenTransfer k 0 p.1))
    ++ ((c.klinks.filter fun p => 1 < p.2.stages.length).map fun p => .ev (.tokenTransfer k 1 p.1))
    ++ (c.rbus.map fun p => .ev (.busPacketDiscard k false p.1)) ++ c.cbus.map fun p => .ev (.busPacketDiscard k true p.1)

/-- R165: the rows that may leave, the last pick first. -/
def Region.rowsDown (r : Region) : List Nat :=
  (((upFrom 0 r.height).filter fun i => (r.row i).st == .active || (r.row i).st == .passed).foldl
    (fun (l : List (Nat × Nat)) i => insertRank (10000 - (r.row i).pick, i) l) []).map fun p => p.2

/-- The turns of the configuration controller of a core (R161 to R168). -/
def Core.controlTurns (c : Core) (k : Nat) : List Turn :=
  (c.regions.map fun r => .ev (.passStart k r.1)) ++ [.load k] ++ (c.regions.map fun r => .ev (.entryTokenSend k r.1))
    ++ (c.regions.map fun r => .ev (.wrapDelivery k r.1)) ++ (c.regions.flatMap fun r => r.2.rowsDown.map fun i => .ev (.eviction k r.1 i)) ++ [.move k]

/-- R376, R393, R404: what the clock brings to its end on a core. -/
def Core.dueEnds (c : Core) (k now : Nat) : List Turn :=
  ((c.regions.filter fun r => (r.2.drainAt.map fun t => decide (t ≤ now)).getD false).map fun r => .ev (.drain k r.1))
    ++ (if c.walks.isEmpty then [] else [.ev (.criticalPathStep k)])
    ++ if (c.scan.map fun x => decide (x.finish ≤ now)).getD false then [.ev (.scanComplete k)] else []

/-- R377, R405: the halts and stops of a core, after whatever this cycle asks to freeze (R406); what a freeze frees counts from the next cycle (R241). -/
def Core.haltTurns (c : Core) (k : Nat) : List Turn :=
  (c.regions.map fun r => .ev (.freezeEnd k r.1)) ++ (if c.cc.member.isSome then [.ev (.freezeEnd k 8)] else [])
    ++ (c.regions.filter fun r => !r.2.stopReqs.isEmpty).map fun r => .ev (.regionStop k r.1)

/-- R244, R385: the restores and placements of a partition, by ascending priority of the record and then by queue. -/
def State.placeTurns (s : State) (p : Nat × Part) : List Turn :=
  (byRank (p.2.queues.map fun q =>
    (((q.2.recs.head?).map fun r => bits (stW r.words 0) 42 40).getD 8 * 16 + q.1,
      (match q.2.launch.bind fun l => (s.launches.get? l).map fun x => (l, x) with
        | some x => memberTurns x (fun x m => x.preempted && m.image.isSome) fun l m => .ev (.restore l m)
        | none => []) ++ [.ev (.memberPlacement p.1 q.1)]))).flatten

/-- R239 to R247, R382: the turns of the queues and of the launches. A partition that is being reset checks and places nothing (R438). -/
def State.launchTurns (s : State) : List Turn :=
  let ps := s.parts.filter fun p => p.2.resetting.isNone
  (ps.flatMap fun p => p.2.queues.map fun q => .ev (.recordCheck p.1 q.1)) ++ (ps.flatMap s.placeTurns)
    ++ (s.launches.flatMap fun l => memberTurns l (fun _ m => m.placed && !m.started) fun l m => .ev (.memberStart l m))

/-- R248: the launches that may retire. -/
def State.retireTurns (s : State) : List Turn := s.parts.flatMap fun p => p.2.queues.map fun q => .ev (.launchCompletion p.1 q.1)

/-- R351, R426: the steps of the timers that are due, those that fence a package first, which discards what it answers in the same cycle. -/
def State.timerTurns (s : State) : List Turn :=
  let due := (s.timers.filter fun t => t.1 ≤ s.cycle).map fun t => t.2
  let fences (t : Turn) : Bool := match t with
    | .silent _ => true
    | .ev (.shootdownTimeout ..) => true
    | _ => false
  due.filter fences ++ due.filter fun t => !fences t

/-- R331, R338, R413: values on long edges and timeouts that are due. -/
def State.dueTurns (s : State) : List Turn :=
  (s.launches.flatMap fun l => (((upFrom 0 l.2.edges.length).zip l.2.edges).filter fun e => (e.2.flying.head?.map fun v => decide (v.1 ≤ s.cycle)).getD false).map
      fun e => .ev (.edgeValueArrival l.1 e.1))
    ++ s.launches.flatMap fun l => (((upFrom 0 l.2.bars.length).zip l.2.bars).filter fun b => b.2.due == some s.cycle).map fun b => .barDue l.1 b.1

/-- The turns of a cycle, in their order. DESIGN CHOICE: notes/assumptions/1.md. -/
def State.cycleTurns (s : State) : List Turn :=
  s.backs ++ s.timerTurns ++ s.clockTurns ++ s.dueTurns ++ ((s.groups.filter fun g => g.2.busy).map fun g => .link g.1)
    ++ (s.cores.map fun p => .issue p.1)
    ++ (s.cores.flatMap fun p => (p.2.regions.filter fun r => r.2.due != 0).map fun r => .ev (.initialRecordAppend p.1 r.1))
    ++ (s.cores.flatMap fun p => p.2.nodes.flatMap (nodeTurns p.1)) ++ s.engineTurns
    ++ (s.cores.flatMap fun p => p.2.fireTurns p.1 s.cycle) ++ (s.cores.flatMap fun p => p.2.netTurns p.1)
    ++ (s.cores.flatMap fun p => p.2.controlTurns p.1) ++ (s.cores.flatMap fun p => p.2.dueEnds p.1 s.cycle) ++ s.launchTurns
    ++ (s.cores.flatMap fun p => p.2.haltTurns p.1) ++ s.retireTurns ++ (s.dumping.map fun d => .dump d.1 d.2.1).toList
    ++ (if s.cycle % 128 = 127 then [.measure] else []) ++ [.flush]

/-- R315: the commands that the DMA engines serve in this cycle are noted. -/
def State.noteServed (s : State) : State :=
  s.cores.foldl (fun (s : State) p => [0, 1].foldl (fun (s : State) i => match s.dmaNext? p.1 i with
    | some id => s.modCore p.1 fun c => { c with served := setAt c.served i id }
    | none => s) s) s

/-- The next cycle begins. A package held in reset (R189, R411) only samples its sensors. DEDUCED: notes/assumptions/47.md. -/
def State.nextCycle (s : State) : State :=
  let again := s.retries
  let s : State := { s with cycle := s.cycle + 1, wrote := [], msix := [], hostReqs := [], portFlits := [] }
  if s.tripped && s.dumping.isNone then { s with todo := if s.cycle % 10000 = 0 then (upFrom 0 4).map fun d => .sense d else [] }
  else
    let s : State := { s.settleCounts with cores := s.cores.map fun p => (p.1, p.2.tick s.cycle), parts := s.parts.map fun p => (p.1, p.2.tick) }
    let t := again ++ s.cycleTurns
    { s.noteServed with todo := t, timers := s.timers.filter fun x => s.cycle < x.1 }

end Sys2Proof.Machine
end

