-- ==== Sys2Proof/Machine/Step.lean ====
section
/-! DEFINITION. The step of the machine: the next turn of the cycle, or the beginning of the next cycle. And the placing of one instruction word where
the step fetches next. -/
namespace Sys2Proof.Machine

/-- One step. DESIGN CHOICE: notes/assumptions/1.md. DESIGN CHOICE: notes/assumptions/14.md. -/
def step (s : State) : Host.Outcome State Fault Refusal :=
  match s.todo with
  | [] => .next s.nextCycle
  | t :: r => ({ s with todo := r } : State).turn t

/-- A code segment of one line at address 0 of space 2. -/
def fetchCap : Cap := mkCap 0 128 (pXI + pRD) 2

/-- The control core of core 0 about to issue `w` at PC 0, from a cached line. DESIGN CHOICE: notes/assumptions/14.md. -/
def ControlCore.withWord (c : ControlCore) (root : Nat) (w : Word64) : ControlCore :=
  { c with
    run := .running, wait := .nothing, pc := 0, codecap := fetchCap, nextIssue := 0, halting := false, trapping := none, gbar := none, reports := []
    icache := [{ va := 0, root := root, words := w :: List.replicate 15 0 }] }

/-- A region of one band with pick 0 Active in row 0. DESIGN CHOICE: notes/assumptions/14.md. -/
def fetchRegion : Region :=
  { launch := 0, member := 0, row0 := 0, height := 4, half := 0, wide := false, image := 0, started := true, rows := [{ st := .active }, {}, {}, {}] }

/-- An element whose slot 0 holds `w` and whose context 0 runs thread 0. DESIGN CHOICE: notes/assumptions/14.md. -/
def fetchElem (w : Word64) : Elem := { used := true, card := [w], ctxs := [(0, { thread := some 0 })] }

/-- `s` with an instruction word placed so that the next step runs it: on the control core of core 0, or, where only an element has it, in slot 0 of a V- or
an M-element of core 0 (notes/assumptions/14.md). -/
def State.withFetchWord (s : State) (_nbits w : Nat) : State :=
  let w := BitVec.ofNat 64 w
  match decode .cc w with
  | .ok _ => { s.modCc 0 fun c => c.withWord (s.rootOf 0) w with todo := [.issue 0] }
  | .error _ =>
    let e := match decode .vElem w with
      | .ok _ => 0
      | .error _ => 1
    { s.modCore 0 fun c => { c with
        regions := [(0, fetchRegion)], elems := [(e, fetchElem w)], strings := c.strings.set 0 { c.str 0 with heavy := 1, light := 1 } }
      with todo := [.fire 0 e] }

end Sys2Proof.Machine
end

