-- ==== Sys2Proof/Safety.lean ====
section
/-! DEFINITION. What a safe run is, in the terms that statements use. -/
namespace Sys2Proof.Machine

/-- A turn that runs no instruction word of its own: the decoder has not refused a word that stands in a turn. -/
def Turn.sound : Turn → Bool
  | .ev i => (encode i).isNone
  | _ => true

/-- No turn of the cycle and no step due later is an instruction word. -/
def State.sound (s : State) : Bool := s.todo.all Turn.sound && s.timers.all fun t => t.2.sound

/-- A state from which the next step goes on. -/
def State.goesOn (s : State) : Prop := ∃ t, step s = .next t

/-- A run that has not stopped after `n` steps. -/
def State.runsFor : Nat → State → Prop
  | 0, _ => True
  | n + 1, s => ∃ t, step s = .next t ∧ t.runsFor n

end Sys2Proof.Machine
end

