-- ==== Sys2Proof/Certificates/Slice0/Obligations.lean ====
section
/-! DEFINITION. The statements for the provers: what each instruction and each step of the spec does, where it completes and where it traps, and what
holds of the machine as a whole. -/

/-! ### The words of the statements -/
namespace Sys2Proof.Claims
open Sys2Proof Sys2Proof.Machine

/-- R13, R49, R51: `i` may issue on core `k`: it is legal there, the core runs, nothing holds its issue stage, no slice or predicate that it reads is pending,
and its guard holds. -/
def mayIssue (i : Instr) (k : Nat) (s : State) : Bool :=
  i.wf .cc && (s.cc k).run == .running && !(s.cc k).halting && (s.cc k).trapping.isNone && (s.cc k).gbar.isNone
    && (s.cc k).regs.ready i.shape && ccGuardHolds i.shape.guard (s.cc k).regs.preds

/-- R144: `i` may fire in context `c` of element `e` of core `k`: it is legal there, and all five conditions of R144 hold. -/
def mayFire (i : Instr) (k e c : Nat) (s : State) : Bool :=
  i.wf (if isV e then .vElem else .mElem) && s.eligible k e c i.shape

/-- The agent whose step it is may carry `i` out. -/
def mayAct (i : Instr) (s : State) : Bool :=
  match s.site with
  | .cc k => mayIssue i k s
  | .ctx k e c _ => mayFire i k e c s

/-- R13, R14: the state after an issue on core `k` with the effect `f`: the results are in flight for the latency of the table, the instruction owns what
it writes, and the PC moves on by 8; `s'` is what else the instruction has changed at its issue. -/
def afterIssue (i : Instr) (f : Eff) (k : Nat) (s s' : State) : State :=
  { s'.modCc k fun c => ({ c with
      regs := if f.lands then c.regs.launch (f.flight s.nextId i.shape.lat 0) else c.regs } : ControlCore).goto (c.pc + 8) (s.cycle + 1)
    with nextId := s.nextId + 1 }

/-- R110, R114: the state after an issue that transfers control to `t`, with the next issue `d` cycles later. -/
def afterJump (i : Instr) (f : Eff) (t d k : Nat) (s s' : State) : State :=
  { s'.modCc k fun c => ({ c with
      regs := if f.lands then c.regs.launch (f.flight s.nextId i.shape.lat 0) else c.regs } : ControlCore).goto (BitVec.ofNat 32 t) (s.cycle + d)
    with nextId := s.nextId + 1 }

/-- R145, R129: the state after a firing with the effect `f` from `s'`, in which the thread has begun and the instruction's own changes are made: the firing is
noted (R402), the inputs are consumed, the power token is taken, and the results are in flight. -/
def afterFire (i : Instr) (f : Eff) (k e c slot : Nat) (s s' : State) : State :=
  let x := (s.beginThread k e c i.shape.guard).ctx k e c
  let t := s'.note i k e c slot x (s.lastMet i k e c)
  let t := if f.takes then t.consume k e i.shape else t
  let t := t.modCore k fun r => { r with strings := r.strings.set (strOf e) ((r.str (strOf e)).takeToken i.shape.heavy s.cycle) }
  let fl := ({ f with outs := f.outs.map fun o => s.markWrap k e o } : Eff).flight s.nextId i.shape.lat x.seq.toNat s.cycle
  let t := t.modCtx k e c fun x => { x with regs := x.regs.launch fl, rsr := x.rsr + BitVec.ofNat 32 f.rsr }
  { t with nextId := s.nextId + 1, fired := true }

/-- The state in which the operands of `i` are read: at a firing, the thread has begun (R134). -/
def reads (i : Instr) (s : State) : State :=
  match s.site with
  | .cc _ => s
  | .ctx k e c _ => s.beginThread k e c i.shape.guard

/-- The state after the agent whose step it is has carried `i` out with the effect `f`; `s'` is what else the instruction has changed. -/
def afterAct (i : Instr) (f : Eff) (s s' : State) : State :=
  match s.site with
  | .cc k => afterIssue i f k s s'
  | .ctx k e c slot => afterFire i f k e c slot s s'

/-- `i` completes wherever it may issue or fire and `pre` holds, with the effect `f` and the further changes `more`, all of them judged where the operands
are read. -/
def completesIf (i : Instr) (pre : State → Prop) (f : State → Eff) (more : State → State) : Prop :=
  ∀ s : State, mayAct i s = true → pre (reads i s) → exec i s = .next (afterAct i (f (reads i s)) s (more (reads i s)))

/-- `i` completes wherever it may issue or fire, and its whole effect is what `f` writes (R81). -/
def completes (i : Instr) (f : State → Eff) : Prop := completesIf i (fun _ => True) f id

/-- `i` traps on the control core wherever it may issue and `pre` holds, with a cause and a value, and has changed nothing before (R18). -/
def trapsIf (i : Instr) (pre : Nat → State → Prop) (cause : Nat) (v : Nat → State → Nat) : Prop :=
  ∀ (k : Nat) (s : State), s.site = .cc k → mayIssue i k s = true → pre k s →
    exec i s = .next (s.raise k cause (BitVec.ofNat 64 (v k s)) (s.cc k).pc)

/-- R40: source `o` at width `w`, read signed or unsigned. -/
def sv (s : State) (o : Operand) (w : Nat) : Int := (s.src o).val .s w
def zv (s : State) (o : Operand) (w : Nat) : Int := (s.src o).val .z w
/-- The same as a number: the unsigned value. -/
def zn (s : State) (o : Operand) (w : Nat) : Nat := (s.src o).to .z w

/-- R37, R41: the result `v` of the operation width, written through `d`. -/
def result (d : Operand) (v : State → Int) (s : State) : Eff := quietOf s d ((v s % ((2 ^ destWidth d : Nat) : Int)).toNat)

/-- R61: `x` clamped to the signed or the unsigned range of `w` bits. -/
def satS (w : Nat) (x : Int) : Int := max (-(2 ^ (w - 1) : Nat)) (min x ((2 ^ (w - 1) : Nat) - 1))
def satZ (w : Nat) (x : Int) : Int := max 0 (min x ((2 ^ w : Nat) - 1))

end Sys2Proof.Claims

open Sys2Proof Sys2Proof.Machine Sys2Proof.Claims

/-! ### Rows 0x0 to 0x4: integers, slices, predicates -/

/-- R82: the twelve add-family members complete with the result that the rule gives, modulo 2^w or clamped. -/
def Obligations.AddFamilyResults : Prop :=
  ∀ (g : BitVec 16) (d a b : Operand),
    let w := destWidth d
    completes (.add g d a b) (result d fun s => sv s a w + sv s b w)
    ∧ completes (.sub g d a b) (result d fun s => sv s a w - sv s b w)
    ∧ completes (.adds g d a b) (result d fun s => satS w (sv s a w + sv s b w))
    ∧ completes (.subs g d a b) (result d fun s => satS w (sv s a w - sv s b w))
    ∧ completes (.addz g d a b) (result d fun s => satZ w (zv s a w + zv s b w))
    ∧ completes (.subz g d a b) (result d fun s => satZ w (zv s a w - zv s b w))
    ∧ completes (.neg g d a) (result d fun s => -sv s a w)
    ∧ completes (.abs g d a) (result d fun s => |sv s a w|)
    ∧ completes (.mins g d a b) (result d fun s => min (sv s a w) (sv s b w))
    ∧ completes (.minz g d a b) (result d fun s => min (zv s a w) (zv s b w))
    ∧ completes (.maxs g d a b) (result d fun s => max (sv s a w) (sv s b w))
    ∧ completes (.maxz g d a b) (result d fun s => max (zv s a w) (zv s b w))

/-- R83: ADDC and SUBB take the carry predicate in and write the carry or borrow to it; where the dest field names the same predicate, the result stands (R42). -/
def Obligations.CarryResults : Prop :=
  ∀ (g : BitVec 16) (d a b : Operand) (p : BitVec 3),
    let w := destWidth d
    let c (s : State) : Int := if s.regs.preds.getLsbD p.toNat then 1 else 0
    completes (.addc g d a b p) (fun s =>
        ((({} : Eff).pred p.toNat (decide ((2 ^ w : Nat) ≤ zv s a w + zv s b w + c s))).put s.ctxNo d
          ((zv s a w + zv s b w + c s) % (2 ^ w : Nat)).toNat))
    ∧ completes (.subb g d a b p) (fun s =>
        ((({} : Eff).pred p.toNat (decide (zv s a w < zv s b w + c s))).put s.ctxNo d
          ((zv s a w - zv s b w - c s) % (2 ^ w : Nat)).toNat))

/-- R84, R85: products, their high halves, quotients and remainders; a zero divisor gives all ones and the dividend (R62). -/
def Obligations.MultiplyDivideResults : Prop :=
  ∀ (g : BitVec 16) (d a b : Operand),
    let w := destWidth d
    completes (.mul g d a b) (result d fun s => sv s a w * sv s b w)
    ∧ completes (.mulhs g d a b) (result d fun s => (sv s a w * sv s b w) / (2 ^ w : Nat))
    ∧ completes (.mulhz g d a b) (result d fun s => (zv s a w * zv s b w) / (2 ^ w : Nat))
    ∧ completes (.mad g d a b) (result d fun s => sv s d w + sv s a w * sv s b w)
    ∧ completes (.divs g d a b) (result d fun s => if sv s b w = 0 then -1 else (sv s a w).tdiv (sv s b w))
    ∧ completes (.divz g d a b) (result d fun s => if zv s b w = 0 then -1 else (zv s a w).tdiv (zv s b w))
    ∧ completes (.rems g d a b) (result d fun s => if sv s b w = 0 then sv s a w else (sv s a w).tmod (sv s b w))
    ∧ completes (.remz g d a b) (result d fun s => if zv s b w = 0 then zv s a w else (zv s a w).tmod (zv s b w))

/-- R86: the bitwise members, R88: BREV: the bit of the result at every place. R87, R63: shifts by the count of B; a count of w or more gives 0, or the sign for SHRS; ROTL rotates by the count
modulo w. R88: CLZ and POPC count over the source's own width. An immediate amount is cut to the operation width first (R40), which at widths 4 and 1 is the model's reading, against the last sentence of R63.
Where the spec leaves a point open, the statement follows the model's own choice: assumption 65. -/
def Obligations.LogicAndShiftResults : Prop :=
  ∀ (g : BitVec 16) (d a b : Operand),
    let w := destWidth d
    let bitsOf (f : State → Nat → Bool) (s : State) : Eff := quietOf s d (BitVec.ofFnLE fun j : Fin w => f s j.val).toNat
    completes (.and g d a b) (bitsOf fun s j => (zn s a w).testBit j && (zn s b w).testBit j)
    ∧ completes (.or g d a b) (bitsOf fun s j => (zn s a w).testBit j || (zn s b w).testBit j)
    ∧ completes (.xor g d a b) (bitsOf fun s j => (zn s a w).testBit j != (zn s b w).testBit j)
    ∧ completes (.andn g d a b) (bitsOf fun s j => (zn s a w).testBit j && !(zn s b w).testBit j)
    ∧ completes (.not g d a) (bitsOf fun s j => !(zn s a w).testBit j)
    ∧ completes (.brev g d a) (bitsOf fun s j => (zn s a w).testBit (w - 1 - j))
    ∧ completes (.shl g d a b) (result d fun s => if w ≤ zn s b w then 0 else zv s a w * (2 ^ zn s b w : Nat))
    ∧ completes (.shrz g d a b) (result d fun s => if w ≤ zn s b w then 0 else zv s a w / (2 ^ zn s b w : Nat))
    ∧ completes (.shrs g d a b) (result d fun s => if w ≤ (s.src b).to .s w then (if sv s a w < 0 then -1 else 0) else sv s a w / (2 ^ (s.src b).to .s w : Nat))
    ∧ completes (.rotl g d a b) (result d fun s => zv s a w * (2 ^ (zn s b w % w) : Nat) + zv s a w / (2 ^ (w - zn s b w % w) : Nat))
    ∧ completes (.clz g d a) (fun s => quietOf s d (if (s.src a).ownZ = 0 then (s.src a).width else (s.src a).width - 1 - (s.src a).ownZ.log2))
    ∧ completes (.popc g d a) (fun s => quietOf s d ((List.range (s.src a).width).countP fun j => (s.src a).ownZ.testBit j))

namespace Sys2Proof.Claims

/-- R37: a truth value as 1 or 0. -/
def truthOf (b : Bool) : Nat := if b then 1 else 0

/-- R102, R74: a W40 or integer result written through `d` with its flags; under RSR it counts one result (R71). -/
def flagged (d : Operand) (m : Rounding) (x : State → Flagged) (s : State) : Eff :=
  { ({} : Eff).put s.ctxNo d (x s).val with flags := (x s).fl, rsr := if m = .rsr then 1 else 0 }

/-- R66: source `o` as a W40 value. -/
def rl (s : State) (o : Operand) : Real40 := (s.src o).real

/-- R70: the integer that the magnitude `y` of a value of sign `neg` rounds to. -/
def roundTo {R : Type} [Field R] [LinearOrder R] [IsStrictOrderedRing R] [FloorRing R] (mode : Rounding) (h : Nat) (neg : Bool) (y : R) : ℤ :=
  match mode with
  | .rne => if y - ⌊y⌋ < 1 / 2 ∨ (y - ⌊y⌋ = 1 / 2 ∧ ⌊y⌋ % 2 = 0) then ⌊y⌋ else ⌊y⌋ + 1
  | .rtz => ⌊y⌋
  | .rsr => ⌊y + (h : R) / 2 ^ 16⌋
  | .rup => if neg then ⌊y⌋ else ⌈y⌉
  | .rdn => if neg then ⌈y⌉ else ⌊y⌋

/-- R67, R70, R72, R73: the word and the flags of the nonzero value of sign `neg` and magnitude `x`. -/
noncomputable def rounded {R : Type} [Field R] [LinearOrder R] [IsStrictOrderedRing R] [FloorRing R] (mode : Rounding) (h : Nat) (neg : Bool) (x : R) : Flagged :=
  let E := Int.log 2 x
  let y := x * (2 : R) ^ (27 - E)
  let n := roundTo mode h neg y
  let e := if n = 2 ^ 28 then E + 1 else E
  let m := if n = 2 ^ 28 then 2 ^ 27 else n
  let sgn := if neg then 2 ^ 39 else 0
  if 1023 < e then
    { val := (match mode with
        | .rne => sgn + 0x4000000001
        | .rup => if neg then sgn + 0x3FFFFFFFFF else sgn + 0x4000000001
        | .rdn => if neg then sgn + 0x4000000001 else sgn + 0x3FFFFFFFFF
        | _ => sgn + 0x3FFFFFFFFF)
      fl := 4 + 1 }
  else if e < -1023 then
    { val := (match mode with
        | .rup => if neg then sgn + 0x4000000000 else sgn + 0x4018000000
        | .rdn => if neg then sgn + 0x4018000000 else sgn + 0x4000000000
        | _ => sgn + 0x4000000000)
      fl := 2 + 1 }
  else { val := sgn + (e % 2 ^ 11).toNat * 2 ^ 28 + m.toNat, fl := if (n : R) = y then 0 else 1 }

/-- R66: the rational number that a finite W40 word denotes; nothing for an infinity or a NaN. -/
def valueOf : Real40 → Option ℚ
  | .fin s m k => some ((if s then -1 else 1) * (m : ℚ) * (2 : ℚ) ^ k)
  | _ => none

/-- R70: the nonzero number `x` rounded. -/
noncomputable def roundedTo {R : Type} [Field R] [LinearOrder R] [IsStrictOrderedRing R] [FloorRing R] (mode : Rounding) (h : Nat) (x : R) : Flagged :=
  rounded mode h (decide (x < 0)) |x|

/-- R65, R67: the words with a name. -/
def signBit (s : Bool) : Nat := if s then 2 ^ 39 else 0
def zeroWord (s : Bool) : Nat := signBit s + 0x4000000000
def infWord (s : Bool) : Nat := signBit s + 0x4000000001
def nanWord (s : Bool) (m : Nat) : Nat := signBit s + 0x4000000000 + (if m = 2 ∨ m = 3 then m else 2)

/-- R67, R69, R104: the word of the number of sign `s` and magnitude `x`, which 28 bits hold; below `2^−1023` a zero of its sign. -/
noncomputable def exactWord (s : Bool) (x : ℚ) : Nat := if x = 0 then zeroWord s else (rounded .rtz 0 s x).val

/-- R67: a value as it is written where nothing is rounded. -/
noncomputable def plainWord : Real40 → Nat
  | .fin s m k => exactWord s ((m : ℚ) * (2 : ℚ) ^ k)
  | .inf s => infWord s
  | .nan s m => nanWord s m

/-- R66, R98: the number that a value denotes, infinities at the ends. -/
def number : Real40 → WithBot (WithTop ℚ)
  | .fin s m k => ((((if s then -1 else 1) * (m : ℚ) * (2 : ℚ) ^ k : ℚ) : WithTop ℚ) : WithBot (WithTop ℚ))
  | .inf s => if s then ⊥ else ((⊤ : WithTop ℚ) : WithBot (WithTop ℚ))
  | .nan _ _ => ⊥

/-- R105: the integer that `u` rounds to. -/
def toInteger (mode : Rounding) (h : Nat) (u : ℚ) : ℤ :=
  match mode with
  | .rne => if u - ⌊u⌋ < 1 / 2 ∨ (u - ⌊u⌋ = 1 / 2 ∧ ⌊u⌋ % 2 = 0) then ⌊u⌋ else ⌊u⌋ + 1
  | .rtz => if u < 0 then ⌈u⌉ else ⌊u⌋
  | .rsr => ⌊u + (h : ℚ) / 2 ^ 16⌋
  | .rup => ⌈u⌉
  | .rdn => ⌊u⌋

/-- R108, R212: the magnitude of the finite code of logarithm `l`, or 0 for the zero code. -/
def codeMagnitude (f : LFmt) (l : ℤ) : ℚ :=
  if l = f.lmin then 0 else (t256 (l * (256 / f.q : Nat) % 256).toNat : ℚ) * (2 : ℚ) ^ (l * (256 / f.q : Nat) / 256 - 15)

/-- R108, R212: the code of sign `s` and logarithm `l`. -/
def codeOf (f : LFmt) (s : Bool) (l : ℤ) : Nat := (if s then 2 ^ (f.width - 1) else 0) + (l % 2 ^ (f.width - 1)).toNat

/-- R109: the binary32 word and the flags of the nonzero value of sign `s` and magnitude `x`. -/
noncomputable def rounded32 (mode : Rounding) (h : Nat) (s : Bool) (x : ℚ) : Flagged :=
  let sgn := if s then 2 ^ 31 else 0
  let E := max (Int.log 2 x) (-126)
  let y := x * (2 : ℚ) ^ (23 - E)
  let n := roundTo mode h s y
  if 2 ^ 128 ≤ (n : ℚ) * (2 : ℚ) ^ (E - 23) then
    { val := sgn + (match mode with
        | .rne => 0x7F800000
        | .rup => if s then 0x7F7FFFFF else 0x7F800000
        | .rdn => if s then 0x7F800000 else 0x7F7FFFFF
        | _ => 0x7F7FFFFF)
      fl := 4 + 1 }
  else { val := sgn + (if n < 2 ^ 23 then n.toNat else ((E + 127) * 2 ^ 23 + (n - 2 ^ 23)).toNat)
         fl := if (n : ℚ) = y then 0 else if x < (2 : ℚ) ^ (-126 : ℤ) then 3 else 1 }

end Sys2Proof.Claims

/-- R89 to R96: the slice members. MOV of an element's $FFLAGS waits for the context's earlier write-backs (R75); SLEXT waits while an addressed slice is
pending.
Where the spec leaves a point open, the statement follows the model's own choice: assumption 17. -/
def Obligations.SliceResults : Prop :=
  ∀ (g : BitVec 16) (d a b : Operand) (p p' : BitVec 7) (c c' : BitVec 4) (imm : BitVec 28),
    let w := destWidth d
    completesIf (.mov g d a) (fun s => (isFflags d || isFflags a) = true → ∀ f ∈ s.regs.flights, f.owed = true) (fun s => quietOf s d (zn s a w)) id
    ∧ completes (.movi g d imm) (result d fun _ => imm.toInt)
    ∧ completes (.movhi g d imm) (fun s => quietOf s d (if 28 ≤ w then imm.toNat * 2 ^ (w - 28) else imm.toNat / 2 ^ (28 - w)))
    ∧ completes (.sext g d a b) (result d fun s => sext (s.src a).raw (min (s.src b).count (s.src a).width))
    ∧ completes (.zext g d a b) (result d fun s => ((s.src a).raw % 2 ^ min (s.src b).count (s.src a).width : Nat))
    ∧ (let q (s : State) := p.toNat + (s.src b).count * (c.toNat + 1)
       completesIf (.slext g d (.slice p c) b) (fun s => q s + c.toNat + 1 ≤ 128 → sliceMask (q s) (c.toNat + 1) &&& s.regs.pending = 0)
         (fun s => quietOf s d (if q s + c.toNat + 1 ≤ 128 then s.regs.slices (q s) (c.toNat + 1) % 2 ^ min (4 * (c.toNat + 1)) w else 0)) id)
    ∧ completes (.slins g (.slice p c) a b) (fun s =>
        let q := p.toNat + (s.src b).count * (c.toNat + 1)
        if q + c.toNat + 1 ≤ 128 then ({} : Eff).slices q (c.toNat + 1) (zn s a (4 * (c.toNat + 1))) else {})
    ∧ completes (.pack g d a b) (fun s => quietOf s d (((s.src a).ownZ + (s.src b).ownZ * 2 ^ (s.src a).width) % 2 ^ w))
    ∧ completes (.unpk g d (.slice p c) b) (fun s =>
        (({} : Eff).put s.ctxNo (.slice p c) ((s.src b).ownZ / 2 ^ w % 2 ^ (4 * (c.toNat + 1)))).put s.ctxNo d ((s.src b).ownZ % 2 ^ w))
    ∧ completes (.swap g (.slice p c) (.slice p' c')) (fun s =>
        (({} : Eff).put s.ctxNo (.slice p' c') (zn s (.slice p c) (4 * (c'.toNat + 1)))).put s.ctxNo (.slice p c) (zn s (.slice p' c') (4 * (c.toNat + 1))))
    ∧ completes (.slclr g (.slice p c) a) (fun s =>
        let n := min (p.toNat + (s.src a).count) 128 - p.toNat
        if n = 0 then {} else ({} : Eff).slices p.toNat n 0)

/-- R97 to R100: compares at the width of the wider source, W40 compares with NV on a NaN for FCLT and FCLE, predicate logic on truth values, and SELP. The W40 compares
order the numbers that the words denote: −0 equals +0, and the infinities stand at the ends. -/
def Obligations.CompareResults : Prop :=
  ∀ (g : BitVec 16) (d a b : Operand) (p : BitVec 3),
    let m (s : State) := max (s.src a).width (s.src b).width
    let tr (s : State) (o : Operand) : Bool := (s.src o).ownZ != 0
    let put (f : State → Bool) (s : State) : Eff := quietOf s d (truthOf (f s))
    let nan (s : State) : Bool := (rl s a).isNaN || (rl s b).isNaN
    completes (.ceq g d a b) (put fun s => decide (zv s a (m s) = zv s b (m s)))
    ∧ completes (.cne g d a b) (put fun s => decide (zv s a (m s) ≠ zv s b (m s)))
    ∧ completes (.clts g d a b) (put fun s => decide (sv s a (m s) < sv s b (m s)))
    ∧ completes (.cltz g d a b) (put fun s => decide (zv s a (m s) < zv s b (m s)))
    ∧ completes (.cles g d a b) (put fun s => decide (sv s a (m s) ≤ sv s b (m s)))
    ∧ completes (.clez g d a b) (put fun s => decide (zv s a (m s) ≤ zv s b (m s)))
    ∧ completes (.fceq g d a b) (put fun s => !nan s && decide (cmpReal (rl s a) (rl s b) = 0))
    ∧ completes (.fclt g d a b) (fun s =>
        { put (fun s => !nan s && decide (cmpReal (rl s a) (rl s b) < 0)) s with flags := if nan s then fNV else 0 })
    ∧ completes (.fcle g d a b) (fun s =>
        { put (fun s => !nan s && decide (cmpReal (rl s a) (rl s b) ≤ 0)) s with flags := if nan s then fNV else 0 })
    ∧ completes (.fcun g d a b) (put nan)
    ∧ completes (.pmov g d a) (put fun s => tr s a)
    ∧ completes (.pand g d a b) (put fun s => tr s a && tr s b)
    ∧ completes (.por g d a b) (put fun s => tr s a || tr s b)
    ∧ completes (.pxor g d a b) (put fun s => tr s a != tr s b)
    ∧ completes (.pnot g d a) (put fun s => !tr s a)
    ∧ completes (.selp g d a b p) (fun s => quietOf s d (if s.regs.preds.getLsbD p.toNat then zn s a (destWidth d) else zn s b (destWidth d)))
    ∧ (∀ x y : Real40, x.isNaN = false → y.isNaN = false → (cmpReal x y < 0 ↔ number x < number y) ∧ (cmpReal x y = 0 ↔ number x = number y))

/-- R102 to R104: each W40 arithmetic member writes the value of its function and raises its flags; FMIN, FMAX, FABS and FNEG raise none. What those functions give on
finite operands is the exact number rounded once, as RoundingFollowsR70 states, and otherwise as follows. R68: the first NaN source, normalised, with no flag; the canonical NaN with NV for ∞ − ∞ and for 0 · ∞, in FMA and FNMA even
where the addend is a NaN; an infinite sum, product or addend. R73: an exact product of zero has the xor of the signs, a sum of zero is +0, or −0 under RDN, and two zeros of one sign keep it. R103: the special operands of FDIV, FSQRT,
FRCP, FRSQ, FEXP2, FLOG2 and FSCALE with NV or DZ. R69: FMIN and FMAX give the operand that is not a NaN, else the lesser or greater, with −0 below +0, and write it normalised. R104: FABS and FNEG set the sign alone, of a NaN
too; what lies below 2^−1023 becomes a zero of its sign. Where the spec leaves a point open, the statement follows the model's own choice: assumption 58. -/
def Obligations.FloatArithmeticResults : Prop :=
  ∀ (g : BitVec 16) (d a b : Operand) (m : Rounding),
    let h (s : State) := s.offset 0
    let word (s : State) (o : Operand) := (s.src o).raw % 2 ^ 40
    completes (.fadd g d a b m) (flagged d m fun s => addReal m (h s) (rl s a) (rl s b))
    ∧ completes (.fsub g d a b m) (flagged d m fun s => addReal m (h s) (rl s a) (rl s b).neg)
    ∧ completes (.fmul g d a b m) (flagged d m fun s => mulReal m (h s) (rl s a) (rl s b))
    ∧ completes (.fma g d a b m) (flagged d m fun s => fmaReal m (h s) false (rl s a) (rl s b) (rl s d))
    ∧ completes (.fnma g d a b m) (flagged d m fun s => fmaReal m (h s) true (rl s a) (rl s b) (rl s d))
    ∧ completes (.fmin g d a b) (flagged d .rne fun s => { val := minmaxReal false (rl s a) (rl s b) })
    ∧ completes (.fmax g d a b) (flagged d .rne fun s => { val := minmaxReal true (rl s a) (rl s b) })
    ∧ completes (.fabs g d a) (flagged d .rne fun s => { val := absReal (rl s a) })
    ∧ completes (.fneg g d a) (flagged d .rne fun s => { val := negReal (rl s a) })
    ∧ completes (.frcp g d a m) (flagged d m fun s => rcpReal m (h s) (rl s a))
    ∧ completes (.frsq g d a m) (flagged d m fun s => rsqReal m (h s) (rl s a))
    ∧ completes (.fexp2 g d a m) (flagged d m fun s => exp2Real m (h s) (word s a))
    ∧ completes (.flog2 g d a m) (flagged d m fun s => log2Real m (h s) (word s a))
    ∧ completes (.fdiv g d a b m) (flagged d m fun s => divReal m (h s) (rl s a) (rl s b))
    ∧ completes (.fsqrt g d a m) (flagged d m fun s => sqrtReal m (h s) (rl s a))
    ∧ completes (.fscale g d a b m) (flagged d m fun s => scaleReal m (h s) (rl s a) (s.src b).ownS)
    ∧ ∀ (x y z : Real40) (r h x' n : Nat) (t t' : Bool) (sub : Bool) (v : ℤ) (q q' q'' : ℚ), x = readW x' →
      let ok (val : Nat) : Flagged := { val := val, fl := 0 }
      let nv : Flagged := { val := 0x4000000002, fl := 16 }
      let one := [sqrtReal m h x, rcpReal m h x, rsqReal m h x, exp2Real m h x', log2Real m h x', scaleReal m h x v]
      let two := [addReal m h x y, addReal m h x y.neg, mulReal m h x y, divReal m h x y, fmaReal m h sub x y z]
      let zero (a : Real40) := valueOf a = some 0
      let ps := (x.sign != y.sign) != sub
      -- NaN sources
      (x = .nan t n → (∀ f ∈ one, f = ok (nanWord t n)) ∧ (∀ f ∈ two, f = ok (nanWord t n)))
      ∧ (x.isNaN = false → y = .nan t n → ∀ f ∈ two, f = ok (nanWord t n))
      ∧ (x.isNaN = false → y.isNaN = false → ¬ (zero x ∧ y = .inf t) → ¬ (x = .inf t ∧ zero y) → ¬ (zero x ∧ y = .inf !t) → ¬ (x = .inf !t ∧ zero y) →
          z = .nan t' n → fmaReal m h sub x y z = ok (nanWord t' n))
      -- infinities
      ∧ (x = .inf t → y = .inf t' → addReal m h x y = (if t = t' then ok (infWord t) else nv) ∧ mulReal m h x y = ok (infWord (t != t')) ∧ divReal m h x y = nv)
      ∧ (x = .inf t → valueOf y = some q → addReal m h x y = ok (infWord t) ∧ divReal m h x y = ok (infWord (t != y.sign))
          ∧ mulReal m h x y = (if q = 0 then nv else ok (infWord (t != y.sign))) ∧ (q = 0 → fmaReal m h sub x y z = nv))
      ∧ (valueOf x = some q → y = .inf t → addReal m h x y = ok (infWord t) ∧ divReal m h x y = ok (zeroWord (x.sign != t))
          ∧ mulReal m h x y = (if q = 0 then nv else ok (infWord (x.sign != t))) ∧ (q = 0 → fmaReal m h sub x y z = nv))
      ∧ ((x = .inf t ∧ y.isNaN = false ∧ ¬ zero y) ∨ (y = .inf t ∧ x.isNaN = false ∧ ¬ zero x) → z.isNaN = false →
          fmaReal m h sub x y z = if z = .inf !ps then nv else ok (infWord ps))
      ∧ (valueOf x = some q → valueOf y = some q' → z = .inf t → fmaReal m h sub x y z = ok (infWord t))
      -- exact zeros
      ∧ (valueOf x = some q → valueOf y = some q' → valueOf z = some q'' →
          (q + q' = 0 → addReal m h x y = ok (zeroWord (if q = 0 ∧ x.sign = y.sign then x.sign else m == .rdn)))
          ∧ (q * q' = 0 → mulReal m h x y = ok (zeroWord (x.sign != y.sign)))
          ∧ (q'' + (if sub then -(q * q') else q * q') = 0 → fmaReal m h sub x y z = ok (zeroWord (if q'' = 0 ∧ ps = z.sign then ps else m == .rdn)))
          ∧ (q = 0 → q' ≠ 0 → divReal m h x y = ok (zeroWord (x.sign != y.sign)))
          ∧ (q ≠ 0 → q' = 0 → divReal m h x y = { val := infWord (x.sign != y.sign), fl := 8 })
          ∧ (q = 0 → q' = 0 → divReal m h x y = nv))
      -- the other special operands
      ∧ (zero x → sqrtReal m h x = ok (zeroWord x.sign) ∧ rcpReal m h x = { val := infWord x.sign, fl := 8 } ∧ rsqReal m h x = { val := infWord x.sign, fl := 8 }
          ∧ exp2Real m h x' = ok 0x0008000000 ∧ log2Real m h x' = { val := infWord true, fl := 8 } ∧ scaleReal m h x v = ok (zeroWord x.sign))
      ∧ (x = .inf t → rcpReal m h x = ok (zeroWord t) ∧ scaleReal m h x v = ok (infWord t) ∧ exp2Real m h x' = ok (if t then zeroWord false else infWord false))
      ∧ (x = .inf false → sqrtReal m h x = ok (infWord false) ∧ rsqReal m h x = ok (zeroWord false) ∧ log2Real m h x' = ok (infWord false))
      ∧ (x = .inf true ∨ (valueOf x = some q ∧ q < 0) → sqrtReal m h x = nv ∧ rsqReal m h x = nv ∧ log2Real m h x' = nv)
      ∧ (valueOf x = some 1 → log2Real m h x' = ok (zeroWord false))
      -- FMIN, FMAX, FABS, FNEG
      ∧ (x.isNaN = true → y.isNaN = true → minmaxReal false x y = plainWord x ∧ minmaxReal true x y = plainWord x)
      ∧ (x.isNaN = true → y.isNaN = false → minmaxReal false x y = plainWord y ∧ minmaxReal true x y = plainWord y)
      ∧ (x.isNaN = false → y.isNaN = true → minmaxReal false x y = plainWord x ∧ minmaxReal true x y = plainWord x)
      ∧ (x.isNaN = false → y = readW r → y.isNaN = false →
          (number x < number y ∨ (number x = number y ∧ (x.sign = true ∨ y.sign = false)) → minmaxReal false x y = plainWord x ∧ minmaxReal true x y = plainWord y)
          ∧ (number y < number x ∨ (number x = number y ∧ (y.sign = true ∨ x.sign = false)) → minmaxReal false x y = plainWord y ∧ minmaxReal true x y = plainWord x))
      ∧ (∀ a e, x = .fin t a e → absReal x = plainWord (.fin false a e) ∧ negReal x = plainWord (.fin (!t) a e))
      ∧ (x = .inf t → absReal x = infWord false ∧ negReal x = infWord !t) ∧ (x = .nan t n → absReal x = nanWord false n ∧ negReal x = nanWord (!t) n)

/-- R105 to R109: the conversions between W40, integers, L codes and binary32, and the fields of a W40 value, with what their functions compute. R105: an integer of 0 gives +0, and another is rounded (RoundingFollowsR70); to an
integer, the value rounded under the mode, clamped with NV beyond the range of the width, with NX where it differs, and 0 with NV for a NaN. R106: FRND gives that integer as W40, a zero with the sign of A; FNORM rounds under RNE.
R107: E, N and the rounding of N at another exponent. R108, R215: the code whose LTOF value is nearest, a tie to the even logarithm, with its flags, where t256 is the rounded power of two. R78, R109: binary32, exactly to W40, and rounded
from it with gradual underflow. F32W extends a source narrower than 32 bits by zeros, LTOF reads an immediate as 8 bits. Where the spec leaves a point open, the statement follows the model's own choice: assumption 65. -/
def Obligations.ConversionResults : Prop :=
  ∀ (g : BitVec 16) (d a b : Operand) (m : Rounding) (f : LFmt),
    let h (s : State) := s.offset 0
    let w := destWidth d
    completes (.fcvts g d a m) (flagged d m fun s => ofIntReal m (h s) (s.src a).ownS)
    ∧ completes (.fcvtz g d a m) (flagged d m fun s => ofIntReal m (h s) (s.src a).ownZ)
    ∧ completes (.ftois g d a m) (flagged d m fun s => toIntReal .s m (h s) (rl s a) w)
    ∧ completes (.ftoiz g d a m) (flagged d m fun s => toIntReal .z m (h s) (rl s a) w)
    ∧ completes (.frnd g d a m) (flagged d m fun s => rndReal m (h s) (rl s a))
    ∧ completes (.fnorm g d a) (flagged d .rne fun s => normReal (rl s a))
    ∧ completes (.fgete g d a) (result d fun s => getExp (rl s a))
    ∧ completes (.fgetm g d a) (fun s => quietOf s d (getSig (rl s a) % 2 ^ w))
    ∧ completes (.fsete g d a b m) (flagged d m fun s => setExp m (h s) (rl s a) (s.src b).ownS)
    ∧ completes (.ftol g d a f) (flagged d .rne fun s => ftolReal f (rl s a))
    ∧ completes (.ltof g d a f) (flagged d .rne fun s => { val := ltofReal f ((s.src a).ownZ % 2 ^ f.width) })
    ∧ completes (.f32w g d a) (flagged d .rne fun s => { val := ofBinary32 (zn s a 32) })
    ∧ completes (.wf32 g d a m) (flagged d m fun s => toBinary32 m (h s) (rl s a))
    ∧ (∀ (x' h w : Nat) (t : Bool) (n : Nat) (v : ℤ) (u : ℚ), h < 2 ^ 16 → 0 < w →
        let x := readW x'
        let ok (val : Nat) : Flagged := { val := val, fl := 0 }
        let lo (g : Sgn) : ℤ := if g = .s then -2 ^ (w - 1) else 0
        let hi (g : Sgn) : ℤ := if g = .s then 2 ^ (w - 1) - 1 else 2 ^ w - 1
        let E := Int.log 2 |u|
        let i := toInteger m h u
        let low := 2 ^ (f.width - 2)
        ofIntReal m h 0 = ok (zeroWord false)
        ∧ (x = .nan t n → (∀ g, toIntReal g m h x w = { val := 0, fl := 16 }) ∧ rndReal m h x = ok (nanWord t n) ∧ normReal x = ok (nanWord t n) ∧ setExp m h x v = ok (nanWord t n)
            ∧ getExp x = 2047 ∧ getSig x = n ∧ ftolReal f x = ok (2 ^ (f.width - 1) + low) ∧ toBinary32 m h x = ok ((if t then 2 ^ 31 else 0) + 0x7FC00000))
        ∧ (x = .inf t → (∀ g, toIntReal g m h x w = { val := ((if t then lo g else hi g) % 2 ^ w).toNat, fl := 16 }) ∧ rndReal m h x = ok (infWord t) ∧ normReal x = ok (infWord t)
            ∧ setExp m h x v = ok (infWord t) ∧ getExp x = 2047 ∧ getSig x = 1 ∧ ftolReal f x = { val := codeOf f t (-f.lmin - 1), fl := 5 }
            ∧ toBinary32 m h x = ok ((if t then 2 ^ 31 else 0) + 0x7F800000))
        ∧ (valueOf x = some 0 → rndReal m h x = ok (zeroWord x.sign) ∧ normReal x = ok (zeroWord x.sign) ∧ setExp m h x v = ok (zeroWord x.sign) ∧ getExp x = -2048 ∧ getSig x = 0
            ∧ ftolReal f x = ok low ∧ toBinary32 m h x = ok (if x.sign then 2 ^ 31 else 0))
        ∧ (valueOf x = some u →
            (∀ g, toIntReal g m h x w = if i < lo g ∨ hi g < i then { val := ((if i < lo g then lo g else hi g) % 2 ^ w).toNat, fl := 16 }
              else { val := (i % 2 ^ w).toNat, fl := if (i : ℚ) = u then 0 else 1 })
            ∧ (u ≠ 0 → rndReal m h x = { val := exactWord (if i = 0 then x.sign else decide (i < 0)) |(i : ℚ)|, fl := if (i : ℚ) = u then 0 else 1 }
              ∧ normReal x = roundedTo .rne 0 u ∧ getExp x = E ∧ ((getSig x : ℚ) = |u| * (2 : ℚ) ^ (27 - E))
              ∧ setExp m h x v = rounded m h x.sign (|u| * (2 : ℚ) ^ (v - E)) ∧ toBinary32 m h x = rounded32 m h x.sign |u|
              ∧ ∃ l : ℤ, f.lmin ≤ l ∧ l < -f.lmin
                ∧ (∀ l' : ℤ, f.lmin ≤ l' → l' < -f.lmin → l' ≠ l → |(|u| - codeMagnitude f l)| < |(|u| - codeMagnitude f l')|
                  ∨ (|(|u| - codeMagnitude f l)| = |(|u| - codeMagnitude f l')| ∧ l % 2 = 0))
                ∧ ftolReal f x = { val := if l = f.lmin then low else codeOf f x.sign l
                                   fl := (if codeMagnitude f (-f.lmin - 1) < |u| then 5 else 0) ||| (if l = f.lmin then 3 else 0) ||| (if codeMagnitude f l = |u| then 0 else 1) })))
    ∧ (∀ j < 256, (2 * t256 j - 1) ^ 256 < 2 ^ (16 * 256 + j) ∧ 2 ^ (16 * 256 + j) < (2 * t256 j + 1) ^ 256)
    ∧ (∀ (t : Bool) (l : ℤ), ltofReal f (2 ^ (f.width - 2)) = zeroWord false ∧ ltofReal f (2 ^ (f.width - 1) + 2 ^ (f.width - 2)) = 0x4000000002
        ∧ (f.lmin < l → l < -f.lmin → ltofReal f (codeOf f t l) = exactWord t (codeMagnitude f l)))
    ∧ (∀ (t : Bool) (e x : Nat), x < 2 ^ 23 → e < 256 →
        ofBinary32 ((if t then 2 ^ 31 else 0) + e * 2 ^ 23 + x) =
          if e = 255 then (if x = 0 then infWord t else nanWord t 2)
          else exactWord t (if e = 0 then (x : ℚ) * (2 : ℚ) ^ (-149 : ℤ) else (1 + (x : ℚ) / 2 ^ 23) * (2 : ℚ) ^ ((e : ℤ) - 127)))

namespace Sys2Proof.Claims

/-- R20, R110, R114: a transfer to `t` on core `k`: with a misaligned target the instruction changes nothing and traps PC_MISALIGNED with $EVAL the target;
otherwise the PC is the target and the next issue follows `d` cycles later. -/
def transfers (i : Instr) (f : Eff) (t d k : Nat) (s s' : State) : Prop :=
  exec i s = .next (if t % 8 = 0 then afterJump i f t d k s s' else s.raise k 0x004 (BitVec.ofNat 64 t) (s.cc k).pc)

/-- R31: a PC-relative target, modulo 2^32. -/
def target (s : State) (k : Nat) (off : Int) : Nat := ((((s.cc k).pc.toNat : Int) + 8 * off) % 2 ^ 32).toNat

/-- R110: the link value at the width of `d`. -/
def link (s : State) (k : Nat) (d : Operand) : Eff := quietOf s d (((s.cc k).pc.toNat + 8) % 2 ^ 32 % 2 ^ destWidth d)

end Sys2Proof.Claims

/-- R110, R111: BR, JMP, JAL, JALR and LOOP: the targets, the link values, and the count. JAL and JALR keep the return-prediction stack (R27), which only
the time of the next issue shows. -/
def Obligations.TransferResults : Prop :=
  ∀ (g : BitVec 16) (d a : Operand) (off36 : BitVec 36) (off24 : BitVec 24) (k : Nat) (s : State), s.site = .cc k →
    (mayIssue (.br g off36) k s = true → transfers (.br g off36) {} (target s k off36.toInt) 2 k s s)
    ∧ (mayIssue (.jmp g a) k s = true → transfers (.jmp g a) {} (zn s a 32) 2 k s s)
    ∧ (mayIssue (.jal g d off24) k s = true → transfers (.jal g d off24) (link s k d) (target s k off24.toInt) 2 k s
        (if d = .slice 120 7 then s.modCc k fun c => { c with ras := ((c.pc + 8) :: c.ras).take 8 } else s))
    ∧ (mayIssue (.jalr g d a) k s = true → transfers (.jalr g d a) (link s k d) (zn s a 32)
        (if d = .slice 120 7 then 2 else if a = .slice 120 7 then
          (match (s.cc k).ras.head? with
           | some p => if p.toNat = zn s a 32 then 2 else 4
           | none => 2) else 2) k s
        (s.modCc k fun c => if d = .slice 120 7 then { c with ras := ((c.pc + 8) :: c.ras).take 8 }
          else if a = .slice 120 7 then { c with ras := c.ras.drop 1 } else c))
    ∧ (mayIssue (.loop g d a) k s = true →
        let n := ((zv s d (destWidth d) - 1) % (2 ^ destWidth d : Nat)).toNat
        if n = 0 then exec (.loop g d a) s = .next (afterAct (.loop g d a) (quietOf s d 0) s s)
        else transfers (.loop g d a) (quietOf s d n) (target s k (sext (s.src a).raw 8)) 2 k s s)

/-- R112, R113, R116, R117: NOP, WAITP, HALT, CFENCE and WFE. NOP has no effect but its place in time, on either site. A wait keeps the PC at its instruction until it ends. -/
def Obligations.WaitResults : Prop :=
  (∀ g : BitVec 16, completes (.nop g) fun _ => {})
  ∧ ∀ (g : BitVec 16) (d a b : Operand) (p : BitVec 7) (c : BitVec 4) (q : BitVec 3) (k : Nat) (s : State), s.site = .cc k →
    (mayIssue (.waitp g (.slice p c)) k s = true →
        let m := sliceMask p.toNat (c.toNat + 1)
        exec (.waitp g (.slice p c)) s = .next (if (s.cc k).regs.pending &&& m = 0 then afterAct (.waitp g (.slice p c)) {} s s
          else afterJump (.waitp g (.slice p c)) {} (s.cc k).pc.toNat 1 k s (s.modCc k fun c => { c with run := .waiting, wait := .pending m 0 })))
    ∧ (mayIssue (.waitp g (.pred q)) k s = true →
        let m := BitVec.ofNat 8 (2 ^ q.toNat)
        exec (.waitp g (.pred q)) s = .next (if (s.cc k).regs.pendingPreds &&& m = 0 then afterAct (.waitp g (.pred q)) {} s s
          else afterJump (.waitp g (.pred q)) {} (s.cc k).pc.toNat 1 k s (s.modCc k fun c => { c with run := .waiting, wait := .pending 0 m })))
    ∧ (mayIssue (.halt g) k s = true → exec (.halt g) s = .next (afterAct (.halt g) {} s
        (s.modCc k fun c => if c.regs.drained then { c with run := .halted, halting := false } else { c with halting := true })))
    ∧ (mayIssue (.cfence g) k s = true → exec (.cfence g) s = .next (afterAct (.cfence g) {} s
        (s.modCc k fun c => { c with icache := [], fill := none, fillFault := none })))
    ∧ (mayIssue (.wfe g d a b) k s = true →
        let m := BitVec.ofNat 4 (zn s a 4)
        let n := (s.src b).ownZ
        exec (.wfe g d a b) s = .next (if (s.cc k).latches &&& m = 0 then
            let t := s.modCc k fun c => { c with run := .waiting, wait := .event m d (if n = 0 then none else some (s.cycle + n)) }
            afterJump (.wfe g d a b) {} (s.cc k).pc.toNat 1 k s (if n = 0 then t else t.after n (.ev (.wfeTimeout k)))
          else afterAct (.wfe g d a b) (quietOf s d (((s.cc k).latches &&& m).toNat % 2 ^ destWidth d)) s
            (s.modCc k fun c => { c with latches := c.latches &&& ~~~m })))

/-- R16, R75, R116, R182: SRD reads the special register that its operand numbers, a capability register with its tag; SWR writes one at its write-back (WriteBackEvents). An access of
$FFLAGS waits until every earlier instruction has written back. The registers of R16's table are what the machine holds under their names; a number that is not in the table is no operand of either, and a capability register is read into 16 aligned slices alone. -/
def Obligations.SpecialRegisterResults : Prop :=
  (∀ (g : BitVec 16) (d a : Operand) (n : BitVec 8) (k : Nat) (s : State), s.site = .cc k → (n = 0x10 → (s.cc k).regs.drained = true) →
    (mayIssue (.srd g d (.sreg n)) k s = true → exec (.srd g d (.sreg n)) s = .next (afterAct (.srd g d (.sreg n))
        (if n = 0x18 then ({} : Eff).putCap d (s.cc k).codecap else if n = 0x19 then ({} : Eff).putCap d (s.cc k).tilecap
         else quietOf s d (s.sreg k n % 2 ^ destWidth d)) s s))
    ∧ (mayIssue (.swr g (.sreg n) a) k s = true → exec (.swr g (.sreg n) a) s = .next (afterAct (.swr g (.sreg n) a)
        { sreg := some (n, BitVec.ofNat 64 (zn s a 64)) } s s)))
  ∧ (∀ (k : Nat) (s : State),
      let c := s.cc k
      s.sreg k 0x00 = c.pc.toNat ∧ s.sreg k 0x01 = c.coreid.toNat ∧ s.sreg k 0x02 = s.cycle % 2 ^ 64 ∧ s.sreg k 0x08 = c.epc.toNat ∧ s.sreg k 0x09 = c.cause.toNat ∧ s.sreg k 0x0A = c.eval.toNat
      ∧ s.sreg k 0x10 = c.regs.fflags.toNat ∧ s.sreg k 0x21 = (s.core k).fillCount.toNat ∧ s.sreg k 0x22 = (s.core k).throtCount.toNat
      ∧ (∀ n < 8, s.sreg k 0x20 / 2 ^ (8 * n) % 2 ^ 8 = if (s.core k).stringEmpty n then 0 else min 255 (((s.core k).str n).imbalance / 10)))
  ∧ (∀ (g : BitVec 16) (d a : Operand) (n : BitVec 8), ((Instr.srd g d (.sreg n)).wf .cc = true ∨ (Instr.swr g (.sreg n) a).wf .cc = true) →
      n.toNat ∈ [0x00, 0x01, 0x02, 0x08, 0x09, 0x0A, 0x10, 0x18, 0x19, 0x20, 0x21, 0x22])
  ∧ (∀ (g : BitVec 16) (p : BitVec 7) (c : BitVec 4) (n : BitVec 8), n = 0x18 ∨ n = 0x19 → (Instr.srd g (.slice p c) (.sreg n)).wf .cc = true → c = 15 ∧ p.toNat % 32 = 0)

/-- R115, R118, R371: TRAP takes the software trap of its code; BKPT traps BREAKPOINT, or stops the core with debug halt enabled; ERET clears INTRAP and
returns to $EPC, and traps ILLEGAL_OPCODE outside a trap.
Where the spec leaves a point open, the statement follows the model's own choice: assumptions 18 and 24. -/
def Obligations.TrapInstructionResults : Prop :=
  ∀ (g : BitVec 16) (a b : Operand) (k : Nat) (s : State), s.site = .cc k →
    (mayIssue (.trap g a b) k s = true → exec (.trap g a b) s = .next (s.raise k (0x0C0 + (s.src a).raw) (BitVec.ofNat 64 (zn s b 64)) (s.cc k).pc))
    ∧ (mayIssue (.bkpt g a) k s = true → exec (.bkpt g a) s = .next (if (s.cc k).debugHalt then
        afterJump (.bkpt g a) {} (s.cc k).pc.toNat 1 k s
          ((s.modCc k fun c => { c with run := .waiting, wait := .debug }).traceCc k 0x06 (s.cc k).pc.toNat (s.src a).raw)
        else s.raise k 0x005 (BitVec.ofNat 64 (s.src a).raw) (s.cc k).pc))
    ∧ (mayIssue (.eret g) k s = true →
        let t := s.modCc k fun c => { c with cause := c.cause &&& ~~~0x10000#64 }
        let e := (s.cc k).epc.toNat % 2 ^ 32
        exec (.eret g) s = .next (if (s.cc k).cause.getLsbD 16 then
            (if e % 8 = 0 then afterJump (.eret g) {} e 2 k s t else t.raise k 0x004 (BitVec.ofNat 64 e) (s.cc k).pc)
          else s.raise k 0x001 ((encode (.eret g)).getD 0) (s.cc k).pc))

/-- R369: a trap that meets no handler, or arises within a trap, is fatal: the core halts. A trap that meets a handler, outside a trap: $EPC, $EVAL and $CAUSE are written, INTRAP is set, the PC goes
to VEC · 8, the core runs, and nothing else of the package changes. -/
def Obligations.TrapEntry : Prop :=
  ∀ (s : State) (k cause : Nat) (v : Word64) (pc : BitVec 32) (async : Bool),
    ((s.cc k).cause.extractLsb' 35 29 = 0 ∨ (s.cc k).cause.getLsbD 16 = true → ((s.enterTrap k cause v pc async).cc k).run = .halted)
    ∧ ((s.cc k).cause.extractLsb' 35 29 ≠ 0 → (s.cc k).cause.getLsbD 16 = false → s.enterTrap k cause v pc async = s.modCc k fun c => { c with
      epc := pc.setWidth 64
      eval := v
      cause := ((c.cause.extractLsb' 35 29 ++ 0#18) ++ (1#1 ++ 0#4)) ++ ((BitVec.ofBool async ++ 0#1) ++ BitVec.ofNat 10 cause)
      pc := c.cause.extractLsb' 35 29 ++ 0#3
      run := .running, wait := .nothing, trapping := none, nextIssue := s.cycle + 1 })

/-- R370: a trap within a trap, or with no handler, halts the core: CODE becomes NESTED_TRAP with $EVAL the cause, or the cause itself; INTRAP and VEC keep
their values, and the core's launch fails with the cause. -/
def Obligations.FatalTrap : Prop :=
  ∀ (s : State) (k cause : Nat) (v : Word64) (pc : BitVec 32) (async : Bool), cause < 1024 →
    let c := s.cc k
    let t := s.enterTrap k cause v pc async
    (c.cause.extractLsb' 35 29 = 0 ∨ c.cause.getLsbD 16 = true) →
      (t.cc k).run = .halted ∧ (t.cc k).epc = pc.setWidth 64
      ∧ (t.cc k).cause.extractLsb' 10 54 = c.cause.extractLsb' 10 54
      ∧ ((t.cc k).cause.extractLsb' 0 10).toNat = (if c.cause.getLsbD 16 then 0x006 else cause)
      ∧ (t.cc k).eval = (if c.cause.getLsbD 16 then BitVec.ofNat 64 cause else v)
      ∧ t.mem = s.mem
      ∧ t.todo = (match c.member with
          | some (l, _) => .fail k l cause :: s.todo
          | none => s.todo)

namespace Sys2Proof.Claims

/-- The element's instruction `i` completes in context `c` of element `e` of core `k`, from card slot `slot`, wherever it may fire and `pre` holds, with the effect `f`
and the further changes `more`, judged where the thread has begun. -/
def firesIf (i : Instr) (k e c slot : Nat) (pre : State → Prop) (f : State → Eff) (more : State → State) : Prop :=
  ∀ s : State, s.site = .ctx k e c slot → mayFire i k e c s = true →
    let t := s.beginThread k e c i.shape.guard
    pre t → exec i s = .next (afterFire i (f t) k e c slot s (more t))

/-- The region of an element. -/
def regionOf (s : State) (k e : Nat) : Option Region := ((s.core k).regionOf e).map fun p => p.2

/-- R194: the context that a send names, or the sender's own. -/
def sendTo (s : State) (c : Nat) : Option Operand → Nat
  | none => c
  | some o => zn s o 2

/-- R200: the context counts an EOW, and rows whose columns have all reported pass (R163). -/
def countEow (s : State) (k e c : Nat) : State :=
  let t := s.modCtx k e c fun x => { x with eows := x.eows + 1 }
  match (s.core k).regionOf e with
  | some (rn, _) => t.passRows k rn
  | none => t

/-- R203: the lanes of a source or of the destination, `n` of `l` bits, in a signedness. -/
def lanesOfSrc (s : State) (o : Operand) (g : Sgn) (l n i : Nat) : Int := readAs g (((s.src o).shaped l n).getD i 0) l
def lanesOfDst (s : State) (d : Operand) (g : Sgn) (l i : Nat) : Int := readAs g ((s.src d).raw / 2 ^ (l * i) % 2 ^ l) l

/-- R207: lane `i` of the destination gets `f` of the lanes `i` of A, B and the destination, modulo 2^l. -/
def laneResult (g : Sgn) (l : Nat) (d a b : Operand) (f : Int → Int → Int → Int) (s : State) : Eff :=
  let n := destWidth d / l
  quietOf s d (ofLanes l ((upFrom 0 n).map fun i =>
    (f (lanesOfSrc s a g l n i) (lanesOfSrc s b g l n i) (lanesOfDst s d g l i) % (2 ^ l : Nat)).toNat))

/-- R204: the signedness and the saturation of a lane-and-sign modifier. -/
def sgn (m : LaneSign) : Sgn := if m.unsigned then .z else .s
def satL (m : LaneSign) (x : Int) : Int := if m.unsigned then satZ m.ln.width x else satS m.ln.width x

/-- R228, R143, R225: a tile step of a context: the accumulator is updated, and the packets are consumed. -/
def tileUpdate (s : State) (k e c : Nat) (l : List (Nat × Contrib)) : State :=
  s.tileStep k e c fun t => t.update l

end Sys2Proof.Claims

/-- R194 to R197, R201, R202, R290, R291: sends, consumption, PEEKK, PASS, TIDX, IDLE, JOIN, FORK, and FENCE. On the control core FENCE waits until every
earlier access is performed; in an element its write-back waits for the context's requests. -/
def Obligations.TokenResults : Prop :=
  ∀ (g : BitVec 16) (d a b : Operand) (bo : Option Operand) (q : BitVec 2) (k e c slot : Nat),
    let w := destWidth d
    firesIf (.emit g d a bo) k e c slot (fun _ => True) (fun s => ({} : Eff).put (sendTo s c bo) d (zn s a 64)) id
    ∧ firesIf (.ctok g d a bo) k e c slot (fun _ => True) (fun s => ({} : Eff).put (sendTo s c bo) d (zn s a 1)) id
    ∧ firesIf (.deq g a) k e c slot (fun _ => True) (fun _ => {}) id
    ∧ firesIf (.peekk g d a) k e c slot (fun _ => True) (fun s => ({} : Eff).put c d (zn s a w)) id
    ∧ firesIf (.pass g d (.pass q false)) k e c slot (fun _ => True)
        (fun s => (({} : Eff).put c (.pass q true) (s.src (.pass q false)).raw).put c d (zn s (.pass q false) w)) id
    ∧ firesIf (.tidx g d a b) k e c slot (fun _ => True) (fun s =>
        let t := ((s.ctx k e c).thread.map BitVec.toNat).getD 0
        let v := if 32 ≤ (s.src a).ownZ then 0 else t / 2 ^ (s.src a).ownZ
        ({} : Eff).put c d ((if (s.src b).ownZ < 32 then v % 2 ^ (s.src b).ownZ else v) % 2 ^ w)) id
    ∧ firesIf (.idle g a) k e c slot (fun _ => True)
        (fun s => { hold := true, extra := (if (s.src a).ownZ = 0 then 1 else min (s.src a).ownZ 4096) - 1 }) id
    ∧ firesIf (.join g d a b) k e c slot (fun _ => True) (fun s => ({} : Eff).put c d (if (s.src a).raw = 1 ∧ (s.src b).raw = 1 then 1 else 0)) id
    ∧ firesIf (.fork g d a) k e c slot (fun _ => True) (fun s => ({} : Eff).put c d (s.src a).raw) id
    ∧ firesIf (.fence g none a) k e c slot (fun _ => True) (fun _ => { fence := true }) id
    ∧ firesIf (.fence g (some (.port q true)) a) k e c slot (fun _ => True) (fun _ => { outs := [.ctok q.toNat true c false], fence := true }) id
    ∧ (∀ s, s.site = .cc k → mayIssue (.fence g none a) k s = true → s.allPerformed k = true → s.held k = false →
        exec (.fence g none a) s = .next (afterAct (.fence g none a) {} s s))

/-- R198 to R200: RETIRE and EXIT fire once nothing of the context is in flight; the thread leaves its context and its $FFLAGS join the launch's summary. EXIT reserves
a record for its block; a thread that RETIREs without the x modifier counts as ended only there. EOW fires only without a thread, on an end-of-wave token.
Where the spec leaves a point open, the statement follows the model's own choice: assumption 34. -/
def Obligations.ThreadEndResults : Prop :=
  ∀ (g : BitVec 16) (a : Operand) (bo : Option Operand) (nv : BitVec 3) (x : Bool) (d : Option Operand) (ch : BitVec 3) (keep : Bool) (k e c slot : Nat),
    firesIf (.retire g x) k e c slot (fun s => (s.ctx k e c).regs.flights = []) (fun _ => {})
      (fun s => if x then (s.releaseThread k e c).endThread k e else s.releaseThread k e c)
    ∧ (∀ r blk, firesIf (.exit g a bo nv) k e c slot
        (fun s => (s.ctx k e c).regs.flights = [] ∧ regionOf s k e = some r ∧ r.blocks[(s.src a).ownZ]? = some blk
          ∧ blk.count + (s.core k).recordsReserved r (s.src a).ownZ < blk.qcap)
        (fun s => { outs := [.record (s.src a).ownZ (entryRecord (((s.ctx k e c).thread.map BitVec.toNat).getD 0) (exitValues s bo nv.toNat))] })
        (fun s => s.releaseThread k e c))
    ∧ (∀ r, firesIf (.exit g a bo nv) k e c slot
        (fun s => (s.ctx k e c).regs.flights = [] ∧ regionOf s k e = some r ∧ r.blocks[(s.src a).ownZ]? = none)
        (fun s => { outs := [.record (s.src a).ownZ (entryRecord (((s.ctx k e c).thread.map BitVec.toNat).getD 0) (exitValues s bo nv.toNat))] })
        (fun s => s.releaseThread k e c))
    ∧ (∀ t, firesIf (.eow g d (.inChan ch keep)) k e c slot
        (fun s => s.chanHead k e c ch.toNat = some t ∧ t.kind = 1)
        (fun _ => match d with
          | some o => ({} : Eff).put c o t.payload.toNat
          | none => {})
        (fun s => countEow s k e c))

/-- R203 to R208: the lane-wise members, and the lane shifts. -/
def Obligations.VectorLaneResults : Prop :=
  ∀ (g : BitVec 16) (d a b : Operand) (ln : Lane) (m : LaneSign),
    let l := ln.width
    let n := destWidth d / l
    completes (.vadd g d a b ln) (laneResult .z l d a b fun x y _ => x + y)
    ∧ completes (.vsub g d a b ln) (laneResult .z l d a b fun x y _ => x - y)
    ∧ completes (.vmul g d a b ln) (laneResult .z l d a b fun x y _ => x * y)
    ∧ completes (.vadds g d a b m) (laneResult (sgn m) m.ln.width d a b fun x y _ => satL m (x + y))
    ∧ completes (.vmin g d a b m) (laneResult (sgn m) m.ln.width d a b fun x y _ => min x y)
    ∧ completes (.vmax g d a b m) (laneResult (sgn m) m.ln.width d a b fun x y _ => max x y)
    ∧ completes (.vaddmin g d a b m) (laneResult (sgn m) m.ln.width d a b fun x y z => min z (satL m (x + y)))
    ∧ completes (.vaddmax g d a b m) (laneResult (sgn m) m.ln.width d a b fun x y z => max z (satL m (x + y)))
    ∧ completes (.vsel g d a b ln) (laneResult .z l d a b fun x y z => if 2 ^ (l - 1) ≤ z then x else y)
    ∧ completes (.vcmp g d a b m) (laneResult (sgn m) m.ln.width d a b fun x y _ => if x < y then -1 else if x = y then 0 else 1)
    ∧ completes (.lshl g d a b ln) (fun s => quietOf s d (ofLanes l
        (((s.src b).shaped l n).getD (n - 1) 0 :: ((s.src a).shaped l n).take (n - 1))))
    ∧ completes (.lshr g d a b ln) (fun s => quietOf s d (ofLanes l (((s.src a).shaped l n).drop 1 ++ [((s.src b).shaped l n).getD 0 0])))

/-- R209 to R211: reductions and prefix scans by the pairwise tree of R76, broadcast and dot product.
Where the spec leaves a point open, the statement follows the model's own choice: assumption 58. -/
def Obligations.VectorReductionResults : Prop :=
  ∀ (g : BitVec 16) (d a b : Operand) (sel : BitVec 8) (ln : Lane) (m : LaneSign),
    let w := destWidth d
    let l := m.ln.width
    completes (.vred g d a (.imm sel) m) (fun s =>
        let vs := (upFrom 0 ((s.src a).width / l)).map fun i =>
          if 4 ≤ sel.toNat then (s.src a).raw / 2 ^ (l * i) % 2 ^ l % 2 ^ w else (readAs (sgn m) ((s.src a).raw / 2 ^ (l * i) % 2 ^ l) l % (2 ^ w : Nat)).toNat
        quietOf s d (treeFold (combine sel.toNat (sgn m) w) 0 5 vs))
    ∧ completes (.vscan g d a (.imm sel) m) (fun s =>
        quietOf s d (ofLanes l ((upFrom 0 (w / l)).map fun i =>
          treeFold (combine sel.toNat (sgn m) l) 0 5 (((s.src a).shaped l (w / l)).take (i + 1)))))
    ∧ completes (.vbcast g d a b ln) (fun s =>
        let v := if (s.src b).ownZ < (s.src a).width / ln.width then (s.src a).raw / 2 ^ (ln.width * (s.src b).ownZ) % 2 ^ ln.width else 0
        quietOf s d (ofLanes ln.width (List.replicate (w / ln.width) v)))
    ∧ completes (.vdot g d a b m) (fun s =>
        let n := (s.src a).width / l
        let ps := (upFrom 0 n).map fun i =>
          (readAs (sgn m) ((s.src a).raw / 2 ^ (l * i) % 2 ^ l) l * lanesOfSrc s b (sgn m) l n i % (2 ^ w : Nat)).toNat
        quietOf s d (((s.src d).raw + treeFold (combine 0 .z w) 0 5 ps) % 2 ^ w))

/-- R203: the lanes of a value put together are the value's lanes. -/
def Obligations.LanesOfPacked : Prop :=
  ∀ (l : Nat) (vs : List Nat) (i : Nat), i < vs.length → ofLanes l vs / 2 ^ (l * i) % 2 ^ l = vs.getD i 0 % 2 ^ l

/-- R227 to R229: the multiply-accumulate members fire on a packet of each bus that they read, add every product to the tile, and consume the packets; from the store,
a format that is not the store's poisons the tile. -/
def Obligations.MatrixProductResults : Prop :=
  ∀ (g : BitVec 16) (o b : Operand) (grp : BitVec 3) (q : BitVec 2) (k e c slot : Nat) (p r : Packet),
    let both (s : State) := s.tileTurn k e c = true ∧ s.rowPacket k e c = some p ∧ s.colPacket k e c = some r
    let bus (f : LFmt) (s : State) : State := ((tileUpdate s k e c (mmacContribs f (fun i j => codeAt f p.body.toNat (kOf f * i + j))
      (fun i j => codeAt f r.body.toNat (8 * i + j)) (scaleAt s o) (scaleAt s b))).takeRow k e).takeCol k e
    let own (s : State) := s.tileTurn k e c = true ∧ s.colPacket k e c = some r ∧ (s.elem k e).downPending = false
    let store (f : LFmt) (s : State) : State := (if (s.elem k e).store.fmt = f then tileUpdate s k e c
        (mmacContribs f (fun i j => (s.elem k e).store.codes.getD (8 * i + kOf f * grp.toNat + j) 0)
          (fun i j => codeAt f r.body.toNat (8 * i + j)) (fun _ => scaleLog (s.elem k e).store.e 0) (scaleAt s b))
      else s.tileStep k e c fun t => { t with poison := BitVec.allOnes 64 }).takeCol k e
    firesIf (.mmac g (.bus o) b) k e c slot both (fun _ => {}) (bus .l6)
    ∧ firesIf (.mmac8 g (.bus o) b) k e c slot both (fun _ => {}) (bus .l8)
    ∧ firesIf (.mmac12 g (.bus o) b) k e c slot both (fun _ => {}) (bus .l12)
    ∧ firesIf (.mmac g (.store grp) b) k e c slot own (fun _ => {}) (store .l6)
    ∧ firesIf (.mmac8 g (.store grp) b) k e c slot own (fun _ => {}) (store .l8)
    ∧ firesIf (.mmac12 g (.store grp) b) k e c slot own (fun _ => {}) (store .l12)
    ∧ firesIf (.mmacw g q) k e c slot both (fun _ => {}) (fun s => ((tileUpdate s k e c
        ((upFrom 0 4).flatMap fun i => (upFrom 0 4).map fun j => (8 * (4 * (q.toNat / 2) + i) + 4 * (q.toNat % 2) + j,
          wProduct (readW (p.body.toNat / 2 ^ (40 * i) % 2 ^ 40)) (readW (r.body.toNat / 2 ^ (40 * j) % 2 ^ 40))))).takeRow k e).takeCol k e)

/-- R230 to R235: MZERO, MDOWN, MREAD, MNORM, MXGET, MTASK and MPOIS.
Where the spec leaves a point open, the statement follows the model's own choice: assumption 58. -/
def Obligations.MatrixTileResults : Prop :=
  ∀ (g : BitVec 16) (d a b : Operand) (m : Rounding) (f : LFmt) (res : BitVec 3) (dopt : Option Operand) (ch : BitVec 3) (keep : Bool) (p : BitVec 2) (x : Bool)
    (v : BitVec 8) (k e c slot : Nat),
    let turn (s : State) := s.tileTurn k e c = true
    let goal (s : State) : Int := max (-32768) (min (s.src a).ownS 32767)
    firesIf (.mzero g a) k e c slot turn (fun _ => {}) (fun s => s.tileStep k e c fun _ => { x := goal s })
    ∧ firesIf (.mdown g f) k e c slot turn (fun s => { outs := [.store f ((s.elem k e).acc.down f).1 ((s.elem k e).acc.down f).2] })
        (fun s => s.tileStep k e c id)
    ∧ firesIf (.mread g d (.res res) b m) k e c slot (fun _ => True) (fun s =>
        let i := 8 * res.toNat + (s.src b).ownZ % 8
        let n := (s.elem k e).acc.entries.getD i 0
        flagged d m (fun s => if (s.elem k e).acc.poison.getLsbD i then { val := wNaN }
          else roundFin m (s.offset 0) (decide (n < 0)) n.natAbs (s.elem k e).acc.x false) s) id
    ∧ firesIf (.mnorm g (some a)) k e c slot turn (fun _ => {}) (fun s => s.tileStep k e c fun t => t.normTo (goal s))
    ∧ firesIf (.mnorm g none) k e c slot turn (fun _ => {}) (fun s => { s.tileStep k e c fun t => t.normMax s.free with free := s.free + 1 })
    ∧ firesIf (.mxget g d (.imm v)) k e c slot (fun _ => True) (fun s => ({} : Eff).put c d
        (if v = 0 then ((s.elem k e).acc.x % (2 ^ destWidth d : Nat)).toNat else (s.elem k e).acc.poison.toNat % 2 ^ destWidth d)) id
    ∧ (∀ t, firesIf (.mtask g dopt (.inChan ch keep) b p) k e c slot (fun s => s.chanHead k e c ch.toNat = some t ∧ t.kind = 3)
        (fun s =>
          let hit := t.payload.toNat % 2 ^ 16 == zn s b 16
          let f : Eff := { ({} : Eff).pred p.toNat hit with takes := hit }
          match dopt with
          | some o => if hit then f.put c o (t.payload.toNat / 2 ^ 16 % 2 ^ destWidth o) else f
          | none => f) id)
    ∧ firesIf (.mpois g a x) k e c slot turn (fun _ => {})
        (fun s => s.tileStep k e c fun t => t.editPoison (BitVec.ofNat 64 (zn s a 64)) x)

namespace Sys2Proof.Claims

/-- R258, R280: an access of `n` bytes through capability operand `a` at the offset of `b` is granted at tile address `addr`: the capability is tagged, of space 1, not
execute-only and has the permissions, the offset is in bounds, and the range lies within $TILECAP. -/
def granted (s : State) (k : Nat) (a : Operand) (o : Int) (n need addr : Nat) : Bool :=
  let c := s.capSrc a
  let t := (s.cc k).tilecap
  c.tag && c.space == 1 && !c.eo && (c.perms &&& need == need) && decide (0 ≤ o) && decide (o + n ≤ c.len) && decide ((addr : Int) = c.base + o)
    && t.valid && decide (t.base ≤ addr) && decide (addr + n ≤ t.base + t.len)

/-- R281, R286: nothing holds back an access of this order: no acquire that is not performed, no QWAIT, and for a release every earlier access is performed. -/
def unheld (s : State) (k : Nat) (m : BitVec 4) : Bool := !s.held k && (m.toNat < 8 || s.allPerformed k)

/-- R254: the banks of `n` bytes at a tile address have served an access of the control core. -/
def touch (s : State) (k : Nat) (m : BitVec 4) (addr n : Nat) : State := s.serve k (Machine.orderOf m) (partsOf addr n)

/-- R14, R254: the cycles for which an access of `n` bytes waits for its banks. -/
def delayOf (s : State) (k addr n : Nat) : Nat := s.bankWait k (partsOf addr n)

/-- R287, R274: the operand of a request at 64 bits; AMIN and AMAX of a signed format of the stream extend it by sign (R40). -/
def askVal (op st k e : Nat) (v : Option Operand) (s : State) : Word64 :=
  let fmt := bits ((((s.core k).nodes.getD (nodeOf e) {}).stream st).words.getD 0 0).toNat 59 56
  BitVec.ofNat 64 ((v.map fun o => if (op = 0xC5 ∨ op = 0xC6) ∧ fmt ∈ [0, 2, 4, 5] then (s.src o).to .s 64 else zn s o 64).getD 0)

/-- R287, R289: an element's request: the position of `a`, if it names one, the operand `v`, and the ordering port of `d`. -/
def asks (op : Nat) (d : Operand) (a v : Option Operand) (m : BitVec 4) (k e c : Nat) (s : State) : Eff :=
  let port := match d with
    | .port q _ => some q.toNat
    | _ => none
  { outs := .request op (m.toNat % 2) (a.map fun o => zn s o 64) (askVal op (m.toNat % 2) k e v s) c port
      :: (port.map fun q => Out.ctok q true c false).toList }

/-- R288, R291, R409: a request may be made: no FENCE of the context is in flight, the stream's queue has room for it, and in a deterministic launch it is the
context's turn for an ordered update. -/
def mayAsk (ordered : Bool) (m : BitVec 4) (k e c : Nat) (s : State) : Prop :=
  (s.ctx k e c).regs.flights.all (fun f => !f.fence) = true ∧ (s.core k).requested e (m.toNat % 2) < 4
    ∧ (ordered = true → ((regionOf s k e).map Region.det).getD false = true → (s.elem k e).requestTurn c (m.toNat % 2) = true)

/-- R409: the context counts its requests to each stream. -/
def countAsk (m : BitVec 4) (k e c : Nat) (s : State) : State := s.modCtx k e c fun x => { x with reqs := modAt x.reqs (m.toNat % 2) (· + 1) }

/-- An element's memory instruction `i` sends its request. -/
def requests (i : Instr) (op : Nat) (d : Operand) (a v : Option Operand) (m : BitVec 4) (ordered : Bool) : Prop :=
  ∀ k e c slot, firesIf i k e c slot (mayAsk ordered m k e c) (asks op d a v m k e c) (countAsk m k e c)

/-- R287: the position of a store; srcA 0x000 names none. -/
def posOf (a : Operand) : Option Operand := if Wf.isNone a then none else some a

/-- R284: the number of bytes of an atomic, and what its dest field takes: the old value, in ACAS in the low half, with the high half as it was. -/
def atomWidth (op : Nat) (c : BitVec 4) : Nat := (c.toNat + 1) / 2 / (if op = 0xCB then 2 else 1)
def atomOld (s : State) (op : Nat) (p : BitVec 7) (c : BitVec 4) (old : Nat) : Nat :=
  if op = 0xCB then setBits (s.src (.slice p c)).raw 0 (4 * (c.toNat + 1) / 2) old else old

/-- R283, R284: an atomic of the control core on a tile address that its capability grants: the old value is returned and the new one stored. -/
def tileAtomic (i : Instr) (op : Nat) (p : BitVec 7) (c : BitVec 4) (a b : Operand) (m : BitVec 4) : Prop :=
  ∀ (k addr : Nat) (s : State), s.site = .cc k → mayIssue i k s = true → unheld s k m = true →
    let n := atomWidth op c
    granted s k a (s.src b).ownS n pAT addr = true → addr % n = 0 → s.unreadable (tileLoc k addr) n = none →
    exec i s = .next (afterAct i { quietOf s (.slice p c) (atomOld s op p c (s.load (tileLoc k addr) n)) with extra := delayOf s k addr n } s
      (touch (s.store (tileLoc k addr) n (atomicNew op .s n (s.load (tileLoc k addr) n) (s.src (.slice p c)).raw)) k m addr n))

/-- R285: a far atomic in flight; the completion is offered from 64 cycles on. -/
def farOf (op : Nat) (cap : Cap) (addr n : Nat) (v : Nat) (m : BitVec 4) (turn : Nat) (p : BitVec 7) (s : State) : Far :=
  { id := s.nextId, op := op, space := cap.space, addr := addr, bytes := n, val := v, order := Machine.orderOf m, scope := scopeOf m, issued := s.cycle
    at_ := s.cycle + 64, turn := turn, dst := p.toNat }

/-- R285, R318: a far atomic that its capability grants goes into flight; its token, the dest field, stays pending, and the member counts it for its unit (R409). -/
def farAtomic (i : Instr) (op : Nat) (p : BitVec 7) (c : BitVec 4) (a b : Operand) (m : BitVec 4) : Prop :=
  ∀ (k : Nat) (s : State), s.site = .cc k → mayIssue i k s = true → s.held k = false →
    let n := atomWidth op c
    let o := (s.src b).ownS
    let cap := s.capSrc a
    let addr := cap.base + o.toNat
    let unit := farUnit cap.space addr
    let turn := s.farCount k Member.farIssued unit
    cap.tag = true → isFarSpace cap.space = true → cap.at = true → 0 ≤ o → o + n ≤ cap.len → addr % n = 0 → (n = 4 ∨ n = 8 ∧ op ≠ 0xCB) →
    (s.core k).far.length < 16 →
    exec i s = .next (afterAct i { ({} : Eff).put 0 (.slice p c) 0 with async := true } s
      ((s.modCore k fun x => { x with far := x.far ++ [farOf op cap addr n (s.src (.slice p c)).raw m turn p s] }).modMember k fun y =>
        { y with farIssued := y.farIssued.set unit (turn + 1) }))

/-- R255, R258, R280: what an access of `n` bytes at the offset `o` of the capability in `a` answers where a check fails: the cause and $EVAL of the first. `aligned`: check 7 is made;
`reads`: the bytes are read. -/
def accessTraps (i : Instr) (k : Nat) (a : Operand) (o : Int) (n need : Nat) (m : BitVec 4) (aligned reads : Bool) (s : State) : Prop :=
  mayIssue i k s = true → unheld s k m = true →
    let cap := s.capSrc a
    let t := (s.cc k).tilecap
    let addr := cap.base + o.toNat
    let stop (cause v : Nat) : Prop := exec i s = .next (s.raise k cause (BitVec.ofNat 64 v) (s.cc k).pc)
    let off := (o % 2 ^ 64).toNat
    if cap.tag = false then stop 0x200 off
    else if cap.space ≠ 1 ∨ cap.eo = true ∨ cap.perms &&& need ≠ need then stop 0x202 off
    else if o < 0 ∨ cap.len < o + n then stop 0x201 off
    else if t.valid = false ∨ addr < t.base ∨ t.base + t.len < addr + n then stop 0x201 addr
    else if aligned = true ∧ addr % n ≠ 0 then stop 0x203 off
    else reads = true → ∀ u, s.unreadable (tileLoc k addr) n = some u → stop 0x3E0 (u * 16 - tileLoc k 0)

/-- R52, R285: where a far atomic of `n` bytes at the offset `o` traps. -/
def farTraps (i : Instr) (op k : Nat) (a : Operand) (o : Int) (n : Nat) (s : State) : Prop :=
  let cap := s.capSrc a
  let stop (cause v : Nat) : Prop := exec i s = .next (s.raise k cause (BitVec.ofNat 64 v) (s.cc k).pc)
  let off := (o % 2 ^ 64).toNat
  (n = 4 ∨ n = 8 ∧ op ≠ 0xCB → mayIssue i k s = true → s.held k = false →
    if cap.tag = false then stop 0x200 off
    else if cap.at = false then stop 0x202 off
    else if o < 0 ∨ cap.len < o + n then stop 0x201 off
    else (cap.base + o.toNat) % n ≠ 0 → stop 0x203 off)
  ∧ (¬ (n = 4 ∨ n = 8 ∧ op ≠ 0xCB) → i.wf .cc = true → (s.cc k).run = .running → (s.cc k).halting = false → (s.cc k).trapping = none → (s.cc k).gbar = none → (s.cc k).regs.ready i.shape = true →
    stop 0x002 ((encode i).getD 0).toNat)

/-- R283: the atomics with their opcodes. -/
def atomicsOf (g : BitVec 16) (p : BitVec 7) (c : BitVec 4) (a b : Operand) (m : BitVec 4) : List (Instr × Nat) :=
  [(.aadd g (.slice p c) a b m, 0xC4), (.amin g (.slice p c) a b m, 0xC5), (.amax g (.slice p c) a b m, 0xC6), (.aand g (.slice p c) a b m, 0xC7), (.aor g (.slice p c) a b m, 0xC8), (.axor g (.slice p c) a b m, 0xC9),
    (.axchg g (.slice p c) a b m, 0xCA), (.acas g (.slice p c) a b m, 0xCB), (.afadd g (.slice p c) a b m, 0xCC)]

end Sys2Proof.Claims

/-- R280, R282, R295: LD, ST, LDF, STF, CLDC and CSTC of the control core, wherever the capability grants the access and nothing holds it back: the bytes, the
element's bits, or the capability and its tag.
Where the spec leaves a point open, the statement follows the model's own choice: assumption 11. -/
def Obligations.TileAccessResults : Prop :=
  ∀ (g : BitVec 16) (d a b : Operand) (p : BitVec 7) (c m : BitVec 4) (k addr : Nat) (s : State), s.site = .cc k →
    let n := (c.toNat + 1) / 2
    let o := (s.src b).ownS
    let at_ := tileLoc k addr
    let lo := o * ebits m.toNat
    let bytes := ((lo + ebits m.toNat - 1) / 8 - lo / 8 + 1).toNat
    let sh := (lo % 8).toNat
    (mayIssue (.ld g (.slice p c) a b m) k s = true → unheld s k m = true → granted s k a o n pRD addr = true → s.unreadable at_ n = none →
        exec (.ld g (.slice p c) a b m) s = .next (afterAct (.ld g (.slice p c) a b m)
          { quietOf s (.slice p c) (s.load at_ n) with extra := delayOf s k addr n } s (touch s k m addr n)))
    ∧ (mayIssue (.st g (.slice p c) a b m) k s = true → unheld s k m = true → granted s k a o n pWR addr = true →
        exec (.st g (.slice p c) a b m) s = .next (afterAct (.st g (.slice p c) a b m) {} s (touch (s.store at_ n (s.src (.slice p c)).raw) k m addr n)))
    ∧ (mayIssue (.ldf g d a b m) k s = true → unheld s k 0 = true → granted s k a (lo / 8) bytes pRD addr = true → s.unreadable at_ bytes = none →
        exec (.ldf g d a b m) s = .next (afterAct (.ldf g d a b m)
          { quietOf s d (decodeElem m.toNat (s.load at_ bytes / 2 ^ sh % 2 ^ ebits m.toNat) none) with extra := delayOf s k addr bytes } s (touch s k 0 addr bytes)))
    ∧ (mayIssue (.stf g d a b m) k s = true → unheld s k 0 = true → granted s k a (lo / 8) bytes pWR addr = true →
        (ebits m.toNat % 8 ≠ 0 → s.unreadable at_ bytes = none) →
        exec (.stf g d a b m) s = .next (afterAct (.stf g d a b m) {} s
          (touch (s.store at_ bytes (setBits (s.load at_ bytes) sh (ebits m.toNat) (encodeElem m.toNat ((s.src d).raw % 2 ^ 40)))) k 0 addr bytes)))
    ∧ (mayIssue (.cldc g (.slice p c) a b) k s = true → unheld s k 0 = true → granted s k a o 16 pCL addr = true → addr % 16 = 0 → s.unreadable at_ 16 = none →
        exec (.cldc g (.slice p c) a b) s = .next (afterAct (.cldc g (.slice p c) a b) { ({} : Eff).putCap (.slice p c) (s.loadCap at_) with extra := delayOf s k addr 16 } s (touch s k 0 addr 16)))
    ∧ (mayIssue (.cstc g (.slice p c) a b) k s = true → unheld s k 0 = true → granted s k a o 16 pCS addr = true → addr % 16 = 0 →
        exec (.cstc g (.slice p c) a b) s = .next (afterAct (.cstc g (.slice p c) a b) {} s (touch (s.storeCap at_ (s.capSrc (.slice p c))) k 0 addr 16)))

/-- R283, R284: each atomic of the control core on the tile.
Where the spec leaves a point open, the statement follows the model's own choice: assumptions 11 and 63. -/
def Obligations.TileAtomicResults : Prop :=
  ∀ (g : BitVec 16) (a b : Operand) (p : BitVec 7) (c m : BitVec 4),
    tileAtomic (.aadd g (.slice p c) a b m) 0xC4 p c a b m
    ∧ tileAtomic (.amin g (.slice p c) a b m) 0xC5 p c a b m
    ∧ tileAtomic (.amax g (.slice p c) a b m) 0xC6 p c a b m
    ∧ tileAtomic (.aand g (.slice p c) a b m) 0xC7 p c a b m
    ∧ tileAtomic (.aor g (.slice p c) a b m) 0xC8 p c a b m
    ∧ tileAtomic (.axor g (.slice p c) a b m) 0xC9 p c a b m
    ∧ tileAtomic (.axchg g (.slice p c) a b m) 0xCA p c a b m
    ∧ tileAtomic (.acas g (.slice p c) a b m) 0xCB p c a b m
    ∧ tileAtomic (.afadd g (.slice p c) a b m) 0xCC p c a b m

/-- R285, R318: each atomic of the control core through a capability of a device-side space.
Where the spec leaves a point open, the statement follows the model's own choice: assumptions 18 and 64. -/
def Obligations.FarAtomicResults : Prop :=
  ∀ (g : BitVec 16) (a b : Operand) (p : BitVec 7) (c m : BitVec 4),
    farAtomic (.aadd g (.slice p c) a b m) 0xC4 p c a b m
    ∧ farAtomic (.amin g (.slice p c) a b m) 0xC5 p c a b m
    ∧ farAtomic (.amax g (.slice p c) a b m) 0xC6 p c a b m
    ∧ farAtomic (.aand g (.slice p c) a b m) 0xC7 p c a b m
    ∧ farAtomic (.aor g (.slice p c) a b m) 0xC8 p c a b m
    ∧ farAtomic (.axor g (.slice p c) a b m) 0xC9 p c a b m
    ∧ farAtomic (.axchg g (.slice p c) a b m) 0xCA p c a b m
    ∧ farAtomic (.acas g (.slice p c) a b m) 0xCB p c a b m
    ∧ farAtomic (.afadd g (.slice p c) a b m) 0xCC p c a b m

/-- R287 to R289, R409: the memory instructions of an element send a request to a stream of the half-stripe's node, with the ordering token of their dest field.
Where the spec leaves a point open, the statement follows the model's own choice: assumptions 36, 37 and 65. -/
def Obligations.ElementRequestResults : Prop :=
  ∀ (g : BitVec 16) (d a b : Operand) (m : BitVec 4),
    requests (.ld g d a b m) 0xC0 d (some a) none m false
    ∧ requests (.st g d a b m) 0xC1 d (posOf a) (some b) m false
    ∧ requests (.ldf g d a b m) 0xC2 d (some a) none m false
    ∧ requests (.stf g d a b m) 0xC3 d (posOf a) (some b) m false
    ∧ requests (.aadd g d a b m) 0xC4 d (some a) (some b) m true
    ∧ requests (.amin g d a b m) 0xC5 d (some a) (some b) m true
    ∧ requests (.amax g d a b m) 0xC6 d (some a) (some b) m true
    ∧ requests (.aand g d a b m) 0xC7 d (some a) (some b) m true
    ∧ requests (.aor g d a b m) 0xC8 d (some a) (some b) m true
    ∧ requests (.axor g d a b m) 0xC9 d (some a) (some b) m true
    ∧ requests (.axchg g d a b m) 0xCA d (some a) (some b) m true
    ∧ requests (.acas g d a b m) 0xCB d (some a) (some b) m true
    ∧ requests (.afadd g d a b m) 0xCC d (some a) (some b) m true

/-- R255, R258, R280, R282 to R285, R295: the checks of a control-core access in their order, with the cause and $EVAL of the first that fails: LD and ST; LDF and STF over the bytes of their element, with $EVAL its byte offset;
CLDC and CSTC, whose unit is aligned to 16; the nine atomics, aligned to their width. What reads a unit that is uncorrectable traps MACHINE_CHECK with the unit's tile address. A far atomic passes five checks of its own, and one of a
width that its encoding does not allow traps ILLEGAL_OPERAND with its word, whether or not its guard holds (R52).
Where the spec leaves a point open, the statement follows the model's own choice: assumptions 5, 18 and 65. -/
def Obligations.TileAccessTraps : Prop :=
  ∀ (g : BitVec 16) (d a b : Operand) (p : BitVec 7) (c m : BitVec 4) (k : Nat) (s : State), s.site = .cc k →
    let n := (c.toNat + 1) / 2
    let o := (s.src b).ownS
    let lo := o * ebits m.toNat
    let bytes := ((lo + ebits m.toNat - 1) / 8 - lo / 8 + 1).toNat
    accessTraps (.ld g (.slice p c) a b m) k a o n pRD m false true s
    ∧ accessTraps (.st g (.slice p c) a b m) k a o n pWR m false false s
    ∧ accessTraps (.ldf g d a b m) k a (lo / 8) bytes pRD 0 false true s
    ∧ accessTraps (.stf g d a b m) k a (lo / 8) bytes pWR 0 false (ebits m.toNat % 8 != 0) s
    ∧ accessTraps (.cldc g (.slice p c) a b) k a o 16 pCL 0 true true s
    ∧ accessTraps (.cstc g (.slice p c) a b) k a o 16 pCS 0 true false s
    ∧ (∀ x ∈ atomicsOf g p c a b m,
        (isFarSpace (s.capSrc a).space = false → accessTraps x.1 k a o (atomWidth x.2 c) pAT m true true s)
        ∧ (isFarSpace (s.capSrc a).space = true → farTraps x.1 x.2 k a o (atomWidth x.2 c) s))

/-- R293, R294: the capability members: a deriving member keeps the tag only for a valid derivation, and the bits of the source otherwise. -/
def Obligations.CapabilityResults : Prop :=
  ∀ (g : BitVec 16) (d a b : Operand) (p : BitVec 7) (c : BitVec 4),
    let src (s : State) := s.capSrc a
    let w := destWidth d
    let keep (ok : Bool) (raw : Nat) (s : State) : Eff := ({} : Eff).putCap (.slice p c)
      (if ok && (src s).tag then { raw := BitVec.ofNat 128 raw, tag := true } else { raw := (src s).raw, tag := false })
    completes (.csetb g (.slice p c) a b) (fun s => keep (decide ((s.src b).ownZ ≤ (src s).len)) (setBits (src s).raw.toNat 24 40 (s.src b).ownZ) s)
    ∧ completes (.csub g (.slice p c) a b) (fun s => keep (decide ((s.src b).ownZ ≤ (src s).len))
        (setBits (setBits (src s).raw.toNat 64 64 ((src s).base + (s.src b).ownZ)) 24 40 ((src s).len - (s.src b).ownZ)) s)
    ∧ completes (.candp g (.slice p c) a b) (fun s => keep true (setBits (src s).raw.toNat 16 8 ((src s).perms &&& (zn s b 8))) s)
    ∧ completes (.cmov g (.slice p c) a) (fun s => ({} : Eff).putCap (.slice p c) (src s))
    ∧ completes (.cclr g (.slice p c) a) (fun s => ({} : Eff).putCap (.slice p c) { raw := (src s).raw, tag := false })
    ∧ completes (.cgetb g d a) (fun s => quietOf s d ((src s).base % 2 ^ w))
    ∧ completes (.cgetl g d a) (fun s => quietOf s d ((src s).len % 2 ^ w))
    ∧ completes (.cgetp g d a) (fun s => quietOf s d ((src s).raw.toNat / 2 ^ 12 % 2 ^ 12 % 2 ^ w))
    ∧ completes (.ctest g d a b) (fun s => quietOf s d (truthOf ((src s).tag && ((src s).perms &&& zn s b 8) == zn s b 8)))

namespace Sys2Proof.Claims

/-- R315 to R318: an engine instruction has issued: its token is pending from now on, `cmd` stands, as its member's, at the end of the queue of engine `eng`, the banks of its block serve it, and the
next issue follows two cycles later, or as many more as the banks are busy (R254). -/
def afterQueue (i : Instr) (f : Eff) (cmd : Cmd) (eng k : Nat) (banks : List Nat) (s : State) : State :=
  afterJump i f ((s.cc k).pc + 8).toNat (2 + s.bankWait k banks) k s
    ((s.modCore k fun c => { c with engines := modAt c.engines eng (· ++ [{ cmd with owner := (s.cc k).member }]) }).serve k 0 banks)

/-- R18: the instruction traps precisely. -/
def stops (i : Instr) (k : Nat) (s : State) (cause v : Nat) : Prop := exec i s = .next (s.raise k cause (BitVec.ofNat 64 v) (s.cc k).pc)

/-- R258, R319: a command's block of `n` bytes at the offset `o` is granted at tile address `addr`: as for an access, but EO never fails a command. -/
def grantedBlock (s : State) (k : Nat) (a : Operand) (o : Int) (n need addr : Nat) : Bool :=
  let c := s.capSrc a
  let t := (s.cc k).tilecap
  c.tag && c.space == 1 && (c.perms &&& need == need) && decide (0 ≤ o) && decide (o + n ≤ c.len) && decide ((addr : Int) = c.base + o)
    && t.valid && decide (t.base ≤ addr) && decide (addr + n ≤ t.base + t.len)

/-- R258, R319: what a command whose block is `n` bytes at the offset `o` of the capability in `a` answers: where check 1 fails, its cause with the offset as $EVAL; EO never fails a command. Where it holds,
`next` says the rest of the block's tile address. -/
def blockStops (i : Instr) (k : Nat) (a : Operand) (o : Int) (n need : Nat) (s : State) (next : Nat → Prop) : Prop :=
  mayIssue i k s = true → s.held k = false →
    let cap := s.capSrc a
    let t := (s.cc k).tilecap
    let addr := cap.base + o.toNat
    let off := (o % 2 ^ 64).toNat
    if cap.tag = false then stops i k s 0x200 off
    else if cap.space ≠ 1 ∨ cap.perms &&& need ≠ need then stops i k s 0x202 off
    else if o < 0 ∨ cap.len < o + n then stops i k s 0x201 off
    else if t.valid = false ∨ addr < t.base ∨ t.base + t.len < addr + n then stops i k s 0x201 off
    else if addr % 64 ≠ 0 then stops i k s 0x203 off
    else next addr

/-- R319, check 3: a capability of a block that has no tag, a space that the command's table does not allow, or not the permission. -/
def useFails (c : Cap) (spaces : List Nat) (need : Nat) : Bool := !spaces.isEmpty && (!c.tag || !spaces.contains c.space || (c.perms &&& need) != need)

/-- R319, checks 1 to 4 of a command with a 64-byte block, in their order, and R255 where the block cannot be read. -/
def commandStops (i : Instr) (a b : Operand) (rule : State → Nat → BlockWords → BlockRule) : Prop :=
  ∀ (k : Nat) (s : State), s.site = .cc k → blockStops i k a (s.src b).ownS 64 (pRD + pCL) s fun addr =>
    let w := s.block k addr
    let r := rule s k w
    let t := (s.cc k).tilecap
    (∀ u, s.unreadable (tileLoc k addr) 64 = some u → stops i k s 0x3E0 (u * 16 - tileLoc k 0))
    ∧ (s.unreadable (tileLoc k addr) 64 = none →
      (∀ x ok rest, r.fields.dropWhile (fun f => f.2) = (x, ok) :: rest → stops i k s 0x300 x)
      ∧ ((r.fields.all fun f => f.2) = true →
        if useFails w.c0 r.sp0 r.need0 then stops i k s (if w.c0.tag then 0x202 else 0x200) 0
        else if useFails w.c1 r.sp1 r.need1 then stops i k s (if w.c1.tag then 0x202 else 0x200) 16
        else if !(r.r0.all fun p => rangeOk t w.c0 p.1 p.2) then stops i k s 0x201 0
        else !(r.r1.all fun p => rangeOk t w.c1 p.1 p.2) → stops i k s 0x201 16))

/-- R119, R317: the token operand from slice `p`: 16 slices that stay pending until the command ends. -/
def token (p : BitVec 7) : Eff := { own := sliceMask p.toNat 16, async := true }

/-- R119: a token that is written in the next cycle. -/
def tokenOf (p : BitVec 7) (v : Nat) : Eff := { own := sliceMask p.toNat 16, data := BitVec.ofNat 512 (v % 2 ^ 64 * 2 ^ (4 * p.toNat)), token := true }

/-- R318: the command of a block at tile address `addr`. -/
def blockCmd (s : State) (op : Nat) (p : BitVec 7) (m : BitVec 4) (k addr : Nat) (segs : List Nat) : Cmd :=
  { id := s.nextId, op := op, dst := p.toNat, order := Machine.orderOf m, scope := scopeOf m, issued := s.cycle, c0 := (s.block k addr).c0
    c1 := (s.block k addr).c1, words := (s.block k addr).p, at_ := s.cycle + 1, segs := segs, handed := segs }

/-- R319: a command whose block `addr` is granted, passes the checks of `rule` and, for DMAS, finds its banks and its stream, goes to its engine as soon as that has room. -/
def blockGoes (i : Instr) (op : Nat) (p : BitVec 7) (a b : Operand) (m : BitVec 4) (rule : State → Nat → BlockWords → BlockRule)
    (more : State → Nat → BlockWords → Bool) (segs : BlockWords → List Nat) : Prop :=
  ∀ (k addr eng : Nat) (s : State), s.site = .cc k → mayIssue i k s = true → s.held k = false →
    grantedBlock s k a (s.src b).ownS 64 (pRD + pCL) addr = true → addr % 64 = 0 → s.unreadable (tileLoc k addr) 64 = none →
    let w := s.block k addr
    ruleCheck (s.cc k).tilecap w (rule s k w) = none → more s k w = true → (s.core k).engineFor op = some eng →
    exec i s = .next (afterQueue i (token p) (blockCmd s op p m k addr (segs w)) eng k (partsOf addr 64) s)

/-- R326: each segment's bank token is the control core's, and the named stream exists. -/
def fifoReady (s : State) (k : Nat) (w : BlockWords) : Bool :=
  (upFrom 0 (fifoSegs (w.P 3))).all (fun g => (s.core k).bankTok.get? (fifoBank w.c1 (w.P 1) g) == some 8) && ((s.core k).fifoNode (w.P 3)).isSome

end Sys2Proof.Claims

/-- R315 to R330: DMA, DMAS, GATH, SCAT, STAGE and COLL issue with the block as it stands in tile memory, and trap on the first of the checks of R319 that fails; DMAS also with 0x303 where the token of a segment's bank
is not the control core's, and with 0x305 where its stream does not exist (R326), for which the spec names no $EVAL (assumption 18).
Where the spec leaves a point open, the statement follows the model's own choice: assumptions 38 and 64. -/
def Obligations.BlockCommandResults : Prop :=
  ∀ (g : BitVec 16) (a b : Operand) (p : BitVec 7) (m : BitVec 4),
    blockGoes (.dma g (.slice p 15) a b m) 0xE0 p a b m (fun _ _ w => dmaRule w) (fun _ _ _ => true) (fun _ => [])
    ∧ blockGoes (.dmas g (.slice p 15) a b m) 0xE1 p a b m (fun _ _ w => dmasRule w) fifoReady (fun w => List.replicate (fifoSegs (w.P 3)) 0)
    ∧ blockGoes (.gath g (.slice p 15) a b m) 0xE2 p a b m (fun _ _ w => gathRule false w) (fun _ _ _ => true) (fun _ => [])
    ∧ blockGoes (.scat g (.slice p 15) a b m) 0xE3 p a b m (fun _ _ w => gathRule true w) (fun _ _ _ => true) (fun _ => [])
    ∧ blockGoes (.stage g (.slice p 15) a b m) 0xE4 p a b m (fun _ _ w => stageRule w) (fun _ _ _ => true) (fun _ => [])
    ∧ blockGoes (.coll g (.slice p 15) a b m) 0xE5 p a b m
        (fun s k w => collRule (s.collGroupOf k (collGroup (w.P 2))).1 (s.collGroupOf k (collGroup (w.P 2))).2 w) (fun _ _ _ => true) (fun _ => [])
    ∧ commandStops (.dma g (.slice p 15) a b m) a b (fun _ _ w => dmaRule w)
    ∧ commandStops (.dmas g (.slice p 15) a b m) a b (fun _ _ w => dmasRule w)
    ∧ commandStops (.gath g (.slice p 15) a b m) a b (fun _ _ w => gathRule false w)
    ∧ commandStops (.scat g (.slice p 15) a b m) a b (fun _ _ w => gathRule true w)
    ∧ commandStops (.stage g (.slice p 15) a b m) a b (fun _ _ w => stageRule w)
    ∧ commandStops (.coll g (.slice p 15) a b m) a b
        (fun s k w => collRule (s.collGroupOf k (collGroup (w.P 2))).1 (s.collGroupOf k (collGroup (w.P 2))).2 w)
    ∧ (∀ (k addr : Nat) (s : State), s.site = .cc k → mayIssue (.dmas g (.slice p 15) a b m) k s = true → s.held k = false →
        grantedBlock s k a (s.src b).ownS 64 (pRD + pCL) addr = true → addr % 64 = 0 → s.unreadable (tileLoc k addr) 64 = none →
        let w := s.block k addr
        let mine := (upFrom 0 (fifoSegs (w.P 3))).all fun g => (s.core k).bankTok.get? (fifoBank w.c1 (w.P 1) g) == some 8
        ruleCheck (s.cc k).tilecap w (dmasRule w) = none → mine = false ∨ (s.core k).fifoNode (w.P 3) = none →
        ∃ v, exec (.dmas g (.slice p 15) a b m) s = .next (({ s with free := s.free + 1 } : State).raise k (if mine then 0x305 else 0x303) v (s.cc k).pc))

/-- R333, R334, R337, R339: MSG, MRECV, LAUNCH and QWAIT issue: what they read at issue goes with the command. MSG, MRECV and LAUNCH trap on the first of the checks of R319 that fails, and MSG with TARGET_CORE where its core is not in the map.
Where the spec leaves a point open, the statement follows the model's own choice: assumption 64. -/
def Obligations.MessageCommandResults : Prop :=
  ∀ (g : BitVec 16) (a b : Operand) (p : BitVec 7) (m : BitVec 4) (k addr eng : Nat) (s : State), s.site = .cc k → s.held k = false →
    let word (i : Nat) : Word64 := BitVec.ofNat 64 (s.load (tileLoc k (addr + 8 * i)) 8)
    let cmd (op : Nat) : Cmd := { id := s.nextId, op := op, dst := p.toNat, order := Machine.orderOf m, scope := scopeOf m, issued := s.cycle, at_ := s.cycle + 1 }
    let o := (s.src b).ownS
    (mayIssue (.msg g (.slice p 15) a b m) k s = true → grantedBlock s k a 0 64 pRD addr = true → addr % 64 = 0 → (s.targetCore k (zn s b 64)).isSome = true →
        s.unreadable (tileLoc k addr) 64 = none → (s.core k).engineFor 0xE6 = some eng →
        let u := s.loadCap (tileLoc k addr)
        exec (.msg g (.slice p 15) a b m) s = .next (afterQueue (.msg g (.slice p 15) a b m) (token p)
          { cmd 0xE6 with c0 := if u.valid && u.gl && (s.capSrc a).cl then u else { u with tag := false }
                          words := BitVec.ofNat 64 (zn s b 64) :: (upFrom 0 8).map word } eng k (partsOf addr 64) s))
    ∧ (mayIssue (.mrecv g (.slice p 15) a b m) k s = true → grantedBlock s k a o 64 pWR addr = true → addr % 64 = 0 → (s.core k).engineFor 0xE7 = some eng →
        exec (.mrecv g (.slice p 15) a b m) s = .next (afterQueue (.mrecv g (.slice p 15) a b m)
          { ({} : Eff).putCap (.slice p 15) {} with async := true } { cmd 0xE7 with c1 := s.capSrc a, words := [BitVec.ofNat 64 addr] } eng k [] s))
    ∧ (mayIssue (.launch g (.slice p 15) a b m) k s = true → grantedBlock s k a o 128 pRD addr = true → addr % 64 = 0 → s.unreadable (tileLoc k addr) 128 = none →
        (s.core k).engineFor 0xE9 = some eng →
        exec (.launch g (.slice p 15) a b m) s = .next (afterQueue (.launch g (.slice p 15) a b m) (token p)
          { cmd 0xE9 with words := (upFrom 0 16).map word, sub := ((s.launchOf k).map fun x => x.2.rights % 8).getD 0 } eng k (partsOf addr 128) s))
    ∧ (mayIssue (.qwait g (.slice p 15) a b) k s = true → (s.core k).engineFor 0xED = some eng →
        exec (.qwait g (.slice p 15) a b) s = .next (if 15 < zn s a 64 then s.raise k 0x002 (BitVec.ofNat 64 (zn s a 64)) (s.cc k).pc
          else afterQueue (.qwait g (.slice p 15) a b) (token p)
            { id := s.nextId, op := 0xED, dst := p.toNat, order := 1, scope := 8, issued := s.cycle
              words := [BitVec.ofNat 64 (zn s a 64), BitVec.ofNat 64 (zn s b 64)], at_ := s.cycle + 1 } eng k [] s))
    ∧ (let i : Instr := .msg g (.slice p 15) a b m
       blockStops i k a 0 64 pRD s fun at_ => (s.targetCore k (zn s b 64) = none → stops i k s 0x302 (zn s b 64))
        ∧ ((s.targetCore k (zn s b 64)).isSome = true → ∀ u, s.unreadable (tileLoc k at_) 64 = some u → stops i k s 0x3E0 (u * 16 - tileLoc k 0)))
    ∧ blockStops (.mrecv g (.slice p 15) a b m) k a o 64 pWR s (fun _ => True)
    ∧ (let i : Instr := .launch g (.slice p 15) a b m
       blockStops i k a o 128 pRD s fun at_ => ∀ u, s.unreadable (tileLoc k at_) 128 = some u → stops i k s 0x3E0 (u * 16 - tileLoc k 0))

/-- R336, R338, R340, R341: BANKT moves a bank token, and traps with 0x303 for a bank outside the allocation or a holder that is no region, and with 0x304 for a segment of a stream FIFO; EPOLL tells whether its token has been written; ECANCEL has the commands that own the operand's slices end at the end
of its cycle (status 2, unless their token is written in it); GBAR passes when it is the last of the gang to arrive, and otherwise holds the issue stage.
Where the spec leaves a point open, the statement follows the model's own choice: assumptions 38 and 65. -/
def Obligations.EngineControlResults : Prop :=
  ∀ (g : BitVec 16) (d a b : Operand) (p : BitVec 7) (c : BitVec 4) (v : BitVec 8) (k l : Nat) (x : Launch) (s : State), s.site = .cc k → s.held k = false →
    let on := ((s.cc k).pc + 8).toNat
    let n := v.toNat
    let bar := x.bars.getD n {}
    (mayIssue (.bankt g a b) k s = true → (s.core k).ccBusy.getD (s.src a).ownZ 0 ≤ s.cycle → banktTrap s k (s.src a).ownZ (s.src b).ownZ = none →
        exec (.bankt g a b) s = .next (afterJump (.bankt g a b) {} on 2 k s (s.moveToken k (s.src a).ownZ (some (s.src b).ownZ))))
    ∧ (mayIssue (.bankt g a b) k s = true → (s.core k).ccBusy.getD (s.src a).ownZ 0 ≤ s.cycle →
        let bank := (s.src a).ownZ
        let holder := (s.src b).ownZ
        let mine := ((s.cc k).member.map fun o => (s.core k).bankOwner.get? bank == some o.1).getD false
        if 31 < bank ∨ 8 < holder ∨ mine = false ∨ holder < 8 ∧ s.region? k holder = none then stops (.bankt g a b) k s 0x303 (bank * 2 ^ 8 + holder)
        else (s.core k).fifoBusy bank = true → stops (.bankt g a b) k s 0x304 (bank * 2 ^ 8 + holder))
    ∧ (mayIssue (.epoll g d (.slice p c)) k s = true → exec (.epoll g d (.slice p c)) s = .next (afterJump (.epoll g d (.slice p c))
        (quietOf s d (if (s.cc k).regs.pending &&& sliceMask p.toNat (c.toNat + 1) = 0 then 1 else 0)) on 2 k s s))
    ∧ (mayIssue (.ecancel g a) k s = true → exec (.ecancel g a) s = .next (afterJump (.ecancel g a) {} on 2 k s
        ((s.ownersOf k a).foldl (fun (s : State) id => s.after 1 (.cancel k id)) s)))
    ∧ (mayIssue (.gbar g (.imm v)) k s = true → s.allPerformed k = true → s.launchOf k = some (l, x) → x.gang ≤ bar.count + 1 →
        exec (.gbar g (.imm v)) s = .next (afterJump (.gbar g (.imm v)) {} on 2 k s
          (bar.waiters.foldl (fun s j => s.modCc j fun c => { c with gbar := none, pc := c.pc + 8, nextIssue := max c.nextIssue (s.cycle + 1) })
            (s.modBar l n fun b => { b with count := 0, gen := b.gen + 1, waiters := [], due := none, rem := none }))))
    ∧ (mayIssue (.gbar g (.imm v)) k s = true → s.allPerformed k = true → s.launchOf k = some (l, x) → bar.count + 1 < x.gang →
        exec (.gbar g (.imm v)) s = .next (afterJump (.gbar g (.imm v)) {} (s.cc k).pc.toNat 2 k s
          ((s.modBar l n fun b => { b with count := b.count + 1, waiters := b.waiters ++ [k], rem := none, due :=
              if bar.count = 0 ∧ x.btimeout ≠ 0 then some (s.cycle + bar.rem.getD (x.btimeout * 1000)) else bar.due }).modCc k fun c => { c with gbar := some n })))

/-- R120 to R122, R186: the answers of a request for a lease, in their order: no duration, a lease held or suspended in this interval, the grant with its record, a boost that does not fit. LEASE asks for a boost
within its limits; LREL ends the partition's lease; PWRQ, TSTAMP and MARK read quantities, the time, and write a trace record.
Where the spec leaves a point open, the statement follows the model's own choice: assumptions 38 and 65. -/
def Obligations.PowerInstructionResults : Prop :=
  (∀ (s : State) (p dur pct : Nat) (l : Option Nat),
    s.askLease p dur pct l =
      if dur = 0 then (3, s)
      else if (s.part p).lease ≠ none ∨ (s.part p).suspendedIn = some (s.cycle / 128) then (2, s)
      else if s.boost p pct ≤ ((s.parts.get? p).map Part.pboost).getD 300 ∧ s.avgW + s.boost p pct + s.otherBoosts p ≤ 2200 then
        (0, (s.modPart p fun x => { x with lease := some { pct := pct, left := dur, launch := l, boost := s.boost p pct } }).postPart p 0x05 pct dur)
      else (1, s))
  ∧ ∀ (g : BitVec 16) (d a b : Operand) (p : BitVec 7) (k q : Nat) (s : State), s.site = .cc k →
    let dur := min (zn s a 64) 50000
    let pct := max 71 (min (zn s b 64) 100)
    let ask := s.askLease q dur pct ((s.launchOf k).map fun x => x.1)
    (mayIssue (.lease g (.slice p 15) a b) k s = true → (s.core k).part = some q →
        exec (.lease g (.slice p 15) a b) s = .next (afterAct (.lease g (.slice p 15) a b)
          (tokenOf p (if ask.1 = 0 then pct * 2 ^ 32 + dur else ask.1 * 2 ^ 40)) s ask.2))
    ∧ (mayIssue (.lrel g) k s = true → (s.core k).part = some q → exec (.lrel g) s = .next (afterAct (.lrel g) {} s (s.endLease q 0)))
    ∧ (mayIssue (.pwrq g d a b) k s = true → exec (.pwrq g d a b) s = .next (afterAct (.pwrq g d a b)
        (quietOf s d (s.pwrq k (zn s a (destWidth d)) (zn s b (destWidth d)) % 2 ^ destWidth d)) s s))
    ∧ (mayIssue (.tstamp g d) k s = true → exec (.tstamp g d) s = .next (afterAct (.tstamp g d)
        (quietOf s d ((s.timeBase + s.cycle) % 2 ^ 64 % 2 ^ destWidth d)) s s))
    ∧ (mayIssue (.mark g a b) k s = true → exec (.mark g a b) s = .next (afterAct (.mark g a b) {} s (s.traceCc k 0x01 (zn s a 16) (zn s b 64))))

/-- R123 to R125: DSTOP, SCANT, SCANQ and LCMAP with their statuses. A later SCANT waits for the earlier token. A removal of the caller's own core leaves the token
unwritten.
Where the spec leaves a point open, the statement follows the model's own choice: assumptions 38, 56 and 65. -/
def Obligations.TestInstructionResults : Prop :=
  ∀ (g : BitVec 16) (d a b : Operand) (p : BitVec 7) (k q : Nat) (pat : ScanPattern) (s : State), s.site = .cc k →
    let n := zn s a 64
    let here := zn s b 64
    let st := lcmapStatus s k q n here
    (mayIssue (.dstop g (.slice p 15) a) k s = true →
        exec (.dstop g (.slice p 15) a) s = .next (
          if s.region? k n = none then afterAct (.dstop g (.slice p 15) a) (tokenOf p 1) s s
          else if s.holds k Launch.debug = false then afterAct (.dstop g (.slice p 15) a) (tokenOf p 2) s s
          else afterAct (.dstop g (.slice p 15) a) (token p) s
            (s.modRegion k n fun r => { r with stopReqs := r.stopReqs ++ [0], stopToks := r.stopToks ++ [(s.nextId, p.toNat)] })))
    ∧ (mayIssue (.scant g (.slice p 15) a) k s = true → (s.core k).scan = none → ∀ x, scanRefusal s k n (s.wanted k) = some x →
        exec (.scant g (.slice p 15) a) s = .next (afterAct (.scant g (.slice p 15) a) (tokenOf p (x * 2 ^ 32)) s s))
    ∧ (mayIssue (.scant g (.slice p 15) a) k s = true → (s.core k).scan = none → scanRefusal s k n (s.wanted k) = none → s.pattern n = some pat →
        exec (.scant g (.slice p 15) a) s = .next (afterAct (.scant g (.slice p 15) a) (token p) s
          (s.modCore k fun c => { c with scan := some { pattern := n, start := s.cycle + 1, finish := s.cycle + 1 + pat.runUs * 1000, tok := s.nextId, dst := p.toNat
                                                        launch := ((s.launchOf k).map fun x => x.1).getD 0, runUs := pat.runUs, expected := pat.expected } })))
    ∧ (mayIssue (.scanq g d a) k s = true → exec (.scanq g d a) s = .next (afterAct (.scanq g d a) (quietOf s d ((match s.pattern (zn s a (destWidth d)) with
          | some x => 2 ^ 48 + x.runUs % 2 ^ 16 * 2 ^ 32 + x.expected.toNat
          | none => 0) % 2 ^ destWidth d)) s s))
    ∧ (mayIssue (.lcmap g (.slice p 15) a b) k s = true → (s.core k).part = some q →
        exec (.lcmap g (.slice p 15) a b) s = .next (
          if st = 0 ∧ here = 0 then
            (if (s.core k).lcore = n then afterAct (.lcmap g (.slice p 15) a b) (token p) s (s.removeCore q n)
             else afterAct (.lcmap g (.slice p 15) a b) (tokenOf p 0) s (s.removeCore q n))
          else afterAct (.lcmap g (.slice p 15) a b)
            (tokenOf p (st * 2 ^ 32 + if here = 1 ∧ st = 0 ∧ (s.part q).removed.contains n = false then 2 ^ 8 else 0)) s s))

/-! ### The steps of spec/95: control cores, networks, regions and streams -/

/-- R15, R74, R116, R117, R18: WRITE_BACK of a control core's flight: the results land, an SWR acts, a HALT that waited ends, a completion token sets latch E1, and a trap that waited for this write-back is
entered next. R16, R368: an SWR that lands gives $EPC and $EVAL its value, and $CAUSE its VEC, ASYNC and CODE alone; a read-only register ignores it. R129, R139, R140, R288, R291, R403: WRITE_BACK of an element's flight that names no ordering port: the results land in the context, their cycle is noted, and the outputs are placed in turn; a FENCE
waits for the context's requests.
Where the spec leaves a point open, the statement follows the model's own choice: assumptions 24, 34 and 63. -/
def Obligations.WriteBackEvents : Prop :=
  (∀ (k id : Nat) (f : Flight) (s : State), ((s.cc k).regs.flights.find? fun g => g.id == id) = some f → f.left = some 0 →
    let landed := s.modCc k fun c =>
      let c := { c with regs := c.regs.land f }
      let c := match f.sreg with
        | some (n, v) => c.writeSreg n v
        | none => c
      if c.halting && c.wait != .debug then (if c.regs.drained then { c with run := .halted, halting := false } else { c with halting := true }) else c
    let t := if f.token then landed.modCc k fun c => { c with latches := c.latches ||| 2 } else landed
    exec (.writeBack (.cc k) id) s = .next (if (t.cc k).trapping.isSome && (t.cc k).regs.drained then { t with todo := .ev (.trapEntry k) :: t.todo } else t))
  ∧ (∀ (k e c slot id : Nat) (f : Flight) (r : Region) (s : State), ((s.ctx k e c).regs.flights.find? fun g => g.id == id) = some f → f.left = some 0 →
    f.ordered = false → (f.fence = true → (s.core k).requestsOf e c = false) → regionOf s k e = some r →
    exec (.writeBack (.ctx k e c slot) id) s = .next (f.outs.foldl (fun t o => t.placeOut k e c f o)
      (s.modCtx k e c fun x => { x.mark f s.cycle (originOf (r.rowOf e) (r.colOf e) c f.seq) with regs := x.regs.land f })))
  ∧ (∀ (c : ControlCore) (v : Word64),
    let x := (c.writeSreg 0x09 v).cause
    c.writeSreg 0x08 v = { c with epc := v } ∧ c.writeSreg 0x0A v = { c with eval := v } ∧ c.writeSreg 0x09 v = { c with cause := x }
    ∧ x.extractLsb' 35 29 = v.extractLsb' 35 29 ∧ x.getLsbD 11 = v.getLsbD 11 ∧ x.extractLsb' 0 10 = v.extractLsb' 0 10 ∧ x.getLsbD 16 = c.cause.getLsbD 16
    ∧ (∀ i < 35, i ≠ 16 → i ≠ 11 → 10 ≤ i → x.getLsbD i = false)
    ∧ ∀ n : BitVec 8, n ≠ 0x08 → n ≠ 0x09 → n ≠ 0x0A → c.writeSreg n v = c)

/-- R14, R15, R43, R74: an instruction that issues takes over the slices and predicates that it writes from every earlier one, and those become pending, while every value stays. What lands: the bank bits and the
predicates that the instruction still owns, and its flags, ORed in. A position of which it owns every slice takes the tag that it carries; one of which it owns some is cleared; no other changes. An SWR of $FFLAGS lands its
five bits, with the flags raised by it ORed in. The instruction itself leaves the scoreboard: what it owned is no longer pending, and what the others own still is.
Where the spec leaves a point open, the statement follows the model's own choice: assumption 63. -/
def Obligations.OwnershipOfResults : Prop :=
  ∀ (r : Regs) (f : Flight),
    (∀ i < 512, (r.land f).bank.getLsbD i = if f.own.getLsbD i then f.data.getLsbD i else r.bank.getLsbD i)
    ∧ (∀ i < 8, (r.land f).preds.getLsbD i = if f.pown.getLsbD i then f.pval.getLsbD i else r.preds.getLsbD i)
    ∧ ((∀ v, f.sreg ≠ some (0x10, v)) → (r.land f).fflags = r.fflags ||| BitVec.ofNat 64 f.flags)
    ∧ (∀ v, f.sreg = some (0x10, v) → (r.land f).fflags = (v &&& 0x1F) ||| BitVec.ofNat 64 f.flags)
    ∧ (∀ q < 4, f.own &&& posMask q = 0 → (r.land f).tags.getLsbD q = r.tags.getLsbD q)
    ∧ (∀ q < 4, f.own &&& posMask q ≠ 0 → (r.land f).tags.getLsbD q = true → f.cap = some (q, true) ∧ f.own &&& posMask q = posMask q)
    ∧ (∀ q < 4, f.cap = some (q, true) → f.own &&& posMask q = posMask q → (r.land f).tags.getLsbD q = true)
    ∧ (r.launch f).bank = r.bank ∧ (r.launch f).preds = r.preds ∧ (r.launch f).tags = r.tags ∧ (r.launch f).fflags = r.fflags
    ∧ (r.launch f).pending = r.pending ||| f.own ∧ (r.launch f).pendingPreds = r.pendingPreds ||| f.pown
    ∧ (∀ g ∈ (r.launch f).flights, g ≠ f → g.own &&& f.own = 0 ∧ g.pown &&& f.pown = 0)
    ∧ (r.land f).flights = r.flights.filter (fun g => g.id != f.id)
    ∧ ((∀ g ∈ r.flights, g.id = f.id → g = f) → (∀ g ∈ r.flights, g ≠ f → g.own &&& f.own = 0 ∧ g.pown &&& f.pown = 0) →
        (r.land f).pending = r.pending &&& ~~~f.own ∧ (r.land f).pendingPreds = r.pendingPreds &&& ~~~f.pown)

/-- R20, R22, R117, R369, R372, R408: TRAP_ENTRY and ASYNCHRONOUS_TRAP, once earlier instructions have written back, the first never in a debug halt; WFE_TIMEOUT writes 0x80; INSTRUCTION_CACHE_FILL brings the line, or its fault, to
every core of the cluster that asked for it and whose fetch still names the line.
Where the spec leaves a point open, the statement follows the model's own choice: assumptions 24, 34 and 59. -/
def Obligations.ControlCoreEvents : Prop :=
  ∀ (k u va cause : Nat) (v : Word64) (at_ : Nat) (rest : List (Nat × Word64 × Nat)) (t : TrapInfo) (m : BitVec 4) (d : Operand) (s : State),
    let got := s.fetch (dieOf k) k ((s.core k).part.getD 0) 2 va (needX ||| needR) 128
    ((s.cc k).trapping = some t → (s.cc k).regs.drained = true → (s.cc k).wait ≠ .debug → exec (.trapEntry k) s = .next (s.enterTrap k t.cause t.eval t.epc false))
    ∧ ((s.cc k).wait = .debug → exec (.trapEntry k) s = .next s)
    ∧ ((s.cc k).reports = (cause, v, at_) :: rest → (s.cc k).deliverable s.cycle = true → (s.cc k).regs.drained = true →
        exec (.asynchronousTrap k) s = .next (((s.withdraw k).modCc k fun c => { c with reports := rest }).enterTrap k cause v
          (((s.withdraw k).modCc k fun c => { c with reports := rest }).cc k).pc true))
    ∧ ((s.cc k).run = .waiting → (s.cc k).wait = .event m d (some u) → u = s.cycle →
        exec (.wfeTimeout k) s = .next (s.endWait k (some (d, 0x80))))
    ∧ ((s.cc k).fill = some va → ∀ x a s', got = (.error (x, a), s') →
        exec (.instructionCacheFill k) s = .next ((s.requesters k va).foldl (fun t j => t.modCc j fun c =>
          { c with fill := none, fillFault := if c.names va then some (c.pc, x, BitVec.ofNat 64 a) else c.fillFault }) s'))
    ∧ ((s.cc k).fill = some va → s.requesters k va = [k] → ((s.cc k).icache.filter fun x : Line => Machine.setOf x.va == Machine.setOf va).length < 4 →
        ∀ b s', got = (.ok b, s') → (s'.cc k).icache = (s.cc k).icache →
        exec (.instructionCacheFill k) s = .next { s'.modCc k fun c => c.addLine { va := va, root := s'.rootOf k, words := wordsOf b 16 } 0 with free := s'.free + 1 })

/-- R135, R139, R140, R143, R179: TOKEN_TRANSFER, from the receiver's side on: the head of each latch after the first that arrived in an earlier cycle goes to the end of the latch before it, if that one holds fewer than two,
and its place counts from the next cycle; any other latch stands; no token is lost, doubled or overtaken, and no latch comes to hold more than two. A pass register has no latch between rows: its value fills the link at
write-back and no transfer moves it. BUS_PACKET_DISCARD frees a bus latch once every accepting element has consumed the packet; FILLER_FIRING takes a heavy power
token, or marks the string starved; where a release, a freeze or the lack of a region bars the element, only that is counted.
Where the spec leaves a point open, the statement follows the model's own choice: assumptions 16 and 57. -/
def Obligations.NetworkEvents : Prop :=
  ∀ (k link bus e : Nat) (p : Packet) (r : Region) (s : State),
    let c := s.core k
    let x := c.str (strOf e)
    let y : Str := { x with heavy := x.heavy - 1, filler := modAt x.filler (e / 16 % 4) (· + 1), fillPtr := setAt x.fillPtr (e / 16 % 4) (e % 8), lastFire := s.cycle, measured := false }
    exec (.tokenTransfer k 0 link) s = .next (s.modCore k fun c => { c with links := c.links.mod link fun l => l.transfer s.cycle })
    ∧ exec (.tokenTransfer k 1 link) s = .next (s.modCore k fun c => { c with klinks := c.klinks.mod link fun l => l.transfer s.cycle })
    ∧ exec (.tokenTransfer k 2 link) s = .next s
    ∧ (∀ (l : Link) (now : Nat), l.transfer now = (upFrom 1 (l.stages.length - 1)).foldl (fun l i => l.moveAt now i) l)
    ∧ (∀ (l : Link) (now i : Nat) (t : Token) (rest : List Token), l.stage (i + 1) = t :: rest →
        (t.arrived < now → l.held i now < 2 → let m := l.moveAt now (i + 1)
          m.stage (i + 1) = rest ∧ m.stage i = l.stage i ++ [{ t with arrived := now }] ∧ m.held (i + 1) now = l.held (i + 1) now
          ∧ ∀ j, j ≠ i → j ≠ i + 1 → m.stage j = l.stage j)
        ∧ (now ≤ t.arrived ∨ 2 ≤ l.held i now → l.moveAt now (i + 1) = l))
    ∧ (∀ (l : Link) (now : Nat),
        (l.transfer now).stages.flatten.map (fun t => { t with arrived := 0 }) = l.stages.flatten.map (fun t => { t with arrived := 0 })
        ∧ ((∀ i, l.held i now ≤ 2) → ∀ i, (l.transfer now).held i now ≤ 2))
    ∧ (∀ (q cx : Nat) (v : Word64) (f : Flight), s.edgeFrom k e q = none → regionOf s k e = some r →
        let tok : Token := { payload := v, ctx := cx, kind := 0, arrived := s.cycle, origin := originOf (r.rowOf e) (r.colOf e) cx f.seq, fired := f.at_, load := (r.row (r.rowOf e)).load }
        let key := r.elemAt (r.rowOf e + 1) (r.colOf e) * 4 + q
        s.placeOut k e cx f (.pass q v cx false) = s.modCore k fun c => { c with plinks := c.plinks.set key { (c.plink key) with val := some tok } })
    ∧ (c.fillerDue e s.cycle = true → c.fillerBarred e = true → exec (.fillerFiring k e) s = .next (s.modCore k fun c =>
        { c with strings := c.strings.mod (strOf e) fun x => { x with barred := modAt x.barred (e / 16 % 4) (· + 1) } }))
    ∧ (c.rbus.get? bus = some p → c.busRegion false bus = some r → p.arrived < s.cycle → (c.accepting r p true bus).all p.taken.contains = true →
        exec (.busPacketDiscard k false bus) s = .next (s.modCore k fun c => { c with rbus := c.rbus.del bus }))
    ∧ (c.cbus.get? bus = some p → c.busRegion true bus = some r → p.arrived < s.cycle → (c.accepting r p false bus).all p.taken.contains = true →
        exec (.busPacketDiscard k true bus) s = .next (s.modCore k fun c => { c with cbus := c.cbus.del bus }))
    ∧ (c.fillerReady e s.cycle = true → 0 < x.heavy →
        exec (.fillerFiring k e) s = .next (s.modCore k fun c => { c with fillCount := c.fillCount + 1, strings := c.strings.set (strOf e) y }))
    ∧ (c.fillerReady e s.cycle = true → x.heavy = 0 →
        exec (.fillerFiring k e) s = .next (s.modCore k fun c => { c with strings := c.strings.set (strOf e) { x with starved := insertNum x.starved (e / 16 % 4) } }))

/-- R160 to R163, R247: PASS_START begins the pass of the chosen block; ENTRY_TOKEN_SEND sends the next entry token; INITIAL_RECORD_APPEND appends the record of the next thread.
R166, R375, R376: WRAP_DELIVERY delivers entries in order; WRAP_OVERFLOW posts its region fault, freezes the region at once and drains it.
Where the spec leaves a point open, the statement follows the model's own choice: assumptions 33, 54 and 55. -/
def Obligations.PassEvents : Prop :=
  ∀ (k rn b e : Nat) (r : Region) (blk : Block) (t : Token) (rest : List Token) (s : State), s.region? k rn = some r →
    (r.nextBlock = some b → r.going = true → r.allEmpty s.cycle = true → r.npick ≤ r.nextPick → exec (.passStart k rn) s = .next (s.beginPass k rn r b false))
    ∧ (r.nextBlock = none → r.canStart s.cycle = true → r.det = false → chooseBlock ((upFrom 0 r.blocks.length).zip r.blocks) = some b → r.cur = none →
        r.allEmpty s.cycle = true → exec (.passStart k rn) s = .next
          ((s.modRegion k rn fun z => { z with blocks := skipCounts b ((upFrom 0 r.blocks.length).zip r.blocks) }).beginPass k rn r b false))
    ∧ (r.going = true → r.nextBlock = none → r.eowSent = false → r.sendAt ≤ s.cycle → (r.row 0).st = .active → (r.row 0).pick = 0 →
        (r.cur.bind fun b => r.blocks[b]?) = some blk → r.fillEntry.entry = t :: rest →
        let key := r.elemAt 0 blk.entcol * 8 + blk.entch
        ((s.core k).link key).held 0 s.cycle < 2 →
        exec (.entryTokenSend k rn) s = .next
          (((s.modCore k fun c => { c with links := c.links.set key ((c.link key).push 0 { t with arrived := s.cycle }) }).modRegion k rn fun _ =>
            { r.fillEntry with entry := rest, eowSent := t.kind == 1 && rest.isEmpty }).passRows k rn))
    ∧ (r.blocks[0]? = some blk → 0 < r.due → r.started = true → r.ended = false → r.frozen = false → blk.count + (s.core k).recordsReserved r 0 < blk.qcap →
        exec (.initialRecordAppend k rn) s = .next ((s.appendRecord k rn 0 (entryRecord r.nextThread [])).modRegion k rn fun r =>
          { r with due := r.due - 1, nextThread := (r.nextThread + 1) % 2 ^ 32 }))
    ∧ (r.ended = false → r.frozen = false → r.freeze = .none → exec (.wrapDelivery k rn) s = .next (s.deliverWraps k rn r [] r.wrap))
    ∧ (r.frozen = false → (s.core k).wrapStuck e = true →
        let arg := faultArg 0 0x104 2 0 (r.colOf e) 0 (e % 16 / 8) (r.rowOf e) rn
        let p := (r.row (r.rowOf e)).pick
        let t := ((s.addFault k rn 33 0 0x104 arg p).regionFault k rn 0x104 arg p).modRegion k rn fun r => { r with frozen := true, drainAt := some s.cycle }
        exec (.wrapOverflow k rn e) s = .next { t with todo := .ev (.drain k rn) :: t.todo })

/-- R156, R157, R164, R167, R168: PICK_LOAD places the pick that the controller has checked, or rejects it; EVICTION empties the row or begins its spill; SPILL_COMPLETE writes the spill record and
empties the row; RESTORE_COMPLETE makes the row Active with the record restored; a record that can be read raises no MACHINE_CHECK (R255).
Where the spec leaves a point open, the statement follows the model's own choice: assumptions 10 and 33. -/
def Obligations.RowEvents : Prop :=
  ∀ (k rn row pick part : Nat) (r : Region) (s : State), s.region? k rn = some r →
    (∀ l blk h, r.nextLoad s.cycle = some (row, pick) → s.launches.get? r.launch = some l → (r.cur.bind fun b => r.blocks[b]?) = some blk → l.hdr = some h → l.part = part →
        let place : PickPlace := { last := pick + 1 == blk.npick, ent := if pick = 0 then some (blk.entcol * 8 + blk.entch) else none
                                   prev := (s.core k).boundNext r pick false, prevK := (s.core k).boundNext r pick true }
        let t := s.modCore k fun c => { c with loadPtr := (rn + 1) % 8 }
        exec (.pickLoad k rn row pick) s = .next (
          match t.loadPick k rn part r.image (blk.pickoff + pick * pickLen r.wide) l.stageEnd h r.wide place (l.placed.get? (r.cur.getD 0 * 256 + pick)) with
          | (.error x, t) => t.rejectPick k rn row pick x
          | (.ok (b, cards), t) => t.placePick k rn row pick b cards))
    ∧ (∀ t r', s.passRows k rn = t → t.region? k rn = some r' → t.evictable k r' row = true → t.slotOf r'.launch (r'.cur.getD 0) (r'.row row).pick = none →
        exec (.eviction k rn row) s = .next (t.emptyRow k rn row))
    ∧ (∀ t r' o n, s.passRows k rn = t → t.region? k rn = some r' → t.evictable k r' row = true → t.slotOf r'.launch (r'.cur.getD 0) (r'.row row).pick = some (o, n) →
        n ≠ 0 → let key := (r'.cur.getD 0, (r'.row row).pick)
        exec (.eviction k rn row) s = .next (((t.modRegion k rn fun r => { r with saved := if r.saved.contains key then r.saved else key :: r.saved }).modRow k rn row fun x =>
            { x with st := .evicting, since := t.cycle, bytes := n }).layers k r' row 1 (t.cycle + 1)))
    ∧ ((r.row row).st = .evicting → (r.row row).bytes = 0 → ∀ o n, s.slotOf r.launch (r.cur.getD 0) (r.row row).pick = some (o, n) →
        exec (.spillComplete k rn row) s = .next (((s.put (tileLoc k (r.spillBase + o)) ((s.spillRecord k r row).take n)).emptyRow k rn row).passRows k rn))
    ∧ (∀ a n, s.unreadable a n = none → s.ctlCheck k rn a n = s)
    ∧ ((r.row row).st = .loading → (r.row row).bytes = 0 → ∀ o n t, s.slotOf r.launch (r.cur.getD 0) (r.row row).pick = some (o, n) →
        (s.ctlCheck k rn (tileLoc k (r.spillBase + o)) n).restoreElems k r row (s.ctlBytes (tileLoc k (r.spillBase + o)) n) (upFrom 0 (pickCols r.wide)) = some t →
        exec (.restoreComplete k rn row) s = .next
          ((((t.modRow k rn row fun x => { x with st := .active, since := t.cycle }).layers k r row (r.row row).div (t.cycle + 1)).loadDone k rn row).passRows k rn))

/-- R254, R260 to R265, R270 to R272, R288, R289, R374: a stream of a live memory node, on an access that lies in one line which its bank can serve in this cycle and whose bytes can be read. STREAM_READ: the element at
the position, in its delivered form, is ready 8 cycles later, the position advances, and the bank is taken for the cycle; what is ready enters the latch that has room. STREAM_WRITE: the element at the position takes
the code of the value, the position advances and the request leaves its queue. NODE_REQUEST: a random read and an ordered update answer 8 cycles later, a random write and an update change the element, and the request is performed.
An access that fails a check, or reads an uncorrectable unit, stops the stream there, with its fault. STREAM_RETRY: entry CAP is read again; an access that now passes lets the stream go on and resolves its fault, one that fails reports it again, and an entry CAP
that cannot be read reports that unit (R255).
The statement names the model's own functions for the form of an element, for a check, and for the report of a fault.
Where the spec leaves a point open, the statement follows the model's own choice: assumptions 11, 20 and 36. -/
def Obligations.StreamEvents : Prop :=
  ∀ (k n i rn row ln c : Nat) (r : Region) (q : NodeReq) (rest : List NodeReq) (s : State), (s.core k).nodeRegion n = some (rn, r, row) → r.nodeLive row = true →
    let x := s.stream k n i
    let w := x.words
    let width := ebits (stFmt w)
    let p := q.pos.getD 0
    let code (p : Nat) : Nat := s.load (tileLoc k (x.place p).1) (x.place p).2 / 2 ^ (elemRange w p).2.2 % 2 ^ width
    let got (p cx v : Nat) (b : BitVec 256) : Ahead := { at_ := s.cycle + v, pos := p, ctx := cx, body := b }
    let served := s.useBanks k [lineBank ln]
    let wrote (p v : Nat) := served.store (tileLoc k (x.place p).1) (width / 8) v
    let done (t : State) := match q.port with
      | none => t.modStream k n i fun x => { x with queue := x.queue.drop 1 }
      | some _ => ((t.modStream k n i fun x => { x with queue := x.queue.drop 1 }).modCtx k q.elem q.ctx fun y => { y with regs := { y.regs with flights := y.regs.flights.map fun f =>
          if f.id == q.flight then { f with left := some 0 } else f } }).after 1 (.ev (.writeBack (.ctx k q.elem q.ctx 0) q.flight))
    let faulted (p : Nat) := (s.modStream k n i fun x => { x with held := [] }).nodeFault k n i p c
    stEn w = true → x.held = [] → s.lineReady k rn ln = true →
    (stClass w = 0 → stDir w = false → r.stopped = false → r.ended = false → x.stopped = false → x.done = false → x.ahead = [] → x.part = [] → perToken w = 1 →
      (x.check x.pos pRD true = .ok [ln] → stBs w = false → s.spoiled k x x.pos = [] → exec (.streamRead k n i) s = .next (served.modStream k n i fun x =>
        { x.next with part := [], partPos := x.pos, bank := some (x.bankAt x.pos), banked := x.banked.set (x.bankAt x.pos) s.cycle, held := [], ahead := [got x.pos (stCtx w) 8 (packElems w [deliveredForm w (code x.pos) none])] }))
      ∧ (x.check x.pos pRD true = .ok [ln] → stBs w = false → ∀ u us, s.spoiled k x x.pos = u :: us → exec (.streamRead k n i) s = .next
        ((served.modStream k n i fun x => { x with held := [] }).nodeFault k n i x.pos 0x3E0 (some u)))
      ∧ (x.check x.pos pRD true = .error c → exec (.streamRead k n i) s = .next (faulted x.pos)))
    ∧ (stClass w = 0 → stDir w = false → r.stopped = false → r.ended = false → x.done = true → stDest w = 0 → ∀ a more, x.ahead = a :: more → a.at_ ≤ s.cycle →
      let key := r.elemAt row (stDcol w) * 8 + stDch w
      let hop := (s.core k).hops (outerElem n) (r.elemAt row (stDcol w)) false
      ((s.core k).link key).held hop s.cycle < 2 → exec (.streamRead k n i) s = .next ((s.modCore k fun c => { c with links := c.links.set key ((c.link key).push hop
        { payload := a.body.setWidth 64, ctx := a.ctx, kind := 0, arrived := s.cycle, origin := 1 }) }).modStream k n i fun x => { x with ahead := more }))
    ∧ (stClass w = 0 → stDir w = true → x.stopped = false → x.done = false → x.part = [] → perToken w = 1 → width % 8 = 0 → x.queue = q :: rest → (s.core k).classFirst r n i = true →
      (x.check x.pos pWR false = .ok [ln] → exec (.streamWrite k n i) s = .next (done ((wrote x.pos (storedForm w q.val.toNat)).modStream k n i fun x =>
        { x.next with part := [], partPos := x.pos, bank := some (x.bankAt x.pos), banked := x.banked.set (x.bankAt x.pos) s.cycle, held := [] })))
      ∧ (x.check x.pos pWR false = .error c → exec (.streamWrite k n i) s = .next (faulted x.pos)))
    ∧ (x.stopped = false → x.ahead = [] → x.queue = q :: rest → (s.core k).classFirst r n i = true →
      let ended (t : State) (l : List Ahead) := done (t.modStream k n i fun x => { x with bank := some (x.bankAt p), banked := x.banked.set (x.bankAt p) s.cycle, held := [], ahead := l })
      (stClass w = 1 → stDir w = false → r.ended = false → s.responseRoom k n row r x = true → x.check p pRD true = .ok [ln] → stBs w = false → s.spoiled k x p = [] →
        exec (.nodeRequest k n i) s = .next (ended served [got p q.ctx 8 (BitVec.ofNat 256 (deliveredForm w (code p) none))]))
      ∧ (stClass w = 1 → stDir w = true → width % 8 = 0 → x.check p pWR false = .ok [ln] → exec (.nodeRequest k n i) s = .next (ended (wrote p (storedForm w q.val.toNat)) []))
      ∧ (stClass w = 2 → width % 8 = 0 → r.ended = false → s.responseRoom k n row r x = true → x.check p pAT true = .ok [ln] → stBs w = false → s.spoiled k x p = [] →
        exec (.nodeRequest k n i) s = .next (ended (wrote p (updateNew q.op (stFmt w) (code p) q.val.toNat)) [got p q.ctx 8 (BitVec.ofNat 256 (deliveredForm w (code p) none))]))
      ∧ (stClass w = 1 → stDir w = true → width % 8 = 0 → x.check p pWR false = .error c → exec (.nodeRequest k n i) s = .next (faulted p)))
    ∧ (x.stopped = true →
      let e := tileLoc k (s.bankOf r.launch r.member * 2 ^ 17 + 16 * stCap w)
      let y := { x with cap := s.loadCap e }
      let reads := stClass w == 2 || !stDir w || width % 8 != 0
      let need := if stClass w = 2 then pAT else if stDir w then pWR else pRD
      (∀ u, s.unreadable e 16 = some u → exec (.streamRetry k n i) s = .next (((s.modStream k n i fun _ => y).modStream k n i fun x =>
        { x with cause := 0x3E0, faultUnit := some (unitAddr k u / 16) }).regionFault k rn 0x3E0 (faultArg x.faultPos 0x3E0 0 0 0 i (n % 2) row rn) (r.row row).pick))
      ∧ (¬ (stClass w = 0 ∧ stDir w = true ∧ x.done = true) → s.unreadable e 16 = none →
      (∀ ls, y.check x.faultPos need reads = .ok ls → (reads = true → s.spoiled k y x.faultPos = []) → exec (.streamRetry k n i) s = .next
        (((s.modStream k n i fun _ => y).modStream k n i fun x => { x with stopped := false, faultUnit := none }).modRegion k rn fun r =>
          let u := r.unresolved.filter fun f => !(f.1 == n && f.2.1 == i)
          { r with unresolved := u, drainAt := if u.isEmpty then none else r.drainAt }))
      ∧ (y.check x.faultPos need reads = .error c → exec (.streamRetry k n i) s = .next
        (((s.modStream k n i fun _ => y).modStream k n i fun x => { x with cause := c, faultUnit := none }).regionFault k rn c (faultArg x.faultPos c 0 0 0 i (n % 2) row rn) (r.row row).pick))))

/-! ### The steps of spec/95: engines, power, launches, faults -/

/-- R317, R321, R325 to R331, R333, R334, R337, R338, R285, R320, R307: the steps of the engines on the command `m`. ENGINE_UNIT, once the order bits let it start: a release that meets faulted writes performs nothing; a DMA copies
one atom; a DMAS carries bytes through a segment that is the engine's and hands a whole one over; a GATH or SCAT reads an index, then the row, and writes it; a STAGE reads its header and entries and writes their atoms; a COLL
joins its collective, waits, and writes one element of the result; a unit that faults ends the command, and one without a unit left is done.
ENGINE_COMPLETION writes the token and frees the place; SEGMENT_HANDOVER follows the stream; MESSAGE_DELIVERY places, or refuses with 0x302 or 0x301; MESSAGE_TAKE writes the copy area; RECORD_ENQUEUE
appends; FAR_ATOMIC_COMPLETION performs the operation; the two time limits discard what waits.
Where the spec leaves a point open, the statement follows the model's own choice: assumptions 11, 13, 38, 39 and 64. -/
def Obligations.EngineEvents : Prop :=
  ∀ (k id seg l tag n : Nat) (m : Cmd) (s : State), (s.core k).cmd? id = some m → m.id = id →
    (m.fin = none → m.at_ ≤ s.cycle → s.mayStart k m = true →
      let p := s.partOf k
      let goes (t : State) : Prop := exec (.engineUnit k id) s = .next t
      (m.op ∈ [0xE0, 0xE1, 0xE2, 0xE3, 0xE4, 0xE5] → m.prog = 0 → m.sub = 0 → 2 ≤ m.order → (s.core k).brokenBefore id ≠ [] → goes (s.breakCmd k m))
      ∧ (m.order < 2 ∨ (s.core k).brokenBefore id = [] ∨ m.prog ≠ 0 ∨ m.sub ≠ 0 →
        (m.op = 0xE0 →
          (dmaUnit m = none → goes (s.doneCmd k id))
          ∧ (∀ a b c r t, dmaUnit m = some (a, b, c) → s.copyAtom k id m.c0.space a m.c1.space b c = (r, t) →
              let u := t.unitDone k id fun m => dmaNext m c
              (r = none → goes t)
              ∧ (r = some (.ok ()) → goes (if (dmaUnit (dmaNext m c)).isSome then u else u.doneCmd k id))
              ∧ (∀ x y, r = some (.error (x, y)) → goes (t.faultCmd k m x y))))
        ∧ (m.op = 0xE1 →
          (fifoUnit m = none → goes (s.doneCmd k id))
          ∧ (∀ d a c r u, fifoUnit m = some (d, a, c) →
              let g := m.segAt m.off
              let out := fifoOut (m.P 3)
              let e := m.off + c
              (m.seg g ≠ (if out then 3 else 0) ∨ (s.core k).holder s.cycle (m.bankOf g) ≠ some 8 → goes s)
              ∧ (m.seg g = (if out then 3 else 0) → (s.core k).holder s.cycle (m.bankOf g) = some 8 →
                  (if out then s.copyAtom k id 1 a m.c0.space d c else s.copyAtom k id m.c0.space d 1 a c) = (r, u) →
                  (r = none → goes u)
                  ∧ (∀ x y, r = some (.error (x, y)) → goes (u.faultCmd k m x y))
                  ∧ (r = some (.ok ()) → e % 2 ^ 17 ≠ 0 → e < m.P 2 → out = false ∨ (d + c) % 32 = 0 → goes (u.unitDone k id fun m => { m with data := [e] }))
                  ∧ (r = some (.ok ()) → m.P 2 ≤ e → out = false →
                      goes (((u.unitDone k id fun m => ({ m with data := [e] } : Cmd).handSeg g u.cycle).moveToken k (m.bankOf g) (some (fifoReg (m.P 3)))).doneCmd k id))
                  ∧ (r = some (.ok ()) → m.P 2 ≤ e → out = true → goes ((u.unitDone k id fun m => ({ m with data := [e] } : Cmd).setSeg g 0).doneCmd k id)))))
        ∧ (m.op = 0xE2 ∨ m.op = 0xE3 →
          let w := if bits (m.P 2) 31 28 = 0 then 4 else 8
          (bits (m.P 2) 63 32 ≤ m.prog → goes (s.doneCmd k id))
          ∧ (m.prog < bits (m.P 2) 63 32 →
            (∀ r t, m.data = [] → s.readSpace (baseDie k) k p m.c0.space (m.c0.base + m.P 0 + m.prog * w) w = (r, t) →
              (∀ x y, r = .error (x, y) → goes (t.faultCmd k m x y))
              ∧ (∀ v, r = .ok v → let o := m.P 1 + ofBytes v * bits (m.P 3) 63 32
                  (m.c0.len < o + rowSize m → goes (t.faultCmd k m 0x201 (ofBytes v)))
                  ∧ (o + rowSize m ≤ m.c0.len → goes (t.modCmd k id fun m => { m with data := [m.c0.base + o], at_ := t.cycle + 1 }))))
            ∧ (∀ a r t, m.op = 0xE2 → m.data = [a] → s.readSpace (baseDie k) k p m.c0.space a (rowSize m) = (r, t) →
              (∀ x y, r = .error (x, y) → goes (t.faultCmd k m x y))
              ∧ (∀ v, r = .ok v → goes (t.gathLine k m (v.map BitVec.toNat))
                ∧ (m.sub = 0 → m.rowAt % 64 + rowSize m ≤ 64 → v.length = rowSize m → t.banksFree k m.rowAt (rowSize m) = true →
                    goes (((t.useBanks k (partsOf m.rowAt (rowSize m))).put (tileLoc k m.rowAt) v).rowDone k m))))
            ∧ (∀ a h, m.op = 0xE3 → m.data = a :: h →
              (∀ r t, rowSize m ≤ h.length → s.writeSpace (baseDie k) k p m.c0.space id a (h.map fun v => BitVec.ofNat 8 v) = (r, t) →
                (∀ x y, r = .error (x, y) → goes ((t.cmdBroken k id x y).faultCmd k m x y)) ∧ (r = .ok () → goes (t.rowDone k m)))
              ∧ (h.length < rowSize m → let q := m.rowLine m.sub
                (s.banksFree k q.1 q.2 = false → goes s)
                ∧ (∀ v t, s.banksFree k q.1 q.2 = true → (s.useBanks k (partsOf q.1 q.2)).readSpace (baseDie k) k p 1 q.1 q.2 = (.ok v, t) →
                    goes (t.modCmd k id fun m => { m with data := m.data.take 1 ++ h ++ v.map BitVec.toNat, sub := m.sub + 1, at_ := t.cycle + 1 }))))))
        ∧ (m.op = 0xE4 →
          (s.stagingFirst k id = true → goes s)
          ∧ (s.stagingFirst k id = false →
            (∀ r t, m.data = [] → s.readSpace (dieOf k) k p m.c0.space (m.c0.base + m.P 0) 32 = (r, t) →
              (∀ x y, r = .error (x, y) → goes (t.faultCmd k m x y))
              ∧ (∀ h, r = .ok h → let c := bits (fieldAt h 0 8) 10 0
                (1024 < c → goes (t.faultCmd k m 0x300 (m.c0.base + m.P 0))) ∧ (c = 0 → goes (t.doneCmd k id))
                ∧ (0 < c → c ≤ 1024 → goes (t.modCmd k id fun m => { m with data := [0, c], at_ := t.cycle + 1 }))))
            ∧ (∀ o c, m.data = [o, c] → let q := m.P 0 + 32 + 32 * m.sub
              (m.c0.len < q + 32 → goes (s.faultCmd k m 0x201 (m.c0.base + q)))
              ∧ (∀ e t, q + 32 ≤ m.c0.len → s.readSpace (dieOf k) k p m.c0.space (m.c0.base + q) 32 = (.ok e, t) →
                let en := stageEntryOf e
                let b := m.c1.base + en.dst + o
                let z := min (32 - b % 32) (en.len - o)
                let put (u : State) (v : List Byte) : State :=
                  let u := ((u.useBanks k (partsOf b z)).put (tileLoc k b) v).unitDone k id fun m =>
                    { m with sub := if en.len ≤ o + z then m.sub + 1 else m.sub, data := [if en.len ≤ o + z then 0 else o + z, c] }
                  if en.len ≤ o + z ∧ c ≤ m.sub + 1 then u.doneCmd k id else u
                (stageForm e = false → goes (t.faultCmd k m 0x300 (m.c0.base + q)))
                ∧ (stageForm e = true → en.dst + en.len ≤ m.c1.len → inTile (t.cc k).tilecap (m.c1.base + en.dst) en.len = true →
                  (en.zero = true → t.banksFree k b z = true → goes (put t (zeroBytes z)))
                  ∧ (en.zero = false → m.c0.len < m.P 1 + en.src + en.len → goes (t.faultCmd k m 0x201 (m.c0.base + m.P 1 + en.src)))
                  ∧ (∀ v u, en.zero = false → m.P 1 + en.src + en.len ≤ m.c0.len → t.banksFree k b z = true →
                      t.readSpace (dieOf k) k (t.partOf k) m.c0.space (m.c0.base + m.P 1 + en.src + o) z = (.ok v, u) → goes (put u v)))))))
        ∧ (m.op = 0xE5 →
          (∀ f x, m.sub = 0 → s.cmdLaunch m = some (f, x) →
            let out := collGroup (m.P 2) = 1 ∧ (m.member ≠ 0 ∨ (s.part x.part).domain.contains (s.ownPkg, x.part) = false)
            (out → goes (s.faultCmd k m 0x300 0)) ∧ (¬ out → goes (s.collJoin k m f x)))
          ∧ (m.sub = 1 → goes s) ∧ (m.sub = 2 → goes (s.collRead k m)) ∧ (m.sub = 3 → goes (s.collTry k id))
          ∧ (4 ≤ m.sub →
            (m.data.length ≤ m.prog → goes (s.collSettle k id))
            ∧ (∀ v, m.data[m.prog]? = some v →
              let w := collBytes (m.P 2)
              let a := m.c1.base + m.P 1 + m.prog * w
              (2 ^ 64 ≤ v → goes (s.faultCmd k m 0x3E0 (v - 2 ^ 64)))
              ∧ (v < 2 ^ 64 → m.held = [] → a % 64 + w ≤ 64 → s.banksFree k a w = true →
                  ∃ t, goes t ∧ t.mem = (s.put (tileLoc k a) (toBytes v w)).mem ∧ t.tags = (s.put (tileLoc k a) (toBytes v w)).tags))))))
    ∧ (m.op ≠ 0xE7 → s.completes k m = true →
        exec (.engineCompletion k id) s = .next ((s.finishToken k id (statusWord m.prog (m.fin.getD (0, 0)).1 (m.fin.getD (0, 0)).2) none).dropCmd k id))
    ∧ (m.op = 0xE7 → s.completes k m = true → exec (.engineCompletion k id) s = .next ((s.finishToken k id 0 (some {})).dropCmd k id))
    ∧ (m.op = 0xE1 → m.fin = none → seg < m.segs.length → m.at_ ≤ s.cycle → s.mayStart k m = true → m.prog ≠ 0 ∨ m.order < 2 →
        (m.seg seg = 0 → fifoOut (m.P 3) = true → m.needs seg = true → (s.core k).holder s.cycle (m.bankOf seg) = some 8 →
            exec (.segmentHandover k id seg) s = .next ((s.moveToken k (m.bankOf seg) (some (fifoReg (m.P 3)))).modCmd k id fun m => m.handSeg seg s.cycle))
        ∧ (m.seg seg = 1 → m.handedAt seg < (s.fifoStream k m).banked.getD (m.bankOf seg) 0 → exec (.segmentHandover k id seg) s = .next (s.modCmd k id fun m => m.setSeg seg 2))
        ∧ (m.seg seg = 2 → (s.fifoStream k m).bank ≠ some (m.bankOf seg) ∨ (s.fifoStream k m).done = true → s.bankPending k (fifoReg (m.P 3)) (m.bankOf seg) = false →
            exec (.segmentHandover k id seg) s = .next ((s.moveToken k (m.bankOf seg) (some 8)).modCmd k id fun m => m.setSeg seg (if fifoOut (m.P 3) then 3 else 0))))
    ∧ (m.op = 0xE6 → m.fin = none → m.at_ ≤ s.cycle → s.mayStart k m = true → (s.core k).firstTo m = true → m.order < 2 ∨ (s.core k).brokenBefore id = [] →
        (s.targetCore k (m.P 0) = none → exec (.messageDelivery k id) s = .next (s.refuseCmd k m 0x302))
        ∧ (∀ t, s.targetCore k (m.P 0) = some t → (s.core t).inbox = none → exec (.messageDelivery k id) s = .next (s.refuseCmd k m 0x301))
        ∧ (∀ t b h u, s.targetCore k (m.P 0) = some t → (s.core t).inbox = some b → b.slots.length < b.size → ((s.cmdLaunch m).map fun x => x.2.det).getD false = false → s.slotTaken b k id = false →
            (if m.held.isEmpty then ((upFrom 0 8).flatMap fun i => toBytes (m.P (i + 1)) 8).map BitVec.toNat else m.held) = h →
            (s.writeUnit t 2 (b.slotAt b.slots.length + (64 - h.length)) h = ([], u) → exec (.messageDelivery k id) s = .next
              ((u.placeMessage t b m (u.core k).lcore (senderKey ((m.owner.map Prod.fst).getD 0) m.member)).modCmd k id fun m => { m with prog := 1, fin := some (0, 0), held := [] }))
            ∧ (∀ c r, s.writeUnit t 2 (b.slotAt b.slots.length + (64 - h.length)) h = (c :: r, u) → ∃ v, exec (.messageDelivery k id) s = .next v ∧ v.mem = u.mem ∧ v.tags = u.tags
              ∧ ((v.core t).inbox.map Inbox.slots) = some b.slots)))
    ∧ (m.op = 0xE6 → m.fin = none → m.at_ ≤ s.cycle → s.mayStart k m = true → (s.core k).firstTo m = true → 2 ≤ m.order → (s.core k).brokenBefore id ≠ [] →
        exec (.messageDelivery k id) s = .next (s.breakCmd k m))
    ∧ (∀ b rest sender more h u, (((s.core k).engine 3).filter fun m => m.op == 0xE7 && m.fin.isNone) = m :: more → (s.core k).inbox = some b → b.slots = (sender, none) :: rest → m.at_ ≤ s.cycle → s.mayStart k m = true →
        s.readUnit k 1 (b.slotAt 0) 64 2 m.held = (.ok h, u) →
        (h.length < 64 ∨ u.banksFree k (m.P 0) 64 = false → exec (.messageTake k) s = .next (u.modCmd k id fun m => { m with held := h }))
        ∧ (64 ≤ h.length → u.banksFree k (m.P 0) 64 = true →
          let v := h.map fun x => BitVec.ofNat 8 x
          exec (.messageTake k) s = .next
            (((((u.useBanks k (partsOf (m.P 0) 64)).put (tileLoc k (m.P 0)) (toBytes (sender % 256 * 2 ^ 56 + (b.received + 1).toNat) 8 ++ toBytes 0 8 ++ v.drop 16)).finishToken k id 0
              (some { raw := BitVec.ofNat 128 (ofBytes (v.take 16)) })).dropCmd k id).modCore k fun c =>
                { c with inbox := some { b with head := (b.head + 1) % max 1 b.size, slots := rest, received := b.received + 1 } })))
    ∧ (m.op = 0xE9 → m.fin = none → m.at_ ≤ s.cycle → s.mayStart k m = true → (s.queue (s.partOf k) (bits (m.P 0) 47 44)).recs.length < 64 → m.order < 2 ∨ (s.core k).brokenBefore id = [] →
        let q := bits (m.P 0) 47 44
        let x := s.queue (s.partOf k) q
        exec (.recordEnqueue k id) s = .next
          ((((s.appendQueue (s.partOf k) q { words := m.words, rights := m.sub }).finishToken k id
            (statusWord ((x.done.toNat + x.recs.length + 1) % 2 ^ 32) 0 0) none)).dropCmd k id))
    ∧ (∀ f p v t u, ((s.core k).far.find? fun f => f.id == id) = some f → s.farReady k f = true → f.order < 2 → s.place (dieOf k) k (s.partOf k) f.space f.addr needAT = (.ok p, t) →
        t.mustPark k id f.space p = none → t.readPlace p f.bytes = (.ok v, u) → exec (.farAtomicCompletion k id) s = .next
          ((u.storePlace p (toBytes (atomicNew f.op .s f.bytes (ofBytes v) f.val) f.bytes)).farEnd k f (if f.op = 0xCB then setBits f.val 0 (8 * f.bytes) (ofBytes v) else ofBytes v)))
    ∧ (∀ c, (s.colls.find? fun c => c.launch == l && c.tag == tag && c.due == some s.cycle) = some c → c.joined = [(0, k, id)] → m.sub = 1 →
        exec (.collTimeout l tag) s = .next (s.collEnd c 5 0x384))
    ∧ (∀ x, s.launches.get? l = some x → (x.bar n).due = some s.cycle → (x.bar n).count ≠ 0 → (x.bar n).waiters = [k] →
        let t := s.modBar l n fun b => { b with count := 0, gen := b.gen + 1, waiters := [], due := none, rem := none }
        exec (.barrierTimeout l n) s = .next ((t.modCc k fun c => { c with gbar := none }).raise k 0x384 (BitVec.ofNat 64 ((x.bar n).count + n * 2 ^ 32)) (t.cc k).pc))

/-- R179 to R190: the steps of the power and temperature controllers. INTERVAL_START: for every string of every core of a partition the throttle level is the least that lets every quota meet its cap, one more on a hot
die; the quotas follow at that level, filler starts at 0, the first instalments of the budgets are there, and each layer takes its divisor at its boundary. TOKEN_INSTALMENT adds an eighth of each budget. INTERVAL_END leaves the
imbalance of the mean currents, the reactive terms of R180, and whether filler is unmet for want of tokens. POWER_CAP_ACTION suspends the lease first in order, lowers the scale by one where no lease is active, and below 2,100 W
raises it, up to 64, where the suspended lease resumes. LEASE_EXPIRY ends a lease whose time has run out. SENSOR_SAMPLE: the readings, the thresholds that the hottest stands above, the hot die between 115 and 112 °C, and the trip at 125 °C.
LEAKAGE_MEASUREMENT: the value and its bin. OPPOINT: a target that differs is taken, with its record. How much power the suspension of a lease saves is free (assumption 23).
Where the spec leaves a point open, the statement follows the model's own choice: assumptions 21 and 57. -/
def Obligations.PowerEvents : Prop :=
  ∀ (avg peak p die k n mA : Nat) (ms : List Meas) (rd : List Int) (le : Lease) (s : State),
    let x := (s.core k).str n
    let mean := ((ms.find? fun m => m.core == k && m.str == n).map Meas.mA).getD [0, 0, 0, 0]
    let home := s.homes.Nodup ∧ k ∈ s.homes ∧ n < 8
    let capped := if 16 < s.scale then s.scale - 1 else s.scale
    (∃ t, exec .intervalStart s = .next t ∧ (home →
      let y := (t.core k).str n
      let l := (upFrom 0 4).map ((s.core k).layerPick n)
      let b := 3072 * (match (s.core k).part with
        | some q => s.percent q
        | none => 70) * s.scale / 6400
      let c := 4096 * s.scale / 64
      y.base = leastLevel l x.react (b2n x.unmet) ∧ y.level = (if s.thermal.contains (dieOf k) then min 4 (y.base + 1) else y.base)
      ∧ y.quota = quotas l x.react y.level ∧ y.filler = [0, 0, 0, 0] ∧ y.starved = []
      ∧ y.heavyGrant = b ∧ y.heavy = b / 8 + b % 8 ∧ y.lightGrant = c ∧ y.light = c / 8 + c % 8 ∧ y.want = l.map (fun z => layerDiv z y.level)
      ∧ (∀ i < 4, y.div.getD i 0 = if x.next.getD i 0 = s.cycle + x.div.getD i 1 then y.want.getD i 1 else x.div.getD i 1) ∧ y.react = x.react))
    ∧ (∃ t, exec .tokenInstalment s = .next t ∧ (home →
      let y := (t.core k).str n
      y.heavy = x.heavy + x.heavyGrant / 8 ∧ y.light = x.light + x.lightGrant / 8 ∧ y.quota = x.quota ∧ y.filler = x.filler ∧ y.level = x.level))
    ∧ (∃ t, exec (.intervalEnd ms) s = .next t ∧ (home →
      let y := (t.core k).str n
      let short := (x.quota.zip x.filler).map fun q => q.1 - q.2
      y.imbalance = (if (s.core k).stringEmpty n then 0 else imbalanceOf mean) ∧ y.react = reactNext x.react mean ∧ y.unmet = (x.starved.any fun j => 0 < short.getD j 0)
      ∧ y.lastMet = (short.all fun v => v == 0)))
    ∧ (2400 < peak → avg ≤ 2200 → s.suspendOrder = [] → exec (.powerCapAction avg peak) s = .next { s with avgW := avg, overMs := 0, scale := capped })
    ∧ (2400 < peak → ∀ more, s.suspendOrder = p :: more → (s.part p).lease = some le → ∃ t, exec (.powerCapAction avg peak) s = .next t
      ∧ ((t.part p).lease.map Lease.capped) = some true ∧ p ∈ t.suspended ∧ t.avgW = avg)
    ∧ (peak ≤ 2400 → avg < 2100 → s.scale < 63 → exec (.powerCapAction avg peak) s = .next { s with avgW := avg, overMs := 0, scale := s.scale + 1 })
    ∧ (peak ≤ 2400 → avg < 2100 → 63 ≤ s.scale → s.suspended = [p] → (s.part p).lease = some le → ∃ t, exec (.powerCapAction avg peak) s = .next t
      ∧ (t.part p).lease = some { le with capped := false } ∧ t.suspended = [] ∧ t.scale = 64)
    ∧ (peak ≤ 2400 → 2100 ≤ avg → avg ≤ 2200 → exec (.powerCapAction avg peak) s = .next { s with avgW := avg, overMs := 0 })
    ∧ ((s.part p).lease = some le → le.left = 0 → exec (.leaseExpiry p) s = .next
      ((({ s with suspended := s.suspended.filter (· != p) } : State).modPart p fun x => { x with lease := none }).post { part := p, type := 0x09, arg0 := 1, arg1 := 0 }))
    ∧ (∃ t, exec (.sensorSample die rd) s = .next t ∧ (∀ i < 48, ∀ r, rd[i]? = some r → t.sensors.get? (die * 48 + i) = some r)
      ∧ (∀ p ∈ thresholds, bit (t.above.getD die 0) p.1 = standsAbove (bit (s.above.getD die 0) p.1) p.2 (t.hottest die))
      ∧ t.thermal.contains die = (if s.thermal.contains die then decide (112 * 16 ≤ t.hottest die) else decide (115 * 16 ≤ t.hottest die))
      ∧ t.tripped = (s.tripped || decide (125 * 16 ≤ t.hottest die)) ∧ (125 * 16 ≤ t.hottest die → s.tripped = false → .dump 0x3C0 die ∈ t.todo))
    ∧ (x.lastFire + 2000 ≤ s.cycle →
      let b := match s.opTable k n with
        | some o => min 7 (o.thresholds.filter fun t => t ≤ mA).length
        | none => x.leakBin
      let t := s.modCore k fun c => { c with strings := c.strings.set n { x with leakage := mA, leakBin := b, measured := true } }
      exec (.leakageMeasurement k n mA) s = .next (if b = x.leakBin then t else { t with todo := .lookup k n :: t.todo }))
    ∧ (∀ o, s.opTable k n = some o →
      let v := o.mV.getD (x.tempBin * 8 + x.leakBin) x.target
      (v = x.target → exec (.oppoint k n) s = .next s)
      ∧ (v ≠ x.target → exec (.oppoint k n) s = .next
        ((s.modCore k fun c => { c with strings := c.strings.set n { x with mV := x.volt s.cycle, target := v, slewAt := s.cycle } }).postStr k n 0x01
          (v % 2 ^ 16 + x.target % 2 ^ 16 * 2 ^ 16 + x.tempBin * 2 ^ 32 + x.leakBin * 2 ^ 40) x.leakage)))

/-- R240 to R248, R267, R382 to R385: the steps of a queue's head record. RECORD_CHECK: a record of wrong format is refused with 0x385, one without a region that asks for rights which it may have becomes a launch, and one that is checked enters Placing once
its dependences are met. MEMBER_PLACEMENT: nothing while a co-scheduled record waits for its own victims; with the first member the loader's checks and the gang's edges; every member that finds a core takes its place, all at once with COSCHED = 1, with banks
and control core, and the queue runs once all have one; without a place, aborts, pre-emption or a refusal; a record that could never fit is refused with 0x381. STAGING_FILL: entries that zero are written with the banks in use, and the
member is filled; a fault fails the launch. MEMBER_START: the control core, unless LCMAP has turned it Off, runs from the record's entry with its capabilities, and the region starts with its initial records due. LAUNCH_COMPLETION: the regions end, and
once every store is performed the launch is gone and DONE is one higher. PREEMPTION: the victims are marked, with every member of theirs frozen. RESTORE: every member that must resume together is restored, its region at the new place and its control core at the saved PC; one whose
image may not be restored fails its launch with 0x101.
The statement names the model's own functions for the choice of a place, of victims and for the reading of an image.
Where the spec leaves a point open, the statement follows the model's own choice: assumptions 11, 19, 27, 28, 30 and 60. -/
def Obligations.LaunchEvents : Prop :=
  ∀ (p q l m : Nat) (r : QRec) (rest : List QRec) (x : Launch) (z : Member) (s : State),
    let y := s.queue p q
    let stopped (t : State) (cause : Nat) : Prop := (t.queue p q).st = .stopped ∧ (t.queue p q).cause = cause ∧ (t.queue p q).launch = none ∧ (t.queue p q).done = y.done
    (y.st = .waiting → y.recs = r :: rest →
      (y.checked = true → s.depsMet p r.words = true → exec (.recordCheck p q) s = .next (s.modQueue p q fun y => { y with st := .placing }))
      ∧ (y.checked = false → recFormat r.words = false → ∃ t, exec (.recordCheck p q) s = .next t ∧ stopped t 0x385)
      ∧ (let n : Launch := { part := p, queue := q, words := r.words }
         y.checked = false → recFormat r.words = true → n.rights &&& (s.part p).rights &&& r.rights = n.rights → n.fab = false → exec (.recordCheck p q) s = .next
          (({ s with nextId := s.nextId + 1, launches := s.launches.set (s.nextId + 1) n } : State).modQueue p q fun z => { z with checked := true, launch := some (s.nextId + 1) }))
      ∧ (∀ c t, y.checked = false → s.checkRecord p r = (.error c, t) → exec (.recordCheck p q) s = .next (t.refuseRecord p q c))
      ∧ (∀ h bs t, y.checked = false → s.checkRecord p r = (.ok (h, bs), t) → exec (.recordCheck p q) s = .next
          (({ t with nextId := t.nextId + 1, launches := t.launches.set (t.nextId + 1) { part := p, queue := q, words := r.words, hdr := h, blocks := bs } } : State).modQueue p q fun z =>
            { z with checked := true, launch := some (t.nextId + 1) })))
    ∧ (y.st = .placing → y.launch = some l → s.launches.get? l = some x → x.failing = none → x.members.length < x.gang →
      (s.awaits x = true → exec (.memberPlacement p q) s = .next s)
      ∧ (s.awaits x = false →
        (x.members = [] → s.neverFits x = true → ∃ t, exec (.memberPlacement p q) s = .next t ∧ stopped t 0x381)
        ∧ (x.members ≠ [] ∨ s.neverFits x = false →
          (s.placeNow l x = none → exec (.memberPlacement p q) s = .next (s.noPlace p q l x))
          ∧ (∀ t, x.members ≠ [] → s.placeNow l x = some t → exec (.memberPlacement p q) s = .next (t.placedAll p q l))
          ∧ (∀ r t, x.members = [] → (s.placeNow l x).isSome = true → s.loadLaunch p x = (r, t) →
            (∀ c, r = .error c → exec (.memberPlacement p q) s = .next (t.refuseRecord p q c))
            ∧ (∀ v u w, r = .ok v → (t.modLaunch l fun _ => v).placeNow l v = some u → u.launches.get? l = some w → ∀ es, u.gangEdges w = some es →
                exec (.memberPlacement p q) s = .next ((u.modLaunch l fun z => { z with edges := es }).placedAll p q l)))
          ∧ (∀ sp, x.members ≠ [] → x.gang = x.members.length + 1 → s.spot x 0 = some sp → ∃ t, exec (.memberPlacement p q) s = .next t ∧ (t.queue p q).st = .running
            ∧ t.launches.get? l = some { x with members := x.members ++ [{ core := sp.core, region := if x.fab then some sp.reg else none, bank := sp.bank, placed := true, staged := s.nextId }] }
            ∧ (∀ b, sp.bank ≤ b → b < sp.bank + x.tbanks → (t.core sp.core).bankOwner.get? b = some l)
            ∧ (x.ctrl = true → (t.cc sp.core).member = some (l, x.members.length))
            ∧ (x.fab = true → t.region? sp.core sp.reg = some (regionFor x l x.members.length sp)))
          ∧ (∀ sp, x.members ≠ [] → x.cosched = false → x.members.length + 1 < x.gang → s.spot x 0 = some sp → ∃ t y, exec (.memberPlacement p q) s = .next t ∧ t.launches.get? l = some y
            ∧ x.members ++ [{ core := sp.core, region := if x.fab then some sp.reg else none, bank := sp.bank, placed := true, staged := s.nextId }] <+: y.members
            ∧ y.members.length ≤ x.gang))))
    ∧ (s.launches.get? l = some x → x.failing = none → x.members[m]? = some z → z.placed = true →
      (z.filled = false → s.stageAhead z.core z.staged = false → (stageBanks z.bank x.stage).any (s.bankBusy z.core) = false →
        let u := s.useBanks z.core (stageBanks z.bank x.stage)
        let filled (t : State) := t.modLaunch l fun x => { x with members := modAt x.members m fun y => { y with filled := true } }
        ((∀ e ∈ x.stage, e.zero = true) → exec (.stagingFill l m) s = .next
          (filled (x.stage.foldl (fun (t : State) e => t.put (tileLoc z.core (z.bank * 2 ^ 17 + e.dst)) (zeroBytes e.len)) u)))
        ∧ (∀ t, u.fillEntries z.core x.part x.image z.bank x.stage = (.ok (), t) → exec (.stagingFill l m) s = .next (filled t))
        ∧ (∀ c t, u.fillEntries z.core x.part x.image z.bank x.stage = (.error c, t) → exec (.stagingFill l m) s = .next ((t.blame l z.core).failLaunch l c)))
      ∧ (z.filled = true → z.started = false → z.frozen = false → ∃ t, exec (.memberStart l m) s = .next t
        ∧ ((t.launches.get? l).bind fun x => x.members[m]?) = some { z with started := true }
        ∧ ((t.launches.get? l).bind Launch.startedAt) = some (x.startedAt.getD s.cycle)
        ∧ (x.ctrl = true → (s.cc z.core).run ≠ .off → (t.cc z.core).run = .running ∧ (t.cc z.core).pc = BitVec.ofNat 32 x.entry ∧ (t.cc z.core).regs.bank = startBank (startArg x m)
          ∧ (t.cc z.core).codecap = x.codecap ∧ (t.cc z.core).tilecap = x.tilecap z.bank ∧ (t.cc z.core).member = some (l, m))
        ∧ (∀ rn g, z.region = some rn → s.region? z.core rn = some g → t.region? z.core rn = some { g with started := true, due := x.nthr })))
    ∧ (y.launch = some l → s.launches.get? l = some x → s.removing p = false → x.abort = none →
      (y.st = .running ∧ x.failing = none ∧ x.preempted = false ∧ s.complete l x = true) ∨ ((y.st = .running ∨ y.st = .placing) ∧ x.failing.isSome = true ∧ s.settled l x = true) →
      let e := s.endRegions l x
      (e.storesDone l x = false → exec (.launchCompletion p q) s = .next e)
      ∧ (e.storesDone l x = true → exec (.launchCompletion p q) s = .next (e.retire p q l x))
      ∧ ((x.members.all fun z => z.region.isNone) = true → ((s.retire p q l x).queue p q).done = y.done + 1 ∧ ((s.retire p q l x).queue p q).recs = y.recs.drop 1
        ∧ ((s.launches.map Prod.fst).Nodup → (s.retire p q l x).launches.get? l = none)))
    ∧ (y.st = .placing → y.launch = some l → s.launches.get? l = some x → s.freezing x = false → s.placeNow l x = none → ∀ v w, v ≠ l → s.launches.get? v = some w →
      s.victimsFor l x = some [v] → ∃ t, exec (.preemption p q) s = .next t ∧ ((t.launches.get? v).map Launch.preempted) = some true
        ∧ (((t.launches.get? v).map Launch.members).getD []).all (fun z => z.frozen) = true ∧ ((t.launches.get? l).map Launch.preempting) = some true)
    ∧ (s.launches.get? l = some x → x.preempted = true → x.failing = none → (x.members.all fun z => !z.frozen || z.image.isSome) = true →
      ∀ n i sp, x.members[m]? = some z → z.image = some n → s.images.get? n = some i →
        let ms := if x.cosched then (upFrom 0 x.members.length).filter fun j => ((x.members[j]?).bind Member.image).isSome else [m]
        (s.restoreRoom l ms = false → exec (.restore l m) s = .next s)
        ∧ (s.restoreRoom l ms = true → ∀ t, s.restoreAll l ms = some t → exec (.restore l m) s = .next t)
        ∧ (s.restoreRoom l ms = true → s.restoreAll l ms = none → exec (.restore l m) s = .next ((s.blame l z.core).failLaunch l 0x101))
        ∧ (i.err = true ∨ s.imageOk i = false → sp.core = z.core → s.restoreMember l m x z n i sp = none)
        ∧ (∀ t, s.restoreMember l m x z n i sp = some t →
            ((t.launches.get? l).bind fun x => x.members[m]?) = some { z with core := sp.core, region := if i.region.isSome then some sp.reg else none, frozen := false, image := none }
            ∧ (t.images = s.images.del n) ∧ (s.launches.all fun y => y.1 == l || (t.launches.get? y.1 == s.launches.get? y.1)) = true
            ∧ (∀ c, i.cc = some c → (t.cc sp.core).pc = c.pc ∧ (t.cc sp.core).run = c.run ∧ (t.cc sp.core).regs = c.regs ∧ (t.cc sp.core).member = some (l, m)))
        ∧ (∀ c, x.cosched = false → i.region = none → s.restoreSpot x m z = some sp → sp.core = z.core → i.cc = some c → i.err = false → s.imageOk i = true →
            ∃ t, exec (.restore l m) s = .next t ∧ ((t.launches.get? l).bind fun x => x.members[m]?) = some { z with core := sp.core, region := none, frozen := false, image := none }
              ∧ (t.cc sp.core).pc = c.pc ∧ (t.cc sp.core).run = c.run ∧ (t.cc sp.core).regs = c.regs))

/-- R117, R239, R240, R248, R435: what the retiring of a launch leaves: DONE one higher, the head gone, the queue Waiting or Empty, and no launch (R239, R248); latch E2 set in every control core of the partition
(R117, R240); and the queue's vector sent (R435). -/
def Obligations.RetiringAdvancesDone : Prop :=
  ∀ (p q : Nat) (s : State),
    let t := s.advanceDone p q
    (t.queue p q).done = (s.queue p q).done + 1 ∧ (t.queue p q).recs = (s.queue p q).recs.drop 1
    ∧ (t.queue p q).launch = none ∧ (t.queue p q).checked = false ∧ (t.queue p q).cause = 0
    ∧ (t.queue p q).st = (if (s.queue p q).recs.length ≤ 1 then .empty else .waiting)
    ∧ (∀ i, i ≠ q → t.queue p i = s.queue p i) ∧ (∀ o, o ≠ p → t.part o = s.part o)
    ∧ t.msix = s.msix ++ [(p, q + 1)] ∧ t.mem = s.mem ∧ t.tags = s.tags
    ∧ (∀ k ∈ (s.part p).cores, (s.cc k).run ≠ .off → (t.cc k).latches.getLsbD 2 = true)

/-- R376 to R379, R384, R387, R388, R392: the steps of faults: DRAIN asks for the freeze; FREEZE_WAVE halts the region, rewinding what its streams have read ahead, or ends the control core's
commands; FREEZE_END empties the region with or without an image, posts the fault of a drain and kills its launch, or saves a
pre-empted member once its control core has settled; GANG_ABORT fails the launch, tells the host and asks every member to freeze.
Where the spec leaves a point open, the statement follows the model's own choice: assumptions 26, 30 and 61. -/
def Obligations.FaultEvents : Prop :=
  ∀ (k rn l m : Nat) (cause : BitVec 10) (r : Region) (x : Launch) (s : State), s.region? k rn = some r →
    (∀ t a b c p i u, r.drainAt = some t → r.unresolved = (a, b, c, p, i) :: u → t ≤ s.cycle → (t = s.cycle → s.resolving k r = false) →
        exec (.drain k rn) s = .next ((s.requestFreeze k rn (.drain c p i)).modRegion k rn fun r => { r with drainAt := none }))
    ∧ exec (.freezeWave k 8) s = .next (s.freezeCc k)
    ∧ (∀ w, rn ≠ 8 → r.freeze = .requested w → exec (.freezeWave k rn) s = .next
        ((((s.endStops k rn).modRegion k rn fun r => { r with freeze := .halting w, stopped := false })).modCore k fun c => { c with
          nodes := c.nodes.map fun p => if r.holdsNode p.1 then (p.1, { s0 := p.2.s0.rewind, s1 := p.2.s1.rewind }) else p }))
    ∧ (rn ≠ 8 → s.launches.get? r.launch = some x → (s.core k).halted r = true → s.edgesQuiet r = true →
        (r.freeze = .halting .kill ∨ r.freeze = .halting .reset → exec (.freezeEnd k rn) s = .next (s.emptyRegion k rn))
        ∧ (∀ e, r.freeze = .halting (.abort e) →
            exec (.freezeEnd k rn) s = .next ((s.saveImage k r.launch r.member (some (rn, r)) (s.imageArgs r.launch r.member x false e)).emptyRegion k rn))
        ∧ (∀ c p i, r.freeze = .halting (.drain c p i) →
            let u := s.saveImage k r.launch r.member (some (rn, r)) (s.imageArgs r.launch r.member x false false)
            let v := (u.regionFault k rn c (faultArg 0 c 4 0 0 0 0 0 rn + drainPlace p * 2 ^ 3) i).emptyRegion k rn
            exec (.freezeEnd k rn) s = .next ((v.blame r.launch k).kill r.launch c .kill))
        ∧ (r.freeze = .halting .preempt → (x.ctrl = false ∨ (s.core k).ccSettled = true → exec (.freezeEnd k rn) s = .next (s.savePreempted k r.launch r.member (some (rn, r))))
          ∧ (x.ctrl = true → (s.core k).ccSettled = false → exec (.freezeEnd k rn) s = .next s)))
    ∧ (s.launches.get? l = some x → x.failing = none → ∀ y, x.members[m]? = some y →
        let t := ((s.stopClocks l).blame l y.core).modLaunch l fun x => { x with
          failing := some cause.toNat, preempted := false, abort := some (cause.toNat, m, s.cycle + usCycles (s.part x.part).drain) }
        let u := t.postCore y.core 0x2A (cause.toNat + 2 * 2 ^ 12 + dieOf y.core % 4 * 2 ^ 16) 0
        exec (.gangAbort l m cause) s = .next (((upFrom 0 x.members.length).zip x.members).foldl (fun (t : State) p => t.abortMember l p.1 x p.2 m cause.toNat (s.core y.core).lcore) u))

/-- R358, R389, R390, R411, R404, R405, R394, R393, R435: errors and debug: UNCORRECTABLE_ERROR counts on its die and marks the unit, reports it or begins a gang abort or the fatal dump, and the second corrected error of an
atom within 24 h, or a write-verify that fails, has it remapped while its table has room, beyond which the verify is an uncorrectable error; FATAL_DUMP freezes every region, then writes the dump, resets the package and holds the dump; REGION_STOP answers every request; SCAN_COMPLETE gives the expected signature for a fabric
without faults, and for any other one that is free in this model (assumption 6), with the core quarantined where it differs; REINITIALISATION_END clears the fabric; CRITICAL_PATH_STEP
ends a walk whose region has stopped; IRQ_TIMER sends vector 0.
Where the spec leaves a point open, the statement follows the model's own choice: assumptions 25, 35, 45 and 56. -/
def Obligations.ErrorAndDebugEvents : Prop :=
  ∀ (k rn a die tier f : Nat) (cause : BitVec 10) (r : Region) (s : State),
    exec (.uncorrectableError (.corrected die 0)) s = .next (s.countError die 3)
    ∧ (s.bad.contains (tileLoc k a / 16) = false →
        exec (.uncorrectableError (.tileUnit k a)) s = .next { s.countError (dieOf k) 0 with bad := tileLoc k a / 16 :: s.bad })
    ∧ exec (.uncorrectableError (.slice k rn)) s = .next ((s.countError (dieOf k) 0).abortHolder k rn 0x3E1)
    ∧ exec (.uncorrectableError (.cardStore k rn)) s = .next ((s.countError (dieOf k) 0).abortHolder k rn 0x3E2)
    ∧ (9 ≤ rn → exec (.uncorrectableError (.fabric k rn)) s = .next { s.countError (dieOf k) 0 with todo := .dump 0x3E3 (dieOf k) :: s.todo })
    ∧ (∀ t, s.atomErrs.get? (a / 32 * 32) = some t → s.cycle ≤ t + usCycles (86400 * 1000000) → exec (.uncorrectableError (.correctedAtom die a)) s = .next
        (let u := s.countError die 1
         { u with atomErrs := u.atomErrs.del (a / 32 * 32), todo := .remap (a / 32 * 32) :: u.todo }))
    ∧ (s.bad.contains (mediaLoc (tier % 2) a / 16) = false → (tier % 2 = 0 → s.remaps.contains (0, a / 32 * 32) = false) → exec (.uncorrectableError (.media k tier a)) s = .next
        ((({ s.countError (dieOf k) 0 with bad := mediaLoc (tier % 2) a / 16 :: s.bad } : State).mcheck k 0x3E0 1 a).modCc k fun c => c.hold 0x3E0 (BitVec.ofNat 64 a) s.cycle))
    ∧ (s.remaps.contains (0, a / 32 * 32) = false → exec (.uncorrectableError (.verifyAtom k a)) s = .next
        (if s.remapFree (a / 32 * 32) then { s with todo := .remap (a / 32 * 32) :: s.todo }
         else s.mediaError k (a / 32 * 32) [mediaLoc 0 (a / 32 * 32) / 16, mediaLoc 0 (a / 32 * 32) / 16 + 1]))
    ∧ (let dumped (c d : Nat) : State := { (s.writeDump c d).packageReset with dumpHeld := true }
       (s.dumping = none → (s.cores.all fun c => c.2.regions.isEmpty) = true →
          exec (.fatalDump cause die) s = .next (if (dumped cause.toNat die).tripped then dumped cause.toNat die else (dumped cause.toNat die).bootAgain))
       ∧ (s.dumping = none → (s.cores.all fun c => c.2.regions.isEmpty) = false →
          exec (.fatalDump cause die) s = .next { s.freezeAll with dumping := some (cause.toNat, die, s.cycle + usCycles 2) })
       ∧ (∀ c d t, s.dumping = some (c, d, t) → t ≤ s.cycle ∨ s.allHalted = true →
          exec (.fatalDump cause die) s = .next (if (dumped c d).tripped then dumped c d else (dumped c d).bootAgain)))
    ∧ (s.region? k rn = some r → r.stopReqs ≠ [] → r.frozen = false → r.freeze = .none → (s.core k).boundary rn r = true →
        let t := (s.modCore k fun c => { c with nodes := c.nodes.map fun p => if r.holdsNode p.1 then (p.1, { s0 := p.2.s0.rewind, s1 := p.2.s1.rewind }) else p }).modRegion k rn fun r =>
          { r with stopped := true, stopReqs := [], stopToks := [] }
        exec (.regionStop k rn) s = .next (r.stopToks.foldl (fun (t : State) x => t.writeToken k x.1 x.2 0 none)
          (r.stopReqs.foldl (fun (t : State) n => t.traceRegion k rn 0x05 (n % 16) r.pass) t)))
    ∧ (∀ x, (s.core k).scan = some x → x.finish ≤ s.cycle →
        let ended (n : Nat) := (s.writeToken k x.tok x.dst (scanToken 0 x.runUs n) none).reinitialise k
        (Config.fabricFaulty k = false → exec (.scanComplete k) s = .next (ended x.expected.toNat))
        ∧ (Config.fabricFaulty k = true → ∀ n, n = (Config.scanSignature x.pattern k).toNat → n ≠ x.expected.toNat → (ended n).launches.get? x.launch ≠ none →
          exec (.scanComplete k) s = .next (((ended n).modCore k fun c => { c with quarantine := some x.launch }).postCore k 0x2D (n + x.pattern % 2 ^ 16 * 2 ^ 32) x.expected.toNat)))
    ∧ (∀ t, (s.core k).reinit = some t → t ≤ s.cycle → exec (.reinitialisationEnd k) s = .next (s.modCore k fun c => { c.cleanFabric with reinit := none }))
    ∧ (∀ w, (s.core k).walks = [w] → w.at_ ≤ s.cycle → s.region? k w.region = some r → r.launch = w.launch → r.stopped = true →
        let t := s.modCore k fun c => { c with walks := [] }
        exec (.criticalPathStep k) s = .next (((t.crit k { w with cver := r.cver.toNat } (t.walkFiring k w) 6)).modCore k fun c => { c with walks := c.walks ++ [] }))
    ∧ (∀ t u, (s.part f).unread = t :: u → bit (s.part f).irqctl 0 = true → t + bits (s.part f).irqctl 31 16 * 1000 = s.cycle →
        exec (.irqTimer f) s = .next { s with msix := s.msix ++ [(f, 0)] })

/-! ### The steps of spec/95: links, translation, the host -/

/-- R413, R414, R416 to R419, R422, R426: the steps of links and the domain: a value arrives on its edge; the receiver of a group, or of a port in service, answers a data flit that fails its CRC, a repeated one and one out of
sequence, and accepts the one that it expects; acknowledges move the sender's buffer; a lane map is echoed by the sender of the other direction; timers answer and resend, no acknowledge during a remap; a lane map switches, and the
sender begins its buffer again; a port counts its bad flits, retrains past the threshold, and returns; a package is fenced, and its flits and its route are dropped; a group without a free spare retires, its flows and its unacknowledged window going to the next, and carries no data from then on; the domain is built anew, without the old timeouts, with a port and at most 4 hops to each package.
The acceptance of a flit leaves the next number expected and the payload passed on, and after 32 flits an acknowledge names the next number; the failed copy of another flit stays.
Where the spec leaves a point open, the statement follows the model's own choice: assumptions 39 and 53. -/
def Obligations.LinkEvents : Prop :=
  ∀ (l e g n pkg own : Nat) (raw : BitVec 256) (s : State),
    let x := s.group g
    let q := flitSeq raw
    let live := g < 48 ∨ (s.ports.getD (g - 48) {}).retraining = false
    (∀ y d t v c rest, s.launches.get? l = some y → y.edges[e]? = some d → d.flying = (t, v, c) :: rest → t ≤ s.cycle →
        exec (.edgeValueArrival l e) s = .next (s.modEdge l e fun d => { d with flying := rest, queue := d.queue ++ [(v, c)], noted := d.noted ++ [(s.cycle, d.sent.headD 0)], sent := d.sent.drop 1 }))
    ∧ (g < 48 → flitGood raw = false → x.retired = false →
        (2 ≤ flitType raw ∧ flitType raw ≤ 4 → exec (.flitReceive g raw) s = .next (s.modGroup g fun y => { y with crcNew := sat16 y.crcNew }))
        ∧ (¬ (2 ≤ flitType raw ∧ flitType raw ≤ 4) → x.discarding = false → x.remap = none → exec (.flitReceive g raw) s = .next
            (s.modGroup g fun y => { y with crcNew := sat16 y.crcNew, discarding := true, failed := some raw, answer := (y.owe (3, y.eseq)).answer })))
    ∧ (48 ≤ g → flitGood raw = false → live → ∃ t, exec (.flitReceive g raw) s = .next t ∧
        let c := (s.ports.getD (g - 48) {}).crcerr + 1
        (c ≤ Config.portThreshold → t.ports.getD (g - 48) {} = { crcerr := c, retraining := false })
        ∧ (Config.portThreshold < c → t.ports.getD (g - 48) {} = { crcerr := 0, retraining := true }))
    ∧ (48 ≤ g → ¬ live → exec (.flitReceive g raw) s = .next s)
    ∧ (g < 48 → x.retired = true → flitGood raw = false ∨ flitType raw = 1 → exec (.flitReceive g raw) s = .next s)
    ∧ (live → flitGood raw = true →
        (flitType raw = 1 → x.retired = false → x.remap = none →
          (q = x.eseq → exec (.flitReceive g raw) s = .next (s.acceptFlit g raw))
          ∧ (q ≠ x.eseq → (x.eseq - q).toNat ≤ 128 → exec (.flitReceive g raw) s = .next (s.modGroup g fun y => y.owe (2, y.eseq)))
          ∧ (128 < (x.eseq - q).toNat → x.discarding = false → exec (.flitReceive g raw) s = .next (s.modGroup g fun y => { y with discarding := true, answer := (y.owe (3, y.eseq)).answer })))
        ∧ (flitType raw = 2 → exec (.flitReceive g raw) s = .next (s.ackFlit (otherWay g) (BitVec.ofNat 8 (bits raw.toNat 39 32)) false))
        ∧ (flitType raw = 3 → exec (.flitReceive g raw) s = .next (s.ackFlit (otherWay g) (BitVec.ofNat 8 (bits raw.toNat 39 32)) true))
        ∧ (flitType raw = 4 → ∃ t, exec (.flitReceive g raw) s = .next t
          ∧ ((s.group (otherWay g)).remap.isSome = true → spmapWord (s.group (otherWay g)).newMap = bits raw.toNat 55 32 → (t.group (otherWay g)).echoDue = true)
          ∧ (x.remap.isSome = true → spmapWord x.newMap = bits raw.toNat 55 32 → (t.group g).echoed = true)))
    ∧ (x.sinceAck ≠ 0 ∨ x.buffer ≠ [] →
        (x.remap = none → exec (.acknowledgeTimer g) s = .next (s.modGroup g fun y => { y with answer := if y.answer.isEmpty then [(2, y.eseq)] else y.answer, sinceAck := 0 }))
        ∧ (x.remap.isSome = true → exec (.acknowledgeTimer g) s = .next (s.after 64 (.ev (.acknowledgeTimer g)))))
    ∧ (x.remap.isSome = true → x.echoed = false →
        exec (.laneMapResend g) s = .next ((s.modGroup g fun y => y.owe (4, 0)).after 32 (.ev (.laneMapResend g))))
    ∧ (∀ lane sp, x.remap = some (lane, sp) → exec (.laneMapSwitch g) s = .next
        (((s.modGroup g fun y => { y with spmap := y.spmap.set sp lane, remap := none, echoed := false, latched := y.latched.filter (· != lane), replaysNew := sat16 y.replaysNew, answer := [], sent := 0
                                          discarding := false, echoDue := false }).postRepair g lane sp false).startRemap g))
    ∧ ((s.ports.getD n {}).retraining = false → exec (.portRetrain n) s = .next
        (({ s with ports := s.ports.set n { s.ports.getD n {} with retraining := true, crcerr := 0 } } : State).after (usCycles 10) (.retrained n)))
    ∧ exec (.portRetrainEnd n) s = .next { s with ports := s.ports.mod n fun x => { x with retraining := false } }
    ∧ exec (.domainTimeout pkg) s = .next (s.fence pkg 1)
    ∧ (s.fenced.contains pkg = false → let t := s.fence pkg 1
        t.fenced = insertNum s.fenced pkg ∧ (t.routes.all fun r => r.1 != pkg) = true
        ∧ (∀ h, 48 ≤ h → h < 64 → ((t.group h).waiting.all fun p => !payloadTo pkg p) = true ∧ ((t.group h).buffer.all fun f => !payloadTo pkg f.body) = true
          ∧ (t.group h).buffer.map Flit.seq = (s.group h).buffer.map Flit.seq))
    ∧ (∀ lane, x.remap = none → x.freeSpare = none → let t := s.retireGroup g lane
        (t.group g).retired = true ∧ (t.group g).buffer = [] ∧ (t.group g).waiting = []
        ∧ (∀ h, (s.modGroup g fun y => { y with retired := true }).nextGroup g = some h → h ≠ g → (t.group h).waiting = x.window ++ (s.group h).waiting ∧ (t.group h).buffer = (s.group h).buffer)
        ∧ ((s.modGroup g fun y => { y with retired := true }).nextGroup g = none → .dump 0x3E3 (g / 16 % 4) ∈ t.todo))
    ∧ (∃ t, exec (.domainRebuild own) s = .next t ∧ t.fenced = [] ∧ t.ownPkg = own % 64 ∧ t.flows = [] ∧ t.groups = s.groups ∧ (t.timers.all fun u => !u.2.isSilent) = true
        ∧ ∀ p < 64, ∃ r, t.routes.get? p = some r ∧ r.1 < 16 ∧ 1 ≤ r.2 ∧ r.2 ≤ 4)
    ∧ (let y := (s.acceptFlit g raw).group g
       (x.failed = none → y.eseq = x.eseq + 1 ∧ y.discarding = false ∧ y.passed = x.passed + 1 ∧ y.arrived = x.arrived ++ [raw.extractLsb' 32 224] ∧ y.crcNew = x.crcNew ∧ y.spmap = x.spmap ∧ y.buffer = x.buffer
        ∧ (31 ≤ x.sinceAck → y.sinceAck = 0 ∧ (2, x.eseq + 1) ∈ y.answer) ∧ (x.sinceAck < 31 → y.sinceAck = x.sinceAck + 1 ∧ y.answer = x.answer)
        ∧ (∀ h, h ≠ g → (s.acceptFlit g raw).group h = s.group h))
       ∧ (∀ w, x.failed = some w → flitSeq w ≠ q → y.failed = some w ∧ y.eseq = x.eseq + 1))

/-- R349 to R351, R354 to R358: the steps of translation and tiers: a cache that has been asked removes what the range covers and answers; the last answer completes; a package that stays silent is fenced; the
tracker halves its stack's counts; a copied block switches; parked accesses are performed; an atom is remapped while the table has room.
Where the spec leaves a point open, the statement follows the model's own choice: assumptions 42, 43, 44 and 45. -/
def Obligations.TranslationEvents : Prop :=
  ∀ (p id cache pkg stack blk a : Nat) (x : Shoot) (s : State),
    (s.shoot? p id = some x → x.caches.contains cache = true → cache < 12 → s.shootRuns p id = true → s.outstanding p = false → x.pkgs ≠ [] →
        exec (.shootdownAck p id cache) s = .next
          (({ s with xcache := s.xcache.filter fun e => !(e.cache == cache && x.removes p e) } : State).modShoot p id fun y => { y with caches := removeNum y.caches cache, pkgs := y.pkgs }))
    ∧ (s.shoot? p id = some x → x.caches = [] → x.pkgs = [] → exec (.shootdownComplete p id) s = .next
        ((s.endShoot p x.addr (shootWord (if x.fenced.isEmpty then 0 else 1) x.fenced.length)).modPart p fun y => { y with shoots := y.shoots.filter fun z => z.id != id }))
    ∧ (s.shoot? p id = some x → x.pkgs.contains pkg = true → x.caches ≠ [] →
        let t := s.modShoot p id fun y => { y with pkgs := removeNum y.pkgs pkg, fenced := insertNum y.fenced pkg }
        let u := (t.fence pkg 0).post { part := p, type := 0x26, arg0 := pkg % 64 + x.req * 2 ^ 16, arg1 := x.va }
        exec (.shootdownTimeout p id pkg) s = .next (if ((u.shoot? p id).map Shoot.answered).getD false then { u with todo := .ev (.shootdownComplete p id) :: u.todo } else u))
    ∧ (s.hotBlocks stack = [] → s.moves = [] →
        exec (.trackerPeriod stack) s = .next { s with heat := s.heat.map fun h => if h.1 % 8 = stack then (h.1, h.2 / 2) else h })
    ∧ (∀ c, s.copyOf blk = some c → s.moves = [] → (s.parked.any fun x => x.blk == blk) = false →
        let w := s.indirEntry blk
        let t := s.copyFrame (mediaLoc (b2n (entTier w)) (entFrame w * 2 ^ 16)) (mediaLoc (b2n c.tier) (c.frame * 2 ^ 16))
        exec (.blockSwitch blk) s = .next
          ({ t with indir := t.indir.set blk (mkEnt c.tier false (entPin w) c.frame), copies := t.copies.filter fun x => x.blk != blk } : State).draw.2)
    ∧ (entMig (s.indirEntry blk) = false →
        exec (.parkedReplay blk) s = .next ((s.parked.filter fun x => x.blk == blk).foldl State.replayOne { s with parked := s.parked.filter fun x => x.blk != blk }))
    ∧ (let b := a / 32 * 32
       let die := frameStack (b / 2 ^ 16)
       let n := (s.remaps.filter fun r => frameStack (r.2 / 2 ^ 16) == die).length
       (b < 8 * hbmFrames * 2 ^ 16 → s.remaps.contains (0, b) = false → n < 8192 → exec (.atomRemap 0 a) s = .next
         (({ s with remaps := (0, b) :: s.remaps } : State).post { part := 0, type := 0x28, arg0 := die + (n + 1) % 2 ^ 13 * 2 ^ 16, arg1 := b }))
       ∧ (8192 ≤ n → exec (.atomRemap 0 a) s = .next s))

namespace Sys2Proof.Claims

/-- R433, R436: a write of `v` at an offset of function `f`'s page acts, and a read of the register then gives `w`. -/
def takes (f off : Nat) (v : Word64) (w : Nat) (s : State) : Prop :=
  ∃ t, exec (.registerWrite f off v) s = .next t ∧ (if f = 0 ∧ 0x800 ≤ off then t.readPf off else t.readPage f off) = w

/-- The same within the register's range `ok`; outside it the write changes nothing. -/
def takesIf (f off : Nat) (v : Word64) (ok : Prop) (w : Nat) (s : State) : Prop :=
  (ok → takes f off v w s) ∧ (¬ ok → exec (.registerWrite f off v) s = .next s)

end Sys2Proof.Claims

/-- R431 to R436, R440: the accesses of the host: BAR2 reads and writes at the function's address, or a HOST_FAULT; BAR0 reads, with the counters that a read clears; writes of a register, of EQCTL within its
range and while it is disabled. A read of a register of R433 or R436 after a write gives the bits written of its fields; a value out of its range, and any write of a read-only register, changes nothing. PCORES, PRIGHTS, WIN0 and
WIN1 are written for a partition that does not exist yet (R437).
Where the spec leaves a point open, the statement follows the model's own choice: assumptions 50 and 51. -/
def Obligations.HostAccessEvents : Prop :=
  ∀ (f off n die x a : Nat) (b data : List Byte) (v : Word64) (t s : State), s.fnUp f = true →
    let va := ((s.part f).apbase + off % 2 ^ 36) % 2 ^ 64
    (s.fetch 0 0 f 2 va needR n = (.ok b, t) → exec (.bar2Read f off n) s = .next { t with reply := .bytes b })
    ∧ (s.fetch 0 0 f 2 va needR n = (.error (x, a), t) →
        exec (.bar2Read f off n) s = .next (({ t with reply := .abort } : State).post { part := f, type := 0x31, arg0 := x % 1024 + 0 * 2 ^ 10, arg1 := va % 2 ^ 64 }))
    ∧ (∀ pl, s.atomPlaces 0 0 f 2 va data.length (atomCount va data.length) = (.ok [(pl, data.length)], t) → exec (.bar2Write f off data) s = .next (t.writePlace pl data))
    ∧ (s.atomPlaces 0 0 f 2 va data.length (atomCount va data.length) = (.error (x, a), t) →
        exec (.bar2Write f off data) s = .next (t.post { part := f, type := 0x31, arg0 := x % 1024 + 0 * 2 ^ 10, arg1 := va % 2 ^ 64 }))
    ∧ (off < 0x800 → exec (.bar0ReadFlush f off) s = .next { s with reply := .word (BitVec.ofNat 64 (s.readPage f off)) })
    ∧ (f = 0 → 0x800 ≤ off → off ≠ 0x8A0 → off < 0x8A8 ∨ 0x8C0 < off → exec (.bar0ReadFlush f off) s = .next { s with reply := .word (BitVec.ofNat 64 (s.readPf off)) })
    ∧ (f = 0 → die < 4 → exec (.bar0ReadFlush f (0x8A8 + 8 * die)) s = .next
        { s with reply := .word (BitVec.ofNat 64 (s.errc.getD die 0)), errc := s.errc.set die 0 })
    ∧ (f = 0 → die < 4 → exec (.errorCounterRead die) s = .next { s with reply := .word (BitVec.ofNat 64 (s.errc.getD die 0)), errc := s.errc.set die 0 })
    ∧ (f = 0 → exec .laneStatusRead s = .next
        (({ s with reply := .word (BitVec.ofNat 64 (s.group s.lselGroup).status) } : State).modGroup s.lselGroup fun g => { g with crcerr := 0, replays := 0 }))
    ∧ (s.pageUp f = true →
        let n := v.toNat
        (off < 0x800 → exec (.registerWrite f off v) s = .next (s.writePage f off v))
        ∧ (f = 0 → 0x800 ≤ off → exec (.registerWrite f off v) s = .next (s.writePf off v))
        ∧ takes f 0x018 v (bits n 43 15 * 2 ^ 15) s ∧ takes f 0x020 v (bits n 43 15 * 2 ^ 15) s ∧ takes f 0x030 v (bits n 63 15 * 2 ^ 15) s ∧ takes f 0x040 v (n % 2 ^ 16) s
        ∧ takes f 0x050 v (bits n 63 15 * 2 ^ 15) s ∧ takes f 0x068 v (bits n 47 16 * 2 ^ 16 + n % 2) s ∧ takes f 0x0A0 v (n % 2 ^ 32) s ∧ takes f 0x0B0 v (n % 2 ^ 8) s
        ∧ takesIf f 0x028 v (canonical n = true) (bits n 63 36 * 2 ^ 36) s
        ∧ takesIf f 0x058 v (bits n 12 8 = 0 ∨ 10 ≤ bits n 12 8 ∧ bits n 12 8 ≤ 24) (bits n 20 16 * 2 ^ 16 + bits n 12 4 * 2 ^ 4 + n % 2) s
        ∧ takesIf f 0x060 v (1 ≤ n ∧ n ≤ 10000) n s
        ∧ (off ∈ [0x000, 0x008, 0x010, 0x048, 0x0A8] ∨ 0x100 ≤ off ∧ off < 0x180 → exec (.registerWrite f off v) s = .next s)
        ∧ (f = 0 →
          takes 0 0x800 v (n % 2 ^ 6) s ∧ takes 0 0x840 v (n % 2 ^ 6) s ∧ takes 0 0x858 v (n % 2 ^ 6) s ∧ takes 0 0x898 v (n % 2 ^ 6) s ∧ takes 0 0x860 v (v &&& 0x8000000000003F3F).toNat s
          ∧ takesIf 0 0x838 v (bits n 31 24 ≠ 0 ∧ bits n 23 16 ≠ 0 ∧ bits n 15 8 ≠ 0 ∧ bits n 7 0 ≠ 0) (n % 2 ^ 32) s
          ∧ takesIf 0 0x868 v (1 ≤ n ∧ n ≤ 10000) n s ∧ takesIf 0 0x870 v (1 ≤ n ∧ n ≤ 1000) n s ∧ takesIf 0 0x8C8 v (n % 2 ^ 12 ≤ 2200) (n % 2 ^ 12) s
          ∧ ((s.part s.psel).ready = false →
            (∀ j < 4, takes 0 (0x810 + 8 * j) v n s) ∧ takes 0 0x830 v (n % 2 ^ 3) s ∧ takes 0 0x848 v (v &&& 0xC0FFF8001FFFFFFF).toNat s
            ∧ takesIf 0 0x850 v (canonical (n / 2 ^ 15 * 2 ^ 15) = true) (bits n 63 15 * 2 ^ 15) s)
          ∧ ((s.part s.psel).ready = true → off ∈ [0x810, 0x818, 0x820, 0x828, 0x830, 0x848, 0x850] → exec (.registerWrite 0 off v) s = .next s)
          ∧ (off = 0x888 → exec (.registerWrite 0 off v) s = .next s))
        ∧ (bits n 20 16 < 6 ∨ 16 < bits n 20 16 → exec (.eqctlWrite f v) s = .next s)
        ∧ (bit (s.part f).eqctl 0 = true → bit n 0 = true → exec (.eqctlWrite f v) s = .next s)
        ∧ (6 ≤ bits v.toNat 20 16 → bits v.toNat 20 16 ≤ 16 → bit (s.part f).eqctl 0 = false →
            exec (.eqctlWrite f v) s = .next (s.modPart f fun y => { y with eqctl := bits v.toNat 20 16 % 2 ^ 5 * 2 ^ 16 + v.toNat % 2 })))

/-- R246, R349, R379, R387, R405, R408, R411, R434: the host's commands on a function's page: SUBMIT, SKIP, RETRY, kills, IMGFREE, SHOOT, the debug commands, which need RIGHTS bit 1, and DUMP_RELEASE.
Where the spec leaves a point open, the statement follows the model's own choice: assumptions 24, 26, 27, 30, 51, 52 and 60. -/
def Obligations.HostCommandEvents : Prop :=
  ∀ (f q lc rn k off : Nat) (v : Word64) (w : List Word64) (b : List Byte) (t s : State), s.pageUp f = true →
    (let a := v.toNat / 2 ^ 7 * 2 ^ 7
     (∀ x y, s.readRecord f a = (.error (x, y), t) → exec (.submit f v) s = .next (t.hostFault f x 1 a))
     ∧ (s.readRecord f a = (.ok w, t) →
        let i := bits (stW w 0) 47 44
        ((t.queue f i).recs.length < 64 → exec (.submit f v) s = .next (t.appendQueue f i { words := w, src := some a }))
        ∧ (64 ≤ (t.queue f i).recs.length → exec (.submit f v) s = .next (t.hostFault f 0x381 1 a))))
    ∧ (∀ r rest, (s.queue f q).st = .stopped → (s.queue f q).recs = r :: rest →
        (exec (.skip f q) s = .next ((s.advanceDone f q).post
            { part := f, type := 0x21, arg0 := queueArg ((s.advanceDone f q).queue f q).done q ((s.queue f q).cause % 1024), arg1 := stW r.words 12 }))
        ∧ (r.src = none → exec (.retry f q) s = .next (s.modQueue f q fun y =>
            { y with st := .waiting, checked := false, launch := none, cause := 0, recs := (y.recs.take 1).map id ++ y.recs.drop 1 }))
        ∧ (∀ a, r.src = some a → s.readRecord f a = (.ok w, t) → exec (.retry f q) s = .next (t.modQueue f q fun y =>
            { y with st := .waiting, checked := false, launch := none, cause := 0, recs := (y.recs.take 1).map (fun r => { r with words := w }) ++ y.recs.drop 1 })))
    ∧ (∀ l, (s.queue f q).launch = some l → (s.queue f q).st = .placing ∨ (s.queue f q).st = .running → exec (.queueKill f q) s = .next (s.failLaunch l 0x387))
    ∧ (∀ r, s.coreOf f lc = some k → s.region? k rn = some r → exec (.regionAbort f lc rn) s = .next ((s.blame r.launch k).failLaunch r.launch 0x387))
    ∧ exec (.imgfree f off) s = .next { s with images := s.images.filter fun i => !(i.2.part == f && i.2.off == off) }
    ∧ (let a := v.toNat / 2 ^ 5 * 2 ^ 5
       s.fetch 0 0 f 2 a needR 32 = (.ok b, t) → exec (.shoot f v) s = .next (t.startShoot f a (wordsOf b 4)))
    ∧ (bit (s.part f).rights 1 = true → s.coreOf f lc = some k →
        ((s.cc k).run = .waiting → (s.cc k).wait = .debug →
          let u (pc : BitVec 32) := s.modCc k fun c => ({ c with run := .running, wait := .nothing, pc := pc, nextIssue := s.cycle } : ControlCore).settle
          ((s.cc k).trapping = none → exec (.debugResume f lc) s = .next (u ((s.cc k).pc + 8)) ∧ exec (.debugResumeAtDbgpc f lc) s = .next (u (s.part f).dbgpc))
          ∧ ((s.cc k).trapping.isSome = true → exec (.debugResume f lc) s = .next { u ((s.cc k).pc + 8) with todo := .ev (.trapEntry k) :: s.todo })
          ∧ ((s.cc k).halting = false → ∀ pc, ((u pc).cc k).run = .running ∧ ((u pc).cc k).wait = .nothing ∧ ((u pc).cc k).pc = pc)
          ∧ ((s.cc k).halting = true → (s.cc k).regs.drained = true → ∀ pc, ((u pc).cc k).run = .halted))
        ∧ exec (.regionResume f lc rn) s = .next (s.modRegion k rn fun x => { x with stopped := false })
        ∧ (∀ r x, s.region? k rn = some r → s.launches.get? r.launch = some x → r.stopped = true → r.freeze = .none →
            let i := imageBytes (s.core k) x r.member ((x.members[r.member]?).getD { core := k }) (some (rn, r)) (s.imageArgs r.launch r.member x false false) true
            (s.imageFit f i.length = none → exec (.regionImageWrite f lc rn) s = .next (s.modPart f fun y => { y with dbgstat := 0 }))
            ∧ (∀ o, s.imageFit f i.length = some o → exec (.regionImageWrite f lc rn) s = .next
                ((({ s with nextId := s.nextId + 1, images := s.images.set s.nextId { part := f, launch := r.launch, member := r.member, off := o, len := i.length } } : State).put
                  (imageLoc f o) i).modPart f fun y => { y with dbgstat := BitVec.ofNat 64 (2 ^ 63 + o) }))))
    ∧ (f = 0 → exec .dumpRelease s = .next { s with dumpHeld := false })

/-- R342, R393, R431, R437, R438, R439, R441: partitions and resets: a partition is created, or PCTL reads 2; a partition reset begins, with the destruction after it, empties the queues, discards the images, fails the launches and freezes the regions;
once they have frozen its control cores go Idle; it completes once far atomics and shoot-downs are done, which leaves the tile memory of every core zero without tags, its fabric and card stores empty, its bank tokens free and its power tokens expired, the lease returned with reason 2,
the page at its reset values, the cores released by a destroy, and PART_RESET posted with its reason; the resets of a function, of a core, whose control core goes Idle and whose fabric is reinitialised, and of
the package; VF_DISABLE; and bring-up, which a package takes once.
Where the spec leaves a point open, the statement follows the model's own choice: assumptions 46, 47, 48 and 49. -/
def Obligations.PartitionAndResetEvents : Prop :=
  ∀ (p f n k reason : Nat) (b : BringUp) (s : State),
    (s.pageUp 0 = true →
      (s.mayCreate s.psel = false → exec .partitionCreate s = .next (s.modPart s.psel fun x => { x with pctl := 2 }))
      ∧ (s.mayCreate s.psel = true →
          let ks := coresOf (s.part s.psel).pcores
          exec .partitionCreate s = .next ((((upFrom 0 ks.length).zip ks).foldl (fun (t : State) c => ((t.resetCore c.2).scrub c.2).modCore c.2 fun x =>
              { x with part := some s.psel, lcore := c.1, bankOwner := [], quarantine := none }) s).modPart s.psel fun x =>
                { x.clearPage with ready := true, cores := ks, removed := [], pctl := 0 }))
      ∧ ((s.part s.psel).ready = true →
          exec .partitionReset s = .next ((s.modPart s.psel fun x => { x with pctl := 0 }).beginReset s.psel 1)
          ∧ exec .partitionDestroy s = .next ((s.modPart s.psel fun x => { x with pctl := 0 }).beginReset s.psel 2))
      ∧ ((s.part s.psel).ready = false →
          exec .partitionReset s = .next (s.modPart s.psel fun x => { x with pctl := 2 }) ∧ exec .partitionDestroy s = .next (s.modPart s.psel fun x => { x with pctl := 2 })))
    ∧ ((s.part p).resetting = some reason → (s.part p).cores.all s.quenched = false ∨ (s.part p).shoots ≠ [] → exec (.partitionResetComplete p) s = .next (s.after 1 (.resetEnd p)))
    ∧ ((s.part p).ready = true → (s.part p).resetting = none →
        let t := s.beginReset p reason
        (t.part p).resetting = some reason ∧ (t.part p).cores = (s.part p).cores ∧ (∀ q ∈ (t.part p).queues, q.2.recs = [] ∧ q.2.launch = none)
        ∧ (t.images.all fun i => i.2.part != p) = true ∧ (t.launches.all fun y => y.2.part != p || y.2.failing == some 0x387) = true
        ∧ (∀ k ∈ (s.part p).cores, ∀ rn, ((t.region? k rn).map fun r => r.frozen && r.freeze != .none).getD true = true))
    ∧ ((s.part p).resetting = some reason →
        ((s.part p).cores.all s.stilled = false → ∀ k, (s.resetIdle p).core k = s.core k)
        ∧ ((s.part p).cores.all s.stilled = true → ∀ k ∈ (s.part p).cores, ((s.resetIdle p).cc k).run = .idle ∨ ((s.resetIdle p).cc k).run = .off))
    ∧ ((s.part p).resetting = some reason → (s.part p).cores.all s.quenched = true → (s.part p).shoots = [] → memWf s.mem = true → ∃ t, exec (.partitionResetComplete p) s = .next t
        ∧ (t.part p).resetting = none ∧ (t.part p).queues = [] ∧ (t.part p).lease = none ∧ (t.part p).rights = (s.part p).rights
        ∧ (t.part p).ready = (if reason = 2 then false else (s.part p).ready) ∧ (t.part p).cores = (if reason = 2 then [] else (s.part p).cores)
        ∧ (∀ k ∈ (s.part p).cores,
            (∀ a, tileLoc k 0 ≤ a → a < tileLoc (k + 1) 0 → memRead t.mem a = 0 ∧ t.bad.contains (a / 16) = false ∧ t.tags.contains (a / 16) = false)
            ∧ (t.core k).regions = [] ∧ (t.core k).elems = [] ∧ (t.core k).nodes = [] ∧ (t.core k).bankTok = [] ∧ (t.core k).bankOwner = []
            ∧ ((t.core k).strings.all fun z => z.2.heavy == 0 && z.2.light == 0) = true ∧ (reason = 2 → (t.core k).part = none))
        ∧ (∀ a, (∀ k ∈ (s.part p).cores, a < tileLoc k 0 ∨ tileLoc (k + 1) 0 ≤ a) → memRead t.mem a = memRead s.mem a)
        ∧ (∀ l, (s.part p).lease = some l → ({ part := 0, type := 0x09, arg0 := 2, arg1 := l.left } : EventRec) ∈ t.posts)
        ∧ (∃ u : State, t = u.post { part := 0, type := 0x30, arg0 := p % 64 + reason * 2 ^ 8 })
        ∧ (t.launches.all fun y => y.2.part != p) = true)
    ∧ (s.fnUp f = true → exec (.functionLevelReset f) s = .next (s.beginReset f 0))
    ∧ (s.pageUp 0 = true → (((s.core k).part.bind fun p => (s.part p).resetting) = none →
            let u := ((s.launches.filter fun x => x.2.members.any fun m => m.core == k).map fun x => x.1).foldl (fun (t : State) l => (t.blame l k).failLaunch l 0x387) s
            let t := u.resetCore k
            exec (.coreReset k) s = .next t ∧ (t.cc k).run = (if (u.cc k).run = .off then .off else .idle) ∧ (t.core k).cmds = [] ∧ (t.core k).bankTok = [] ∧ (t.core k).far = (u.core k).far
            ∧ (t.core k).reinit = some (u.cycle + usCycles 4) ∧ (t.core k).scan = none)
        ∧ (((s.core k).part.bind fun p => (s.part p).resetting).isSome = true → exec (.coreReset k) s = .next s)
        ∧ exec .packageReset s = .next s.packageReset.bootAgain)
    ∧ (s.pageUp 0 = false → exec (.coreReset k) s = .next s ∧ exec .packageReset s = .next s)
    ∧ (s.tripped = false →
        exec (.vfDisable n) s = .next ((((s.parts.filter fun x => max 1 (n + 1) ≤ x.1 && x.2.ready).map fun x => x.1).foldl (fun (t : State) p => t.beginReset p 2)
            { s with vfEnable := n != 0, numVfs := min n 63 }))
        ∧ exec .fundamentalReset s = .next ({ s.packageReset with tripped := false } : State).bootAgain)
    ∧ (s.tripped = true → s.cool = false → exec .fundamentalReset s = .next s)
    ∧ (s.tripped = true → s.cool = true → exec .fundamentalReset s = .next ({ s.packageReset with tripped := false } : State).bootAgain)
    ∧ (s.boot = none → exec (.bringUp b) s = .next (s.bringUpFrom 1 b.fails b))

/-! ### The machine as a whole -/

namespace Sys2Proof.Claims

/-- R67: a normalised W40 word. -/
def normalised (w : Nat) : Prop :=
  w < 2 ^ 40 ∧ if sext (bits w 38 28) 11 = -1024 then bits w 27 0 ≤ 3 else bit w 27 = true

/-- The slices of an operand that a result may be written to. -/
def slicesOf : Option Operand → BitVec 512
  | some (.slice p c) => sliceMask p.toNat (c.toNat + 1)
  | _ => 0

end Sys2Proof.Claims

/-- R70, R72, R73, R102, R105: an exact value `(−1)^s · m · 2^k` other than zero is rounded as R70 says, over the rationals: E is the floor of its binary logarithm, y its magnitude scaled into 28 bits, and n
what the mode makes of y. On finite operands with values u, v and w the results that FloatArithmeticResults names are these roundings of the exact numbers, where those are not zero: u + v for FADD, u − v for FSUB, u·v for FMUL,
w + u·v for FMA, w − u·v for FNMA, u / v for FDIV, 1 / u for FRCP, u·2^n for FSCALE, n itself for FCVTS and FCVTZ, and over the reals √u for FSQRT, 1 / √u for FRSQ, 2^u for FEXP2
and log2 u for FLOG2. FloatArithmeticResults and ConversionResults state the zeros, infinities, NaNs, flags, compares and conversions. -/
def Obligations.RoundingFollowsR70 : Prop :=
  ∀ (mode : Rounding) (h : Nat), h < 2 ^ 16 →
    (∀ (s zs : Bool) (m : Nat) (k : Int), m ≠ 0 → roundFin mode h s m k zs = rounded mode h s ((m : ℚ) * (2 : ℚ) ^ k))
    ∧ (∀ (x y z : Nat) (u v w : ℚ) (n : Int), valueOf (readW x) = some u → valueOf (readW y) = some v → valueOf (readW z) = some w →
        (u + v ≠ 0 → addReal mode h (readW x) (readW y) = roundedTo mode h (u + v))
        ∧ (u - v ≠ 0 → addReal mode h (readW x) (readW y).neg = roundedTo mode h (u - v))
        ∧ (u * v ≠ 0 → mulReal mode h (readW x) (readW y) = roundedTo mode h (u * v))
        ∧ (w + u * v ≠ 0 → fmaReal mode h false (readW x) (readW y) (readW z) = roundedTo mode h (w + u * v))
        ∧ (w - u * v ≠ 0 → fmaReal mode h true (readW x) (readW y) (readW z) = roundedTo mode h (w - u * v))
        ∧ (u ≠ 0 → v ≠ 0 → divReal mode h (readW x) (readW y) = roundedTo mode h (u / v))
        ∧ (u ≠ 0 → rcpReal mode h (readW x) = roundedTo mode h (1 / u))
        ∧ (u ≠ 0 → scaleReal mode h (readW x) n = roundedTo mode h (u * (2 : ℚ) ^ n))
        ∧ (n ≠ 0 → ofIntReal mode h n = roundedTo mode h (n : ℚ))
        ∧ (0 < u → sqrtReal mode h (readW x) = roundedTo mode h (Real.sqrt (u : ℝ)) ∧ rsqReal mode h (readW x) = roundedTo mode h (1 / Real.sqrt (u : ℝ)))
        ∧ (exp2Real mode h x = roundedTo mode h ((2 : ℝ) ^ (u : ℝ))) ∧ (0 < u → u ≠ 1 → log2Real mode h x = roundedTo mode h (Real.logb 2 (u : ℝ))))

/-- R67: FADD, FSUB, FMUL, FMA, FNMA, FDIV, FSQRT, FRCP, FRSQ, FEXP2, FLOG2, FSCALE, FMIN, FMAX, FABS, FNEG, FCVTS, FCVTZ, FRND, FNORM, FSETE, LTOF, F32W and MREAD, which rounds an entry of the accumulator, give a normalised
word, whatever words, integers and codes they read. -/
def Obligations.FloatResultsAreNormalised : Prop :=
  ∀ (mode : Rounding) (h : Nat) (x y z : Nat) (sub mx neg zs : Bool) (n k : Int) (m : Nat) (f : LFmt), h < 2 ^ 16 →
    let a := readW x
    let b := readW y
    let c := readW z
    normalised (addReal mode h a b).val ∧ normalised (addReal mode h a b.neg).val ∧ normalised (mulReal mode h a b).val ∧ normalised (fmaReal mode h sub a b c).val
    ∧ normalised (divReal mode h a b).val ∧ normalised (sqrtReal mode h a).val ∧ normalised (rcpReal mode h a).val ∧ normalised (rsqReal mode h a).val
    ∧ normalised (exp2Real mode h x).val ∧ normalised (log2Real mode h x).val
    ∧ normalised (scaleReal mode h a n).val ∧ normalised (minmaxReal mx a b) ∧ normalised (absReal a) ∧ normalised (negReal a)
    ∧ normalised (ofIntReal mode h n).val ∧ normalised (rndReal mode h a).val ∧ normalised (normReal a).val ∧ normalised (setExp mode h a n).val
    ∧ normalised (ltofReal f (x % 2 ^ f.width)) ∧ normalised (ofBinary32 (x % 2 ^ 32)) ∧ normalised (roundFin mode h neg m k zs).val

/-- R30 to R35, R50 to R52: the decoder reads every well-formed instruction back from its word, with every operand at every value that its field admits. -/
def Obligations.DecodeEncodeAgree : Prop := ∀ (k : SiteKind) (i : Instr), i.wf k = true → ∃ w, encode i = some w ∧ decode k w = .ok i

/-- R30, R34, R35, R45, R48: words that the spec writes out, and the instructions that it writes beside them: of spec/02 (ADD, SUB, MOV), 04 (ADDC, MOVHI), 05 (FMA), 16 (VCMP), 19 (MMAC), 20 (AADD), 21 (SWR, CSTC), 22 (LCMAP)
and 25 (DMA). -/
def Obligations.DecodeSamples : Prop :=
  decode .cc 0x0000000472072870 = .ok (.add 0 (.slice 4 7) (.slice 32 7) (.slice 40 7))
  ∧ decode .cc 0xB00001007007C010 = .ok (.sub 0xB000 (.slice 0 7) (.slice 0 7) (.imm 1))
  ∧ decode .cc 0x00000C50F10F30F2 = .ok (.addc 0 (.slice 80 15) (.slice 16 15) (.slice 48 15) 2)
  ∧ decode .cc 0x0000320090008000 = .ok (.movhi 0 (.slice 0 9) 0x0008000)
  ∧ decode .cc 0x0000531490090A90 = .ok (.fma 0 (.slice 20 9) (.slice 0 9) (.slice 10 9) .rne)
  ∧ decode .mElem 0x09BE309408600000 = .ok (.mov 0x09BE (.outChan 2 0) (.inChan 3 false))
  ∧ decode .vElem 0x0080AE920820800A = .ok (.vcmp 0x0080 (.outChan 1 0) (.inChan 1 false) (.inChan 0 false) ⟨.l16, true⟩)
  ∧ decode .mElem 0x0911B1000C00C000 = .ok (.mmac 0x0911 (.bus (.imm 0)) (.imm 0))
  ∧ decode .cc 0x0000C400720FC00D = .ok (.aadd 0 (.slice 0 7) (.slice 32 15) (.imm 0) 13)
  ∧ decode .cc 0x0000E030F40F0430 = .ok (.dma 0 (.slice 48 15) (.slice 64 15) (.slice 4 3) 0)
  ∧ decode .cc 0x000083D0900F0000 = .ok (.swr 0 (.sreg 9) (.slice 0 15))
  ∧ decode .cc 0x0000D840F00FC300 = .ok (.cstc 0 (.slice 64 15) (.slice 0 15) (.imm 0x30))
  ∧ decode .cc 0x0000F830F1C1C000 = .ok (.lcmap 0 (.slice 48 15) (.slice 28 1) (.imm 0))

/-- R18 to R20, R51, R145, spec/95: a step carries out the head of the cycle's turns, or begins the next cycle. At the turn of a running control core whose PC lies within $CODECAP and whose lines are
cached, the step is the execution of the instruction that the word at the PC decodes to, or, where it decodes to none, the trap of R52; a fetch that $CODECAP refuses traps. At the turn of an element,
the instruction in slot 0 of the first context in turn, if it fires, is the one executed.
Where the spec leaves a point open, the statement follows the model's own choice: assumption 1. -/
def Obligations.StepRunsDecodedInstruction : Prop :=
  ∀ (k e : Nat) (rest : List Turn) (i : Instr) (s : State),
    let u := { s with todo := rest }
    let c := s.cc k
    (s.todo = [] → step s = .next s.nextCycle)
    ∧ (s.todo = .ev i :: rest → step s = exec i u)
    ∧ (s.todo = .issue k :: rest → u.ccFrozen k = false → c.deliverable s.cycle = false → c.run = .running → c.nextIssue ≤ s.cycle → c.halting = false → c.trapping = none → c.gbar = none →
        (c.codecap.tag = false → step s = .next (u.raise k 0x200 (c.pc.zeroExtend 64) c.pc))
        ∧ (c.codecap.tag = true → c.codecap.xi = false → step s = .next (u.raise k 0x202 (c.pc.zeroExtend 64) c.pc))
        ∧ (c.codecap.tag = true → c.codecap.xi = true → c.codecap.len < c.pc.toNat + 8 → step s = .next (u.raise k 0x201 (c.pc.zeroExtend 64) c.pc))
        ∧ (c.codecap.tag = true → c.codecap.xi = true → c.pc.toNat + 8 ≤ c.codecap.len → u.lacking k c.fetchVa = none → ∀ l, u.line? k c.fetchVa = some l →
            let w := codeWord l (u.line? k (c.fetchVa + 7)) c.fetchVa
            (c.fetchVa % 8 = 0 → w = l.words.getD (c.fetchVa % 128 / 8) 0)
            ∧ (decode .cc w = .ok i → step s = exec i { u with site := .cc k })
            ∧ (∀ x, decode .cc w = .error x → step s = .next (u.raise k (illegalCode x) w c.pc))))
    ∧ (∀ rn r w card x cs v, s.todo = .fire k e :: rest → (s.core k).regionOf e = some (rn, r) → (s.elem k e).used = true → r.started = true → r.frozen = false → r.ended = false → r.freeze = .none →
        (r.row (r.rowOf e)).st = .active → (s.elem k e).card = w :: card → u.ctxOrder k e r.det = x :: cs → decode (if isV e then .vElem else .mElem) w = .ok i →
        exec i { u with site := .ctx k e x 0, fired := false } = .next v → v.fired = true →
        step s = .next ((v.sample k e x).modElem k e fun y => { y with ptr := (y.ptr + 1) % 4 }))

/-- A sound state goes on: a step from it answers a next state, whatever its turns, registers and memory hold, and that state is sound again. A state is sound where no turn of its cycle, and no step due later, is an instruction word.
Where the spec leaves a point open, the statement follows the model's own choice: assumption 1. -/
def Obligations.SoundStatesGoOn : Prop := ∀ s : State, s.sound = true → s.goesOn ∧ ∀ t, step s = .next t → t.sound = true

/-- R2, R255, the model's form of memory (spec/13): the list of written bytes stays in ascending order of address and without an entry equal to what an unlisted address reads as, over every step.
Where the spec leaves a point open, the statement follows the model's own choice: assumption 3. -/
def Obligations.MemoryStaysCanonical : Prop := ∀ s t : State, memWf s.mem = true → step s = .next t → memWf t.mem = true

/-- R8, R16, R28, R74, R257, R438: the machine right after package reset: no turn is left over; memory lists nothing and no unit is tagged; every control core is Idle at PC 0 with every predicate false, no flag and no
pending slice; no launch, region, command, fault or event stands anywhere, and no partition exists. What the spec gives no value (assumption 2) is 0. Memory that reads 0, with no tag and no bad unit, is the model's choice too.
Where the spec leaves a point open, the statement follows the model's own choice: assumption 3. -/
def Obligations.ResetState : Prop :=
  let s := State.reset
  s.sound = true ∧ memWf s.mem = true ∧ s.todo = [] ∧ (∀ a, memRead s.mem a = 0) ∧ s.tags = [] ∧ s.bad = []
  ∧ (∀ k, (s.cc k).run = .idle ∧ (s.cc k).pc = 0 ∧ (s.cc k).regs.preds = 0 ∧ (s.cc k).regs.fflags = 0 ∧ (s.cc k).regs.pending = 0 ∧ (s.cc k).regs.flights = [] ∧ (s.cc k).latches = 0)
  ∧ (∀ k, (s.core k).regions = [] ∧ (s.core k).elems = [] ∧ (s.core k).cmds = [] ∧ (s.core k).far = [])
  ∧ s.launches = [] ∧ s.images = [] ∧ s.posts = [] ∧ s.fenced = [] ∧ s.dumpHeld = false ∧ (∀ p, (s.part p).ready = false)

/-- R14, R81: the frame of the instructions of opcodes 0x00 to 0x6C, integer, slice, predicate and float. On a control core an issue of one leaves all memory, every tag, every other core, every special register and every
register of the bank as it was (results land at the write-back), and takes over no slice but those of its destination and, for SWAP and UNPK, of srcA (SLINS and SLCLR address theirs at run time); in an element a firing leaves all memory and every other core as it was. -/
def Obligations.RegisterOnlyFrame : Prop :=
  ∀ (i : Instr) (op k e c slot : Nat) (s t : State), i.code = some op → op < 0x70 → exec i s = .next t →
    (s.site = .cc k →
      t = { s with cores := t.cores, nextId := t.nextId } ∧ (∀ j, j ≠ k → t.core j = s.core j) ∧ t.core k = { s.core k with cc := t.cc k }
      ∧ t.cc k = { s.cc k with regs := (t.cc k).regs, pc := (t.cc k).pc, nextIssue := (t.cc k).nextIssue }
      ∧ (t.cc k).regs.bank = (s.cc k).regs.bank ∧ (t.cc k).regs.preds = (s.cc k).regs.preds ∧ (t.cc k).regs.tags = (s.cc k).regs.tags ∧ (t.cc k).regs.fflags = (s.cc k).regs.fflags
      ∧ (op ≠ 0x36 → op ≠ 0x3A →
          (t.cc k).regs.pending &&& ~~~((s.cc k).regs.pending ||| slicesOf i.fields.1 ||| (if op = 0x38 ∨ op = 0x39 then slicesOf i.fields.2.1 else 0)) = 0)
      ∧ ∀ a, memRead t.mem a = memRead s.mem a)
    ∧ (s.site = .ctx k e c slot →
      (∀ a, memRead t.mem a = memRead s.mem a) ∧ t.tags = s.tags ∧ t.bad = s.bad ∧ t.parts = s.parts ∧ (∀ j, j ≠ k → t.core j = s.core j) ∧ t.cc k = { s.cc k with run := (t.cc k).run, wait := (t.cc k).wait })

/-- R257, R258, R280, R282 to R284, R295: the frame of the control core's stores: ST, STF, CSTC and the atomics leave every byte outside the stored ones as it was, and a unit outside them keeps its tag; where the
capability grants the access, ST leaves the value's bytes in place and CSTC the tag.
Where the spec leaves a point open, the statement follows the model's own choice: assumptions 3 and 11. -/
def Obligations.StoreFrame : Prop :=
  ∀ (g : BitVec 16) (d a b : Operand) (p : BitVec 7) (c m : BitVec 4) (k : Nat) (s t : State), s.site = .cc k → memWf s.mem = true →
    let o := (s.src b).ownS
    let base := (s.capSrc a).base
    let spared (x : Int) (n : Nat) : Prop :=
      (∀ y : Nat, (y : Int) < tileLoc k 0 + x ∨ tileLoc k 0 + x + n ≤ y → memRead t.mem y = memRead s.mem y)
      ∧ (∀ u : Nat, ((u : Int) * 16 + 16 ≤ tileLoc k 0 + x ∨ tileLoc k 0 + x + n ≤ (u : Int) * 16) → t.tags.contains u = s.tags.contains u)
    let n := (c.toNat + 1) / 2
    (exec (.st g (.slice p c) a b m) s = .next t → spared (base + o) n)
    ∧ (∀ addr, mayIssue (.st g (.slice p c) a b m) k s = true → unheld s k m = true → granted s k a o n pWR addr = true →
        exec (.st g (.slice p c) a b m) s = .next t → memBytes t.mem (tileLoc k addr) n = toBytes (s.src (.slice p c)).raw n)
    ∧ (exec (.stf g d a b m) s = .next t → spared (base + o * ebits m.toNat / 8) (((o * ebits m.toNat + ebits m.toNat - 1) / 8 - o * ebits m.toNat / 8 + 1).toNat))
    ∧ (exec (.cstc g (.slice p c) a b) s = .next t → spared (base + o) 16)
    ∧ (∀ addr, mayIssue (.cstc g (.slice p c) a b) k s = true → unheld s k 0 = true → granted s k a o 16 pCS addr = true → addr % 16 = 0 →
        exec (.cstc g (.slice p c) a b) s = .next t → t.tags.contains (tileLoc k addr / 16) = (s.capSrc (.slice p c)).tag)
    ∧ (∀ i ∈ [Instr.aadd g (.slice p c) a b m, .amin g (.slice p c) a b m, .amax g (.slice p c) a b m, .aand g (.slice p c) a b m, .aor g (.slice p c) a b m, .axor g (.slice p c) a b m,
          .axchg g (.slice p c) a b m, .afadd g (.slice p c) a b m], exec i s = .next t → spared (base + o) n)
    ∧ (exec (.acas g (.slice p c) a b m) s = .next t → spared (base + o) (n / 2))
end

