-- ==== Sys2Proof/Laws/Acts.lean ====
section
/-! SUPPORT. What `run`, `runControl` and `runFabric` answer for an instruction that may act: the rules that the proofs about single instructions cite. -/
open Sys2Proof Sys2Proof.Machine Sys2Proof.Claims

namespace Sys2Proof.Laws

/-- R13, R144: an instruction that may act goes through `run` with its effect. -/
theorem run_next (i : Instr) (f : State → Eff) (s : State) (h : mayAct i s = true) : run i f s = .next (afterAct i (f (reads i s)) s (reads i s)) := by
  unfold mayAct at h
  unfold run runBoth afterAct reads
  cases hs : s.site with
  | cc k =>
    simp only [hs, mayIssue, Bool.and_eq_true, beq_iff_eq, Bool.not_eq_true', Option.isNone_iff_eq_none] at h ⊢
    obtain ⟨⟨⟨⟨⟨⟨h1, h2⟩, h3⟩, h4⟩, h5⟩, h6⟩, h7⟩ := h
    simp only [h1, runCc, h2, h3, h4, h5, h6, h7]
    rfl
  | ctx k e c slot =>
    simp only [hs, mayFire, Bool.and_eq_true] at h ⊢
    simp only [h.1, runElem, h.2]
    rfl

/-- An instruction over `run` completes with the effect that it is run with. -/
theorem completes_of {i f f'} (h : ∀ s, exec i s = run i f' s) (hf : f' = f) : completes i f := by
  intro s hs _; subst hf; rw [h, run_next _ _ _ hs]; rfl

/-- The rule of a control-core instruction that may issue. -/
theorem ctl_next (i : Instr) (eff) (k : Nat) (s : State) (hs : s.site = .cc k) (h : mayIssue i k s = true) :
   runControl i eff s = .next (match eff k s with
    | none => s
    | some (f, fl, s₁) => match fl with
      | .trap cause v => s₁.raise k cause (BitVec.ofNat 64 v) (s.cc k).pc
      | .next => afterIssue i f k s s₁
      | .jump t d => afterJump i f t d k s s₁) := by
    unfold runControl
    simp only [hs, mayIssue, Bool.and_eq_true, beq_iff_eq, Bool.not_eq_true', Option.isNone_iff_eq_none] at h ⊢
    obtain ⟨⟨⟨⟨⟨⟨h1, h2⟩, h3⟩, h4⟩, h5⟩, h6⟩, h7⟩ := h
    simp only [h1, runCc, h2, h3, h4, h5, h6, h7]
    rfl

/-- R110, R114: a transfer goes to its target, or traps where the target is not a multiple of 8. -/
theorem jump_next (i : Instr) (eff) (k : Nat) (s : State) (hs : s.site = .cc k) (h : mayIssue i k s = true) (f t d s') (he : eff k s = some (jumpTo f t d s s')) :
   runControl i eff s = .next (if t % 8 = 0 then afterJump i f t d k s s' else s.raise k 0x004 (BitVec.ofNat 64 t) (s.cc k).pc) := by
  rw [ctl_next _ _ _ _ hs h, he]
  unfold jumpTo
  by_cases ht : t % 8 = 0
  · simp only [if_pos ht]
  · simp only [if_neg ht]

/-- The rule of an element instruction that may fire. -/
theorem fab_next (i : Instr) (eff) (k e c slot : Nat) (s t: State) (hs : s.site = .ctx k e c slot) (h : mayFire i k e c s = true) (ht : s.beginThread k e c i.shape.guard = t) (f s') (he : eff k e c t = some (f, s')) :
   runFabric i eff s = .next (afterFire i f k e c slot s s') := by
  subst ht
  unfold runFabric
  simp only [hs, mayFire, Bool.and_eq_true] at h ⊢
  simp only [h.1, runElem, h.2, he]
  rfl

theorem site_begin (s : State) (k e c g) : (s.beginThread k e c g).site = s.site := by
  unfold State.beginThread; split <;> (try split) <;> rfl

theorem ctxNo_begin (s : State) (k e c slot g) (hs : s.site = .ctx k e c slot) : (s.beginThread k e c g).ctxNo = c := by
  simp [State.ctxNo, site_begin, hs]

/-- An instruction over `runFabric` fires with the effect that its own rule answers. -/
theorem fires_of {i eff k e c slot pre f more} (hx : ∀ s, exec i s = runFabric i eff s) (he : ∀ s, s.site = .ctx k e c slot → s.ctxNo = c → pre s → eff k e c s = some (f s, more s)) : firesIf i k e c slot pre f more := by
  intro s hs h t ht
  rw [hx]
  exact fab_next _ _ _ _ _ _ _ t hs h rfl _ _ (he t (by rw [← hs]; exact site_begin ..) (ctxNo_begin _ _ _ _ _ _ hs) ht)

/-- R61: saturation is the clamp of the signed range. -/
theorem narrow_sat_s (x w) : narrow true .s x w = (satS w x % ((2 ^ w : Nat) : Int)).toNat := by
  have : (1:Int) ≤ ((2 ^ (w - 1) : Nat) : Int) := by exact_mod_cast Nat.one_le_two_pow
  have h : clamp x (loOf .s w) (hiOf .s w) = satS w x := by
    simp only [satS, clamp, loOf, hiOf]; split_ifs <;> omega
  simp only [narrow, wrap, if_true, h]

/-- R61: saturation is the clamp of the unsigned range. -/
theorem narrow_sat_z (x w) : narrow true .z x w = (satZ w x % ((2 ^ w : Nat) : Int)).toNat := by
  have : (1:Int) ≤ ((2 ^ w : Nat) : Int) := by exact_mod_cast Nat.one_le_two_pow
  have h : clamp x (loOf .z w) (hiOf .z w) = satZ w x := by
    simp only [satZ, clamp, loOf, hiOf]; split_ifs <;> omega
  simp only [narrow, wrap, if_true, h]

/-- R37: a result without saturation is taken modulo 2^w. -/
theorem narrow_f (g x w) : narrow false g x w = (x % ((2 ^ w : Nat) : Int)).toNat := rfl

/-- The two spellings of a flagged result. -/
theorem flagged_resultOf (d m x) (s:State): flagged d m x s = resultOf s d m (x s) := by
  simp only [flagged, resultOf, Eff.raiseFlags, rsrCount]
  cases d <;> simp [Eff.put, Eff.slices, Eff.pred]

theorem flagged_quiet (d) (v : State → Nat) (s:State): flagged d .rne (fun s => {val := v s}) s = quietOf s d (v s) := by
  simp only [flagged, quietOf]
  cases d <;> simp [Eff.put, Eff.slices, Eff.pred]

/-- R258, R280: a granted access passes the checks, at the address granted. -/
theorem grant_ok {s k a o n need addr} (h : granted s k a o n need addr = true) :
   tileCheck (s.cc k).tilecap (s.capSrc a) o n need = none ∧ (s.capSrc a).base + o.toNat = addr := by
  simp only [granted, Bool.and_eq_true, beq_iff_eq, decide_eq_true_eq, Bool.not_eq_true'] at h
  obtain ⟨⟨⟨⟨⟨⟨⟨⟨⟨h1, h2⟩, h3⟩, h4⟩, h5⟩, h6⟩, h7⟩, h8⟩, h9⟩, h10⟩ := h
  have ha : (s.capSrc a).base + o.toNat = addr := by omega
  refine ⟨?_, ha⟩
  have : capCheck (s.capSrc a) o n need false = none := by
    simp only [capCheck, h1, h2, h3, h4]
    simp; omega
  simp only [tileCheck, this, ha, inTile, h8]
  simp; omega

/-- R281: nothing holds back the access. -/
theorem unheld_ok {s k m} (h : unheld s k m = true) : s.mayAccess k (Machine.orderOf m) = true := by
  simp only [unheld, State.mayAccess, Machine.orderOf, bits] at *
  have : m.toNat < 16 := m.isLt
  simp at h ⊢
  refine ⟨h.1, h.2.imp ?_ id⟩
  intro h; omega

/-- R119: the token of an engine command. -/
theorem token_eq (p : BitVec 7) : tokenEff (.slice p 15) = token p := by
  simp [tokenEff, token, Eff.put, Eff.slices]

/-- R119: a token written in the next cycle. -/
theorem tokenOf_eq (p : BitVec 7) (v) : tokenNow (.slice p 15) v = tokenOf p v := by
  simp [tokenNow, tokenOf, Eff.put, Eff.slices]

/-- R319: a capability without EO differs in no other bit. -/
theorem noEo_raw (c : Cap) : c.noEo.raw.toNat = c.raw.toNat / 2 ^ 22 * 2 ^ 22 + c.raw.toNat % 2 ^ 21 := by
  have hv := c.raw.isLt
  simp only [Cap.noEo, setBits, BitVec.toNat_ofNat]
  omega

/-- R319: without EO a capability grants what it granted, but for EO itself. -/
theorem noEo_perms (c : Cap) (need : Nat) (h : need.testBit 5 = false) : c.noEo.perms &&& need = c.perms &&& need := by
  have e : c.noEo.perms % 2 ^ 5 = c.perms % 2 ^ 5 ∧ c.noEo.perms / 2 ^ 6 = c.perms / 2 ^ 6 := by
    simp only [Cap.perms, noEo_raw, bits]; omega
  apply Nat.eq_of_testBit_eq
  intro i
  simp only [Nat.testBit_and]
  by_cases h5 : i = 5
  · subst h5; simp [h]
  · congr 1
    by_cases hi : i < 5
    · have := congrArg (fun n => n.testBit i) e.1
      simp only [Nat.testBit_mod_two_pow, hi, decide_true, Bool.true_and] at this
      exact this
    · have := congrArg (fun n => n.testBit (i - 6)) e.2
      simp only [Nat.testBit_div_two_pow] at this
      rwa [show i - 6 + 6 = i by omega] at this

/-- R319: the other fields of a capability without EO. -/
theorem noEo_tag (c : Cap) : c.noEo.tag = c.tag := by cases c; rfl
theorem noEo_len (c : Cap) : c.noEo.len = c.len := by simp only [Cap.len, noEo_raw, bits]; generalize c.raw.toNat = n; omega
theorem noEo_space (c : Cap) : c.noEo.space = c.space := by simp only [Cap.space, noEo_raw, bits]; generalize c.raw.toNat = n; omega
theorem noEo_eo (c : Cap) : c.noEo.eo = false := by
  simp only [Cap.eo, bit, noEo_raw, beq_eq_false_iff_ne]; generalize c.raw.toNat = n; omega

/-- R318, R319: a granted block of an aligned address passes the checks of a block; EO does not matter. -/
theorem block_ok {s k a o n need addr} (h : grantedBlock s k a o n need addr = true) (hn : need.testBit 5 = false) (ha : addr % 64 = 0) :
   blockCheck (s.cc k).tilecap (s.capSrc a) o n need = .ok addr := by
  simp only [grantedBlock, Bool.and_eq_true, beq_iff_eq, decide_eq_true_eq] at h
  obtain ⟨⟨⟨⟨⟨⟨⟨⟨h1, h2⟩, h4⟩, h5⟩, h6⟩, h7⟩, h8⟩, h9⟩, h10⟩ := h
  have hb : (s.capSrc a).base + o.toNat = addr := by omega
  have hs : (s.capSrc a).noEo.space = 1 := by rw [noEo_space]; exact h2
  have hl := noEo_len (s.capSrc a)
  have he := noEo_eo (s.capSrc a)
  have hp : (s.capSrc a).noEo.perms &&& need = need := by rw [noEo_perms _ _ hn]; exact h4
  have hc : capCheck (s.capSrc a).noEo o n need false = none := by
    have : ¬ (o < 0 ∨ ((s.capSrc a).len : Int) < o + n) := by omega
    have h0 : (s.capSrc a).noEo.tag = true := by rw [noEo_tag]; exact h1
    unfold capCheck
    rw [h0, hs, he, hp, hl]
    simp; omega
  have ht : inTile (s.cc k).tilecap addr n = true := by simp [inTile, h8, h9, h10]
  simp [blockCheck, hc, hb, ht, ha]

/-- R369: the vector of a cause word. -/
theorem vec_eq (v : Word64) : causeVec v = (v.extractLsb' 35 29).toNat := by
  simp [causeVec, bits, BitVec.extractLsb'_toNat, Nat.shiftRight_eq_div_pow]

end Sys2Proof.Laws
end

