-- ==== Sys2Proof/Laws/Decode.lean ====
section
/-! SUPPORT. The encoder against the decoder, field by field. -/
namespace Sys2Proof

/-- R30: the fields of a word put together are the fields. -/
theorem fieldsOf_wordOf (f : Fields) : fieldsOf (wordOf f) = f := by
  obtain ⟨g,op,d,a,b,m⟩ := f
  simp only [fieldsOf, wordOf, Fields.mk.injEq]
  refine ⟨?_,?_,?_,?_,?_,?_⟩ <;>
    (ext i hi
     simp only [BitVec.getElem_extractLsb', BitVec.getLsbD_append]
     repeat' split
     all_goals first | omega | (rw [← BitVec.getLsbD_eq_getElem]; congr 1; omega))

/-- R31: every operand is read back from its field. -/
theorem operandOf_enc (o : Operand) : operandOf o.enc = some o := by
  cases o with
  | slice s c => revert s c; decide +kernel
  | inChan ch kp => revert ch kp; decide
  | outChan ch kd => revert ch kd; decide
  | pass q out => revert q out; decide
  | pred p => revert p; decide
  | imm v => revert v; decide +kernel
  | sreg v => revert v; decide +kernel
  | port q out => revert q out; decide
  | res r => revert r; decide

/-- R30, R50: a word whose fields pass the checks of the decoder is read as the instruction that they build. -/
theorem decode_wordOf {k : SiteKind} {f : Fields} {i : Instr} {mk : ModKind} (hm : modKindOf f.op.toNat = some mk)
    (h1 : mk.ok f.mod = true) (h2 : siteOk k f.op.toNat = true) (h3 : siteMod k f = true) (hg : guardOk k f.guard = true)
    (hb : build f = some i) (ho : i.operandsOk k = true) : decode k (wordOf f) = .ok i := by
  simp only [decode, fieldsOf_wordOf, hm, h1, h2, h3, hg, hb, ho]; rfl


theorem dst_enc_ne_zero {k} {o : Operand} (h : (Wf.dstOk k o && !Wf.isNone o) = true) : (o.enc == 0) = false := by
  cases o with
  | slice s c =>
     have h : Wf.isNone (.slice s c) = false := by revert h; cases Wf.isNone (.slice s c) <;> simp
     clear * - h
     revert s c; decide +kernel
  | inChan ch kp => clear h; revert ch kp; decide
  | outChan ch kd => clear h; revert ch kd; decide
  | pass q out => clear h; revert q out; decide
  | pred p => clear h; revert p; decide
  | imm v => clear h; revert v; decide +kernel
  | sreg v => clear h; revert v; decide +kernel
  | port q out => clear h; revert q out; decide
  | res r => clear h; revert r; decide
theorem portOut_enc_ne_zero {o : Operand} (h : Wf.isPortOut o = true) : (o.enc == 0) = false := by
  cases o with
  | port q out => clear h; revert q out; decide
  | _ => simp [Wf.isPortOut] at h

theorem boolField (x : Bool) : ((if x then (1:BitVec 4) else 0) == 1) = x := by cases x <;> rfl
theorem roundingOf_enc (r : Rounding) : roundingOf r.enc = some r := by cases r <;> rfl
theorem laneOf_enc (r : Lane) : laneOf r.enc = some r := by cases r <;> rfl
theorem laneSignOf_enc (r : LaneSign) : laneSignOf r.enc = some r := by obtain ⟨l,u⟩ := r; cases l <;> cases u <;> rfl
theorem lfmtOf_enc (r : LFmt) : lfmtOf r.enc = some r := by cases r <;> rfl
theorem rounding_enc_le (r : Rounding) : r.enc.toNat ≤ 4 := by cases r <;> decide
theorem lane_enc_le (r : Lane) : r.enc.toNat ≤ 4 := by cases r <;> decide
theorem laneSign_enc_le (r : LaneSign) : r.enc.toNat % 8 ≤ 4 := by obtain ⟨l,u⟩ := r; cases l <;> cases u <;> decide
theorem lfmt_enc_le (r : LFmt) : r.enc.toNat ≤ 2 := by cases r <;> decide
theorem predField3 (p : BitVec 3) : (0#1 ++ p).extractLsb' 0 3 = p := by revert p; decide
theorem predField2 (p : BitVec 2) : (0#2 ++ p).extractLsb' 0 2 = p := by revert p; decide
theorem predField3_toNat (p : BitVec 3) : (0#1 ++ p).toNat = p.toNat := by revert p; decide
theorem predField2_toNat (p : BitVec 2) : (0#2 ++ p).toNat = p.toNat := by revert p; decide
theorem predField3_zero (p : BitVec 3) : ((0#1 ++ p) == 0) = (p == 0) := by revert p; decide
theorem immField28 (x : BitVec 28) : (x.extractLsb' 16 12 ++ x.extractLsb' 4 12) ++ x.extractLsb' 0 4 = x := by
  ext i hi
  simp only [BitVec.getElem_append, BitVec.getElem_extractLsb']
  repeat' split
  all_goals (rw [← BitVec.getLsbD_eq_getElem]; congr 1; omega)
theorem targetField36 (x : BitVec 36) : (x.extractLsb' 24 12 ++ x.extractLsb' 12 12) ++ x.extractLsb' 0 12 = x := by
  ext i hi
  simp only [BitVec.getElem_append, BitVec.getElem_extractLsb']
  repeat' split
  all_goals (rw [← BitVec.getLsbD_eq_getElem]; congr 1; omega)
theorem targetField24 (x : BitVec 24) : (x.extractLsb' 12 12 ++ x.extractLsb' 0 12)  = x := by
  ext i hi
  simp only [BitVec.getElem_append, BitVec.getElem_extractLsb']
  repeat' split
  all_goals (rw [← BitVec.getLsbD_eq_getElem]; congr 1; omega)
/-- R227: the source of a matrix product is read back. -/
theorem mmacSrcOf_enc (s : MmacSrc) : mmacSrcOf s.encMod s.encA = some s := by
  cases s with
  | bus o => simp [mmacSrcOf, MmacSrc.encMod, MmacSrc.encA, operandOf_enc]
  | store g => revert g; decide
theorem mmacSrc_mod_ok (s : MmacSrc) : ModKind.ok s.encMod .mmac = true := by
  cases s with
  | bus o => rfl
  | store g => revert g; decide
theorem mmacSrc_mod_lt (s : MmacSrc) (n) (h : Wf.groupOk s n = true) : s.encMod.toNat < 8 + n := by
  cases s with
  | bus o => simp [MmacSrc.encMod]
  | store g => 
    have h : g.toNat < n := by simpa [Wf.groupOk] using h
    have : (1#1 ++ g).toNat = 8 + g.toNat := by clear * -; revert g; decide
    simp only [MmacSrc.encMod, this]; omega
theorem optPresent_zero (b : Option Operand) : ((if b.isSome then (1:BitVec 4) else 0) == 0) = b.isNone := by cases b <;> rfl
theorem optAbsent_one (b : Option Operand) : ((if b.isNone then (1:BitVec 4) else 0) == 1) = b.isNone := by cases b <;> rfl
/-- An optional operand is read back. -/
theorem optField_enc (b : Option Operand) : optField b.isNone (optEnc b) = some b := by cases b <;> simp [optField, optEnc, operandOf_enc]

end Sys2Proof
end

