-- ==== Sys2Proof/Laws/Memory.lean ====
section
/-! SUPPORT. The laws of memory: reading what was written, what a write leaves alone, and the canonical form. -/
namespace Sys2Proof.Machine

/-! ### One byte -/

/-- The canonical form above a bound holds above every lower bound. -/
theorem memWfFrom_weaken {m : List Host.Cell} {a b : Nat} (h : memWfFrom (some b) m = true) (hab : a ≤ b) : memWfFrom (some a) m = true := by
  cases m with
  | nil => rfl
  | cons p r =>
    obtain ⟨c, v⟩ := p
    simp only [memWfFrom, Bool.and_eq_true, decide_eq_true_eq] at h ⊢
    exact ⟨⟨by omega, h.1.2⟩, h.2⟩

theorem memWfFrom_none {m : List Host.Cell} {a : Nat} (h : memWfFrom (some a) m = true) : memWfFrom none m = true := by
  cases m with
  | nil => rfl
  | cons p r => simp only [memWfFrom, Bool.and_eq_true, Bool.true_and] at h ⊢; exact ⟨h.1.2, h.2⟩

/-- Nothing is listed at or below the bound of a canonical list. -/
theorem memRead_below {m : List Host.Cell} {b a : Nat} (h : memWfFrom (some b) m = true) (hab : a ≤ b) : memRead m a = 0 := by
  cases m with
  | nil => rfl
  | cons p r =>
    obtain ⟨c, v⟩ := p
    simp only [memWfFrom, Bool.and_eq_true, decide_eq_true_eq] at h
    have hc := h.1.1
    simp only [memRead]
    rw [if_neg (by omega), if_pos (by omega)]

theorem memWfFrom_memWrite (m : List Host.Cell) (lo : Nat) (a : Nat) (v : Byte) (h : memWfFrom (some lo) m = true) (hlo : lo < a) :
    memWfFrom (some lo) (memWrite m a v) = true := by
  induction m generalizing lo with
  | nil => by_cases hv : v = 0#8 <;> simp [memWrite, memWfFrom, hv, hlo]
  | cons p r ih =>
    obtain ⟨c, u⟩ := p
    simp only [memWfFrom, Bool.and_eq_true, decide_eq_true_eq, bne_iff_ne, ne_eq, BitVec.ofNat_eq_ofNat] at h
    obtain ⟨⟨h1, h2⟩, h3⟩ := h
    by_cases hac : a < c
    · by_cases hv : v = 0#8
      · simp [memWrite, hac, hv, memWfFrom, h1, h2, h3]
      · simp [memWrite, hac, hv, memWfFrom, hlo, h2, h3]
    · by_cases he : a = c
      · subst he
        by_cases hv : v = 0#8
        · simpa [memWrite, hv] using memWfFrom_weaken h3 (by omega)
        · simp [memWrite, hv, memWfFrom, hlo, h3]
      · simp [memWrite, hac, he, memWfFrom, h1, h2, ih c h3 (by omega)]

/-- A write keeps the canonical form. -/
theorem memWf_memWrite (m : List Host.Cell) (a : Nat) (v : Byte) (h : memWf m = true) : memWf (memWrite m a v) = true := by
  unfold memWf at h ⊢
  cases m with
  | nil => by_cases hv : v = 0#8 <;> simp [memWrite, memWfFrom, hv]
  | cons p r =>
    obtain ⟨c, u⟩ := p
    simp only [memWfFrom, Bool.and_eq_true, Bool.true_and, bne_iff_ne, ne_eq, BitVec.ofNat_eq_ofNat] at h
    obtain ⟨h2, h3⟩ := h
    by_cases hac : a < c
    · by_cases hv : v = 0#8 <;> simp [memWrite, hac, hv, memWfFrom, h2, h3]
    · by_cases he : a = c
      · subst he
        by_cases hv : v = 0#8
        · simpa [memWrite, hv] using memWfFrom_none h3
        · simp [memWrite, hv, memWfFrom, h3]
      · simp [memWrite, hac, he, memWfFrom, h2, memWfFrom_memWrite r c a v h3 (by omega)]

/-- What a byte reads as after a write to a canonical memory. -/
theorem memRead_memWriteFrom (m : List Host.Cell) (lo : Option Nat) (a b : Nat) (v : Byte) (h : memWfFrom lo m = true) :
    memRead (memWrite m a v) b = if b = a then v else memRead m b := by
  induction m generalizing lo with
  | nil =>
    by_cases hv : v = 0#8
    · simp [memWrite, memRead, hv]
    · by_cases hb : b = a <;> simp [memWrite, memRead, hv, hb]
  | cons p r ih =>
    obtain ⟨c, u⟩ := p
    have h3 : memWfFrom (some c) r = true := by
      cases lo <;> simp only [memWfFrom, Bool.and_eq_true] at h <;> exact h.2
    by_cases hac : a < c
    · by_cases hv : v = 0#8
      · by_cases hb : b = a
        · subst hb; simp [memWrite, hac, hv, memRead]; omega
        · simp [memWrite, hac, hv, hb]
      · by_cases hb : b = a
        · subst hb; simp [memWrite, hac, hv, memRead]
        · simp only [memWrite, hac, if_true, BitVec.ofNat_eq_ofNat, hv, if_false, memRead, hb]
          by_cases h5 : b < a
          · rw [if_pos h5, if_neg (by omega), if_pos (by omega)]
          · rw [if_neg h5]
    · by_cases he : a = c
      · subst he
        by_cases hv : v = 0#8
        · by_cases hb : b = a
          · subst hb; simp [memWrite, hv, memRead_below h3 (Nat.le_refl b)]
          · simp only [memWrite, hac, if_false, if_true, BitVec.ofNat_eq_ofNat, hv, memRead, hb]
            by_cases h5 : b < a
            · rw [if_pos h5, memRead_below h3 (by omega)]; rfl
            · rw [if_neg h5]
        · by_cases hb : b = a
          · subst hb; simp [memWrite, hv, memRead]
          · simp [memWrite, hv, memRead, hb]
      · have ih := ih (some c) h3
        simp only [memWrite, hac, he, if_false, memRead, ih]
        by_cases hb : b = a
        · subst hb; simp [he, hac]
        · simp [hb]

theorem memRead_memWrite (m : List Host.Cell) (a b : Nat) (v : Byte) (h : memWf m = true) :
    memRead (memWrite m a v) b = if b = a then v else memRead m b := memRead_memWriteFrom m none a b v h

/-! ### Several bytes -/

theorem memWf_memPut (v : List Byte) (m : List Host.Cell) (a : Nat) (h : memWf m = true) : memWf (memPut m a v) = true := by
  induction v generalizing m a with
  | nil => exact h
  | cons x r ih => exact ih _ _ (memWf_memWrite m a x h)

/-- A byte outside the written ones is unchanged. -/
theorem memRead_memPut_other (v : List Byte) (m : List Host.Cell) (a b : Nat) (h : memWf m = true) (hb : b < a ∨ a + v.length ≤ b) :
    memRead (memPut m a v) b = memRead m b := by
  induction v generalizing m a with
  | nil => rfl
  | cons x r ih =>
    simp only [List.length_cons] at hb
    simp only [memPut]
    rw [ih _ _ (memWf_memWrite m a x h) (by omega), memRead_memWrite m a b x h, if_neg (by omega)]

/-- Each written byte reads as it was written. -/
theorem memRead_memPut (v : List Byte) (m : List Host.Cell) (a i : Nat) (h : memWf m = true) (hi : i < v.length) :
    memRead (memPut m a v) (a + i) = v[i] := by
  induction v generalizing m a i with
  | nil => simp at hi
  | cons x r ih =>
    cases i with
    | zero =>
      simp only [memPut, Nat.add_zero, List.getElem_cons_zero]
      rw [memRead_memPut_other r _ _ _ (memWf_memWrite m a x h) (by omega), memRead_memWrite m a a x h, if_pos rfl]
    | succ j =>
      simp only [List.length_cons] at hi
      have := ih (memWrite m a x) (a + 1) j (memWf_memWrite m a x h) (by omega)
      simp only [memPut, List.getElem_cons_succ]
      rw [← this]
      congr 1
      omega

@[simp] theorem memBytes_length (m : List Host.Cell) (a n : Nat) : (memBytes m a n).length = n := by
  induction n generalizing a with
  | zero => rfl
  | succ k ih => simp [memBytes, ih]

/-- What was written is read back. -/
theorem memBytes_memPut (v : List Byte) (m : List Host.Cell) (a : Nat) (h : memWf m = true) : memBytes (memPut m a v) a v.length = v := by
  induction v generalizing m a with
  | nil => rfl
  | cons x r ih =>
    simp only [List.length_cons, memBytes]
    rw [show memRead (memPut m a (x :: r)) a = x from memRead_memPut (x :: r) m a 0 h (by simp)]
    congr 1
    exact ih _ _ (memWf_memWrite m a x h)

/-- Bytes apart from the written ones are unchanged. -/
theorem memBytes_memPut_other (v : List Byte) (m : List Host.Cell) (a b n : Nat) (h : memWf m = true) (hb : b + n ≤ a ∨ a + v.length ≤ b) :
    memBytes (memPut m a v) b n = memBytes m b n := by
  induction n generalizing b with
  | zero => rfl
  | succ k ih =>
    simp only [memBytes]
    rw [memRead_memPut_other v m a b h (by omega), ih (b + 1) (by omega)]

/-! ### Dropping entries -/

theorem memWfFrom_filter (m : List Host.Cell) (lo : Nat) (p : Host.Cell → Bool) (h : memWfFrom (some lo) m = true) : memWfFrom (some lo) (m.filter p) = true := by
  induction m generalizing lo with
  | nil => rfl
  | cons q r ih =>
    obtain ⟨c, u⟩ := q
    simp only [memWfFrom, Bool.and_eq_true, decide_eq_true_eq] at h
    by_cases hp : p (c, u) = true
    · simp only [List.filter_cons, hp, if_true, memWfFrom, Bool.and_eq_true, decide_eq_true_eq]
      exact ⟨h.1, ih c h.2⟩
    · simp only [List.filter_cons, hp]
      exact memWfFrom_weaken (ih c h.2) (by omega)

/-- Dropping entries keeps the canonical form. -/
theorem memWf_filter (m : List Host.Cell) (p : Host.Cell → Bool) (h : memWf m = true) : memWf (m.filter p) = true := by
  unfold memWf at h ⊢
  cases m with
  | nil => rfl
  | cons q r =>
    obtain ⟨c, u⟩ := q
    simp only [memWfFrom, Bool.and_eq_true, Bool.true_and] at h
    by_cases hp : p (c, u) = true
    · simp only [List.filter_cons, hp, if_true, memWfFrom, Bool.and_eq_true, Bool.true_and]
      exact ⟨h.1, memWfFrom_filter r c p h.2⟩
    · simp only [List.filter_cons, hp]
      exact memWfFrom_none (memWfFrom_filter r c p h.2)

/-- Writing a list of bytes one by one keeps the canonical form. -/
theorem memWf_foldl_memWrite (l : List Host.Cell) (m : List Host.Cell) (f : Host.Cell → Nat) (h : memWf m = true) :
    memWf (l.foldl (fun m c => memWrite m (f c) c.2) m) = true := by
  induction l generalizing m with
  | nil => exact h
  | cons x r ih => exact ih _ (memWf_memWrite m (f x) x.2 h)

/-- A copy keeps the canonical form. -/
theorem memWf_memCopy (m : List Host.Cell) (a b n : Nat) (h : memWf m = true) : memWf (memCopy m a b n) = true :=
  memWf_foldl_memWrite _ _ (fun c => b + (c.1 - a)) (memWf_filter m _ h)

/-! ### Bytes of numbers -/

@[simp] theorem toBytes_length (v n : Nat) : (toBytes v n).length = n := by
  induction n generalizing v with
  | zero => rfl
  | succ k ih => simp [toBytes, ih]

/-- The bytes of a number give the number back, as far as they reach. -/
theorem ofBytes_toBytes (v n : Nat) : ofBytes (toBytes v n) = v % 256 ^ n := by
  induction n generalizing v with
  | zero => simp [toBytes, ofBytes, Nat.mod_one]
  | succ k ih =>
    have h : v % 256 ^ (k + 1) = v % 256 + 256 * (v / 256 % 256 ^ k) := by rw [pow_succ', Nat.mod_mul]
    rw [toBytes, ofBytes, ih, BitVec.toNat_ofNat, h]

/-! ### The state's stores -/

/-- Every store keeps the canonical form. -/
theorem State.put_wf (s : State) (a : Nat) (v : List Byte) (h : memWf s.mem = true) : memWf (s.put a v).mem = true := memWf_memPut v s.mem a h

theorem State.store_wf (s : State) (a n v : Nat) (h : memWf s.mem = true) : memWf (s.store a n v).mem = true := State.put_wf s a _ h

theorem State.storeCap_wf (s : State) (a : Nat) (c : Cap) (h : memWf s.mem = true) : memWf (s.storeCap a c).mem = true := by
  have := State.store_wf s a 16 c.raw.toNat h
  unfold State.storeCap
  split_ifs <;> exact this

/-- R2: what was stored is loaded. -/
theorem State.load_store (s : State) (a n v : Nat) (h : memWf s.mem = true) : (s.store a n v).load a n = v % 256 ^ n := by
  have := memBytes_memPut (toBytes v n) s.mem a h
  rw [toBytes_length] at this
  simp only [State.load, State.store, State.put, this, ofBytes_toBytes]

/-- A store leaves the bytes apart from its own as they were. -/
theorem State.load_store_other (s : State) (a n v b m : Nat) (h : memWf s.mem = true) (hb : b + m ≤ a ∨ a + n ≤ b) : (s.store a n v).load b m = s.load b m := by
  simp only [State.load, State.store, State.put]
  rw [memBytes_memPut_other _ _ _ _ _ h (by simpa using hb)]

end Sys2Proof.Machine
end

