-- ==== Sys2Proof/Laws/State.lean ====
section
/-! SUPPORT. Maps by key, and what each update of the state leaves as it was: one lemma per field and update. -/
namespace Sys2Proof.Machine

/-! ### Maps by key -/

@[simp] theorem SMap.get?_nil {α : Type} (k : Nat) : SMap.get? ([] : SMap α) k = none := rfl

/-- What a key reads as after one key is set. -/
@[simp] theorem SMap.get?_set {α : Type} (m : SMap α) (k j : Nat) (v : α) : (m.set k v).get? j = if j = k then some v else m.get? j := by
  induction m with
  | nil => simp [SMap.set, SMap.get?]
  | cons p r ih =>
    obtain ⟨i, u⟩ := p
    simp only [SMap.set]
    by_cases h1 : k < i
    · simp [h1, SMap.get?]
    · by_cases h2 : k = i
      · subst h2
        by_cases h3 : j = k <;> simp [SMap.get?, h3]
      · by_cases h3 : j = i
        · have : j ≠ k := by omega
          simp [h1, h2, SMap.get?, h3]
          omega
        · simp [h1, h2, SMap.get?, h3, ih]

/-- What a key reads as after one key is changed where it is present. -/
@[simp] theorem SMap.get?_mod {α : Type} (m : SMap α) (k j : Nat) (f : α → α) : (m.mod k f).get? j = if j = k then (m.get? j).map f else m.get? j := by
  induction m with
  | nil => simp [SMap.mod]
  | cons p r ih =>
    obtain ⟨i, u⟩ := p
    simp only [SMap.mod, List.map_cons] at ih ⊢
    by_cases h : i = k
    · subst h
      by_cases h2 : j = i <;> simp_all [SMap.get?]
    · by_cases h2 : j = i
      · subst h2
        simp [h, SMap.get?]
      · simp [h, SMap.get?, h2, ih]

@[simp] theorem SMap.getD_set {α : Type} (m : SMap α) (k j : Nat) (v d : α) : (m.set k v).getD j d = if j = k then v else m.getD j d := by
  unfold SMap.getD
  rw [SMap.get?_set]
  split_ifs <;> rfl

/-! ### Cores and partitions -/

@[simp] theorem State.core_modCore (s : State) (k j : Nat) (f : Core → Core) : (s.modCore k f).core j = if j = k then f (s.core k) else s.core j := by
  simp [State.modCore, State.core]

@[simp] theorem State.cc_modCc (s : State) (k j : Nat) (f : ControlCore → ControlCore) : (s.modCc k f).cc j = if j = k then f (s.cc k) else s.cc j := by
  simp only [State.cc, State.modCc, State.core_modCore]
  split_ifs <;> rfl

@[simp] theorem State.part_modPart (s : State) (p q : Nat) (f : Part → Part) : (s.modPart p f).part q = if q = p then f (s.part p) else s.part q := by
  simp [State.modPart, State.part]

/-! ### modCore -/

@[simp] theorem State.modCore_site (s : State) (k : Nat) (f : Core → Core) : (s.modCore k f).site = s.site := rfl
@[simp] theorem State.modCore_fired (s : State) (k : Nat) (f : Core → Core) : (s.modCore k f).fired = s.fired := rfl
@[simp] theorem State.modCore_todo (s : State) (k : Nat) (f : Core → Core) : (s.modCore k f).todo = s.todo := rfl
@[simp] theorem State.modCore_timers (s : State) (k : Nat) (f : Core → Core) : (s.modCore k f).timers = s.timers := rfl
@[simp] theorem State.modCore_free (s : State) (k : Nat) (f : Core → Core) : (s.modCore k f).free = s.free := rfl
@[simp] theorem State.modCore_nextId (s : State) (k : Nat) (f : Core → Core) : (s.modCore k f).nextId = s.nextId := rfl
@[simp] theorem State.modCore_cycle (s : State) (k : Nat) (f : Core → Core) : (s.modCore k f).cycle = s.cycle := rfl
@[simp] theorem State.modCore_timeBase (s : State) (k : Nat) (f : Core → Core) : (s.modCore k f).timeBase = s.timeBase := rfl
@[simp] theorem State.modCore_posts (s : State) (k : Nat) (f : Core → Core) : (s.modCore k f).posts = s.posts := rfl
@[simp] theorem State.modCore_traces (s : State) (k : Nat) (f : Core → Core) : (s.modCore k f).traces = s.traces := rfl
@[simp] theorem State.modCore_msix (s : State) (k : Nat) (f : Core → Core) : (s.modCore k f).msix = s.msix := rfl
@[simp] theorem State.modCore_reply (s : State) (k : Nat) (f : Core → Core) : (s.modCore k f).reply = s.reply := rfl
@[simp] theorem State.modCore_parts (s : State) (k : Nat) (f : Core → Core) : (s.modCore k f).parts = s.parts := rfl
@[simp] theorem State.modCore_launches (s : State) (k : Nat) (f : Core → Core) : (s.modCore k f).launches = s.launches := rfl
@[simp] theorem State.modCore_images (s : State) (k : Nat) (f : Core → Core) : (s.modCore k f).images = s.images := rfl
@[simp] theorem State.modCore_colls (s : State) (k : Nat) (f : Core → Core) : (s.modCore k f).colls = s.colls := rfl
@[simp] theorem State.modCore_mem (s : State) (k : Nat) (f : Core → Core) : (s.modCore k f).mem = s.mem := rfl
@[simp] theorem State.modCore_tags (s : State) (k : Nat) (f : Core → Core) : (s.modCore k f).tags = s.tags := rfl
@[simp] theorem State.modCore_bad (s : State) (k : Nat) (f : Core → Core) : (s.modCore k f).bad = s.bad := rfl
@[simp] theorem State.modCore_wrote (s : State) (k : Nat) (f : Core → Core) : (s.modCore k f).wrote = s.wrote := rfl
@[simp] theorem State.modCore_scale (s : State) (k : Nat) (f : Core → Core) : (s.modCore k f).scale = s.scale := rfl
@[simp] theorem State.modCore_avgW (s : State) (k : Nat) (f : Core → Core) : (s.modCore k f).avgW = s.avgW := rfl
@[simp] theorem State.modCore_overMs (s : State) (k : Nat) (f : Core → Core) : (s.modCore k f).overMs = s.overMs := rfl
@[simp] theorem State.modCore_suspended (s : State) (k : Nat) (f : Core → Core) : (s.modCore k f).suspended = s.suspended := rfl
@[simp] theorem State.modCore_sensors (s : State) (k : Nat) (f : Core → Core) : (s.modCore k f).sensors = s.sensors := rfl
@[simp] theorem State.modCore_above (s : State) (k : Nat) (f : Core → Core) : (s.modCore k f).above = s.above := rfl
@[simp] theorem State.modCore_thermal (s : State) (k : Nat) (f : Core → Core) : (s.modCore k f).thermal = s.thermal := rfl
@[simp] theorem State.modCore_tripped (s : State) (k : Nat) (f : Core → Core) : (s.modCore k f).tripped = s.tripped := rfl
@[simp] theorem State.modCore_trim (s : State) (k : Nat) (f : Core → Core) : (s.modCore k f).trim = s.trim := rfl
@[simp] theorem State.modCore_boot (s : State) (k : Nat) (f : Core → Core) : (s.modCore k f).boot = s.boot := rfl
@[simp] theorem State.modCore_indir (s : State) (k : Nat) (f : Core → Core) : (s.modCore k f).indir = s.indir := rfl
@[simp] theorem State.modCore_xcache (s : State) (k : Nat) (f : Core → Core) : (s.modCore k f).xcache = s.xcache := rfl
@[simp] theorem State.modCore_heat (s : State) (k : Nat) (f : Core → Core) : (s.modCore k f).heat = s.heat := rfl
@[simp] theorem State.modCore_copies (s : State) (k : Nat) (f : Core → Core) : (s.modCore k f).copies = s.copies := rfl
@[simp] theorem State.modCore_moves (s : State) (k : Nat) (f : Core → Core) : (s.modCore k f).moves = s.moves := rfl
@[simp] theorem State.modCore_parked (s : State) (k : Nat) (f : Core → Core) : (s.modCore k f).parked = s.parked := rfl
@[simp] theorem State.modCore_remaps (s : State) (k : Nat) (f : Core → Core) : (s.modCore k f).remaps = s.remaps := rfl
@[simp] theorem State.modCore_atomErrs (s : State) (k : Nat) (f : Core → Core) : (s.modCore k f).atomErrs = s.atomErrs := rfl
@[simp] theorem State.modCore_groups (s : State) (k : Nat) (f : Core → Core) : (s.modCore k f).groups = s.groups := rfl
@[simp] theorem State.modCore_ports (s : State) (k : Nat) (f : Core → Core) : (s.modCore k f).ports = s.ports := rfl
@[simp] theorem State.modCore_fenced (s : State) (k : Nat) (f : Core → Core) : (s.modCore k f).fenced = s.fenced := rfl
@[simp] theorem State.modCore_ownPkg (s : State) (k : Nat) (f : Core → Core) : (s.modCore k f).ownPkg = s.ownPkg := rfl
@[simp] theorem State.modCore_psel (s : State) (k : Nat) (f : Core → Core) : (s.modCore k f).psel = s.psel := rfl
@[simp] theorem State.modCore_wsel (s : State) (k : Nat) (f : Core → Core) : (s.modCore k f).wsel = s.wsel := rfl
@[simp] theorem State.modCore_dgsel (s : State) (k : Nat) (f : Core → Core) : (s.modCore k f).dgsel = s.dgsel := rfl
@[simp] theorem State.modCore_dtmo (s : State) (k : Nat) (f : Core → Core) : (s.modCore k f).dtmo = s.dtmo := rfl
@[simp] theorem State.modCore_trkper (s : State) (k : Nat) (f : Core → Core) : (s.modCore k f).trkper = s.trkper := rfl
@[simp] theorem State.modCore_bootstat (s : State) (k : Nat) (f : Core → Core) : (s.modCore k f).bootstat = s.bootstat := rfl
@[simp] theorem State.modCore_lsel (s : State) (k : Nat) (f : Core → Core) : (s.modCore k f).lsel = s.lsel := rfl
@[simp] theorem State.modCore_errc (s : State) (k : Nat) (f : Core → Core) : (s.modCore k f).errc = s.errc := rfl
@[simp] theorem State.modCore_errcNew (s : State) (k : Nat) (f : Core → Core) : (s.modCore k f).errcNew = s.errcNew := rfl
@[simp] theorem State.modCore_vfEnable (s : State) (k : Nat) (f : Core → Core) : (s.modCore k f).vfEnable = s.vfEnable := rfl
@[simp] theorem State.modCore_numVfs (s : State) (k : Nat) (f : Core → Core) : (s.modCore k f).numVfs = s.numVfs := rfl
@[simp] theorem State.modCore_dumpHeld (s : State) (k : Nat) (f : Core → Core) : (s.modCore k f).dumpHeld = s.dumpHeld := rfl
@[simp] theorem State.modCore_dumping (s : State) (k : Nat) (f : Core → Core) : (s.modCore k f).dumping = s.dumping := rfl
@[simp] theorem State.modCore_hostReqs (s : State) (k : Nat) (f : Core → Core) : (s.modCore k f).hostReqs = s.hostReqs := rfl
@[simp] theorem State.modCore_routes (s : State) (k : Nat) (f : Core → Core) : (s.modCore k f).routes = s.routes := rfl
@[simp] theorem State.modCore_flows (s : State) (k : Nat) (f : Core → Core) : (s.modCore k f).flows = s.flows := rfl
@[simp] theorem State.modCore_portFlits (s : State) (k : Nat) (f : Core → Core) : (s.modCore k f).portFlits = s.portFlits := rfl

/-! ### modCc -/

@[simp] theorem State.modCc_site (s : State) (k : Nat) (f : ControlCore → ControlCore) : (s.modCc k f).site = s.site := rfl
@[simp] theorem State.modCc_fired (s : State) (k : Nat) (f : ControlCore → ControlCore) : (s.modCc k f).fired = s.fired := rfl
@[simp] theorem State.modCc_todo (s : State) (k : Nat) (f : ControlCore → ControlCore) : (s.modCc k f).todo = s.todo := rfl
@[simp] theorem State.modCc_timers (s : State) (k : Nat) (f : ControlCore → ControlCore) : (s.modCc k f).timers = s.timers := rfl
@[simp] theorem State.modCc_free (s : State) (k : Nat) (f : ControlCore → ControlCore) : (s.modCc k f).free = s.free := rfl
@[simp] theorem State.modCc_nextId (s : State) (k : Nat) (f : ControlCore → ControlCore) : (s.modCc k f).nextId = s.nextId := rfl
@[simp] theorem State.modCc_cycle (s : State) (k : Nat) (f : ControlCore → ControlCore) : (s.modCc k f).cycle = s.cycle := rfl
@[simp] theorem State.modCc_timeBase (s : State) (k : Nat) (f : ControlCore → ControlCore) : (s.modCc k f).timeBase = s.timeBase := rfl
@[simp] theorem State.modCc_posts (s : State) (k : Nat) (f : ControlCore → ControlCore) : (s.modCc k f).posts = s.posts := rfl
@[simp] theorem State.modCc_traces (s : State) (k : Nat) (f : ControlCore → ControlCore) : (s.modCc k f).traces = s.traces := rfl
@[simp] theorem State.modCc_msix (s : State) (k : Nat) (f : ControlCore → ControlCore) : (s.modCc k f).msix = s.msix := rfl
@[simp] theorem State.modCc_reply (s : State) (k : Nat) (f : ControlCore → ControlCore) : (s.modCc k f).reply = s.reply := rfl
@[simp] theorem State.modCc_parts (s : State) (k : Nat) (f : ControlCore → ControlCore) : (s.modCc k f).parts = s.parts := rfl
@[simp] theorem State.modCc_launches (s : State) (k : Nat) (f : ControlCore → ControlCore) : (s.modCc k f).launches = s.launches := rfl
@[simp] theorem State.modCc_images (s : State) (k : Nat) (f : ControlCore → ControlCore) : (s.modCc k f).images = s.images := rfl
@[simp] theorem State.modCc_colls (s : State) (k : Nat) (f : ControlCore → ControlCore) : (s.modCc k f).colls = s.colls := rfl
@[simp] theorem State.modCc_mem (s : State) (k : Nat) (f : ControlCore → ControlCore) : (s.modCc k f).mem = s.mem := rfl
@[simp] theorem State.modCc_tags (s : State) (k : Nat) (f : ControlCore → ControlCore) : (s.modCc k f).tags = s.tags := rfl
@[simp] theorem State.modCc_bad (s : State) (k : Nat) (f : ControlCore → ControlCore) : (s.modCc k f).bad = s.bad := rfl
@[simp] theorem State.modCc_wrote (s : State) (k : Nat) (f : ControlCore → ControlCore) : (s.modCc k f).wrote = s.wrote := rfl
@[simp] theorem State.modCc_scale (s : State) (k : Nat) (f : ControlCore → ControlCore) : (s.modCc k f).scale = s.scale := rfl
@[simp] theorem State.modCc_avgW (s : State) (k : Nat) (f : ControlCore → ControlCore) : (s.modCc k f).avgW = s.avgW := rfl
@[simp] theorem State.modCc_overMs (s : State) (k : Nat) (f : ControlCore → ControlCore) : (s.modCc k f).overMs = s.overMs := rfl
@[simp] theorem State.modCc_suspended (s : State) (k : Nat) (f : ControlCore → ControlCore) : (s.modCc k f).suspended = s.suspended := rfl
@[simp] theorem State.modCc_sensors (s : State) (k : Nat) (f : ControlCore → ControlCore) : (s.modCc k f).sensors = s.sensors := rfl
@[simp] theorem State.modCc_above (s : State) (k : Nat) (f : ControlCore → ControlCore) : (s.modCc k f).above = s.above := rfl
@[simp] theorem State.modCc_thermal (s : State) (k : Nat) (f : ControlCore → ControlCore) : (s.modCc k f).thermal = s.thermal := rfl
@[simp] theorem State.modCc_tripped (s : State) (k : Nat) (f : ControlCore → ControlCore) : (s.modCc k f).tripped = s.tripped := rfl
@[simp] theorem State.modCc_trim (s : State) (k : Nat) (f : ControlCore → ControlCore) : (s.modCc k f).trim = s.trim := rfl
@[simp] theorem State.modCc_boot (s : State) (k : Nat) (f : ControlCore → ControlCore) : (s.modCc k f).boot = s.boot := rfl
@[simp] theorem State.modCc_indir (s : State) (k : Nat) (f : ControlCore → ControlCore) : (s.modCc k f).indir = s.indir := rfl
@[simp] theorem State.modCc_xcache (s : State) (k : Nat) (f : ControlCore → ControlCore) : (s.modCc k f).xcache = s.xcache := rfl
@[simp] theorem State.modCc_heat (s : State) (k : Nat) (f : ControlCore → ControlCore) : (s.modCc k f).heat = s.heat := rfl
@[simp] theorem State.modCc_copies (s : State) (k : Nat) (f : ControlCore → ControlCore) : (s.modCc k f).copies = s.copies := rfl
@[simp] theorem State.modCc_moves (s : State) (k : Nat) (f : ControlCore → ControlCore) : (s.modCc k f).moves = s.moves := rfl
@[simp] theorem State.modCc_parked (s : State) (k : Nat) (f : ControlCore → ControlCore) : (s.modCc k f).parked = s.parked := rfl
@[simp] theorem State.modCc_remaps (s : State) (k : Nat) (f : ControlCore → ControlCore) : (s.modCc k f).remaps = s.remaps := rfl
@[simp] theorem State.modCc_atomErrs (s : State) (k : Nat) (f : ControlCore → ControlCore) : (s.modCc k f).atomErrs = s.atomErrs := rfl
@[simp] theorem State.modCc_groups (s : State) (k : Nat) (f : ControlCore → ControlCore) : (s.modCc k f).groups = s.groups := rfl
@[simp] theorem State.modCc_ports (s : State) (k : Nat) (f : ControlCore → ControlCore) : (s.modCc k f).ports = s.ports := rfl
@[simp] theorem State.modCc_fenced (s : State) (k : Nat) (f : ControlCore → ControlCore) : (s.modCc k f).fenced = s.fenced := rfl
@[simp] theorem State.modCc_ownPkg (s : State) (k : Nat) (f : ControlCore → ControlCore) : (s.modCc k f).ownPkg = s.ownPkg := rfl
@[simp] theorem State.modCc_psel (s : State) (k : Nat) (f : ControlCore → ControlCore) : (s.modCc k f).psel = s.psel := rfl
@[simp] theorem State.modCc_wsel (s : State) (k : Nat) (f : ControlCore → ControlCore) : (s.modCc k f).wsel = s.wsel := rfl
@[simp] theorem State.modCc_dgsel (s : State) (k : Nat) (f : ControlCore → ControlCore) : (s.modCc k f).dgsel = s.dgsel := rfl
@[simp] theorem State.modCc_dtmo (s : State) (k : Nat) (f : ControlCore → ControlCore) : (s.modCc k f).dtmo = s.dtmo := rfl
@[simp] theorem State.modCc_trkper (s : State) (k : Nat) (f : ControlCore → ControlCore) : (s.modCc k f).trkper = s.trkper := rfl
@[simp] theorem State.modCc_bootstat (s : State) (k : Nat) (f : ControlCore → ControlCore) : (s.modCc k f).bootstat = s.bootstat := rfl
@[simp] theorem State.modCc_lsel (s : State) (k : Nat) (f : ControlCore → ControlCore) : (s.modCc k f).lsel = s.lsel := rfl
@[simp] theorem State.modCc_errc (s : State) (k : Nat) (f : ControlCore → ControlCore) : (s.modCc k f).errc = s.errc := rfl
@[simp] theorem State.modCc_errcNew (s : State) (k : Nat) (f : ControlCore → ControlCore) : (s.modCc k f).errcNew = s.errcNew := rfl
@[simp] theorem State.modCc_vfEnable (s : State) (k : Nat) (f : ControlCore → ControlCore) : (s.modCc k f).vfEnable = s.vfEnable := rfl
@[simp] theorem State.modCc_numVfs (s : State) (k : Nat) (f : ControlCore → ControlCore) : (s.modCc k f).numVfs = s.numVfs := rfl
@[simp] theorem State.modCc_dumpHeld (s : State) (k : Nat) (f : ControlCore → ControlCore) : (s.modCc k f).dumpHeld = s.dumpHeld := rfl
@[simp] theorem State.modCc_dumping (s : State) (k : Nat) (f : ControlCore → ControlCore) : (s.modCc k f).dumping = s.dumping := rfl
@[simp] theorem State.modCc_hostReqs (s : State) (k : Nat) (f : ControlCore → ControlCore) : (s.modCc k f).hostReqs = s.hostReqs := rfl
@[simp] theorem State.modCc_routes (s : State) (k : Nat) (f : ControlCore → ControlCore) : (s.modCc k f).routes = s.routes := rfl
@[simp] theorem State.modCc_flows (s : State) (k : Nat) (f : ControlCore → ControlCore) : (s.modCc k f).flows = s.flows := rfl
@[simp] theorem State.modCc_portFlits (s : State) (k : Nat) (f : ControlCore → ControlCore) : (s.modCc k f).portFlits = s.portFlits := rfl

/-! ### modElem -/

@[simp] theorem State.modElem_site (s : State) (k e : Nat) (f : Elem → Elem) : (s.modElem k e f).site = s.site := rfl
@[simp] theorem State.modElem_fired (s : State) (k e : Nat) (f : Elem → Elem) : (s.modElem k e f).fired = s.fired := rfl
@[simp] theorem State.modElem_todo (s : State) (k e : Nat) (f : Elem → Elem) : (s.modElem k e f).todo = s.todo := rfl
@[simp] theorem State.modElem_timers (s : State) (k e : Nat) (f : Elem → Elem) : (s.modElem k e f).timers = s.timers := rfl
@[simp] theorem State.modElem_free (s : State) (k e : Nat) (f : Elem → Elem) : (s.modElem k e f).free = s.free := rfl
@[simp] theorem State.modElem_nextId (s : State) (k e : Nat) (f : Elem → Elem) : (s.modElem k e f).nextId = s.nextId := rfl
@[simp] theorem State.modElem_cycle (s : State) (k e : Nat) (f : Elem → Elem) : (s.modElem k e f).cycle = s.cycle := rfl
@[simp] theorem State.modElem_timeBase (s : State) (k e : Nat) (f : Elem → Elem) : (s.modElem k e f).timeBase = s.timeBase := rfl
@[simp] theorem State.modElem_posts (s : State) (k e : Nat) (f : Elem → Elem) : (s.modElem k e f).posts = s.posts := rfl
@[simp] theorem State.modElem_traces (s : State) (k e : Nat) (f : Elem → Elem) : (s.modElem k e f).traces = s.traces := rfl
@[simp] theorem State.modElem_msix (s : State) (k e : Nat) (f : Elem → Elem) : (s.modElem k e f).msix = s.msix := rfl
@[simp] theorem State.modElem_reply (s : State) (k e : Nat) (f : Elem → Elem) : (s.modElem k e f).reply = s.reply := rfl
@[simp] theorem State.modElem_parts (s : State) (k e : Nat) (f : Elem → Elem) : (s.modElem k e f).parts = s.parts := rfl
@[simp] theorem State.modElem_launches (s : State) (k e : Nat) (f : Elem → Elem) : (s.modElem k e f).launches = s.launches := rfl
@[simp] theorem State.modElem_images (s : State) (k e : Nat) (f : Elem → Elem) : (s.modElem k e f).images = s.images := rfl
@[simp] theorem State.modElem_colls (s : State) (k e : Nat) (f : Elem → Elem) : (s.modElem k e f).colls = s.colls := rfl
@[simp] theorem State.modElem_mem (s : State) (k e : Nat) (f : Elem → Elem) : (s.modElem k e f).mem = s.mem := rfl
@[simp] theorem State.modElem_tags (s : State) (k e : Nat) (f : Elem → Elem) : (s.modElem k e f).tags = s.tags := rfl
@[simp] theorem State.modElem_bad (s : State) (k e : Nat) (f : Elem → Elem) : (s.modElem k e f).bad = s.bad := rfl
@[simp] theorem State.modElem_wrote (s : State) (k e : Nat) (f : Elem → Elem) : (s.modElem k e f).wrote = s.wrote := rfl
@[simp] theorem State.modElem_scale (s : State) (k e : Nat) (f : Elem → Elem) : (s.modElem k e f).scale = s.scale := rfl
@[simp] theorem State.modElem_avgW (s : State) (k e : Nat) (f : Elem → Elem) : (s.modElem k e f).avgW = s.avgW := rfl
@[simp] theorem State.modElem_overMs (s : State) (k e : Nat) (f : Elem → Elem) : (s.modElem k e f).overMs = s.overMs := rfl
@[simp] theorem State.modElem_suspended (s : State) (k e : Nat) (f : Elem → Elem) : (s.modElem k e f).suspended = s.suspended := rfl
@[simp] theorem State.modElem_sensors (s : State) (k e : Nat) (f : Elem → Elem) : (s.modElem k e f).sensors = s.sensors := rfl
@[simp] theorem State.modElem_above (s : State) (k e : Nat) (f : Elem → Elem) : (s.modElem k e f).above = s.above := rfl
@[simp] theorem State.modElem_thermal (s : State) (k e : Nat) (f : Elem → Elem) : (s.modElem k e f).thermal = s.thermal := rfl
@[simp] theorem State.modElem_tripped (s : State) (k e : Nat) (f : Elem → Elem) : (s.modElem k e f).tripped = s.tripped := rfl
@[simp] theorem State.modElem_trim (s : State) (k e : Nat) (f : Elem → Elem) : (s.modElem k e f).trim = s.trim := rfl
@[simp] theorem State.modElem_boot (s : State) (k e : Nat) (f : Elem → Elem) : (s.modElem k e f).boot = s.boot := rfl
@[simp] theorem State.modElem_indir (s : State) (k e : Nat) (f : Elem → Elem) : (s.modElem k e f).indir = s.indir := rfl
@[simp] theorem State.modElem_xcache (s : State) (k e : Nat) (f : Elem → Elem) : (s.modElem k e f).xcache = s.xcache := rfl
@[simp] theorem State.modElem_heat (s : State) (k e : Nat) (f : Elem → Elem) : (s.modElem k e f).heat = s.heat := rfl
@[simp] theorem State.modElem_copies (s : State) (k e : Nat) (f : Elem → Elem) : (s.modElem k e f).copies = s.copies := rfl
@[simp] theorem State.modElem_moves (s : State) (k e : Nat) (f : Elem → Elem) : (s.modElem k e f).moves = s.moves := rfl
@[simp] theorem State.modElem_parked (s : State) (k e : Nat) (f : Elem → Elem) : (s.modElem k e f).parked = s.parked := rfl
@[simp] theorem State.modElem_remaps (s : State) (k e : Nat) (f : Elem → Elem) : (s.modElem k e f).remaps = s.remaps := rfl
@[simp] theorem State.modElem_atomErrs (s : State) (k e : Nat) (f : Elem → Elem) : (s.modElem k e f).atomErrs = s.atomErrs := rfl
@[simp] theorem State.modElem_groups (s : State) (k e : Nat) (f : Elem → Elem) : (s.modElem k e f).groups = s.groups := rfl
@[simp] theorem State.modElem_ports (s : State) (k e : Nat) (f : Elem → Elem) : (s.modElem k e f).ports = s.ports := rfl
@[simp] theorem State.modElem_fenced (s : State) (k e : Nat) (f : Elem → Elem) : (s.modElem k e f).fenced = s.fenced := rfl
@[simp] theorem State.modElem_ownPkg (s : State) (k e : Nat) (f : Elem → Elem) : (s.modElem k e f).ownPkg = s.ownPkg := rfl
@[simp] theorem State.modElem_psel (s : State) (k e : Nat) (f : Elem → Elem) : (s.modElem k e f).psel = s.psel := rfl
@[simp] theorem State.modElem_wsel (s : State) (k e : Nat) (f : Elem → Elem) : (s.modElem k e f).wsel = s.wsel := rfl
@[simp] theorem State.modElem_dgsel (s : State) (k e : Nat) (f : Elem → Elem) : (s.modElem k e f).dgsel = s.dgsel := rfl
@[simp] theorem State.modElem_dtmo (s : State) (k e : Nat) (f : Elem → Elem) : (s.modElem k e f).dtmo = s.dtmo := rfl
@[simp] theorem State.modElem_trkper (s : State) (k e : Nat) (f : Elem → Elem) : (s.modElem k e f).trkper = s.trkper := rfl
@[simp] theorem State.modElem_bootstat (s : State) (k e : Nat) (f : Elem → Elem) : (s.modElem k e f).bootstat = s.bootstat := rfl
@[simp] theorem State.modElem_lsel (s : State) (k e : Nat) (f : Elem → Elem) : (s.modElem k e f).lsel = s.lsel := rfl
@[simp] theorem State.modElem_errc (s : State) (k e : Nat) (f : Elem → Elem) : (s.modElem k e f).errc = s.errc := rfl
@[simp] theorem State.modElem_errcNew (s : State) (k e : Nat) (f : Elem → Elem) : (s.modElem k e f).errcNew = s.errcNew := rfl
@[simp] theorem State.modElem_vfEnable (s : State) (k e : Nat) (f : Elem → Elem) : (s.modElem k e f).vfEnable = s.vfEnable := rfl
@[simp] theorem State.modElem_numVfs (s : State) (k e : Nat) (f : Elem → Elem) : (s.modElem k e f).numVfs = s.numVfs := rfl
@[simp] theorem State.modElem_dumpHeld (s : State) (k e : Nat) (f : Elem → Elem) : (s.modElem k e f).dumpHeld = s.dumpHeld := rfl
@[simp] theorem State.modElem_dumping (s : State) (k e : Nat) (f : Elem → Elem) : (s.modElem k e f).dumping = s.dumping := rfl
@[simp] theorem State.modElem_hostReqs (s : State) (k e : Nat) (f : Elem → Elem) : (s.modElem k e f).hostReqs = s.hostReqs := rfl
@[simp] theorem State.modElem_routes (s : State) (k e : Nat) (f : Elem → Elem) : (s.modElem k e f).routes = s.routes := rfl
@[simp] theorem State.modElem_flows (s : State) (k e : Nat) (f : Elem → Elem) : (s.modElem k e f).flows = s.flows := rfl
@[simp] theorem State.modElem_portFlits (s : State) (k e : Nat) (f : Elem → Elem) : (s.modElem k e f).portFlits = s.portFlits := rfl

/-! ### modCtx -/

@[simp] theorem State.modCtx_site (s : State) (k e c : Nat) (f : Ctx → Ctx) : (s.modCtx k e c f).site = s.site := rfl
@[simp] theorem State.modCtx_fired (s : State) (k e c : Nat) (f : Ctx → Ctx) : (s.modCtx k e c f).fired = s.fired := rfl
@[simp] theorem State.modCtx_todo (s : State) (k e c : Nat) (f : Ctx → Ctx) : (s.modCtx k e c f).todo = s.todo := rfl
@[simp] theorem State.modCtx_timers (s : State) (k e c : Nat) (f : Ctx → Ctx) : (s.modCtx k e c f).timers = s.timers := rfl
@[simp] theorem State.modCtx_free (s : State) (k e c : Nat) (f : Ctx → Ctx) : (s.modCtx k e c f).free = s.free := rfl
@[simp] theorem State.modCtx_nextId (s : State) (k e c : Nat) (f : Ctx → Ctx) : (s.modCtx k e c f).nextId = s.nextId := rfl
@[simp] theorem State.modCtx_cycle (s : State) (k e c : Nat) (f : Ctx → Ctx) : (s.modCtx k e c f).cycle = s.cycle := rfl
@[simp] theorem State.modCtx_timeBase (s : State) (k e c : Nat) (f : Ctx → Ctx) : (s.modCtx k e c f).timeBase = s.timeBase := rfl
@[simp] theorem State.modCtx_posts (s : State) (k e c : Nat) (f : Ctx → Ctx) : (s.modCtx k e c f).posts = s.posts := rfl
@[simp] theorem State.modCtx_traces (s : State) (k e c : Nat) (f : Ctx → Ctx) : (s.modCtx k e c f).traces = s.traces := rfl
@[simp] theorem State.modCtx_msix (s : State) (k e c : Nat) (f : Ctx → Ctx) : (s.modCtx k e c f).msix = s.msix := rfl
@[simp] theorem State.modCtx_reply (s : State) (k e c : Nat) (f : Ctx → Ctx) : (s.modCtx k e c f).reply = s.reply := rfl
@[simp] theorem State.modCtx_parts (s : State) (k e c : Nat) (f : Ctx → Ctx) : (s.modCtx k e c f).parts = s.parts := rfl
@[simp] theorem State.modCtx_launches (s : State) (k e c : Nat) (f : Ctx → Ctx) : (s.modCtx k e c f).launches = s.launches := rfl
@[simp] theorem State.modCtx_images (s : State) (k e c : Nat) (f : Ctx → Ctx) : (s.modCtx k e c f).images = s.images := rfl
@[simp] theorem State.modCtx_colls (s : State) (k e c : Nat) (f : Ctx → Ctx) : (s.modCtx k e c f).colls = s.colls := rfl
@[simp] theorem State.modCtx_mem (s : State) (k e c : Nat) (f : Ctx → Ctx) : (s.modCtx k e c f).mem = s.mem := rfl
@[simp] theorem State.modCtx_tags (s : State) (k e c : Nat) (f : Ctx → Ctx) : (s.modCtx k e c f).tags = s.tags := rfl
@[simp] theorem State.modCtx_bad (s : State) (k e c : Nat) (f : Ctx → Ctx) : (s.modCtx k e c f).bad = s.bad := rfl
@[simp] theorem State.modCtx_wrote (s : State) (k e c : Nat) (f : Ctx → Ctx) : (s.modCtx k e c f).wrote = s.wrote := rfl
@[simp] theorem State.modCtx_scale (s : State) (k e c : Nat) (f : Ctx → Ctx) : (s.modCtx k e c f).scale = s.scale := rfl
@[simp] theorem State.modCtx_avgW (s : State) (k e c : Nat) (f : Ctx → Ctx) : (s.modCtx k e c f).avgW = s.avgW := rfl
@[simp] theorem State.modCtx_overMs (s : State) (k e c : Nat) (f : Ctx → Ctx) : (s.modCtx k e c f).overMs = s.overMs := rfl
@[simp] theorem State.modCtx_suspended (s : State) (k e c : Nat) (f : Ctx → Ctx) : (s.modCtx k e c f).suspended = s.suspended := rfl
@[simp] theorem State.modCtx_sensors (s : State) (k e c : Nat) (f : Ctx → Ctx) : (s.modCtx k e c f).sensors = s.sensors := rfl
@[simp] theorem State.modCtx_above (s : State) (k e c : Nat) (f : Ctx → Ctx) : (s.modCtx k e c f).above = s.above := rfl
@[simp] theorem State.modCtx_thermal (s : State) (k e c : Nat) (f : Ctx → Ctx) : (s.modCtx k e c f).thermal = s.thermal := rfl
@[simp] theorem State.modCtx_tripped (s : State) (k e c : Nat) (f : Ctx → Ctx) : (s.modCtx k e c f).tripped = s.tripped := rfl
@[simp] theorem State.modCtx_trim (s : State) (k e c : Nat) (f : Ctx → Ctx) : (s.modCtx k e c f).trim = s.trim := rfl
@[simp] theorem State.modCtx_boot (s : State) (k e c : Nat) (f : Ctx → Ctx) : (s.modCtx k e c f).boot = s.boot := rfl
@[simp] theorem State.modCtx_indir (s : State) (k e c : Nat) (f : Ctx → Ctx) : (s.modCtx k e c f).indir = s.indir := rfl
@[simp] theorem State.modCtx_xcache (s : State) (k e c : Nat) (f : Ctx → Ctx) : (s.modCtx k e c f).xcache = s.xcache := rfl
@[simp] theorem State.modCtx_heat (s : State) (k e c : Nat) (f : Ctx → Ctx) : (s.modCtx k e c f).heat = s.heat := rfl
@[simp] theorem State.modCtx_copies (s : State) (k e c : Nat) (f : Ctx → Ctx) : (s.modCtx k e c f).copies = s.copies := rfl
@[simp] theorem State.modCtx_moves (s : State) (k e c : Nat) (f : Ctx → Ctx) : (s.modCtx k e c f).moves = s.moves := rfl
@[simp] theorem State.modCtx_parked (s : State) (k e c : Nat) (f : Ctx → Ctx) : (s.modCtx k e c f).parked = s.parked := rfl
@[simp] theorem State.modCtx_remaps (s : State) (k e c : Nat) (f : Ctx → Ctx) : (s.modCtx k e c f).remaps = s.remaps := rfl
@[simp] theorem State.modCtx_atomErrs (s : State) (k e c : Nat) (f : Ctx → Ctx) : (s.modCtx k e c f).atomErrs = s.atomErrs := rfl
@[simp] theorem State.modCtx_groups (s : State) (k e c : Nat) (f : Ctx → Ctx) : (s.modCtx k e c f).groups = s.groups := rfl
@[simp] theorem State.modCtx_ports (s : State) (k e c : Nat) (f : Ctx → Ctx) : (s.modCtx k e c f).ports = s.ports := rfl
@[simp] theorem State.modCtx_fenced (s : State) (k e c : Nat) (f : Ctx → Ctx) : (s.modCtx k e c f).fenced = s.fenced := rfl
@[simp] theorem State.modCtx_ownPkg (s : State) (k e c : Nat) (f : Ctx → Ctx) : (s.modCtx k e c f).ownPkg = s.ownPkg := rfl
@[simp] theorem State.modCtx_psel (s : State) (k e c : Nat) (f : Ctx → Ctx) : (s.modCtx k e c f).psel = s.psel := rfl
@[simp] theorem State.modCtx_wsel (s : State) (k e c : Nat) (f : Ctx → Ctx) : (s.modCtx k e c f).wsel = s.wsel := rfl
@[simp] theorem State.modCtx_dgsel (s : State) (k e c : Nat) (f : Ctx → Ctx) : (s.modCtx k e c f).dgsel = s.dgsel := rfl
@[simp] theorem State.modCtx_dtmo (s : State) (k e c : Nat) (f : Ctx → Ctx) : (s.modCtx k e c f).dtmo = s.dtmo := rfl
@[simp] theorem State.modCtx_trkper (s : State) (k e c : Nat) (f : Ctx → Ctx) : (s.modCtx k e c f).trkper = s.trkper := rfl
@[simp] theorem State.modCtx_bootstat (s : State) (k e c : Nat) (f : Ctx → Ctx) : (s.modCtx k e c f).bootstat = s.bootstat := rfl
@[simp] theorem State.modCtx_lsel (s : State) (k e c : Nat) (f : Ctx → Ctx) : (s.modCtx k e c f).lsel = s.lsel := rfl
@[simp] theorem State.modCtx_errc (s : State) (k e c : Nat) (f : Ctx → Ctx) : (s.modCtx k e c f).errc = s.errc := rfl
@[simp] theorem State.modCtx_errcNew (s : State) (k e c : Nat) (f : Ctx → Ctx) : (s.modCtx k e c f).errcNew = s.errcNew := rfl
@[simp] theorem State.modCtx_vfEnable (s : State) (k e c : Nat) (f : Ctx → Ctx) : (s.modCtx k e c f).vfEnable = s.vfEnable := rfl
@[simp] theorem State.modCtx_numVfs (s : State) (k e c : Nat) (f : Ctx → Ctx) : (s.modCtx k e c f).numVfs = s.numVfs := rfl
@[simp] theorem State.modCtx_dumpHeld (s : State) (k e c : Nat) (f : Ctx → Ctx) : (s.modCtx k e c f).dumpHeld = s.dumpHeld := rfl
@[simp] theorem State.modCtx_dumping (s : State) (k e c : Nat) (f : Ctx → Ctx) : (s.modCtx k e c f).dumping = s.dumping := rfl
@[simp] theorem State.modCtx_hostReqs (s : State) (k e c : Nat) (f : Ctx → Ctx) : (s.modCtx k e c f).hostReqs = s.hostReqs := rfl
@[simp] theorem State.modCtx_routes (s : State) (k e c : Nat) (f : Ctx → Ctx) : (s.modCtx k e c f).routes = s.routes := rfl
@[simp] theorem State.modCtx_flows (s : State) (k e c : Nat) (f : Ctx → Ctx) : (s.modCtx k e c f).flows = s.flows := rfl
@[simp] theorem State.modCtx_portFlits (s : State) (k e c : Nat) (f : Ctx → Ctx) : (s.modCtx k e c f).portFlits = s.portFlits := rfl

/-! ### modRegion -/

@[simp] theorem State.modRegion_site (s : State) (k r : Nat) (f : Region → Region) : (s.modRegion k r f).site = s.site := rfl
@[simp] theorem State.modRegion_fired (s : State) (k r : Nat) (f : Region → Region) : (s.modRegion k r f).fired = s.fired := rfl
@[simp] theorem State.modRegion_todo (s : State) (k r : Nat) (f : Region → Region) : (s.modRegion k r f).todo = s.todo := rfl
@[simp] theorem State.modRegion_timers (s : State) (k r : Nat) (f : Region → Region) : (s.modRegion k r f).timers = s.timers := rfl
@[simp] theorem State.modRegion_free (s : State) (k r : Nat) (f : Region → Region) : (s.modRegion k r f).free = s.free := rfl
@[simp] theorem State.modRegion_nextId (s : State) (k r : Nat) (f : Region → Region) : (s.modRegion k r f).nextId = s.nextId := rfl
@[simp] theorem State.modRegion_cycle (s : State) (k r : Nat) (f : Region → Region) : (s.modRegion k r f).cycle = s.cycle := rfl
@[simp] theorem State.modRegion_timeBase (s : State) (k r : Nat) (f : Region → Region) : (s.modRegion k r f).timeBase = s.timeBase := rfl
@[simp] theorem State.modRegion_posts (s : State) (k r : Nat) (f : Region → Region) : (s.modRegion k r f).posts = s.posts := rfl
@[simp] theorem State.modRegion_traces (s : State) (k r : Nat) (f : Region → Region) : (s.modRegion k r f).traces = s.traces := rfl
@[simp] theorem State.modRegion_msix (s : State) (k r : Nat) (f : Region → Region) : (s.modRegion k r f).msix = s.msix := rfl
@[simp] theorem State.modRegion_reply (s : State) (k r : Nat) (f : Region → Region) : (s.modRegion k r f).reply = s.reply := rfl
@[simp] theorem State.modRegion_parts (s : State) (k r : Nat) (f : Region → Region) : (s.modRegion k r f).parts = s.parts := rfl
@[simp] theorem State.modRegion_launches (s : State) (k r : Nat) (f : Region → Region) : (s.modRegion k r f).launches = s.launches := rfl
@[simp] theorem State.modRegion_images (s : State) (k r : Nat) (f : Region → Region) : (s.modRegion k r f).images = s.images := rfl
@[simp] theorem State.modRegion_colls (s : State) (k r : Nat) (f : Region → Region) : (s.modRegion k r f).colls = s.colls := rfl
@[simp] theorem State.modRegion_mem (s : State) (k r : Nat) (f : Region → Region) : (s.modRegion k r f).mem = s.mem := rfl
@[simp] theorem State.modRegion_tags (s : State) (k r : Nat) (f : Region → Region) : (s.modRegion k r f).tags = s.tags := rfl
@[simp] theorem State.modRegion_bad (s : State) (k r : Nat) (f : Region → Region) : (s.modRegion k r f).bad = s.bad := rfl
@[simp] theorem State.modRegion_wrote (s : State) (k r : Nat) (f : Region → Region) : (s.modRegion k r f).wrote = s.wrote := rfl
@[simp] theorem State.modRegion_scale (s : State) (k r : Nat) (f : Region → Region) : (s.modRegion k r f).scale = s.scale := rfl
@[simp] theorem State.modRegion_avgW (s : State) (k r : Nat) (f : Region → Region) : (s.modRegion k r f).avgW = s.avgW := rfl
@[simp] theorem State.modRegion_overMs (s : State) (k r : Nat) (f : Region → Region) : (s.modRegion k r f).overMs = s.overMs := rfl
@[simp] theorem State.modRegion_suspended (s : State) (k r : Nat) (f : Region → Region) : (s.modRegion k r f).suspended = s.suspended := rfl
@[simp] theorem State.modRegion_sensors (s : State) (k r : Nat) (f : Region → Region) : (s.modRegion k r f).sensors = s.sensors := rfl
@[simp] theorem State.modRegion_above (s : State) (k r : Nat) (f : Region → Region) : (s.modRegion k r f).above = s.above := rfl
@[simp] theorem State.modRegion_thermal (s : State) (k r : Nat) (f : Region → Region) : (s.modRegion k r f).thermal = s.thermal := rfl
@[simp] theorem State.modRegion_tripped (s : State) (k r : Nat) (f : Region → Region) : (s.modRegion k r f).tripped = s.tripped := rfl
@[simp] theorem State.modRegion_trim (s : State) (k r : Nat) (f : Region → Region) : (s.modRegion k r f).trim = s.trim := rfl
@[simp] theorem State.modRegion_boot (s : State) (k r : Nat) (f : Region → Region) : (s.modRegion k r f).boot = s.boot := rfl
@[simp] theorem State.modRegion_indir (s : State) (k r : Nat) (f : Region → Region) : (s.modRegion k r f).indir = s.indir := rfl
@[simp] theorem State.modRegion_xcache (s : State) (k r : Nat) (f : Region → Region) : (s.modRegion k r f).xcache = s.xcache := rfl
@[simp] theorem State.modRegion_heat (s : State) (k r : Nat) (f : Region → Region) : (s.modRegion k r f).heat = s.heat := rfl
@[simp] theorem State.modRegion_copies (s : State) (k r : Nat) (f : Region → Region) : (s.modRegion k r f).copies = s.copies := rfl
@[simp] theorem State.modRegion_moves (s : State) (k r : Nat) (f : Region → Region) : (s.modRegion k r f).moves = s.moves := rfl
@[simp] theorem State.modRegion_parked (s : State) (k r : Nat) (f : Region → Region) : (s.modRegion k r f).parked = s.parked := rfl
@[simp] theorem State.modRegion_remaps (s : State) (k r : Nat) (f : Region → Region) : (s.modRegion k r f).remaps = s.remaps := rfl
@[simp] theorem State.modRegion_atomErrs (s : State) (k r : Nat) (f : Region → Region) : (s.modRegion k r f).atomErrs = s.atomErrs := rfl
@[simp] theorem State.modRegion_groups (s : State) (k r : Nat) (f : Region → Region) : (s.modRegion k r f).groups = s.groups := rfl
@[simp] theorem State.modRegion_ports (s : State) (k r : Nat) (f : Region → Region) : (s.modRegion k r f).ports = s.ports := rfl
@[simp] theorem State.modRegion_fenced (s : State) (k r : Nat) (f : Region → Region) : (s.modRegion k r f).fenced = s.fenced := rfl
@[simp] theorem State.modRegion_ownPkg (s : State) (k r : Nat) (f : Region → Region) : (s.modRegion k r f).ownPkg = s.ownPkg := rfl
@[simp] theorem State.modRegion_psel (s : State) (k r : Nat) (f : Region → Region) : (s.modRegion k r f).psel = s.psel := rfl
@[simp] theorem State.modRegion_wsel (s : State) (k r : Nat) (f : Region → Region) : (s.modRegion k r f).wsel = s.wsel := rfl
@[simp] theorem State.modRegion_dgsel (s : State) (k r : Nat) (f : Region → Region) : (s.modRegion k r f).dgsel = s.dgsel := rfl
@[simp] theorem State.modRegion_dtmo (s : State) (k r : Nat) (f : Region → Region) : (s.modRegion k r f).dtmo = s.dtmo := rfl
@[simp] theorem State.modRegion_trkper (s : State) (k r : Nat) (f : Region → Region) : (s.modRegion k r f).trkper = s.trkper := rfl
@[simp] theorem State.modRegion_bootstat (s : State) (k r : Nat) (f : Region → Region) : (s.modRegion k r f).bootstat = s.bootstat := rfl
@[simp] theorem State.modRegion_lsel (s : State) (k r : Nat) (f : Region → Region) : (s.modRegion k r f).lsel = s.lsel := rfl
@[simp] theorem State.modRegion_errc (s : State) (k r : Nat) (f : Region → Region) : (s.modRegion k r f).errc = s.errc := rfl
@[simp] theorem State.modRegion_errcNew (s : State) (k r : Nat) (f : Region → Region) : (s.modRegion k r f).errcNew = s.errcNew := rfl
@[simp] theorem State.modRegion_vfEnable (s : State) (k r : Nat) (f : Region → Region) : (s.modRegion k r f).vfEnable = s.vfEnable := rfl
@[simp] theorem State.modRegion_numVfs (s : State) (k r : Nat) (f : Region → Region) : (s.modRegion k r f).numVfs = s.numVfs := rfl
@[simp] theorem State.modRegion_dumpHeld (s : State) (k r : Nat) (f : Region → Region) : (s.modRegion k r f).dumpHeld = s.dumpHeld := rfl
@[simp] theorem State.modRegion_dumping (s : State) (k r : Nat) (f : Region → Region) : (s.modRegion k r f).dumping = s.dumping := rfl
@[simp] theorem State.modRegion_hostReqs (s : State) (k r : Nat) (f : Region → Region) : (s.modRegion k r f).hostReqs = s.hostReqs := rfl
@[simp] theorem State.modRegion_routes (s : State) (k r : Nat) (f : Region → Region) : (s.modRegion k r f).routes = s.routes := rfl
@[simp] theorem State.modRegion_flows (s : State) (k r : Nat) (f : Region → Region) : (s.modRegion k r f).flows = s.flows := rfl
@[simp] theorem State.modRegion_portFlits (s : State) (k r : Nat) (f : Region → Region) : (s.modRegion k r f).portFlits = s.portFlits := rfl

/-! ### modPart -/

@[simp] theorem State.modPart_site (s : State) (p : Nat) (f : Part → Part) : (s.modPart p f).site = s.site := rfl
@[simp] theorem State.modPart_fired (s : State) (p : Nat) (f : Part → Part) : (s.modPart p f).fired = s.fired := rfl
@[simp] theorem State.modPart_todo (s : State) (p : Nat) (f : Part → Part) : (s.modPart p f).todo = s.todo := rfl
@[simp] theorem State.modPart_timers (s : State) (p : Nat) (f : Part → Part) : (s.modPart p f).timers = s.timers := rfl
@[simp] theorem State.modPart_free (s : State) (p : Nat) (f : Part → Part) : (s.modPart p f).free = s.free := rfl
@[simp] theorem State.modPart_nextId (s : State) (p : Nat) (f : Part → Part) : (s.modPart p f).nextId = s.nextId := rfl
@[simp] theorem State.modPart_cycle (s : State) (p : Nat) (f : Part → Part) : (s.modPart p f).cycle = s.cycle := rfl
@[simp] theorem State.modPart_timeBase (s : State) (p : Nat) (f : Part → Part) : (s.modPart p f).timeBase = s.timeBase := rfl
@[simp] theorem State.modPart_posts (s : State) (p : Nat) (f : Part → Part) : (s.modPart p f).posts = s.posts := rfl
@[simp] theorem State.modPart_traces (s : State) (p : Nat) (f : Part → Part) : (s.modPart p f).traces = s.traces := rfl
@[simp] theorem State.modPart_msix (s : State) (p : Nat) (f : Part → Part) : (s.modPart p f).msix = s.msix := rfl
@[simp] theorem State.modPart_reply (s : State) (p : Nat) (f : Part → Part) : (s.modPart p f).reply = s.reply := rfl
@[simp] theorem State.modPart_cores (s : State) (p : Nat) (f : Part → Part) : (s.modPart p f).cores = s.cores := rfl
@[simp] theorem State.modPart_launches (s : State) (p : Nat) (f : Part → Part) : (s.modPart p f).launches = s.launches := rfl
@[simp] theorem State.modPart_images (s : State) (p : Nat) (f : Part → Part) : (s.modPart p f).images = s.images := rfl
@[simp] theorem State.modPart_colls (s : State) (p : Nat) (f : Part → Part) : (s.modPart p f).colls = s.colls := rfl
@[simp] theorem State.modPart_mem (s : State) (p : Nat) (f : Part → Part) : (s.modPart p f).mem = s.mem := rfl
@[simp] theorem State.modPart_tags (s : State) (p : Nat) (f : Part → Part) : (s.modPart p f).tags = s.tags := rfl
@[simp] theorem State.modPart_bad (s : State) (p : Nat) (f : Part → Part) : (s.modPart p f).bad = s.bad := rfl
@[simp] theorem State.modPart_wrote (s : State) (p : Nat) (f : Part → Part) : (s.modPart p f).wrote = s.wrote := rfl
@[simp] theorem State.modPart_scale (s : State) (p : Nat) (f : Part → Part) : (s.modPart p f).scale = s.scale := rfl
@[simp] theorem State.modPart_avgW (s : State) (p : Nat) (f : Part → Part) : (s.modPart p f).avgW = s.avgW := rfl
@[simp] theorem State.modPart_overMs (s : State) (p : Nat) (f : Part → Part) : (s.modPart p f).overMs = s.overMs := rfl
@[simp] theorem State.modPart_suspended (s : State) (p : Nat) (f : Part → Part) : (s.modPart p f).suspended = s.suspended := rfl
@[simp] theorem State.modPart_sensors (s : State) (p : Nat) (f : Part → Part) : (s.modPart p f).sensors = s.sensors := rfl
@[simp] theorem State.modPart_above (s : State) (p : Nat) (f : Part → Part) : (s.modPart p f).above = s.above := rfl
@[simp] theorem State.modPart_thermal (s : State) (p : Nat) (f : Part → Part) : (s.modPart p f).thermal = s.thermal := rfl
@[simp] theorem State.modPart_tripped (s : State) (p : Nat) (f : Part → Part) : (s.modPart p f).tripped = s.tripped := rfl
@[simp] theorem State.modPart_trim (s : State) (p : Nat) (f : Part → Part) : (s.modPart p f).trim = s.trim := rfl
@[simp] theorem State.modPart_boot (s : State) (p : Nat) (f : Part → Part) : (s.modPart p f).boot = s.boot := rfl
@[simp] theorem State.modPart_indir (s : State) (p : Nat) (f : Part → Part) : (s.modPart p f).indir = s.indir := rfl
@[simp] theorem State.modPart_xcache (s : State) (p : Nat) (f : Part → Part) : (s.modPart p f).xcache = s.xcache := rfl
@[simp] theorem State.modPart_heat (s : State) (p : Nat) (f : Part → Part) : (s.modPart p f).heat = s.heat := rfl
@[simp] theorem State.modPart_copies (s : State) (p : Nat) (f : Part → Part) : (s.modPart p f).copies = s.copies := rfl
@[simp] theorem State.modPart_moves (s : State) (p : Nat) (f : Part → Part) : (s.modPart p f).moves = s.moves := rfl
@[simp] theorem State.modPart_parked (s : State) (p : Nat) (f : Part → Part) : (s.modPart p f).parked = s.parked := rfl
@[simp] theorem State.modPart_remaps (s : State) (p : Nat) (f : Part → Part) : (s.modPart p f).remaps = s.remaps := rfl
@[simp] theorem State.modPart_atomErrs (s : State) (p : Nat) (f : Part → Part) : (s.modPart p f).atomErrs = s.atomErrs := rfl
@[simp] theorem State.modPart_groups (s : State) (p : Nat) (f : Part → Part) : (s.modPart p f).groups = s.groups := rfl
@[simp] theorem State.modPart_ports (s : State) (p : Nat) (f : Part → Part) : (s.modPart p f).ports = s.ports := rfl
@[simp] theorem State.modPart_fenced (s : State) (p : Nat) (f : Part → Part) : (s.modPart p f).fenced = s.fenced := rfl
@[simp] theorem State.modPart_ownPkg (s : State) (p : Nat) (f : Part → Part) : (s.modPart p f).ownPkg = s.ownPkg := rfl
@[simp] theorem State.modPart_psel (s : State) (p : Nat) (f : Part → Part) : (s.modPart p f).psel = s.psel := rfl
@[simp] theorem State.modPart_wsel (s : State) (p : Nat) (f : Part → Part) : (s.modPart p f).wsel = s.wsel := rfl
@[simp] theorem State.modPart_dgsel (s : State) (p : Nat) (f : Part → Part) : (s.modPart p f).dgsel = s.dgsel := rfl
@[simp] theorem State.modPart_dtmo (s : State) (p : Nat) (f : Part → Part) : (s.modPart p f).dtmo = s.dtmo := rfl
@[simp] theorem State.modPart_trkper (s : State) (p : Nat) (f : Part → Part) : (s.modPart p f).trkper = s.trkper := rfl
@[simp] theorem State.modPart_bootstat (s : State) (p : Nat) (f : Part → Part) : (s.modPart p f).bootstat = s.bootstat := rfl
@[simp] theorem State.modPart_lsel (s : State) (p : Nat) (f : Part → Part) : (s.modPart p f).lsel = s.lsel := rfl
@[simp] theorem State.modPart_errc (s : State) (p : Nat) (f : Part → Part) : (s.modPart p f).errc = s.errc := rfl
@[simp] theorem State.modPart_errcNew (s : State) (p : Nat) (f : Part → Part) : (s.modPart p f).errcNew = s.errcNew := rfl
@[simp] theorem State.modPart_vfEnable (s : State) (p : Nat) (f : Part → Part) : (s.modPart p f).vfEnable = s.vfEnable := rfl
@[simp] theorem State.modPart_numVfs (s : State) (p : Nat) (f : Part → Part) : (s.modPart p f).numVfs = s.numVfs := rfl
@[simp] theorem State.modPart_dumpHeld (s : State) (p : Nat) (f : Part → Part) : (s.modPart p f).dumpHeld = s.dumpHeld := rfl
@[simp] theorem State.modPart_dumping (s : State) (p : Nat) (f : Part → Part) : (s.modPart p f).dumping = s.dumping := rfl
@[simp] theorem State.modPart_hostReqs (s : State) (p : Nat) (f : Part → Part) : (s.modPart p f).hostReqs = s.hostReqs := rfl
@[simp] theorem State.modPart_routes (s : State) (p : Nat) (f : Part → Part) : (s.modPart p f).routes = s.routes := rfl
@[simp] theorem State.modPart_flows (s : State) (p : Nat) (f : Part → Part) : (s.modPart p f).flows = s.flows := rfl
@[simp] theorem State.modPart_portFlits (s : State) (p : Nat) (f : Part → Part) : (s.modPart p f).portFlits = s.portFlits := rfl

/-! ### modLaunch -/

@[simp] theorem State.modLaunch_site (s : State) (l : Nat) (f : Launch → Launch) : (s.modLaunch l f).site = s.site := rfl
@[simp] theorem State.modLaunch_fired (s : State) (l : Nat) (f : Launch → Launch) : (s.modLaunch l f).fired = s.fired := rfl
@[simp] theorem State.modLaunch_todo (s : State) (l : Nat) (f : Launch → Launch) : (s.modLaunch l f).todo = s.todo := rfl
@[simp] theorem State.modLaunch_timers (s : State) (l : Nat) (f : Launch → Launch) : (s.modLaunch l f).timers = s.timers := rfl
@[simp] theorem State.modLaunch_free (s : State) (l : Nat) (f : Launch → Launch) : (s.modLaunch l f).free = s.free := rfl
@[simp] theorem State.modLaunch_nextId (s : State) (l : Nat) (f : Launch → Launch) : (s.modLaunch l f).nextId = s.nextId := rfl
@[simp] theorem State.modLaunch_cycle (s : State) (l : Nat) (f : Launch → Launch) : (s.modLaunch l f).cycle = s.cycle := rfl
@[simp] theorem State.modLaunch_timeBase (s : State) (l : Nat) (f : Launch → Launch) : (s.modLaunch l f).timeBase = s.timeBase := rfl
@[simp] theorem State.modLaunch_posts (s : State) (l : Nat) (f : Launch → Launch) : (s.modLaunch l f).posts = s.posts := rfl
@[simp] theorem State.modLaunch_traces (s : State) (l : Nat) (f : Launch → Launch) : (s.modLaunch l f).traces = s.traces := rfl
@[simp] theorem State.modLaunch_msix (s : State) (l : Nat) (f : Launch → Launch) : (s.modLaunch l f).msix = s.msix := rfl
@[simp] theorem State.modLaunch_reply (s : State) (l : Nat) (f : Launch → Launch) : (s.modLaunch l f).reply = s.reply := rfl
@[simp] theorem State.modLaunch_cores (s : State) (l : Nat) (f : Launch → Launch) : (s.modLaunch l f).cores = s.cores := rfl
@[simp] theorem State.modLaunch_parts (s : State) (l : Nat) (f : Launch → Launch) : (s.modLaunch l f).parts = s.parts := rfl
@[simp] theorem State.modLaunch_images (s : State) (l : Nat) (f : Launch → Launch) : (s.modLaunch l f).images = s.images := rfl
@[simp] theorem State.modLaunch_colls (s : State) (l : Nat) (f : Launch → Launch) : (s.modLaunch l f).colls = s.colls := rfl
@[simp] theorem State.modLaunch_mem (s : State) (l : Nat) (f : Launch → Launch) : (s.modLaunch l f).mem = s.mem := rfl
@[simp] theorem State.modLaunch_tags (s : State) (l : Nat) (f : Launch → Launch) : (s.modLaunch l f).tags = s.tags := rfl
@[simp] theorem State.modLaunch_bad (s : State) (l : Nat) (f : Launch → Launch) : (s.modLaunch l f).bad = s.bad := rfl
@[simp] theorem State.modLaunch_wrote (s : State) (l : Nat) (f : Launch → Launch) : (s.modLaunch l f).wrote = s.wrote := rfl
@[simp] theorem State.modLaunch_scale (s : State) (l : Nat) (f : Launch → Launch) : (s.modLaunch l f).scale = s.scale := rfl
@[simp] theorem State.modLaunch_avgW (s : State) (l : Nat) (f : Launch → Launch) : (s.modLaunch l f).avgW = s.avgW := rfl
@[simp] theorem State.modLaunch_overMs (s : State) (l : Nat) (f : Launch → Launch) : (s.modLaunch l f).overMs = s.overMs := rfl
@[simp] theorem State.modLaunch_suspended (s : State) (l : Nat) (f : Launch → Launch) : (s.modLaunch l f).suspended = s.suspended := rfl
@[simp] theorem State.modLaunch_sensors (s : State) (l : Nat) (f : Launch → Launch) : (s.modLaunch l f).sensors = s.sensors := rfl
@[simp] theorem State.modLaunch_above (s : State) (l : Nat) (f : Launch → Launch) : (s.modLaunch l f).above = s.above := rfl
@[simp] theorem State.modLaunch_thermal (s : State) (l : Nat) (f : Launch → Launch) : (s.modLaunch l f).thermal = s.thermal := rfl
@[simp] theorem State.modLaunch_tripped (s : State) (l : Nat) (f : Launch → Launch) : (s.modLaunch l f).tripped = s.tripped := rfl
@[simp] theorem State.modLaunch_trim (s : State) (l : Nat) (f : Launch → Launch) : (s.modLaunch l f).trim = s.trim := rfl
@[simp] theorem State.modLaunch_boot (s : State) (l : Nat) (f : Launch → Launch) : (s.modLaunch l f).boot = s.boot := rfl
@[simp] theorem State.modLaunch_indir (s : State) (l : Nat) (f : Launch → Launch) : (s.modLaunch l f).indir = s.indir := rfl
@[simp] theorem State.modLaunch_xcache (s : State) (l : Nat) (f : Launch → Launch) : (s.modLaunch l f).xcache = s.xcache := rfl
@[simp] theorem State.modLaunch_heat (s : State) (l : Nat) (f : Launch → Launch) : (s.modLaunch l f).heat = s.heat := rfl
@[simp] theorem State.modLaunch_copies (s : State) (l : Nat) (f : Launch → Launch) : (s.modLaunch l f).copies = s.copies := rfl
@[simp] theorem State.modLaunch_moves (s : State) (l : Nat) (f : Launch → Launch) : (s.modLaunch l f).moves = s.moves := rfl
@[simp] theorem State.modLaunch_parked (s : State) (l : Nat) (f : Launch → Launch) : (s.modLaunch l f).parked = s.parked := rfl
@[simp] theorem State.modLaunch_remaps (s : State) (l : Nat) (f : Launch → Launch) : (s.modLaunch l f).remaps = s.remaps := rfl
@[simp] theorem State.modLaunch_atomErrs (s : State) (l : Nat) (f : Launch → Launch) : (s.modLaunch l f).atomErrs = s.atomErrs := rfl
@[simp] theorem State.modLaunch_groups (s : State) (l : Nat) (f : Launch → Launch) : (s.modLaunch l f).groups = s.groups := rfl
@[simp] theorem State.modLaunch_ports (s : State) (l : Nat) (f : Launch → Launch) : (s.modLaunch l f).ports = s.ports := rfl
@[simp] theorem State.modLaunch_fenced (s : State) (l : Nat) (f : Launch → Launch) : (s.modLaunch l f).fenced = s.fenced := rfl
@[simp] theorem State.modLaunch_ownPkg (s : State) (l : Nat) (f : Launch → Launch) : (s.modLaunch l f).ownPkg = s.ownPkg := rfl
@[simp] theorem State.modLaunch_psel (s : State) (l : Nat) (f : Launch → Launch) : (s.modLaunch l f).psel = s.psel := rfl
@[simp] theorem State.modLaunch_wsel (s : State) (l : Nat) (f : Launch → Launch) : (s.modLaunch l f).wsel = s.wsel := rfl
@[simp] theorem State.modLaunch_dgsel (s : State) (l : Nat) (f : Launch → Launch) : (s.modLaunch l f).dgsel = s.dgsel := rfl
@[simp] theorem State.modLaunch_dtmo (s : State) (l : Nat) (f : Launch → Launch) : (s.modLaunch l f).dtmo = s.dtmo := rfl
@[simp] theorem State.modLaunch_trkper (s : State) (l : Nat) (f : Launch → Launch) : (s.modLaunch l f).trkper = s.trkper := rfl
@[simp] theorem State.modLaunch_bootstat (s : State) (l : Nat) (f : Launch → Launch) : (s.modLaunch l f).bootstat = s.bootstat := rfl
@[simp] theorem State.modLaunch_lsel (s : State) (l : Nat) (f : Launch → Launch) : (s.modLaunch l f).lsel = s.lsel := rfl
@[simp] theorem State.modLaunch_errc (s : State) (l : Nat) (f : Launch → Launch) : (s.modLaunch l f).errc = s.errc := rfl
@[simp] theorem State.modLaunch_errcNew (s : State) (l : Nat) (f : Launch → Launch) : (s.modLaunch l f).errcNew = s.errcNew := rfl
@[simp] theorem State.modLaunch_vfEnable (s : State) (l : Nat) (f : Launch → Launch) : (s.modLaunch l f).vfEnable = s.vfEnable := rfl
@[simp] theorem State.modLaunch_numVfs (s : State) (l : Nat) (f : Launch → Launch) : (s.modLaunch l f).numVfs = s.numVfs := rfl
@[simp] theorem State.modLaunch_dumpHeld (s : State) (l : Nat) (f : Launch → Launch) : (s.modLaunch l f).dumpHeld = s.dumpHeld := rfl
@[simp] theorem State.modLaunch_dumping (s : State) (l : Nat) (f : Launch → Launch) : (s.modLaunch l f).dumping = s.dumping := rfl
@[simp] theorem State.modLaunch_hostReqs (s : State) (l : Nat) (f : Launch → Launch) : (s.modLaunch l f).hostReqs = s.hostReqs := rfl
@[simp] theorem State.modLaunch_routes (s : State) (l : Nat) (f : Launch → Launch) : (s.modLaunch l f).routes = s.routes := rfl
@[simp] theorem State.modLaunch_flows (s : State) (l : Nat) (f : Launch → Launch) : (s.modLaunch l f).flows = s.flows := rfl
@[simp] theorem State.modLaunch_portFlits (s : State) (l : Nat) (f : Launch → Launch) : (s.modLaunch l f).portFlits = s.portFlits := rfl

/-! ### put -/

@[simp] theorem State.put_site (s : State) (a : Nat) (v : List Byte) : (s.put a v).site = s.site := rfl
@[simp] theorem State.put_fired (s : State) (a : Nat) (v : List Byte) : (s.put a v).fired = s.fired := rfl
@[simp] theorem State.put_todo (s : State) (a : Nat) (v : List Byte) : (s.put a v).todo = s.todo := rfl
@[simp] theorem State.put_timers (s : State) (a : Nat) (v : List Byte) : (s.put a v).timers = s.timers := rfl
@[simp] theorem State.put_free (s : State) (a : Nat) (v : List Byte) : (s.put a v).free = s.free := rfl
@[simp] theorem State.put_nextId (s : State) (a : Nat) (v : List Byte) : (s.put a v).nextId = s.nextId := rfl
@[simp] theorem State.put_cycle (s : State) (a : Nat) (v : List Byte) : (s.put a v).cycle = s.cycle := rfl
@[simp] theorem State.put_timeBase (s : State) (a : Nat) (v : List Byte) : (s.put a v).timeBase = s.timeBase := rfl
@[simp] theorem State.put_posts (s : State) (a : Nat) (v : List Byte) : (s.put a v).posts = s.posts := rfl
@[simp] theorem State.put_traces (s : State) (a : Nat) (v : List Byte) : (s.put a v).traces = s.traces := rfl
@[simp] theorem State.put_msix (s : State) (a : Nat) (v : List Byte) : (s.put a v).msix = s.msix := rfl
@[simp] theorem State.put_reply (s : State) (a : Nat) (v : List Byte) : (s.put a v).reply = s.reply := rfl
@[simp] theorem State.put_cores (s : State) (a : Nat) (v : List Byte) : (s.put a v).cores = s.cores := rfl
@[simp] theorem State.put_parts (s : State) (a : Nat) (v : List Byte) : (s.put a v).parts = s.parts := rfl
@[simp] theorem State.put_launches (s : State) (a : Nat) (v : List Byte) : (s.put a v).launches = s.launches := rfl
@[simp] theorem State.put_images (s : State) (a : Nat) (v : List Byte) : (s.put a v).images = s.images := rfl
@[simp] theorem State.put_colls (s : State) (a : Nat) (v : List Byte) : (s.put a v).colls = s.colls := rfl
@[simp] theorem State.put_scale (s : State) (a : Nat) (v : List Byte) : (s.put a v).scale = s.scale := rfl
@[simp] theorem State.put_avgW (s : State) (a : Nat) (v : List Byte) : (s.put a v).avgW = s.avgW := rfl
@[simp] theorem State.put_overMs (s : State) (a : Nat) (v : List Byte) : (s.put a v).overMs = s.overMs := rfl
@[simp] theorem State.put_suspended (s : State) (a : Nat) (v : List Byte) : (s.put a v).suspended = s.suspended := rfl
@[simp] theorem State.put_sensors (s : State) (a : Nat) (v : List Byte) : (s.put a v).sensors = s.sensors := rfl
@[simp] theorem State.put_above (s : State) (a : Nat) (v : List Byte) : (s.put a v).above = s.above := rfl
@[simp] theorem State.put_thermal (s : State) (a : Nat) (v : List Byte) : (s.put a v).thermal = s.thermal := rfl
@[simp] theorem State.put_tripped (s : State) (a : Nat) (v : List Byte) : (s.put a v).tripped = s.tripped := rfl
@[simp] theorem State.put_trim (s : State) (a : Nat) (v : List Byte) : (s.put a v).trim = s.trim := rfl
@[simp] theorem State.put_boot (s : State) (a : Nat) (v : List Byte) : (s.put a v).boot = s.boot := rfl
@[simp] theorem State.put_indir (s : State) (a : Nat) (v : List Byte) : (s.put a v).indir = s.indir := rfl
@[simp] theorem State.put_xcache (s : State) (a : Nat) (v : List Byte) : (s.put a v).xcache = s.xcache := rfl
@[simp] theorem State.put_heat (s : State) (a : Nat) (v : List Byte) : (s.put a v).heat = s.heat := rfl
@[simp] theorem State.put_copies (s : State) (a : Nat) (v : List Byte) : (s.put a v).copies = s.copies := rfl
@[simp] theorem State.put_moves (s : State) (a : Nat) (v : List Byte) : (s.put a v).moves = s.moves := rfl
@[simp] theorem State.put_parked (s : State) (a : Nat) (v : List Byte) : (s.put a v).parked = s.parked := rfl
@[simp] theorem State.put_remaps (s : State) (a : Nat) (v : List Byte) : (s.put a v).remaps = s.remaps := rfl
@[simp] theorem State.put_atomErrs (s : State) (a : Nat) (v : List Byte) : (s.put a v).atomErrs = s.atomErrs := rfl
@[simp] theorem State.put_groups (s : State) (a : Nat) (v : List Byte) : (s.put a v).groups = s.groups := rfl
@[simp] theorem State.put_ports (s : State) (a : Nat) (v : List Byte) : (s.put a v).ports = s.ports := rfl
@[simp] theorem State.put_fenced (s : State) (a : Nat) (v : List Byte) : (s.put a v).fenced = s.fenced := rfl
@[simp] theorem State.put_ownPkg (s : State) (a : Nat) (v : List Byte) : (s.put a v).ownPkg = s.ownPkg := rfl
@[simp] theorem State.put_psel (s : State) (a : Nat) (v : List Byte) : (s.put a v).psel = s.psel := rfl
@[simp] theorem State.put_wsel (s : State) (a : Nat) (v : List Byte) : (s.put a v).wsel = s.wsel := rfl
@[simp] theorem State.put_dgsel (s : State) (a : Nat) (v : List Byte) : (s.put a v).dgsel = s.dgsel := rfl
@[simp] theorem State.put_dtmo (s : State) (a : Nat) (v : List Byte) : (s.put a v).dtmo = s.dtmo := rfl
@[simp] theorem State.put_trkper (s : State) (a : Nat) (v : List Byte) : (s.put a v).trkper = s.trkper := rfl
@[simp] theorem State.put_bootstat (s : State) (a : Nat) (v : List Byte) : (s.put a v).bootstat = s.bootstat := rfl
@[simp] theorem State.put_lsel (s : State) (a : Nat) (v : List Byte) : (s.put a v).lsel = s.lsel := rfl
@[simp] theorem State.put_errc (s : State) (a : Nat) (v : List Byte) : (s.put a v).errc = s.errc := rfl
@[simp] theorem State.put_errcNew (s : State) (a : Nat) (v : List Byte) : (s.put a v).errcNew = s.errcNew := rfl
@[simp] theorem State.put_vfEnable (s : State) (a : Nat) (v : List Byte) : (s.put a v).vfEnable = s.vfEnable := rfl
@[simp] theorem State.put_numVfs (s : State) (a : Nat) (v : List Byte) : (s.put a v).numVfs = s.numVfs := rfl
@[simp] theorem State.put_dumpHeld (s : State) (a : Nat) (v : List Byte) : (s.put a v).dumpHeld = s.dumpHeld := rfl
@[simp] theorem State.put_dumping (s : State) (a : Nat) (v : List Byte) : (s.put a v).dumping = s.dumping := rfl
@[simp] theorem State.put_hostReqs (s : State) (a : Nat) (v : List Byte) : (s.put a v).hostReqs = s.hostReqs := rfl
@[simp] theorem State.put_routes (s : State) (a : Nat) (v : List Byte) : (s.put a v).routes = s.routes := rfl
@[simp] theorem State.put_flows (s : State) (a : Nat) (v : List Byte) : (s.put a v).flows = s.flows := rfl
@[simp] theorem State.put_portFlits (s : State) (a : Nat) (v : List Byte) : (s.put a v).portFlits = s.portFlits := rfl

/-! ### after -/

@[simp] theorem State.after_site (s : State) (d : Nat) (t : Turn) : (s.after d t).site = s.site := rfl
@[simp] theorem State.after_fired (s : State) (d : Nat) (t : Turn) : (s.after d t).fired = s.fired := rfl
@[simp] theorem State.after_todo (s : State) (d : Nat) (t : Turn) : (s.after d t).todo = s.todo := rfl
@[simp] theorem State.after_free (s : State) (d : Nat) (t : Turn) : (s.after d t).free = s.free := rfl
@[simp] theorem State.after_nextId (s : State) (d : Nat) (t : Turn) : (s.after d t).nextId = s.nextId := rfl
@[simp] theorem State.after_cycle (s : State) (d : Nat) (t : Turn) : (s.after d t).cycle = s.cycle := rfl
@[simp] theorem State.after_timeBase (s : State) (d : Nat) (t : Turn) : (s.after d t).timeBase = s.timeBase := rfl
@[simp] theorem State.after_posts (s : State) (d : Nat) (t : Turn) : (s.after d t).posts = s.posts := rfl
@[simp] theorem State.after_traces (s : State) (d : Nat) (t : Turn) : (s.after d t).traces = s.traces := rfl
@[simp] theorem State.after_msix (s : State) (d : Nat) (t : Turn) : (s.after d t).msix = s.msix := rfl
@[simp] theorem State.after_reply (s : State) (d : Nat) (t : Turn) : (s.after d t).reply = s.reply := rfl
@[simp] theorem State.after_cores (s : State) (d : Nat) (t : Turn) : (s.after d t).cores = s.cores := rfl
@[simp] theorem State.after_parts (s : State) (d : Nat) (t : Turn) : (s.after d t).parts = s.parts := rfl
@[simp] theorem State.after_launches (s : State) (d : Nat) (t : Turn) : (s.after d t).launches = s.launches := rfl
@[simp] theorem State.after_images (s : State) (d : Nat) (t : Turn) : (s.after d t).images = s.images := rfl
@[simp] theorem State.after_colls (s : State) (d : Nat) (t : Turn) : (s.after d t).colls = s.colls := rfl
@[simp] theorem State.after_mem (s : State) (d : Nat) (t : Turn) : (s.after d t).mem = s.mem := rfl
@[simp] theorem State.after_tags (s : State) (d : Nat) (t : Turn) : (s.after d t).tags = s.tags := rfl
@[simp] theorem State.after_bad (s : State) (d : Nat) (t : Turn) : (s.after d t).bad = s.bad := rfl
@[simp] theorem State.after_wrote (s : State) (d : Nat) (t : Turn) : (s.after d t).wrote = s.wrote := rfl
@[simp] theorem State.after_scale (s : State) (d : Nat) (t : Turn) : (s.after d t).scale = s.scale := rfl
@[simp] theorem State.after_avgW (s : State) (d : Nat) (t : Turn) : (s.after d t).avgW = s.avgW := rfl
@[simp] theorem State.after_overMs (s : State) (d : Nat) (t : Turn) : (s.after d t).overMs = s.overMs := rfl
@[simp] theorem State.after_suspended (s : State) (d : Nat) (t : Turn) : (s.after d t).suspended = s.suspended := rfl
@[simp] theorem State.after_sensors (s : State) (d : Nat) (t : Turn) : (s.after d t).sensors = s.sensors := rfl
@[simp] theorem State.after_above (s : State) (d : Nat) (t : Turn) : (s.after d t).above = s.above := rfl
@[simp] theorem State.after_thermal (s : State) (d : Nat) (t : Turn) : (s.after d t).thermal = s.thermal := rfl
@[simp] theorem State.after_tripped (s : State) (d : Nat) (t : Turn) : (s.after d t).tripped = s.tripped := rfl
@[simp] theorem State.after_trim (s : State) (d : Nat) (t : Turn) : (s.after d t).trim = s.trim := rfl
@[simp] theorem State.after_boot (s : State) (d : Nat) (t : Turn) : (s.after d t).boot = s.boot := rfl
@[simp] theorem State.after_indir (s : State) (d : Nat) (t : Turn) : (s.after d t).indir = s.indir := rfl
@[simp] theorem State.after_xcache (s : State) (d : Nat) (t : Turn) : (s.after d t).xcache = s.xcache := rfl
@[simp] theorem State.after_heat (s : State) (d : Nat) (t : Turn) : (s.after d t).heat = s.heat := rfl
@[simp] theorem State.after_copies (s : State) (d : Nat) (t : Turn) : (s.after d t).copies = s.copies := rfl
@[simp] theorem State.after_moves (s : State) (d : Nat) (t : Turn) : (s.after d t).moves = s.moves := rfl
@[simp] theorem State.after_parked (s : State) (d : Nat) (t : Turn) : (s.after d t).parked = s.parked := rfl
@[simp] theorem State.after_remaps (s : State) (d : Nat) (t : Turn) : (s.after d t).remaps = s.remaps := rfl
@[simp] theorem State.after_atomErrs (s : State) (d : Nat) (t : Turn) : (s.after d t).atomErrs = s.atomErrs := rfl
@[simp] theorem State.after_groups (s : State) (d : Nat) (t : Turn) : (s.after d t).groups = s.groups := rfl
@[simp] theorem State.after_ports (s : State) (d : Nat) (t : Turn) : (s.after d t).ports = s.ports := rfl
@[simp] theorem State.after_fenced (s : State) (d : Nat) (t : Turn) : (s.after d t).fenced = s.fenced := rfl
@[simp] theorem State.after_ownPkg (s : State) (d : Nat) (t : Turn) : (s.after d t).ownPkg = s.ownPkg := rfl
@[simp] theorem State.after_psel (s : State) (d : Nat) (t : Turn) : (s.after d t).psel = s.psel := rfl
@[simp] theorem State.after_wsel (s : State) (d : Nat) (t : Turn) : (s.after d t).wsel = s.wsel := rfl
@[simp] theorem State.after_dgsel (s : State) (d : Nat) (t : Turn) : (s.after d t).dgsel = s.dgsel := rfl
@[simp] theorem State.after_dtmo (s : State) (d : Nat) (t : Turn) : (s.after d t).dtmo = s.dtmo := rfl
@[simp] theorem State.after_trkper (s : State) (d : Nat) (t : Turn) : (s.after d t).trkper = s.trkper := rfl
@[simp] theorem State.after_bootstat (s : State) (d : Nat) (t : Turn) : (s.after d t).bootstat = s.bootstat := rfl
@[simp] theorem State.after_lsel (s : State) (d : Nat) (t : Turn) : (s.after d t).lsel = s.lsel := rfl
@[simp] theorem State.after_errc (s : State) (d : Nat) (t : Turn) : (s.after d t).errc = s.errc := rfl
@[simp] theorem State.after_errcNew (s : State) (d : Nat) (t : Turn) : (s.after d t).errcNew = s.errcNew := rfl
@[simp] theorem State.after_vfEnable (s : State) (d : Nat) (t : Turn) : (s.after d t).vfEnable = s.vfEnable := rfl
@[simp] theorem State.after_numVfs (s : State) (d : Nat) (t : Turn) : (s.after d t).numVfs = s.numVfs := rfl
@[simp] theorem State.after_dumpHeld (s : State) (d : Nat) (t : Turn) : (s.after d t).dumpHeld = s.dumpHeld := rfl
@[simp] theorem State.after_dumping (s : State) (d : Nat) (t : Turn) : (s.after d t).dumping = s.dumping := rfl
@[simp] theorem State.after_hostReqs (s : State) (d : Nat) (t : Turn) : (s.after d t).hostReqs = s.hostReqs := rfl
@[simp] theorem State.after_routes (s : State) (d : Nat) (t : Turn) : (s.after d t).routes = s.routes := rfl
@[simp] theorem State.after_flows (s : State) (d : Nat) (t : Turn) : (s.after d t).flows = s.flows := rfl
@[simp] theorem State.after_portFlits (s : State) (d : Nat) (t : Turn) : (s.after d t).portFlits = s.portFlits := rfl

/-! ### post -/

@[simp] theorem State.post_site (s : State) (r : EventRec) : (s.post r).site = s.site := rfl
@[simp] theorem State.post_fired (s : State) (r : EventRec) : (s.post r).fired = s.fired := rfl
@[simp] theorem State.post_todo (s : State) (r : EventRec) : (s.post r).todo = s.todo := rfl
@[simp] theorem State.post_timers (s : State) (r : EventRec) : (s.post r).timers = s.timers := rfl
@[simp] theorem State.post_free (s : State) (r : EventRec) : (s.post r).free = s.free := rfl
@[simp] theorem State.post_nextId (s : State) (r : EventRec) : (s.post r).nextId = s.nextId := rfl
@[simp] theorem State.post_cycle (s : State) (r : EventRec) : (s.post r).cycle = s.cycle := rfl
@[simp] theorem State.post_timeBase (s : State) (r : EventRec) : (s.post r).timeBase = s.timeBase := rfl
@[simp] theorem State.post_traces (s : State) (r : EventRec) : (s.post r).traces = s.traces := rfl
@[simp] theorem State.post_msix (s : State) (r : EventRec) : (s.post r).msix = s.msix := rfl
@[simp] theorem State.post_reply (s : State) (r : EventRec) : (s.post r).reply = s.reply := rfl
@[simp] theorem State.post_cores (s : State) (r : EventRec) : (s.post r).cores = s.cores := rfl
@[simp] theorem State.post_parts (s : State) (r : EventRec) : (s.post r).parts = s.parts := rfl
@[simp] theorem State.post_launches (s : State) (r : EventRec) : (s.post r).launches = s.launches := rfl
@[simp] theorem State.post_images (s : State) (r : EventRec) : (s.post r).images = s.images := rfl
@[simp] theorem State.post_colls (s : State) (r : EventRec) : (s.post r).colls = s.colls := rfl
@[simp] theorem State.post_mem (s : State) (r : EventRec) : (s.post r).mem = s.mem := rfl
@[simp] theorem State.post_tags (s : State) (r : EventRec) : (s.post r).tags = s.tags := rfl
@[simp] theorem State.post_bad (s : State) (r : EventRec) : (s.post r).bad = s.bad := rfl
@[simp] theorem State.post_wrote (s : State) (r : EventRec) : (s.post r).wrote = s.wrote := rfl
@[simp] theorem State.post_scale (s : State) (r : EventRec) : (s.post r).scale = s.scale := rfl
@[simp] theorem State.post_avgW (s : State) (r : EventRec) : (s.post r).avgW = s.avgW := rfl
@[simp] theorem State.post_overMs (s : State) (r : EventRec) : (s.post r).overMs = s.overMs := rfl
@[simp] theorem State.post_suspended (s : State) (r : EventRec) : (s.post r).suspended = s.suspended := rfl
@[simp] theorem State.post_sensors (s : State) (r : EventRec) : (s.post r).sensors = s.sensors := rfl
@[simp] theorem State.post_above (s : State) (r : EventRec) : (s.post r).above = s.above := rfl
@[simp] theorem State.post_thermal (s : State) (r : EventRec) : (s.post r).thermal = s.thermal := rfl
@[simp] theorem State.post_tripped (s : State) (r : EventRec) : (s.post r).tripped = s.tripped := rfl
@[simp] theorem State.post_trim (s : State) (r : EventRec) : (s.post r).trim = s.trim := rfl
@[simp] theorem State.post_boot (s : State) (r : EventRec) : (s.post r).boot = s.boot := rfl
@[simp] theorem State.post_indir (s : State) (r : EventRec) : (s.post r).indir = s.indir := rfl
@[simp] theorem State.post_xcache (s : State) (r : EventRec) : (s.post r).xcache = s.xcache := rfl
@[simp] theorem State.post_heat (s : State) (r : EventRec) : (s.post r).heat = s.heat := rfl
@[simp] theorem State.post_copies (s : State) (r : EventRec) : (s.post r).copies = s.copies := rfl
@[simp] theorem State.post_moves (s : State) (r : EventRec) : (s.post r).moves = s.moves := rfl
@[simp] theorem State.post_parked (s : State) (r : EventRec) : (s.post r).parked = s.parked := rfl
@[simp] theorem State.post_remaps (s : State) (r : EventRec) : (s.post r).remaps = s.remaps := rfl
@[simp] theorem State.post_atomErrs (s : State) (r : EventRec) : (s.post r).atomErrs = s.atomErrs := rfl
@[simp] theorem State.post_groups (s : State) (r : EventRec) : (s.post r).groups = s.groups := rfl
@[simp] theorem State.post_ports (s : State) (r : EventRec) : (s.post r).ports = s.ports := rfl
@[simp] theorem State.post_fenced (s : State) (r : EventRec) : (s.post r).fenced = s.fenced := rfl
@[simp] theorem State.post_ownPkg (s : State) (r : EventRec) : (s.post r).ownPkg = s.ownPkg := rfl
@[simp] theorem State.post_psel (s : State) (r : EventRec) : (s.post r).psel = s.psel := rfl
@[simp] theorem State.post_wsel (s : State) (r : EventRec) : (s.post r).wsel = s.wsel := rfl
@[simp] theorem State.post_dgsel (s : State) (r : EventRec) : (s.post r).dgsel = s.dgsel := rfl
@[simp] theorem State.post_dtmo (s : State) (r : EventRec) : (s.post r).dtmo = s.dtmo := rfl
@[simp] theorem State.post_trkper (s : State) (r : EventRec) : (s.post r).trkper = s.trkper := rfl
@[simp] theorem State.post_bootstat (s : State) (r : EventRec) : (s.post r).bootstat = s.bootstat := rfl
@[simp] theorem State.post_lsel (s : State) (r : EventRec) : (s.post r).lsel = s.lsel := rfl
@[simp] theorem State.post_errc (s : State) (r : EventRec) : (s.post r).errc = s.errc := rfl
@[simp] theorem State.post_errcNew (s : State) (r : EventRec) : (s.post r).errcNew = s.errcNew := rfl
@[simp] theorem State.post_vfEnable (s : State) (r : EventRec) : (s.post r).vfEnable = s.vfEnable := rfl
@[simp] theorem State.post_numVfs (s : State) (r : EventRec) : (s.post r).numVfs = s.numVfs := rfl
@[simp] theorem State.post_dumpHeld (s : State) (r : EventRec) : (s.post r).dumpHeld = s.dumpHeld := rfl
@[simp] theorem State.post_dumping (s : State) (r : EventRec) : (s.post r).dumping = s.dumping := rfl
@[simp] theorem State.post_hostReqs (s : State) (r : EventRec) : (s.post r).hostReqs = s.hostReqs := rfl
@[simp] theorem State.post_routes (s : State) (r : EventRec) : (s.post r).routes = s.routes := rfl
@[simp] theorem State.post_flows (s : State) (r : EventRec) : (s.post r).flows = s.flows := rfl
@[simp] theorem State.post_portFlits (s : State) (r : EventRec) : (s.post r).portFlits = s.portFlits := rfl

/-! ### interrupt -/

@[simp] theorem State.interrupt_site (s : State) (p v : Nat) : (s.interrupt p v).site = s.site := rfl
@[simp] theorem State.interrupt_fired (s : State) (p v : Nat) : (s.interrupt p v).fired = s.fired := rfl
@[simp] theorem State.interrupt_todo (s : State) (p v : Nat) : (s.interrupt p v).todo = s.todo := rfl
@[simp] theorem State.interrupt_timers (s : State) (p v : Nat) : (s.interrupt p v).timers = s.timers := rfl
@[simp] theorem State.interrupt_free (s : State) (p v : Nat) : (s.interrupt p v).free = s.free := rfl
@[simp] theorem State.interrupt_nextId (s : State) (p v : Nat) : (s.interrupt p v).nextId = s.nextId := rfl
@[simp] theorem State.interrupt_cycle (s : State) (p v : Nat) : (s.interrupt p v).cycle = s.cycle := rfl
@[simp] theorem State.interrupt_timeBase (s : State) (p v : Nat) : (s.interrupt p v).timeBase = s.timeBase := rfl
@[simp] theorem State.interrupt_posts (s : State) (p v : Nat) : (s.interrupt p v).posts = s.posts := rfl
@[simp] theorem State.interrupt_traces (s : State) (p v : Nat) : (s.interrupt p v).traces = s.traces := rfl
@[simp] theorem State.interrupt_reply (s : State) (p v : Nat) : (s.interrupt p v).reply = s.reply := rfl
@[simp] theorem State.interrupt_cores (s : State) (p v : Nat) : (s.interrupt p v).cores = s.cores := rfl
@[simp] theorem State.interrupt_parts (s : State) (p v : Nat) : (s.interrupt p v).parts = s.parts := rfl
@[simp] theorem State.interrupt_launches (s : State) (p v : Nat) : (s.interrupt p v).launches = s.launches := rfl
@[simp] theorem State.interrupt_images (s : State) (p v : Nat) : (s.interrupt p v).images = s.images := rfl
@[simp] theorem State.interrupt_colls (s : State) (p v : Nat) : (s.interrupt p v).colls = s.colls := rfl
@[simp] theorem State.interrupt_mem (s : State) (p v : Nat) : (s.interrupt p v).mem = s.mem := rfl
@[simp] theorem State.interrupt_tags (s : State) (p v : Nat) : (s.interrupt p v).tags = s.tags := rfl
@[simp] theorem State.interrupt_bad (s : State) (p v : Nat) : (s.interrupt p v).bad = s.bad := rfl
@[simp] theorem State.interrupt_wrote (s : State) (p v : Nat) : (s.interrupt p v).wrote = s.wrote := rfl
@[simp] theorem State.interrupt_scale (s : State) (p v : Nat) : (s.interrupt p v).scale = s.scale := rfl
@[simp] theorem State.interrupt_avgW (s : State) (p v : Nat) : (s.interrupt p v).avgW = s.avgW := rfl
@[simp] theorem State.interrupt_overMs (s : State) (p v : Nat) : (s.interrupt p v).overMs = s.overMs := rfl
@[simp] theorem State.interrupt_suspended (s : State) (p v : Nat) : (s.interrupt p v).suspended = s.suspended := rfl
@[simp] theorem State.interrupt_sensors (s : State) (p v : Nat) : (s.interrupt p v).sensors = s.sensors := rfl
@[simp] theorem State.interrupt_above (s : State) (p v : Nat) : (s.interrupt p v).above = s.above := rfl
@[simp] theorem State.interrupt_thermal (s : State) (p v : Nat) : (s.interrupt p v).thermal = s.thermal := rfl
@[simp] theorem State.interrupt_tripped (s : State) (p v : Nat) : (s.interrupt p v).tripped = s.tripped := rfl
@[simp] theorem State.interrupt_trim (s : State) (p v : Nat) : (s.interrupt p v).trim = s.trim := rfl
@[simp] theorem State.interrupt_boot (s : State) (p v : Nat) : (s.interrupt p v).boot = s.boot := rfl
@[simp] theorem State.interrupt_indir (s : State) (p v : Nat) : (s.interrupt p v).indir = s.indir := rfl
@[simp] theorem State.interrupt_xcache (s : State) (p v : Nat) : (s.interrupt p v).xcache = s.xcache := rfl
@[simp] theorem State.interrupt_heat (s : State) (p v : Nat) : (s.interrupt p v).heat = s.heat := rfl
@[simp] theorem State.interrupt_copies (s : State) (p v : Nat) : (s.interrupt p v).copies = s.copies := rfl
@[simp] theorem State.interrupt_moves (s : State) (p v : Nat) : (s.interrupt p v).moves = s.moves := rfl
@[simp] theorem State.interrupt_parked (s : State) (p v : Nat) : (s.interrupt p v).parked = s.parked := rfl
@[simp] theorem State.interrupt_remaps (s : State) (p v : Nat) : (s.interrupt p v).remaps = s.remaps := rfl
@[simp] theorem State.interrupt_atomErrs (s : State) (p v : Nat) : (s.interrupt p v).atomErrs = s.atomErrs := rfl
@[simp] theorem State.interrupt_groups (s : State) (p v : Nat) : (s.interrupt p v).groups = s.groups := rfl
@[simp] theorem State.interrupt_ports (s : State) (p v : Nat) : (s.interrupt p v).ports = s.ports := rfl
@[simp] theorem State.interrupt_fenced (s : State) (p v : Nat) : (s.interrupt p v).fenced = s.fenced := rfl
@[simp] theorem State.interrupt_ownPkg (s : State) (p v : Nat) : (s.interrupt p v).ownPkg = s.ownPkg := rfl
@[simp] theorem State.interrupt_psel (s : State) (p v : Nat) : (s.interrupt p v).psel = s.psel := rfl
@[simp] theorem State.interrupt_wsel (s : State) (p v : Nat) : (s.interrupt p v).wsel = s.wsel := rfl
@[simp] theorem State.interrupt_dgsel (s : State) (p v : Nat) : (s.interrupt p v).dgsel = s.dgsel := rfl
@[simp] theorem State.interrupt_dtmo (s : State) (p v : Nat) : (s.interrupt p v).dtmo = s.dtmo := rfl
@[simp] theorem State.interrupt_trkper (s : State) (p v : Nat) : (s.interrupt p v).trkper = s.trkper := rfl
@[simp] theorem State.interrupt_bootstat (s : State) (p v : Nat) : (s.interrupt p v).bootstat = s.bootstat := rfl
@[simp] theorem State.interrupt_lsel (s : State) (p v : Nat) : (s.interrupt p v).lsel = s.lsel := rfl
@[simp] theorem State.interrupt_errc (s : State) (p v : Nat) : (s.interrupt p v).errc = s.errc := rfl
@[simp] theorem State.interrupt_errcNew (s : State) (p v : Nat) : (s.interrupt p v).errcNew = s.errcNew := rfl
@[simp] theorem State.interrupt_vfEnable (s : State) (p v : Nat) : (s.interrupt p v).vfEnable = s.vfEnable := rfl
@[simp] theorem State.interrupt_numVfs (s : State) (p v : Nat) : (s.interrupt p v).numVfs = s.numVfs := rfl
@[simp] theorem State.interrupt_dumpHeld (s : State) (p v : Nat) : (s.interrupt p v).dumpHeld = s.dumpHeld := rfl
@[simp] theorem State.interrupt_dumping (s : State) (p v : Nat) : (s.interrupt p v).dumping = s.dumping := rfl
@[simp] theorem State.interrupt_hostReqs (s : State) (p v : Nat) : (s.interrupt p v).hostReqs = s.hostReqs := rfl
@[simp] theorem State.interrupt_routes (s : State) (p v : Nat) : (s.interrupt p v).routes = s.routes := rfl
@[simp] theorem State.interrupt_flows (s : State) (p v : Nat) : (s.interrupt p v).flows = s.flows := rfl
@[simp] theorem State.interrupt_portFlits (s : State) (p v : Nat) : (s.interrupt p v).portFlits = s.portFlits := rfl

end Sys2Proof.Machine
end

