-- ==== Sys2Proof/Laws/Xlate.lean ====
section
/-! SUPPORT. Reading through a mapping of one top-level leaf: whatever the translation caches keep (R347), the bytes are those of memory. -/
namespace Sys2Proof.Machine

/-- A state whose root tables stand at device address 0, where one leaf maps 2^39 bytes with R, W, AT and X; block 0 has frame 0 of HBM, nothing is
unreadable, and every cached entry is that leaf. -/
structure State.Flat (s : State) : Prop where
  indir : s.indir = [(0, mkEnt false false false 0)]
  leaf : s.load (mediaLoc 0 0) 8 = 0x3F
  bad : s.bad = []
  parts : ∀ p, (s.part p).root2 = 0
  cache : ∀ x ∈ s.xcache, x.pte = 0x3F

/-- `t` differs from `s` only in what reading leaves: the caches, the heat counts and the counter of free values. -/
def State.ReadOf (s t : State) : Prop := t = { s with xcache := t.xcache, heat := t.heat, free := t.free }

theorem State.ReadOf.refl (s : State) : s.ReadOf s := rfl

theorem State.ReadOf.trans {s t u : State} (h : s.ReadOf t) (h' : t.ReadOf u) : s.ReadOf u := by
  unfold State.ReadOf at *
  rw [h', h]

theorem State.Flat.of_read {s t : State} (h : s.Flat) (r : s.ReadOf t) (c : ∀ x ∈ t.xcache, x.pte = 0x3F) : t.Flat := by
  rw [r]
  exact ⟨h.indir, h.leaf, h.bad, h.parts, c⟩

theorem State.Flat.media {s : State} (h : s.Flat) {d : Nat} (hd : d < 2 ^ 16) : s.media d = some (mediaLoc 0 d) := by
  have h1 : d / 2 ^ 16 = 0 := Nat.div_eq_of_lt hd
  have h2 : d % 2 ^ 16 = d := Nat.mod_eq_of_lt hd
  have h3 : ¬ 2 ^ 41 ≤ d := by omega
  have h4 : s.indirEntry 0 = 0x80000000 := by simp only [State.indirEntry, h.indir]; decide
  have h5 : entBacked 0x80000000 = true := by decide
  have h6 : entTier 0x80000000 = false := by decide
  have h7 : entFrame 0x80000000 = 0 := by decide
  unfold State.media
  rw [if_neg h3, h1, h4, h2]
  simp only [h5, h6, h7, b2n, if_true, Nat.zero_mul, Nat.zero_add]
  rfl

theorem State.Flat.unreadable {s : State} (h : s.Flat) (x n : Nat) : s.unreadable x n = none := by
  simp [State.unreadable, h.bad]

theorem State.Flat.readPte {s : State} (h : s.Flat) : s.readPte 0 = .ok 0x3F := by
  unfold State.readPte
  rw [h.media (by decide)]
  simp only [h.unreadable, Option.isSome_none, h.leaf]
  rfl

theorem State.Flat.keep {s : State} (h : s.Flat) (x : XEntry) (hx : x.pte = 0x3F) : (s.keep x).Flat ∧ s.ReadOf (s.keep x) := by
  refine ⟨h.of_read rfl ?_, rfl⟩
  intro y hy
  simp only [State.keep, List.mem_append, List.mem_cons] at hy
  rcases hy with (rfl | hy) | hy
  · exact hx
  · exact h.cache y (List.mem_filter.1 (List.mem_of_mem_take hy)).1
  · exact h.cache y (List.mem_filter.1 hy).1

theorem State.Flat.heatUp {s : State} (h : s.Flat) (d : Nat) : (s.heatUp d).Flat ∧ s.ReadOf (s.heatUp d) :=
  ⟨⟨h.indir, h.leaf, h.bad, h.parts, h.cache⟩, rfl⟩

/-- The leaf read from memory: its atom counts, and the entry is kept. -/
theorem State.Flat.walkPte {s : State} (h : s.Flat) (c p sp l va : Nat) :
    ∃ t, s.walkPte c p sp l va 0 = (.ok 0x3F, t) ∧ t.Flat ∧ s.ReadOf t := by
  have hh : s.heatPte 0 = s.heatUp 0 := by
    unfold State.heatPte
    rw [h.media (by decide)]
    rfl
  have hk := (h.heatUp 0).1.keep ⟨c, p, sp, l, va, 0x3F⟩ rfl
  refine ⟨_, ?_, hk.1, (h.heatUp 0).2.trans hk.2⟩
  unfold State.walkPte
  rw [h.readPte, hh]
  rfl

/-- The leaf is read, from memory or from a cache. -/
theorem State.Flat.pteAt {s : State} (h : s.Flat) (c p sp l va : Nat) :
    ∃ t, s.pteAt c p sp l va 0 = (.ok 0x3F, t) ∧ t.Flat ∧ s.ReadOf t := by
  unfold State.pteAt
  cases hc : s.cached c p sp l va with
  | none => exact h.walkPte c p sp l va
  | some e =>
    have he : e = 0x3F := by
      unfold State.cached at hc
      obtain ⟨x, hx, rfl⟩ := Option.map_eq_some_iff.1 hc
      exact h.cache x (List.mem_of_find?_eq_some hx)
    have hd : s.draw.2.Flat := ⟨h.indir, h.leaf, h.bad, h.parts, h.cache⟩
    have hr : s.ReadOf s.draw.2 := rfl
    subst he
    simp only
    split_ifs with hk
    · exact ⟨_, rfl, hd, hr⟩
    · obtain ⟨t, ht, hf, hu⟩ := hd.walkPte c p sp l va
      exact ⟨t, ht, hf, hr.trans hu⟩

/-- A walk of an address below 2^39 gives the address itself. -/
theorem State.Flat.walk {s : State} (h : s.Flat) (c p va need : Nat) (hv : va < 2 ^ 39) (hn : 15 &&& need = need) :
    ∃ t, s.walk c p 2 va need = (.ok va, t) ∧ t.Flat ∧ s.ReadOf t := by
  have h1 : va / 2 ^ 39 = 0 := Nat.div_eq_of_lt hv
  have h2 : va % 2 ^ 39 = va := Nat.mod_eq_of_lt hv
  have h3 : canonical va = true := by
    have h4 : va / 2 ^ 50 = 0 := Nat.div_eq_of_lt (by omega)
    unfold canonical
    rw [h4]
    rfl
  obtain ⟨t, ht, hf, hr⟩ := h.pteAt c p 2 1 (va % 2 ^ 51 / 2 ^ 39)
  refine ⟨t, ?_, hf, hr⟩
  unfold State.walk State.walkFrom
  simp only [h3, h.parts, h1]
  simp only [Bool.not_true, Bool.false_eq_true, if_false]
  have e : (2 : Nat) ≠ 3 := by decide
  simp only [e, if_false, Nat.zero_mod, Nat.mul_zero, Nat.add_zero]
  rw [ht]
  simp only
  have b0 : bit 0x3F 0 = true := by decide
  have b1 : bit 0x3F 1 = true := by decide
  have b2 : pteClean 0x3F = true := by decide
  have b3 : bits 0x3F 43 15 = 0 := by decide
  have b4 : bits 0x3F 5 2 = 15 := by decide
  simp [b0, b1, b2, b3, b4, hn]
  omega

/-- Atoms of block 0 read through space 2 are the bytes of memory. -/
theorem State.Flat.fetchBytes {s : State} (h : s.Flat) (c k p need : Nat) (hn : 15 &&& need = need) (n a : Nat) (ha : a + 32 * n ≤ 2 ^ 16) :
    ∃ b t, s.fetchBytes c k p 2 a need n = (.ok b, t) ∧ t.Flat ∧ s.ReadOf t := by
  induction n generalizing s a with
  | zero => exact ⟨[], s, rfl, h, rfl⟩
  | succ m ih =>
    obtain ⟨t, ht, hf, hr⟩ := h.walk c p a need (by omega) hn
    have hp : s.place c k p 2 a need = (.ok (.loc (mediaLoc 0 a) (some a)), t) := by
      simp only [State.place, State.placeDpa, ht, hf.media (show a < 2 ^ 16 by omega)]
    obtain ⟨b, u, hb, hu, hru⟩ := ih (hf.heatUp a).1 (a + (32 - a % 32)) (by omega)
    refine ⟨memBytes (t.heatUp a).mem (mediaLoc 0 a) (32 - a % 32) ++ b, u, ?_, hu, hr.trans ((hf.heatUp a).2.trans hru)⟩
    unfold State.fetchBytes
    have hq : t.readPlace (.loc (mediaLoc 0 a) (some a)) (32 - a % 32) = (.ok (memBytes (t.heatUp a).mem (mediaLoc 0 a) (32 - a % 32)), t.heatUp a) := by
      have hx : (t.heatUp a).unreadable (mediaLoc 0 a) (32 - a % 32) = none := (hf.heatUp a).1.unreadable _ _
      show (if ((t.heatUp a).unreadable (mediaLoc 0 a) (32 - a % 32)).isSome = true then _ else _) = _
      rw [hx]
      rfl
    simp only [hp, hq, hb]

/-- A read of block 0 through space 2 succeeds. -/
theorem State.Flat.fetch {s : State} (h : s.Flat) (c k p a need n : Nat) (hn : 15 &&& need = need) (ha : a + n + 63 ≤ 2 ^ 16) :
    ∃ b t, s.fetch c k p 2 a need n = (.ok b, t) ∧ t.Flat ∧ s.ReadOf t := by
  obtain ⟨b, t, hb, hf, hr⟩ := h.fetchBytes c k p need hn ((a % 32 + n + 31) / 32) a (by omega)
  refine ⟨b.take n, t, ?_, hf, hr⟩
  unfold State.fetch
  simp only [hb]

end Sys2Proof.Machine
end

