-- ==== Sys2Proof/Tests/Slice0.lean ====
section
/-! SUPPORT. Tests of the model: words and values that the spec works out, ill-formed terms that each check refuses, and, for every statement with
hypotheses, states that meet them. -/
set_option Elab.async false
namespace Sys2Proof.Tests
open Sys2Proof Sys2Proof.Machine Sys2Proof.Claims

/-! ### Small states -/

/-- What a step or an instruction answers. -/
def after? (o : Out3) : State :=
  match o with
  | .next s => s
  | _ => State.reset

/-- Core 0 running, whose instruction acts next, with `f` of its control core. -/
def onCc (f : ControlCore → ControlCore) : State :=
  { State.reset.modCc 0 fun c => f { c with run := .running } with site := .cc 0, cycle := 100 }

/-- A bank that holds each value from its slice on. -/
def bankOf (l : List (Nat × Nat)) : BitVec 512 := l.foldl (fun b p => b ||| BitVec.ofNat 512 (p.2 * 2 ^ (4 * p.1))) 0

def withBank (l : List (Nat × Nat)) : State := onCc fun c => { c with regs := { c.regs with bank := bankOf l } }

/-- What the last instruction to issue on core 0 has in flight for `n` slices from `p`. -/
def flown (s : State) (p n : Nat) : Nat :=
  match (s.cc 0).regs.flights.getLast? with
  | some f => f.data.toNat / 2 ^ (4 * p) % 2 ^ (4 * n)
  | none => 0

def issued (i : Instr) (s : State) : State := after? (exec i s)

/-- A token for context 0 that arrived long ago. -/
def tok (kind payload : Nat) : Token := { payload := BitVec.ofNat 64 payload, ctx := 0, kind := kind, arrived := 10 }

/-- A region of four rows of half 0 whose row 0 is Active; element `e` of row 0 with one context and a route on every output; `f` of core 0. -/
def onElem (e : Nat) (x : Ctx) (f : Core → Core) : State :=
  { State.reset.modCore 0 fun c => f { c with
      regions := [(0, { fetchRegion with due := 0 })]
      elems := [(e, { used := true, ctxs := [(0, x)], rowid := 0xFF, colid := 0xFF
                      oroute := [0x8400, 0x8480, 0x8400, 0x8400, 0x8400, 0x8400, 0x8400, 0x8400], kroute := [0x8400, 0x8480, 0x8400, 0x8400] })]
      strings := [(0, { heavy := 5, light := 5 })] }
    with site := .ctx 0 e 0 0, cycle := 100 }

/-- A context with thread 8. -/
def threaded : Ctx := { thread := some 8 }

/-- Input channel `ch` of element `e` holds a token. -/
def putIn (e ch : Nat) (t : Token) (c : Core) : Core := { c with links := c.links.set (e * 8 + ch) { stages := [[t]] } }
def putPort (e p : Nat) (t : Token) (c : Core) : Core := { c with klinks := c.klinks.set (e * 4 + p) { stages := [[t]] } }
def putPass (e q v : Nat) (c : Core) : Core := { c with plinks := c.plinks.set (e * 4 + q) { val := some (tok 0 v) } }

/-- What the last instruction to fire in element `e` has in flight. -/
def outsOf (s : State) (e : Nat) : List Out :=
  match (s.ctx 0 e 0).regs.flights.getLast? with
  | some f => f.outs
  | none => []
def firedData (s : State) (e p n : Nat) : Nat :=
  match (s.ctx 0 e 0).regs.flights.getLast? with
  | some f => f.data.toNat / 2 ^ (4 * p) % 2 ^ (4 * n)
  | none => 0

abbrev sl (p n : Nat) : Operand := .slice (BitVec.ofNat 7 p) (BitVec.ofNat 4 (n - 1))

/-! ### Words that the spec writes out (worked encodings of spec/02, 04, 05, 06, 09, 11, 14, 15, 16, 17, 19, 20, 21, 22, 25) -/

theorem test_word_add : decode .cc 0x0000000472072870 = .ok (.add 0 (sl 4 8) (sl 32 8) (sl 40 8)) := by decide +kernel
theorem test_word_sub_guard : decode .cc 0xB00001007007C010 = .ok (.sub 0xB000 (sl 0 8) (sl 0 8) (.imm 1)) := by decide +kernel
theorem test_word_mov_task : decode .mElem 0x09BE309408600000 = .ok (.mov 0x09BE (.outChan 2 0) (.inChan 3 false)) := by decide +kernel
theorem test_word_addc : decode .cc 0x00000C50F10F30F2 = .ok (.addc 0 (sl 80 16) (sl 16 16) (sl 48 16) 2) := by decide +kernel
theorem test_word_movhi : decode .cc 0x0000320090008000 = .ok (.movhi 0 (sl 0 10) 0x0008000) := by decide +kernel
theorem test_word_movi : decode .cc 0xC8003100300016C0 = .ok (.movi 0xC800 (sl 0 4) 0x16C0) := by decide +kernel
theorem test_word_cltz : decode .cc 0x000043B4010F0F00 = .ok (.cltz 0 (.pred 2) (sl 16 16) (sl 15 1)) := by decide +kernel
theorem test_word_pmov : decode .vElem 0x02904AB008300000 = .ok (.pmov 0x0290 (.pred 0) (.inChan 1 true)) := by decide +kernel
theorem test_word_fma : decode .vElem 0x0000531490090A90 = .ok (.fma 0 (sl 20 10) (sl 0 10) (sl 10 10) .rne) := by decide +kernel
theorem test_word_fscale : decode .cc 0x00005F20F20FCFC0 = .ok (.fscale 0 (sl 32 16) (sl 32 16) (.imm 0xFC) .rne) := by decide +kernel
theorem test_word_loop : decode .cc 0x0000740C0CE60000 = .ok (.loop 0 (sl 12 1) (.imm 0xE6)) := by decide +kernel
theorem test_word_br : decode .cc 0x9000700000000060 = .ok (.br 0x9000 6) := by decide +kernel
theorem test_word_swr : decode .cc 0x000083D0900F0000 = .ok (.swr 0 (.sreg 9) (sl 0 16)) := by decide +kernel
theorem test_word_eret : decode .cc 0x0000810000000000 = .ok (.eret 0) := by decide +kernel
theorem test_word_wfe : decode .cc 0x0000851A0C04C000 = .ok (.wfe 0 (sl 26 1) (.imm 4) (.imm 0)) := by decide +kernel
theorem test_word_nop : decode .vElem 0x0041770000000000 = .ok (.nop 0x0041) := by decide +kernel
theorem test_word_exit : decode .mElem 0x009096000C018201 = .ok (.exit 0x0090 (.imm 1) (some (.inChan 1 false)) 1) := by decide +kernel
theorem test_word_retire : decode .mElem 0x0051950000000001 = .ok (.retire 0x0051 true) := by decide +kernel
theorem test_word_ctok : decode .mElem 0x009093E208200000 = .ok (.ctok 0x0090 (.port 0 true) (.inChan 1 false) none) := by decide +kernel
theorem test_word_pack : decode .vElem 0x000037E20860A000 = .ok (.pack 0 (.port 0 true) (.inChan 3 false) (.pass 0 false)) := by decide +kernel
theorem test_word_vaddmin : decode .vElem 0x0000A500F10F20F2 = .ok (.vaddmin 0 (sl 0 16) (sl 16 16) (sl 32 16) ⟨.l16, false⟩) := by decide +kernel
theorem test_word_lshl : decode .vElem 0x0011A990000F8202 = .ok (.lshl 0x0011 (.outChan 0 0) (sl 0 16) (.inChan 1 false) .l16) := by decide +kernel
theorem test_word_mzero : decode .mElem 0x2211B0000CD80000 = .ok (.mzero 0x2211 (.imm 0xD8)) := by decide +kernel
theorem test_word_mmac : decode .mElem 0x0000B1000C0020F0 = .ok (.mmac 0 (.bus (.imm 0)) (sl 32 16)) := by decide +kernel
theorem test_word_mread : decode .mElem 0x0000B6289F00C000 = .ok (.mread 0 (sl 40 10) (.res 0) (.imm 0) .rne) := by decide +kernel
theorem test_word_aadd : decode .cc 0x0000C400F20FC00E = .ok (.aadd 0 (sl 0 16) (sl 32 16) (.imm 0) 0xE) := by decide +kernel
theorem test_word_st_elem : decode .vElem 0x0000C1E20C000070 = .ok (.st 0 (.port 0 true) (.imm 0) (sl 0 8) 0) := by decide +kernel
theorem test_word_axchg : decode .cc 0x0000CA08740FC009 = .ok (.axchg 0 (sl 8 8) (sl 64 16) (.imm 0) 9) := by decide +kernel
theorem test_word_fence : decode .cc 0x0000CD000C070000 = .ok (.fence 0 none (.imm 7)) := by decide +kernel
theorem test_word_cstc : decode .cc 0x0000D840F00FC300 = .ok (.cstc 0 (sl 64 16) (sl 0 16) (.imm 0x30)) := by decide +kernel
theorem test_word_dma : decode .cc 0x0000E010F60FC000 = .ok (.dma 0 (sl 16 16) (sl 96 16) (.imm 0) 0) := by decide +kernel
theorem test_word_epoll : decode .cc 0x0000EBB2010F0000 = .ok (.epoll 0 (.pred 1) (sl 16 16)) := by decide +kernel
theorem test_word_scanq : decode .cc 0x0000F720F1010000 = .ok (.scanq 0 (sl 32 16) (sl 16 2)) := by decide +kernel
theorem test_word_scant : decode .cc 0x0000F630F1010000 = .ok (.scant 0 (sl 48 16) (sl 16 2)) := by decide +kernel
theorem test_word_lcmap : decode .cc 0x0000F830F1C1C000 = .ok (.lcmap 0 (sl 48 16) (sl 28 2) (.imm 0)) := by decide +kernel

/-! ### Ill-formed words and terms -/

/-- R50: an unassigned opcode. R46, R48: a reserved guard bit, and VAL without EN. R33: an unassigned modifier. R39: slices beyond the bank. -/
theorem test_refused_opcode : decode .cc 0x00003E0000000000 = .error .opcode := by decide +kernel
theorem test_refused_guard : decode .cc 0x0001000472072870 = .error .guard := by decide +kernel
theorem test_refused_operand : decode .cc 0x0000007F72072870 = .error .operand := by decide +kernel
theorem test_refused_modifier : decode .cc 0x000000047207287F = .error .opcode := by decide +kernel
/-- R51: vector instructions are no control-core instructions, and matrix instructions run on M-elements only. -/
theorem test_refused_site : decode .cc 0x0000A500F10F20F2 = .error .opcode ∧ decode .vElem 0x0000B1000C0020F0 = .error .opcode ∧ decode .mElem 0x0000A500F10F20F2 = .error .opcode := by
  decide +kernel

/-- One ill-formed term for each check of WellFormed.lean. -/
theorem test_wf_site : (Instr.vadd 0 (sl 0 16) (sl 16 16) (sl 32 16) .l16).wf .cc = false := by decide
theorem test_wf_guard_cc : (Instr.nop 0x0800).wf .cc = false ∧ (Instr.nop 0x8001).wf .cc = false := by decide
theorem test_wf_guard_elem : (Instr.nop 0x0008).wf .vElem = false ∧ (Instr.nop 0x0081).wf .vElem = false ∧ (Instr.nop 0x0010).wf .vElem = false ∧ (Instr.nop 0x0082).wf .vElem = false := by decide
theorem test_wf_bank : (Instr.add 0 (sl 127 2) (sl 0 8) (sl 0 8)).wf .cc = false ∧ (Instr.add 0 (sl 0 8) (sl 127 2) (sl 0 8)).wf .cc = false := by decide
theorem test_wf_dst_is_input : (Instr.add 0 (.inChan 0 false) (sl 0 8) (sl 0 8)).wf .vElem = false := by decide
theorem test_wf_src_is_output : (Instr.add 0 (sl 0 8) (.outChan 0 0) (sl 0 8)).wf .vElem = false := by decide
theorem test_wf_dst_is_imm : (Instr.add 0 (.imm 1) (sl 0 8) (sl 0 8)).wf .cc = false := by decide
theorem test_wf_channel_on_cc : (Instr.add 0 (sl 0 8) (.inChan 0 false) (sl 0 8)).wf .cc = false ∧ (Instr.add 0 (.port 0 true) (sl 0 8) (sl 0 8)).wf .cc = false := by decide
theorem test_wf_pred_of_elem : (Instr.pmov 0 (.pred 4) (.imm 1)).wf .vElem = false ∧ (Instr.pmov 0 (.pred 0) (.pred 4)).wf .vElem = false := by decide
theorem test_wf_carry_of_elem : (Instr.addc 0 (sl 0 8) (sl 0 8) (sl 0 8) 4).wf .vElem = false := by decide
theorem test_wf_mad : (Instr.mad 0 (.outChan 0 0) (sl 0 8) (sl 0 8)).wf .vElem = false := by decide
theorem test_wf_capability : (Instr.cmov 0 (sl 1 16) (sl 32 16)).wf .cc = false ∧ (Instr.cmov 0 (sl 0 16) (sl 32 15)).wf .cc = false := by decide
theorem test_wf_token : (Instr.lease 0 (sl 0 15) (.imm 1) (.imm 1)).wf .cc = false := by decide
theorem test_wf_wide_float : (Instr.fadd 0 (sl 0 9) (sl 16 10) (sl 32 10) .rne).wf .cc = false ∧ (Instr.fadd 0 (sl 0 10) (.imm 1) (sl 32 10) .rne).wf .cc = false := by decide
theorem test_wf_fma : (Instr.fma 0 (.outChan 0 0) (sl 16 10) (sl 32 10) .rne).wf .vElem = false := by decide
theorem test_wf_slclr : (Instr.slclr 0 (sl 0 2) (.imm 1)).wf .cc = false := by decide
theorem test_wf_swap : (Instr.swap 0 (sl 0 2) (.imm 1)).wf .cc = false := by decide
theorem test_wf_sreg : (Instr.srd 0 (sl 0 16) (.sreg 3)).wf .cc = false ∧ (Instr.srd 0 (sl 0 16) (.imm 0)).wf .cc = false ∧ (Instr.swr 0 (sl 0 16) (sl 0 16)).wf .cc = false := by decide
theorem test_wf_srd_capability : (Instr.srd 0 (sl 1 16) (.sreg 0x18)).wf .cc = false := by decide
theorem test_wf_elem_sreg : (Instr.mov 0 (sl 0 16) (.sreg 0)).wf .vElem = false ∧ (Instr.mov 0 (sl 0 16) (.sreg 2)).wf .cc = false := by decide
theorem test_wf_loop : (Instr.loop 0 (.pred 0) (.imm 0)).wf .cc = false ∧ (Instr.loop 0 (sl 0 4) (sl 4 4)).wf .cc = false := by decide
theorem test_wf_waitp : (Instr.waitp 0 (.imm 0)).wf .cc = false := by decide
theorem test_wf_trap_code : (Instr.trap 0 (.imm 64) (.imm 0)).wf .cc = false ∧ (Instr.bkpt 0 (.imm 0x80)).wf .cc = false := by decide
theorem test_wf_emit : (Instr.emit 0 (sl 0 16) (.imm 0) none).wf .vElem = false := by decide
theorem test_wf_deq : (Instr.deq 0 (.inChan 0 true)).wf .vElem = false := by decide
theorem test_wf_ports : (Instr.peekk 0 (sl 0 1) (.inChan 0 false)).wf .vElem = false ∧ (Instr.ctok 0 (.outChan 0 0) (.imm 0) none).wf .vElem = false := by decide
theorem test_wf_pass : (Instr.pass 0 (.pass 1 true) (.pass 1 false)).wf .vElem = false ∧ (Instr.pass 0 (sl 0 16) (.pass 1 true)).wf .vElem = false := by decide
theorem test_wf_exit : (Instr.exit 0 (.imm 0) (some (sl 0 16)) 0).wf .vElem = false ∧ (Instr.exit 0 (.imm 0) (some (sl 64 16)) 5).wf .vElem = false
    ∧ (Instr.exit 0 (.imm 0) (some (.imm 0)) 2).wf .vElem = false := by decide
theorem test_wf_eow : (Instr.eow 0 (some (.outChan 0 0)) (.inChan 0 false)).wf .vElem = false ∧ (Instr.eow 0 none (.inChan 0 true)).wf .vElem = false := by decide
theorem test_wf_lanes : (Instr.vadd 0 (sl 0 3) (sl 16 16) (sl 32 16) .l16).wf .vElem = false ∧ (Instr.vred 0 (sl 0 16) (sl 16 3) (.imm 0) ⟨.l16, false⟩).wf .vElem = false ∧ (Instr.vred 0 (sl 0 16) (sl 16 4) (.imm 7) ⟨.l16, false⟩).wf .vElem = false := by decide
theorem test_wf_scale : (Instr.mmac 0 (.bus (sl 1 16)) (.imm 0)).wf .mElem = false := by decide
theorem test_wf_store_group : (Instr.mmac 0 (.store 2) (.imm 0)).wf .mElem = false ∧ (Instr.mmac8 0 (.store 4) (.imm 0)).wf .mElem = false := by decide
theorem test_wf_mread : (Instr.mread 0 (sl 0 10) (.imm 0) (.imm 0) .rne).wf .mElem = false := by decide
theorem test_wf_mem_width : (Instr.ld 0 (sl 0 3) (sl 32 16) (.imm 0) 0).wf .cc = false ∧ (Instr.acas 0 (sl 0 2) (sl 32 16) (.imm 0) 0).wf .cc = false
    ∧ (Instr.afadd 0 (sl 0 4) (sl 32 16) (.imm 0) 0).wf .cc = false := by decide
theorem test_wf_steps : (Instr.packageReset).wf .cc = false := by decide

/-! ### Values that the spec works out -/

/-- The example of R40 and R42. -/
theorem test_add_widths : flown (issued (.add 0 (sl 2 4) (sl 0 4) (sl 2 2)) (withBank [(0, 0x1234)])) 2 4 = 0x1246 := by decide +kernel
theorem test_sub_wraps : flown (issued (.sub 0 (sl 0 8) (sl 0 8) (.imm 1)) (withBank [])) 0 8 = 0xFFFFFFFF := by decide +kernel
theorem test_adds_clamps : flown (issued (.adds 0 (sl 8 2) (sl 0 2) (sl 0 2)) (withBank [(0, 0x50)])) 8 2 = 0x7F := by decide +kernel
theorem test_subz_clamps : flown (issued (.subz 0 (sl 8 2) (sl 0 2) (sl 2 2)) (withBank [(0, 0x0504)])) 8 2 = 0 := by decide +kernel
theorem test_abs_most_negative : flown (issued (.abs 0 (sl 8 2) (sl 0 2)) (withBank [(0, 0x80)])) 8 2 = 0x80 := by decide +kernel
theorem test_neg : flown (issued (.neg 0 (sl 8 2) (sl 0 2)) (withBank [(0, 3)])) 8 2 = 0xFD := by decide +kernel
theorem test_mins_signed : flown (issued (.mins 0 (sl 8 2) (sl 0 2) (.imm 1)) (withBank [(0, 0xFE)])) 8 2 = 0xFE := by decide +kernel
theorem test_maxz_unsigned : flown (issued (.maxz 0 (sl 8 2) (sl 0 2) (.imm 1)) (withBank [(0, 0xFE)])) 8 2 = 0xFE := by decide +kernel
theorem test_mulhs : flown (issued (.mulhs 0 (sl 8 2) (sl 0 2) (sl 2 2)) (withBank [(0, 0x02FF)])) 8 2 = 0xFF := by decide +kernel
theorem test_divs_by_zero : flown (issued (.divs 0 (sl 8 2) (sl 0 2) (.imm 0)) (withBank [(0, 7)])) 8 2 = 0xFF := by decide +kernel
theorem test_rems_sign : flown (issued (.rems 0 (sl 8 2) (sl 0 2) (.imm 2)) (withBank [(0, 0xFD)])) 8 2 = 0xFF := by decide +kernel
theorem test_shrs_full : flown (issued (.shrs 0 (sl 8 2) (sl 0 2) (.imm 9)) (withBank [(0, 0x80)])) 8 2 = 0xFF := by decide +kernel
theorem test_shl_full : flown (issued (.shl 0 (sl 8 2) (sl 0 2) (.imm 8)) (withBank [(0, 0xFF)])) 8 2 = 0 := by decide +kernel
theorem test_rotl : flown (issued (.rotl 0 (sl 8 2) (sl 0 2) (.imm 9)) (withBank [(0, 0x81)])) 8 2 = 0x03 := by decide +kernel
theorem test_brev : flown (issued (.brev 0 (sl 8 2) (sl 0 2)) (withBank [(0, 0x01)])) 8 2 = 0x80 := by decide +kernel
theorem test_clz_own_width : flown (issued (.clz 0 (sl 8 2) (sl 0 4)) (withBank [(0, 0x0100)])) 8 2 = 7 := by decide +kernel
theorem test_addc_carry : (match ((issued (.addc 0 (sl 8 2) (sl 0 2) (.imm 1) 2) (withBank [(0, 0xFF)])).cc 0).regs.flights with
    | [f] => (f.pown, f.pval, f.left)
    | _ => (0, 0, none)) = (4, 4, some 1) := by decide +kernel

/-- The popcount table of R93. -/
theorem test_slext : flown (issued (.slext 0 (sl 0 1) (sl 96 1) (sl 4 1)) (withBank [(96, 0x4332322132212110), (4, 11)])) 0 1 = 3 := by decide +kernel
theorem test_slext_outside : flown (issued (.slext 0 (sl 0 2) (sl 96 2) (.imm 16)) (withBank [(0, 0xFF)])) 0 2 = 0 := by decide +kernel
/-- R91: the MOVHI of spec/04. -/
theorem test_movhi_one : flown (issued (.movhi 0 (sl 0 10) 0x8000) (withBank [])) 0 10 = 0x0008000000 := by decide +kernel
theorem test_movi_extends : flown (issued (.movi 0 (sl 0 8) 0xFFFFFFF) (withBank [])) 0 8 = 0xFFFFFFFF := by decide +kernel
theorem test_pack : flown (issued (.pack 0 (sl 8 4) (sl 0 2) (sl 4 2)) (withBank [(0, 0x12), (4, 0x34)])) 8 4 = 0x3412 := by decide +kernel
theorem test_clts_wider : flown (issued (.clts 0 (sl 8 1) (sl 0 4) (.imm 0xFF)) (withBank [(0, 0xFFFE)])) 8 1 = 1 := by decide +kernel

/-- R67's table of W40 words, and the example of rounding after R73. -/
theorem test_w40_negative : mulReal .rne 0 (readW 0x801E000000) (readW 0x0008000000) = { val := 0x801E000000, fl := 0 } := by decide +kernel
theorem test_round_tie_even : roundFin .rne 0 false (2 ^ 28 + 1) (-28) false = { val := 0x0008000000, fl := 1 } := by decide +kernel
theorem test_round_up : roundFin .rup 0 false (2 ^ 28 + 1) (-28) false = { val := 0x0008000001, fl := 1 } := by decide +kernel
theorem test_round_stochastic : (roundFin .rsr 32768 false (2 ^ 28 + 1) (-28) false).val = 0x0008000001
    ∧ (roundFin .rsr 32767 false (2 ^ 28 + 1) (-28) false).val = 0x0008000000 := by decide +kernel
theorem test_round_to_least : roundFin .rne 0 false (2 ^ 29 - 1) (-1023 - 29) false = { val := 0x4018000000, fl := 1 } := by decide +kernel
theorem test_round_underflows : roundFin .rtz 0 false (2 ^ 29 - 1) (-1023 - 29) false = { val := 0x4000000000, fl := 3 } := by decide +kernel
theorem test_overflow_rup : roundFin .rup 0 true 1 2000 false = { val := 0xBFFFFFFFFF, fl := 5 } := by decide +kernel
theorem test_inf_minus_inf : addReal .rne 0 (readW 0x4000000001) (readW 0xC000000001) = { val := 0x4000000002, fl := 16 } := by decide +kernel
theorem test_fsub_flags : (match ((issued (.fsub 0 (sl 0 10) (sl 16 10) (sl 16 10) .rne) (withBank [(16, 0x4000000001)])).cc 0).regs.flights with
    | [f] => f.flags
    | _ => 0) = 16 := by decide +kernel

/-- R115: TRAP 1 saves its PC, its value and its code, sets INTRAP and enters at VEC · 8. -/
theorem test_trap : (match exec (.trap 0 (.imm 1) (.imm 5)) (onCc fun c => { c with pc := 0x40, cause := 0x800000000 }) with
    | .next s => ((s.cc 0).pc, (s.cc 0).epc, (s.cc 0).eval, (s.cc 0).cause)
    | _ => (0, 0, 0, 0)) = (8, 0x40, 5, 0x8000100C1) := by decide +kernel
theorem test_eret : (match exec (.eret 0) (onCc fun c => { c with pc := 8, epc := 0x48, cause := 0x8000100C1 }) with
    | .next s => ((s.cc 0).pc, (s.cc 0).cause)
    | _ => (0, 0)) = (0x48, 0x8000000C1) := by decide +kernel
/-- R110, R114: BR at 0x68 to 0x98 (spec/20), and LOOP at 0xB8 back to 0x38. -/
theorem test_br : ((issued (.br 0 6) (onCc fun c => { c with pc := 0x68 })).cc 0).pc = 0x98 := by decide +kernel
theorem test_loop : ((issued (.loop 0 (sl 24 4) (.imm 0xF0)) (onCc fun c => { c with pc := 0xB8, regs := { c.regs with bank := bankOf [(24, 2)] } })).cc 0).pc = 0x38 := by decide +kernel
theorem test_loop_ends : ((issued (.loop 0 (sl 24 4) (.imm 0xF0)) (onCc fun c => { c with pc := 0xB8, regs := { c.regs with bank := bankOf [(24, 1)] } })).cc 0).pc = 0xC0 := by decide +kernel

/-- The table of worked lanes (spec/09), with s0:16, s40:4 and s44:4 as given there. -/
def lanesState (l : List (Nat × Nat)) : State :=
  onElem 0 { threaded with regs := { bank := bankOf ([(0, 0x0004000300020001), (40, 0x03FE), (44, 0x0504)] ++ l) } } id

theorem test_vaddmin : firedData (issued (.vaddmin 0 (sl 20 16) (sl 0 16) (.imm 2) ⟨.l16, false⟩) (lanesState [(20, 0x0005000500050005)])) 0 20 16 = 0x0005000500040003 := by decide +kernel
theorem test_vcmp : firedData (issued (.vcmp 0 (sl 20 16) (sl 0 16) (.imm 2) ⟨.l16, false⟩) (lanesState [])) 0 20 16 = 0x000100010000FFFF := by decide +kernel
theorem test_vsel : firedData (issued (.vsel 0 (sl 20 16) (sl 0 16) (.imm 0) .l16) (lanesState [(20, 0x000100010000FFFF)])) 0 20 16 = 1 := by decide +kernel
theorem test_lshl : firedData (issued (.lshl 0 (sl 20 16) (sl 0 16) (sl 60 16) .l16) (lanesState [(60, 0x0007000000000000)])) 0 20 16 = 0x0003000200010007 := by decide +kernel
theorem test_lshr : firedData (issued (.lshr 0 (sl 20 16) (sl 0 16) (sl 60 16) .l16) (lanesState [(60, 0x0007000000000000)])) 0 20 16 = 0x0000000400030002 := by decide +kernel
theorem test_vscan : firedData (issued (.vscan 0 (sl 20 16) (sl 0 16) (.imm 0) ⟨.l16, false⟩) (lanesState [])) 0 20 16 = 0x000A000600030001 := by decide +kernel
theorem test_vred : firedData (issued (.vred 0 (sl 20 8) (sl 0 16) (.imm 0) ⟨.l16, false⟩) (lanesState [])) 0 20 8 = 10 := by decide +kernel
theorem test_vbcast : firedData (issued (.vbcast 0 (sl 20 16) (sl 0 16) (.imm 2) .l16) (lanesState [])) 0 20 16 = 0x0003000300030003 := by decide +kernel
theorem test_vdot : firedData (issued (.vdot 0 (sl 20 8) (sl 40 4) (sl 44 4) ⟨.l8, false⟩) (lanesState [(20, 100)])) 0 20 8 = 107 := by decide +kernel
theorem test_vdot_unsigned : firedData (issued (.vdot 0 (sl 20 8) (sl 40 4) (sl 44 4) ⟨.l8, true⟩) (lanesState [(20, 100)])) 0 20 8 = 1131 := by decide +kernel
theorem test_vadds_unsigned : firedData (issued (.vadds 0 (sl 20 2) (sl 40 2) (.imm 0x20) ⟨.l8, true⟩) (lanesState [])) 0 20 2 = 0xFF := by decide +kernel
theorem test_vadds_signed : firedData (issued (.vadds 0 (sl 20 2) (sl 40 2) (.imm 0x20) ⟨.l8, false⟩) (lanesState [])) 0 20 2 = 0x1E := by decide +kernel

/-- The example of spec/10: the scale of exponent −3 and fraction 192; T256's ends (R215). -/
theorem test_scale : scaleLog (-3) 192 = some (-576) := by decide +kernel
theorem test_t256 : t256 0 = 0x8000 ∧ t256 255 = 0xFF4F := by decide +kernel

/-- R257, R280: a store clears the tag of its unit; an access beyond the length traps CAP_BOUNDS with $EVAL the offset (spec/14). -/
def tileCapRw : Cap := mkCap 0x20000 64 0x1F 1
def tileState (l : List (Nat × Nat)) (f : ControlCore → ControlCore) : State :=
  onCc fun c => f { c with tilecap := mkCap 0 0x100000 0x1F 1, cause := 0x800000000, regs := { c.regs with bank := bankOf ([(64, tileCapRw.raw.toNat)] ++ l), tags := 4 } }

theorem test_st_clears_tag : (match exec (.st 0 (sl 8 8) (sl 64 16) (.imm 0) 0) ({ tileState [(8, 0x11223344)] id with tags := [0x2000, 0x2001] } : State) with
    | .next s => (s.load 0x20000 4, s.tags)
    | _ => (0, [])) = (0x11223344, [0x2001]) := by decide +kernel
theorem test_st_bounds : (match exec (.st 0 (sl 8 8) (sl 64 16) (.imm 64) 0) (tileState [] id) with
    | .next s => ((s.cc 0).cause.toNat % 1024, (s.cc 0).eval)
    | _ => (0, 0)) = (0x201, 64) := by decide +kernel
theorem test_aadd_align : (match exec (.aadd 0 (sl 16 8) (sl 64 16) (.imm 2) 0) (tileState [] id) with
    | .next s => ((s.cc 0).cause.toNat % 1024, s.mem)
    | _ => (0, [])) = (0x203, []) := by decide +kernel
theorem test_csetb_longer : (match ((issued (.csetb 0 (sl 64 16) (sl 64 16) (.imm 65)) (tileState [] id)).cc 0).regs.flights with
    | [f] => f.cap
    | _ => none) = some (2, false) := by decide +kernel

/-- withFetchWord and step run the word that is placed. -/
theorem test_step_runs_word : (match step (State.reset.withFetchWord 64 0xB00001007007C010) with
    | .next s => (s.cc 0).pc
    | _ => 0) = 8 := by decide +kernel
theorem test_step_fires_word : (match step (State.reset.withFetchWord 64 0x0000A500F10F20F2) with
    | .next s => (s.fired, (s.ctx 0 0 0).regs.flights.length)
    | _ => (false, 0)) = (true, 1) := by decide +kernel

/-! ### States that meet the hypotheses: integers, slices, predicates, floats -/

/-- Every instruction of a list may act, on the control core and, where `e` says so, in a V-element. -/
def allAct (l : List Instr) : Bool := l.all fun i => mayAct i (onCc id) && mayAct i (onElem 0 threaded id)

theorem witness_AddFamilyResults : allAct [.add 0 (sl 0 8) (sl 8 8) (.imm 1), .sub 0 (sl 0 8) (sl 8 8) (.imm 1), .adds 0 (sl 0 8) (sl 8 8) (.imm 1), .subs 0 (sl 0 8) (sl 8 8) (.imm 1),
    .addz 0 (sl 0 8) (sl 8 8) (.imm 1), .subz 0 (sl 0 8) (sl 8 8) (.imm 1), .neg 0 (sl 0 8) (sl 8 8), .abs 0 (sl 0 8) (sl 8 8), .mins 0 (sl 0 8) (sl 8 8) (.imm 1),
    .minz 0 (sl 0 8) (sl 8 8) (.imm 1), .maxs 0 (sl 0 8) (sl 8 8) (.imm 1), .maxz 0 (sl 0 8) (sl 8 8) (.imm 1)] = true := by decide +kernel
theorem witness_CarryResults : allAct [.addc 0 (sl 0 8) (sl 8 8) (.imm 1) 0, .subb 0 (sl 0 8) (sl 8 8) (.imm 1) 3] = true := by decide +kernel
theorem witness_MultiplyDivideResults : allAct [.mul 0 (sl 0 8) (sl 8 8) (.imm 1), .mulhs 0 (sl 0 8) (sl 8 8) (.imm 1), .mulhz 0 (sl 0 8) (sl 8 8) (.imm 1), .mad 0 (sl 0 8) (sl 8 8) (.imm 1),
    .divs 0 (sl 0 8) (sl 8 8) (.imm 0), .divz 0 (sl 0 8) (sl 8 8) (.imm 0), .rems 0 (sl 0 8) (sl 8 8) (.imm 0), .remz 0 (sl 0 8) (sl 8 8) (.imm 0)] = true := by decide +kernel
theorem witness_LogicAndShiftResults : allAct [.and 0 (sl 0 8) (sl 8 8) (.imm 1), .or 0 (sl 0 8) (sl 8 8) (.imm 1), .xor 0 (sl 0 8) (sl 8 8) (.imm 1), .andn 0 (sl 0 8) (sl 8 8) (.imm 1), .not 0 (sl 0 8) (sl 8 8),
    .brev 0 (sl 0 8) (sl 8 8), .shl 0 (sl 0 8) (sl 8 8) (.imm 32), .shrz 0 (sl 0 8) (sl 8 8) (.imm 32), .shrs 0 (sl 0 8) (sl 8 8) (.imm 32), .rotl 0 (sl 0 8) (sl 8 8) (.imm 32),
    .clz 0 (sl 0 8) (sl 8 8), .popc 0 (sl 0 8) (sl 8 8)] = true := by decide +kernel
theorem witness_SliceResults : allAct [.mov 0 (sl 0 8) (sl 8 8), .movi 0 (sl 0 8) 5, .movhi 0 (sl 0 8) 5, .sext 0 (sl 0 8) (sl 8 8) (.imm 4), .zext 0 (sl 0 8) (sl 8 8) (.imm 4),
    .slext 0 (sl 0 8) (sl 8 8) (.imm 1), .slins 0 (sl 0 8) (sl 8 8) (.imm 1), .pack 0 (sl 0 8) (sl 8 4) (sl 12 4), .unpk 0 (sl 0 8) (sl 8 4) (sl 12 16), .swap 0 (sl 0 8) (sl 8 8), .slclr 0 (sl 0 1) (.imm 4)] = true := by
  decide +kernel
/-- The wait of SLEXT for its slices at run time, and of MOV for $FFLAGS. -/
theorem witness_SliceResults_pre : (onCc id).regs.pending = 0 ∧ (onElem 0 threaded id).regs.flights = [] ∧ mayAct (.mov 0 (sl 0 16) (.sreg 0x10)) (onElem 0 threaded id) = true := by decide +kernel
theorem witness_CompareResults : allAct [.ceq 0 (.pred 0) (sl 0 10) (sl 16 10), .cne 0 (.pred 0) (sl 0 10) (sl 16 10), .clts 0 (.pred 0) (sl 0 10) (sl 16 10), .cltz 0 (.pred 0) (sl 0 10) (sl 16 10),
    .cles 0 (.pred 0) (sl 0 10) (sl 16 10), .clez 0 (.pred 0) (sl 0 10) (sl 16 10), .fceq 0 (.pred 0) (sl 0 10) (sl 16 10), .fclt 0 (.pred 0) (sl 0 10) (sl 16 10), .fcle 0 (.pred 0) (sl 0 10) (sl 16 10),
    .fcun 0 (.pred 0) (sl 0 10) (sl 16 10), .pmov 0 (.pred 0) (.pred 1), .pand 0 (.pred 0) (.pred 1) (.pred 2), .por 0 (.pred 0) (.pred 1) (.pred 2), .pxor 0 (.pred 0) (.pred 1) (.pred 2),
    .pnot 0 (.pred 0) (.pred 1), .selp 0 (sl 0 8) (sl 8 8) (sl 16 8) 3] = true := by decide +kernel
theorem witness_FloatArithmeticResults : allAct [.fadd 0 (sl 0 10) (sl 16 10) (sl 32 10) .rne, .fsub 0 (sl 0 10) (sl 16 10) (sl 32 10) .rtz, .fmul 0 (sl 0 10) (sl 16 10) (sl 32 10) .rup,
    .fma 0 (sl 0 10) (sl 16 10) (sl 32 10) .rdn, .fnma 0 (sl 0 10) (sl 16 10) (sl 32 10) .rne, .fmin 0 (sl 0 10) (sl 16 10) (sl 32 10), .fmax 0 (sl 0 10) (sl 16 10) (sl 32 10),
    .fabs 0 (sl 0 10) (sl 16 10), .fneg 0 (sl 0 10) (sl 16 10), .frcp 0 (sl 0 10) (sl 16 10) .rne, .frsq 0 (sl 0 10) (sl 16 10) .rne, .fexp2 0 (sl 0 10) (sl 16 10) .rne, .flog2 0 (sl 0 10) (sl 16 10) .rne,
    .fdiv 0 (sl 0 10) (sl 16 10) (sl 32 10) .rne, .fsqrt 0 (sl 0 10) (sl 16 10) .rne, .fscale 0 (sl 0 10) (sl 16 10) (.imm 1) .rne] = true := by decide +kernel
theorem witness_FloatArithmeticResults_rsr : mayAct (.fadd 0 (sl 0 10) (sl 16 10) (sl 32 10) .rsr) (onElem 0 threaded id) = true := by decide +kernel
theorem witness_ConversionResults : allAct [.fcvts 0 (sl 0 10) (sl 16 8) .rne, .fcvtz 0 (sl 0 10) (sl 16 8) .rne, .ftois 0 (sl 0 8) (sl 16 10) .rne, .ftoiz 0 (sl 0 8) (sl 16 10) .rne, .frnd 0 (sl 0 10) (sl 16 10) .rne,
    .fnorm 0 (sl 0 10) (sl 16 10), .fgete 0 (sl 0 8) (sl 16 10), .fgetm 0 (sl 0 8) (sl 16 10), .fsete 0 (sl 0 10) (sl 16 10) (.imm 1) .rne, .ftol 0 (sl 0 3) (sl 16 10) .l12, .ltof 0 (sl 0 10) (sl 16 3) .l6,
    .f32w 0 (sl 0 10) (sl 16 8), .wf32 0 (sl 0 8) (sl 16 10) .rne] = true := by decide +kernel

/-! ### Control flow, waits, special registers, traps -/

/-- The control core may issue each instruction of a list. -/
def allIssue (l : List Instr) (s : State) : Bool := l.all fun i => mayIssue i 0 s

theorem witness_TransferResults : allIssue [.br 0 6, .jmp 0 (sl 0 8), .jal 0 (sl 120 8) 4, .jal 0 (sl 0 8) 4, .jalr 0 (sl 120 8) (sl 0 8), .jalr 0 (sl 0 8) (sl 120 8), .loop 0 (sl 24 4) (.imm 0xF0)] (onCc id) = true := by decide +kernel
/-- Both cases of a target, of a return's prediction and of a count. -/
theorem witness_TransferResults_cases : (zn (onCc id) (sl 0 8) 32 % 8 = 0 ∧ zn (withBank [(0, 4)]) (sl 0 8) 32 % 8 ≠ 0)
    ∧ (zv (withBank [(24, 1)]) (sl 24 4) 16 - 1) % (2 ^ 16 : Nat) = 0 ∧ (zv (withBank [(24, 2)]) (sl 24 4) 16 - 1) % (2 ^ 16 : Nat) ≠ 0
    ∧ ((onCc fun c => { c with ras := [8] }).cc 0).ras.head? = some 8 := by decide +kernel
theorem witness_WaitResults : allAct [.nop 0] = true ∧ allIssue [.waitp 0 (sl 0 8), .waitp 0 (.pred 7), .halt 0, .cfence 0, .wfe 0 (sl 26 1) (.imm 4) (.imm 0), .wfe 0 (sl 26 1) (.imm 4) (.imm 9)] (onCc id) = true := by decide +kernel
/-- With the slices, the predicate and the latch that WAITP and WFE wait for. -/
theorem witness_WaitResults_pending : allIssue [.waitp 0 (sl 0 8), .waitp 0 (.pred 7), .wfe 0 (sl 26 1) (.imm 4) (.imm 0)] (onCc fun c => { c with
    latches := 4, regs := { c.regs with flights := [{ id := 1, left := some 3, own := sliceMask 0 8, pown := 0x80 }] } }) = true := by decide +kernel
theorem witness_SpecialRegisterResults : allIssue [.srd 0 (sl 0 16) (.sreg 0x00), .srd 0 (sl 0 16) (.sreg 0x18), .srd 0 (sl 0 16) (.sreg 0x19), .srd 0 (sl 0 16) (.sreg 0x10), .srd 0 (sl 0 16) (.sreg 0x22),
    .swr 0 (.sreg 0x08) (sl 0 16), .swr 0 (.sreg 0x10) (sl 0 16)] (onCc id) = true ∧ ((onCc id).cc 0).regs.drained = true
    ∧ (Instr.srd 0 (sl 0 16) (.sreg 0x18)).wf .cc = true ∧ (Instr.srd 0 (sl 0 15) (.sreg 0x19)).wf .cc = false ∧ (Instr.swr 0 (.sreg 0x03) (sl 0 16)).wf .cc = false := by decide +kernel
theorem witness_TrapInstructionResults : allIssue [.trap 0 (.imm 63) (sl 0 16), .bkpt 0 (.imm 127), .eret 0] (onCc id) = true
    ∧ allIssue [.bkpt 0 (.imm 1)] (onCc fun c => { c with debugHalt := true }) = true ∧ allIssue [.eret 0] (onCc fun c => { c with cause := 0x10000, epc := 0x48 }) = true := by decide +kernel
theorem witness_TrapEntry : ((onCc id).cc 0).cause.extractLsb' 35 29 = 0 ∧ ((onCc fun c => { c with cause := 0x800010000 }).cc 0).cause.getLsbD 16 = true
    ∧ ((onCc fun c => { c with cause := 0x800000000 }).cc 0).cause.extractLsb' 35 29 ≠ 0 := by decide +kernel
theorem witness_FatalTrap : ((onCc id).cc 0).cause.extractLsb' 35 29 = 0 ∧ (0x3FF : Nat) < 1024 := by decide +kernel

/-! ### Elements -/

/-- A V-element that has a token at every input. -/
def fullIn (e : Nat) (c : Core) : Core := putPass e 0 7 (putPort e 0 (tok 0 1) (putPort e 1 (tok 0 1) (putIn e 0 (tok 0 5) c)))
def vFull : State := onElem 0 threaded (fullIn 0)
def mFull : State := onElem 1 threaded (fullIn 1)
def allFire (l : List Instr) (e : Nat) (s : State) : Bool := l.all fun i => mayFire i 0 e 0 s

theorem witness_TokenResults : allFire [.emit 0 (.outChan 0 0) (.inChan 0 false) none, .emit 0 (.outChan 1 3) (sl 0 16) (some (.imm 3)), .ctok 0 (.port 0 true) (.pred 0) none, .deq 0 (.inChan 0 false), .deq 0 (.port 0 false),
    .peekk 0 (sl 0 1) (.port 1 false), .pass 0 (sl 0 16) (.pass 0 false), .tidx 0 (sl 0 8) (.imm 0) (.imm 32), .idle 0 (.imm 4), .join 0 (.port 0 true) (.port 0 false) (.port 1 false), .fork 0 (.port 1 true) (.port 0 false),
    .fence 0 none (.imm 7), .fence 0 (some (.port 0 true)) (.imm 7)] 0 vFull = true ∧ mayIssue (.fence 0 none (.imm 7)) 0 (onCc id) = true ∧ (onCc id).site = .cc 0
    ∧ ((onCc id).core 0).far = [] ∧ (onCc id).held 0 = false := by decide +kernel
def exitBlock : Block := { qcap := 4, npick := 1, entcol := 0, entch := 0, pickoff := 0, wave := 4, xtok := 0, qbase := 0 }
def withBlocks (s : State) : State := s.modRegion 0 0 fun r => { r with blocks := [exitBlock] }
theorem witness_ThreadEndResults : allFire [.retire 0 true, .retire 0 false, .exit 0 (.imm 0) none 0, .exit 0 (.imm 9) (some (.inChan 0 false)) 1] 0 (withBlocks vFull) = true
    ∧ ((withBlocks vFull).ctx 0 0 0).regs.flights = [] ∧ ((regionOf (withBlocks vFull) 0 0).map fun r => r.blocks[0]?) = some (some exitBlock)
    ∧ ((withBlocks vFull).core 0).recordsReserved (((regionOf (withBlocks vFull) 0 0)).getD fetchRegion) 0 + exitBlock.count < exitBlock.qcap
    ∧ ((regionOf (withBlocks vFull) 0 0).map fun r => r.blocks[9]?) = some none := by decide +kernel
theorem witness_ThreadEndResults_eow : let s := onElem 0 {} (putIn 0 0 (tok 1 5))
    allFire [.eow 0 none (.inChan 0 false), .eow 0 (some (.outChan 1 1)) (.inChan 0 false)] 0 s = true ∧ s.chanHead 0 0 0 0 = some (tok 1 5) ∧ (s.ctx 0 0 0).thread = none := by decide +kernel
theorem witness_VectorLaneResults : allFire [.vadd 0 (sl 20 16) (sl 0 16) (.imm 2) .l16, .vsub 0 (sl 20 16) (sl 0 16) (.imm 2) .l4, .vmul 0 (sl 20 16) (sl 0 16) (.imm 2) .l64, .vadds 0 (sl 20 16) (sl 0 16) (.imm 2) ⟨.l8, true⟩,
    .vmin 0 (sl 20 16) (sl 0 16) (.imm 2) ⟨.l8, false⟩, .vmax 0 (sl 20 16) (sl 0 16) (.imm 2) ⟨.l8, true⟩, .vaddmin 0 (sl 20 16) (sl 0 16) (.imm 2) ⟨.l8, true⟩, .vaddmax 0 (sl 20 16) (sl 0 16) (.imm 2) ⟨.l8, true⟩,
    .vsel 0 (sl 20 16) (sl 0 16) (.imm 2) .l16, .vcmp 0 (sl 20 16) (sl 0 16) (.imm 2) ⟨.l8, true⟩, .lshl 0 (sl 20 16) (sl 0 16) (.imm 2) .l16, .lshr 0 (sl 20 16) (sl 0 16) (.imm 2) .l16] 0 vFull = true := by decide +kernel
theorem witness_VectorReductionResults : allFire [.vred 0 (sl 20 8) (sl 0 16) (.imm 0) ⟨.l16, false⟩, .vred 0 (sl 20 8) (sl 0 16) (.imm 6) ⟨.l16, true⟩, .vscan 0 (sl 20 16) (sl 0 16) (.imm 3) ⟨.l16, false⟩,
    .vbcast 0 (sl 20 16) (sl 0 16) (.imm 2) .l16, .vdot 0 (sl 20 8) (sl 40 4) (sl 44 4) ⟨.l8, false⟩] 0 vFull = true := by decide +kernel
theorem witness_LanesOfPacked : (0 : Nat) < [5].length := by decide

/-- A packet for context 0 on each bus of M-element 1. -/
def busPacket : Packet := { body := 5, rowid := 0xFF, colid := 0xFF, ctx := 0, arrived := 10 }
def mBus : State := (mFull.modElem 0 1 fun x => { x with rowid := 3, colid := 3 }).modCore 0 fun c => { c with rbus := [(0, busPacket)], cbus := [(1, busPacket)] }
theorem witness_MatrixProductResults : allFire [.mmac 0 (.bus (.imm 0)) (.imm 0), .mmac8 0 (.bus (.imm 0)) (.imm 0), .mmac12 0 (.bus (.imm 0)) (.imm 0), .mmac 0 (.store 1) (.imm 0), .mmac8 0 (.store 3) (.imm 0),
    .mmac12 0 (.store 7) (.imm 0), .mmacw 0 3] 1 mBus = true ∧ mBus.tileTurn 0 1 0 = true ∧ mBus.rowPacket 0 1 0 = some busPacket ∧ mBus.colPacket 0 1 0 = some busPacket ∧ (mBus.elem 0 1).downPending = false := by decide +kernel
theorem witness_MatrixTileResults : allFire [.mzero 0 (.imm 0xD8), .mdown 0 .l8, .mread 0 (sl 0 10) (.res 7) (.imm 7) .rne, .mnorm 0 (some (.imm 1)), .mnorm 0 none, .mxget 0 (sl 0 8) (.imm 0), .mxget 0 (sl 0 16) (.imm 1),
    .mtask 0 (some (sl 0 8)) (.inChan 0 false) (.imm 5) 0, .mtask 0 none (.inChan 0 true) (.imm 6) 3, .mpois 0 (.imm 1) true, .mpois 0 (.imm 1) false] 1 (onElem 1 threaded (putIn 1 0 (tok 3 5))) = true
    ∧ (onElem 1 threaded (putIn 1 0 (tok 3 5))).chanHead 0 1 0 0 = some (tok 3 5) := by decide +kernel

/-! ### States that meet the hypotheses: memory, capabilities, engines, power, test -/

/-- Capability positions 1 and 2 (s32:32, s64:32) of core 0, within its tile window. -/
def caps (c1 c2 : Cap) (l : List (Nat × Nat)) : State :=
  onCc fun c => { c with tilecap := mkCap 0 0x100000 0x1F 1, cause := 0x800000000,
                         regs := { c.regs with bank := bankOf ([(32, c1.raw.toNat), (64, c2.raw.toNat)] ++ l), tags := 6 } }
/-- RD, WR, CL, CS and AT on 256 bytes of the tile from 0x20000. -/
def tileAll : Cap := mkCap 0x20000 256 0x1F 1
def ms (l : List (Nat × Nat)) : State := caps tileAll tileAll l

theorem witness_TileAccessResults : allIssue [.ld 0 (sl 0 8) (sl 64 16) (.imm 0) 0, .st 0 (sl 0 8) (sl 64 16) (.imm 0) 0, .ldf 0 (sl 0 10) (sl 64 16) (.imm 0) 3, .stf 0 (sl 0 10) (sl 64 16) (.imm 0) 3,
      .cldc 0 (sl 0 16) (sl 64 16) (.imm 0), .cstc 0 (sl 0 16) (sl 64 16) (.imm 0)] (ms []) = true
    ∧ unheld (ms []) 0 0 = true ∧ granted (ms []) 0 (sl 64 16) 0 4 pRD 0x20000 = true ∧ granted (ms []) 0 (sl 64 16) 0 4 pWR 0x20000 = true ∧ granted (ms []) 0 (sl 64 16) 0 16 pCL 0x20000 = true
    ∧ granted (ms []) 0 (sl 64 16) 0 16 pCS 0x20000 = true ∧ (ms []).unreadable (tileLoc 0 0x20000) 16 = none := by decide +kernel
/-- The last byte of the range; and an order with a release. -/
theorem witness_TileAccessResults_ends : granted (ms []) 0 (sl 64 16) 252 4 pRD 0x200FC = true ∧ granted (ms []) 0 (sl 64 16) 253 4 pRD 0x200FD = false ∧ unheld (ms []) 0 9 = true := by decide +kernel
theorem witness_TileAtomicResults : allIssue [.aadd 0 (sl 0 8) (sl 64 16) (.imm 0) 0, .amin 0 (sl 0 8) (sl 64 16) (.imm 0) 0, .amax 0 (sl 0 8) (sl 64 16) (.imm 0) 0, .aand 0 (sl 0 8) (sl 64 16) (.imm 0) 0,
      .aor 0 (sl 0 8) (sl 64 16) (.imm 0) 0, .axor 0 (sl 0 8) (sl 64 16) (.imm 0) 0, .axchg 0 (sl 0 8) (sl 64 16) (.imm 0) 0, .acas 0 (sl 0 16) (sl 64 16) (.imm 0) 0, .afadd 0 (sl 0 8) (sl 64 16) (.imm 0) 0] (ms []) = true
    ∧ unheld (ms []) 0 0 = true ∧ granted (ms []) 0 (sl 64 16) 0 (atomWidth 0xC4 7) pAT 0x20000 = true ∧ granted (ms []) 0 (sl 64 16) 0 (atomWidth 0xCB 15) pAT 0x20000 = true
    ∧ 0x20000 % atomWidth 0xC4 7 = 0 ∧ (ms []).unreadable (tileLoc 0 0x20000) 4 = none := by decide +kernel
/-- The same with s64:32 a capability of space 2. -/
def farCap : Cap := mkCap 0x4000 64 0x1F 2
theorem witness_FarAtomicResults : let s := caps tileAll farCap []
    allIssue [.aadd 0 (sl 0 8) (sl 64 16) (.imm 0) 0, .amin 0 (sl 0 16) (sl 64 16) (.imm 0) 0, .amax 0 (sl 0 8) (sl 64 16) (.imm 0) 0, .aand 0 (sl 0 8) (sl 64 16) (.imm 0) 0, .aor 0 (sl 0 8) (sl 64 16) (.imm 0) 0,
      .axor 0 (sl 0 8) (sl 64 16) (.imm 0) 0, .axchg 0 (sl 0 8) (sl 64 16) (.imm 0) 0, .acas 0 (sl 0 16) (sl 64 16) (.imm 0) 0, .afadd 0 (sl 0 8) (sl 64 16) (.imm 0) 0] s = true
    ∧ s.held 0 = false ∧ (s.capSrc (sl 64 16)).tag = true ∧ isFarSpace (s.capSrc (sl 64 16)).space = true ∧ (s.capSrc (sl 64 16)).at = true ∧ (s.src (.imm 0)).ownS = 0
    ∧ 0 + atomWidth 0xC4 7 ≤ (s.capSrc (sl 64 16)).len ∧ (s.capSrc (sl 64 16)).base = 0x4000 ∧ atomWidth 0xC4 7 = 4 ∧ atomWidth 0xC4 15 = 8 ∧ atomWidth 0xCB 15 = 4 ∧ (s.core 0).far.length < 16 := by decide +kernel
theorem witness_ElementRequestResults : allFire [.ld 0 (sl 0 1) (.imm 0) (sl 0 1) 0, .st 0 (.port 0 true) (.imm 0) (sl 0 8) 0, .ldf 0 (sl 0 1) (.imm 0) (sl 0 1) 1, .stf 0 (sl 0 1) (.imm 0) (sl 0 10) 1, .aadd 0 (sl 0 1) (.imm 0) (sl 0 8) 0,
      .amin 0 (sl 0 1) (.imm 0) (sl 0 8) 0, .amax 0 (sl 0 1) (.imm 0) (sl 0 8) 0, .aand 0 (sl 0 1) (.imm 0) (sl 0 8) 0, .aor 0 (sl 0 1) (.imm 0) (sl 0 8) 0, .axor 0 (sl 0 1) (.imm 0) (sl 0 8) 0, .axchg 0 (sl 0 1) (.imm 0) (sl 0 8) 0,
      .acas 0 (sl 0 1) (.imm 0) (sl 0 16) 0, .afadd 0 (sl 0 1) (.imm 0) (sl 0 10) 0] 0 vFull = true
    ∧ (vFull.ctx 0 0 0).regs.flights = [] ∧ (vFull.core 0).requested 0 0 < 4 ∧ ((regionOf vFull 0 0).map Region.det).getD false = false := by decide +kernel
/-- Each check of an access in turn. -/
theorem witness_TileAccessTraps : allIssue [.ld 0 (sl 0 8) (sl 64 16) (.imm 0) 0] (ms []) = true ∧ unheld (ms []) 0 0 = true ∧ ((onCc id).capSrc (sl 64 16)).tag = false
    ∧ ((caps tileAll farCap []).capSrc (sl 64 16)).space = 2 ∧ ((ms []).src (.imm 0xFF)).ownS = -1 ∧ ((ms []).cc 0).tilecap.valid = true
    ∧ ((caps tileAll (mkCap 0x200000 64 1 1) []).cc 0).tilecap.len < ((caps tileAll (mkCap 0x200000 64 1 1) []).capSrc (sl 64 16)).base
    ∧ ({ ms [] with bad := [0x2000] } : State).unreadable (tileLoc 0 0x20000) 4 = some 0x2000 := by decide +kernel
/-- An access that is not aligned, and a far atomic whose width is legal or not, with a guard that does not hold. -/
theorem witness_TileAccessTraps_align : (let s := ms []
      allIssue [.cldc 0 (sl 0 16) (sl 64 16) (.imm 8), .cstc 0 (sl 0 16) (sl 64 16) (.imm 8), .aadd 0 (sl 0 8) (sl 64 16) (.imm 2) 0, .stf 0 (sl 0 10) (sl 64 16) (.imm 1) 6] s = true
        ∧ (tileAll.base + 8) % 16 ≠ 0 ∧ (tileAll.base + 2) % atomWidth 0xC4 7 ≠ 0 ∧ isFarSpace tileAll.space = false ∧ (s.src (.imm 8)).ownS = 8)
    ∧ (let s := caps tileAll farCap []
       allIssue [.aadd 0 (sl 0 8) (sl 64 16) (.imm 2) 0] s = true ∧ s.held 0 = false ∧ isFarSpace farCap.space = true ∧ farCap.tag = true ∧ farCap.at = true ∧ (farCap.base + 2) % atomWidth 0xC4 7 ≠ 0
         ∧ (Instr.aadd 0xB800 (sl 0 4) (sl 64 16) (.imm 0) 0).wf .cc = true ∧ ¬ (atomWidth 0xC4 3 = 4 ∨ atomWidth 0xC4 3 = 8 ∧ 0xC4 ≠ 0xCB)
         ∧ (s.cc 0).regs.ready (Instr.aadd 0xB800 (sl 0 4) (sl 64 16) (.imm 0) 0).shape = true ∧ ccGuardHolds (Instr.aadd 0xB800 (sl 0 4) (sl 64 16) (.imm 0) 0).shape.guard (s.cc 0).regs.preds = false
         ∧ (caps tileAll (mkCap 0x4000 64 1 2) []).capSrc (sl 64 16) = mkCap 0x4000 64 1 2 ∧ (mkCap 0x4000 64 1 2).at = false) := by decide +kernel
theorem witness_CapabilityResults : allIssue [.csetb 0 (sl 0 16) (sl 64 16) (.imm 64), .csub 0 (sl 0 16) (sl 64 16) (.imm 64), .candp 0 (sl 0 16) (sl 64 16) (.imm 1), .cmov 0 (sl 0 16) (sl 64 16), .cclr 0 (sl 0 16) (sl 64 16),
      .cgetb 0 (sl 0 16) (sl 64 16), .cgetl 0 (sl 0 16) (sl 64 16), .cgetp 0 (sl 0 16) (sl 64 16), .ctest 0 (.pred 0) (sl 64 16) (.imm 1)] (ms []) = true ∧ ((ms []).capSrc (sl 64 16)).tag = true := by decide +kernel

/-- A command block at 0x20000 (s64:32) with its two capabilities and four words. -/
def withBlock (c0 c1 : Cap) (w : List Nat) : State :=
  ((upFrom 0 4).zip w).foldl (fun s p => s.store (tileLoc 0 (0x20000 + 32 + 8 * p.1)) 8 p.2) (((ms []).storeCap (tileLoc 0 0x20000) c0).storeCap (tileLoc 0 0x20010) c1)
def blockReady (i : Instr) (op : Nat) (rule : BlockWords → BlockRule) (s : State) : Bool :=
  mayIssue i 0 s && !s.held 0 && grantedBlock s 0 (sl 64 16) 0 64 (pRD + pCL) 0x20000 && (s.unreadable (tileLoc 0 0x20000) 64).isNone
    && (ruleCheck (s.cc 0).tilecap (s.block 0 0x20000) (rule (s.block 0 0x20000))).isNone && ((s.core 0).engineFor op).isSome
/-- A bank's token and a stream for DMAS. -/
def dmasState : State := ((withBlock (mkCap 0x8000 0x10000 1 2) (mkCap 0x40000 0x40000 2 1) [0, 0, 64, 1])).modCore 0 fun c => { c with bankTok := [(2, 8), (3, 8)], regions := [(0, fetchRegion)] }
theorem witness_BlockCommandResults : blockReady (.dma 0 (sl 0 16) (sl 64 16) (.imm 0) 0) 0xE0 dmaRule (withBlock tileAll tileAll [0, 64, 0x100000040, 0]) = true
    ∧ (blockReady (.dmas 0 (sl 0 16) (sl 64 16) (.imm 0) 0) 0xE1 dmasRule dmasState && fifoReady dmasState 0 (dmasState.block 0 0x20000)) = true
    ∧ blockReady (.gath 0 (sl 0 16) (sl 64 16) (.imm 0) 0) 0xE2 (gathRule false) (withBlock farCap tileAll [0, 0, 0x100000020, 0]) = true
    ∧ blockReady (.scat 0 (sl 0 16) (sl 64 16) (.imm 0) 0) 0xE3 (gathRule true) (withBlock farCap tileAll [0, 0, 0x100000020, 0]) = true
    ∧ blockReady (.stage 0 (sl 0 16) (sl 64 16) (.imm 0) 0) 0xE4 stageRule (withBlock farCap tileAll [0, 0, 0, 0]) = true
    ∧ (let s := withBlock tileAll tileAll [0, 0, 0x100500000, 0]
       blockReady (.coll 0 (sl 0 16) (sl 64 16) (.imm 0) 0) 0xE5 (collRule (s.collGroupOf 0 0).1 (s.collGroupOf 0 0).2) s = true ∧ collGroup ((s.block 0 0x20000).P 2) = 0) := by decide +kernel

/-- Core 0 belongs to partition 0. -/
def inPart (s : State) : State := { s.modCore 0 fun c => { c with part := some 0 } with parts := [(0, { ready := true, cores := [0] })] }
theorem witness_MessageCommandResults : let s := inPart (ms [])
    s.site = .cc 0 ∧ s.held 0 = false ∧ allIssue [.msg 0 (sl 0 16) (sl 64 16) (.imm 0) 0, .mrecv 0 (sl 0 16) (sl 64 16) (.imm 0) 0, .launch 0 (sl 0 16) (sl 64 16) (.imm 0) 0, .qwait 0 (sl 0 16) (.imm 15) (.imm 1), .qwait 0 (sl 0 16) (.imm 16) (.imm 1)] s = true
    ∧ grantedBlock s 0 (sl 64 16) 0 64 pRD 0x20000 = true ∧ grantedBlock s 0 (sl 64 16) 0 64 pWR 0x20000 = true ∧ grantedBlock s 0 (sl 64 16) 0 128 pRD 0x20000 = true ∧ (s.targetCore 0 0).isSome = true
    ∧ s.unreadable (tileLoc 0 0x20000) 128 = none ∧ (s.core 0).engineFor 0xE6 = some 3 ∧ (s.core 0).engineFor 0xE7 = some 3 ∧ (s.core 0).engineFor 0xE9 = some 4 ∧ (s.core 0).engineFor 0xED = some 4 := by decide +kernel

/-- Core 0 runs member 0 of launch 0 with every right. -/
def ofLaunch (gang : Nat) (s : State) : State :=
  { (inPart s).modCc 0 fun c => { c with member := some (0, 0) } with
    launches := [(0, { part := 0, queue := 0, words := [BitVec.ofNat 64 ((gang - 1) * 2 ^ 24 + 7)], members := [{ core := 0, started := true }] })] }
theorem witness_EngineControlResults : let s := (ofLaunch 1 (ms [])).modCore 0 fun c => { c with bankOwner := [(2, 0)], regions := [(1, fetchRegion)], bankTok := [(2, 8)] }
    allIssue [.bankt 0 (.imm 2) (.imm 1), .epoll 0 (.pred 1) (sl 16 16), .ecancel 0 (sl 16 16), .gbar 0 (.imm 0)] s = true ∧ s.held 0 = false ∧ banktTrap s 0 2 1 = none ∧ (s.core 0).far = []
    ∧ ((s.launchOf 0).map fun p => p.2.gang) = some 1 ∧ (((ofLaunch 2 (ms [])).launchOf 0).map fun p => p.2.gang) = some 2 ∧ mayIssue (.gbar 0 (.imm 3)) 0 (ofLaunch 2 (ms [])) = true := by decide +kernel
/-- Every answer to a request for a lease. -/
theorem witness_PowerInstructionResults : allIssue [.lease 0 (sl 0 16) (.imm 9) (.imm 80), .lrel 0, .pwrq 0 (sl 0 16) (.imm 0) (.imm 0), .tstamp 0 (sl 0 16), .mark 0 (.imm 1) (sl 0 16)] (ofLaunch 1 (ms [])) = true
    ∧ ((ofLaunch 1 (ms [])).core 0).part = some 0 ∧ ((ofLaunch 1 (ms [])).askLease 0 5 100 none).1 = 0 ∧ ((ofLaunch 1 (ms [])).askLease 0 0 100 none).1 = 3
    ∧ ((((ofLaunch 1 (ms [])).askLease 0 5 100 none).2).askLease 0 5 100 none).1 = 2 ∧ (({ ofLaunch 1 (ms []) with avgW := 2201 } : State).askLease 0 5 100 none).1 = 1 := by decide +kernel
def onePattern : TrimRecord := { opTables := [], patterns := [{ num := 5, runUs := 10, expected := 0x1234 }], faultyM := [], badStrings := [], laneSpares := [] }
theorem witness_TestInstructionResults : let s := { ofLaunch 1 (ms []) with trim := some onePattern }
    allIssue [.dstop 0 (sl 0 16) (.imm 0), .scant 0 (sl 0 16) (.imm 5), .scant 0 (sl 0 16) (.imm 6), .scanq 0 (sl 0 16) (.imm 5), .lcmap 0 (sl 0 16) (.imm 0) (.imm 0), .lcmap 0 (sl 0 16) (.imm 0) (.imm 1)] s = true
    ∧ s.region? 0 0 = none ∧ (s.modCore 0 fun c => { c with regions := [(0, fetchRegion)] }).region? 0 0 = some fetchRegion ∧ s.holds 0 Launch.debug = true ∧ (ms []).holds 0 Launch.debug = false ∧ (s.core 0).scan = none
    ∧ scanRefusal s 0 5 (s.wanted 0) = none ∧ scanRefusal s 0 6 (s.wanted 0) = some 3 ∧ (s.pattern 5).isSome = true ∧ (s.core 0).part = some 0 ∧ lcmapStatus s 0 0 0 0 = 0 ∧ (s.core 0).lcore = 0
    ∧ lcmapStatus s 0 0 9 0 = 3 := by decide +kernel

/-! ### States that meet the hypotheses: steps of control cores, networks, regions, streams -/

/-- The top-level entry of space 2 maps 2^39 bytes to device memory; block 0 has frame 0 of HBM. -/
def mapped (s : State) : State := { s with indir := [(0, mkEnt false false false 0)], mem := memPut s.mem (mediaLoc 0 0) (toBytes 0x3F 8) }
def okOf (o : Except (Nat × Nat) (List Byte)) : Bool :=
  match o with
  | .ok _ => true
  | .error _ => false

def wbFlight : Flight := { id := 1, left := some 0, own := sliceMask 0 8, data := 5 }
def wbElem : State := onElem 0 { threaded with regs := { flights := [{ wbFlight with outs := [.token 0 0 0 9 false] }] } } id
theorem witness_WriteBackEvents : (((onCc fun c => { c with regs := { c.regs with flights := [wbFlight] } }).cc 0).regs.flights.find? fun g => g.id == 1) = some wbFlight ∧ wbFlight.left = some 0
    ∧ ((wbElem.ctx 0 0 0).regs.flights.find? fun g => g.id == 1).isSome = true ∧ (((wbElem.ctx 0 0 0).regs.flights.getD 0 wbFlight).ordered = false) ∧ (wbElem.core 0).requestsOf 0 0 = false
    ∧ (regionOf wbElem 0 0).isSome = true := by decide +kernel
/-- Every slice of position 1 owned with a tagged capability; some of them; and an SWR of $FFLAGS. -/
theorem witness_OwnershipOfResults : (let f := { wbFlight with own := posMask 1, cap := some (1, true) }
      f.cap = some (1, true) ∧ f.own &&& posMask 1 = posMask 1 ∧ f.own &&& posMask 2 = 0 ∧ (({} : Regs).land f).tags = 2)
    ∧ (({ tags := 2 } : Regs).land { wbFlight with own := 0xFF#512 <<< 128, cap := some (1, true) }).tags = 0
    ∧ (({ fflags := 3 } : Regs).land { wbFlight with sreg := some (0x10, 0x28), flags := 1 }).fflags = 0x9 := by decide +kernel
theorem test_write_back_places : (after? (exec (.writeBack (.ctx 0 0 0 0) 1) wbElem)).chanHead 0 1 0 0 = none
    ∧ (((after? (exec (.writeBack (.ctx 0 0 0 0) 1) wbElem)).core 0).link 8).stages.length = 1 ∧ ((after? (exec (.writeBack (.ctx 0 0 0 0) 1) wbElem)).ctx 0 0 0).regs.bank = 5 := by decide +kernel
theorem witness_ControlCoreEvents : ((onCc fun c => { c with trapping := some ⟨4, 0, 0⟩ }).cc 0).trapping = some ⟨4, 0, 0⟩ ∧ ((onCc id).cc 0).regs.drained = true
    ∧ (let s := onCc fun c => { c with cause := 0x800000000, reports := [(0x383, 0, 5)] }
       (s.cc 0).deliverable s.cycle = true)
    ∧ (let s : State := { (onCc id).modCc 0 fun c => { c with run := .waiting, wait := .event 4 (sl 26 1) (some 100) } with cycle := 100 }
       (s.cc 0).run = .waiting ∧ (s.cc 0).wait = .event 4 (sl 26 1) (some 100))
    ∧ (let s := onCc fun c => { c with fill := some 0 }
       (s.cc 0).fill = some 0 ∧ s.requesters 0 0 = [0] ∧ okOf (s.fetch (dieOf 0) 0 0 2 0 (needX ||| needR) 128).1 = false) := by decide +kernel
def fillState : State := mapped (onCc fun c => { c with fill := some 0 })
theorem flat_fillState : fillState.Flat := ⟨rfl, by decide +kernel, rfl, fun _ => rfl, fun _ h => nomatch h⟩
theorem witness_ControlCoreEvents_fill : (fillState.cc 0).fill = some 0 ∧ fillState.requesters 0 0 = [0] ∧ ((fillState.cc 0).icache.filter fun x : Line => Machine.setOf x.va == Machine.setOf 0).length < 4
    ∧ ∃ b t, fillState.fetch (dieOf 0) 0 0 2 0 (needX ||| needR) 128 = (.ok b, t) ∧ (t.cc 0).icache = (fillState.cc 0).icache := by
  obtain ⟨b, t, h, -, r⟩ := flat_fillState.fetch (dieOf 0) 0 0 0 (needX ||| needR) 128 (by decide) (by decide)
  refine ⟨by decide +kernel, by decide +kernel, by decide +kernel, b, t, h, ?_⟩
  rw [r]
  rfl
theorem test_wfe_timeout : (match exec (.wfeTimeout 0) ({ (onCc id).modCc 0 fun c => { c with run := .waiting, wait := .event 4 (sl 26 2) (some 100) } with cycle := 100 } : State) with
    | .next s => ((s.cc 0).run, flown s 26 2)
    | _ => (.off, 0)) = (.running, 0x80) := by decide +kernel

/-- M-element 1 on a lit row bus and column bus whose packets it has taken, with a filler quota. -/
def busTaken : Packet := { busPacket with taken := [1] }
def mNet : State := (mBus.modCore 0 fun c => { c with rbus := [(0, busTaken)], cbus := [(1, busTaken)], strings := [(0, { heavy := 5, light := 5, quota := [1, 0, 0, 0] })] })
theorem witness_NetworkEvents : let c := mNet.core 0
    c.rbus.get? 0 = some busTaken ∧ c.cbus.get? 1 = some busTaken ∧ (c.busRegion false 0).isSome = true ∧ (c.busRegion true 1).isSome = true ∧ busTaken.arrived < mNet.cycle
    ∧ (c.accepting fetchRegion busTaken true 0).all busTaken.taken.contains = true ∧ (c.accepting fetchRegion busTaken false 1).all busTaken.taken.contains = true
    ∧ c.fillerReady 1 mNet.cycle = true ∧ 0 < (c.str (strOf 1)).heavy
    ∧ ((mNet.modCore 0 fun c => { c with strings := [(0, { heavy := 0, quota := [1, 0, 0, 0] })] }).core 0).fillerReady 1 mNet.cycle = true := by decide +kernel

/-- A region with one block of two picks of which one record stands in the queue; `f` of the region. -/
def recBlock : Block := { exitBlock with count := 1, npick := 6 }
def passState (f : Region → Region) : State :=
  { (onElem 0 {} id).modRegion 0 0 fun r => f { r with blocks := [recBlock], rows := [{}, {}, {}, {}] } with launches := [(0, { part := 0, queue := 0, words := [0x1000000], hdr := some ⟨1, 1, false, 0, 0, 0⟩ })] }
def passRegion (s : State) : Region := (s.region? 0 0).getD fetchRegion
theorem witness_PassEvents : (let r := passRegion (passState id)
      r.nextBlock = none ∧ r.going = true ∧ r.canStart 100 = true ∧ r.det = false ∧ chooseBlock ((upFrom 0 r.blocks.length).zip r.blocks) = some 0 ∧ r.cur = none ∧ r.allEmpty 100 = true)
    ∧ (let r := passRegion (passState fun r => { r with nextBlock := some 0 })
       r.nextBlock = some 0 ∧ r.going = true ∧ r.allEmpty 100 = true ∧ r.npick ≤ r.nextPick)
    ∧ (let s := passState fun r => { r with cur := some 0, eowSent := false, records := [[8]], waveSize := 1, rows := [{ st := .active }, {}, {}, {}] }
       let r := passRegion s
       r.going = true ∧ r.nextBlock = none ∧ r.eowSent = false ∧ r.sendAt ≤ s.cycle ∧ (r.row 0).st = .active ∧ (r.row 0).pick = 0 ∧ (r.cur.bind fun b => r.blocks[b]?) = some recBlock ∧ r.fillEntry.entry ≠ []
       ∧ ((s.core 0).link (r.elemAt 0 recBlock.entcol * 8 + recBlock.entch)).held 0 s.cycle < 2)
    ∧ (let s := passState fun r => { r with due := 1 }
       let r := passRegion s
       r.blocks[0]? = some recBlock ∧ 0 < r.due ∧ r.started = true ∧ r.frozen = false ∧ r.freeze = .none ∧ recBlock.count + (s.core 0).recordsReserved r 0 < recBlock.qcap) := by decide +kernel
theorem witness_PassEvents_overflow : let s := passState fun r => { r with cur := some 0, rows := [{ st := .active }, { st := .active }, {}, {}] }
    (s.region? 0 0).isSome = true ∧ (passRegion s).frozen = false ∧ (s.core 0).wrapStuck 0 = true := by decide +kernel

theorem witness_RowEvents_load : let s := passState fun r => { r with cur := some 0 }
    (passRegion s).nextLoad s.cycle = some (0, 0) ∧ (s.launches.get? 0).isSome = true ∧ ((passRegion s).cur.bind fun b => (passRegion s).blocks[b]?) = some recBlock
    ∧ ((s.launches.get? 0).bind Launch.hdr).isSome = true := by decide +kernel
/-- A passed row that may be evicted, without a slot and with one. -/
def evictState (slots : List (Nat × Nat × Nat × Nat)) : State :=
  let s := passState fun r => { r with cur := some 0, rows := [{ st := .passed }, {}, {}, {}], nextPick := 6 }
  { s.modElem 0 0 fun x => { x with used := false } with launches := [(0, { part := 0, queue := 0, words := [0x1000000], slots := slots })] }
theorem witness_RowEvents_evict : (let t := (evictState []).passRows 0 0
      (t.region? 0 0).isSome = true ∧ t.evictable 0 (passRegion t) 0 = true ∧ t.slotOf (passRegion t).launch ((passRegion t).cur.getD 0) ((passRegion t).row 0).pick = none)
    ∧ (let t := (evictState [(0, 0, 0, 64)]).passRows 0 0
       t.evictable 0 (passRegion t) 0 = true ∧ t.slotOf (passRegion t).launch ((passRegion t).cur.getD 0) ((passRegion t).row 0).pick = some (0, 64)) := by decide +kernel
theorem witness_RowEvents_moved : (let s := (evictState [(0, 0, 0, 64)]).modRow 0 0 0 fun x => { x with st := .evicting }
      ((passRegion s).row 0).st = .evicting ∧ ((passRegion s).row 0).bytes = 0 ∧ s.slotOf (passRegion s).launch 0 0 = some (0, 64))
    ∧ (let s := (evictState [(0, 0, 0, 64)]).modRow 0 0 0 fun x => { x with st := .loading }
       ((passRegion s).row 0).st = .loading ∧ ((passRegion s).row 0).bytes = 0 ∧ (s.restoreElems 0 (passRegion s) 0 (s.ctlBytes (tileLoc 0 0) 64) (upFrom 0 (pickCols (passRegion s).wide))).isSome = true) := by decide +kernel

/-- Stream 0 of node 0, of 64-bit elements unless `w0` says otherwise, through `cap`, with the bank token of its tile region. -/
def nodeState (w0 : Nat) (cap : Cap) (f : Stream → Stream) : State :=
  (onElem 0 threaded id).modCore 0 fun c => { c with
    bankTok := [(1, 0)]
    nodes := [(0, { s0 := f { words := [BitVec.ofNat 64 w0, 0, 3, 1], cap := cap } })] }
def aReq : NodeReq := { op := 0xC4, pos := some 0, val := 7, elem := 0, ctx := 0, port := none, flight := 0, thread := 8 }
def strW (cls : Nat) (dir fmt conv dest : Nat) : Nat := 2 ^ 63 + cls * 2 ^ 61 + dir * 2 ^ 60 + fmt * 2 ^ 56 + conv * 2 ^ 53 + dest * 2 ^ 42
def tile256 : Cap := mkCap 0x20000 256 0x1F 1
/-- A stream may act on line 2048, whose bank its region holds. -/
def nodeReady (s : State) : Bool :=
  ((s.core 0).nodeRegion 0).isSome && fetchRegion.nodeLive 0 && stEn (s.stream 0 0 0).words && (s.stream 0 0 0).held == [] && s.lineReady 0 0 2048 && (s.stream 0 0 0).part == []
    && perToken (s.stream 0 0 0).words == 1 && (s.core 0).nodeRegion 0 == some (0, fetchRegion, 0)
def checked (x : Stream) (need : Nat) (reads : Bool) : Option (List Nat) := (x.check 0 need reads).toOption
theorem witness_StreamEvents_read : (let s := nodeState (strW 0 0 15 0 0) tile256 id
      nodeReady s = true ∧ (s.stream 0 0 0).ahead = [] ∧ checked (s.stream 0 0 0) pRD true = some [2048] ∧ s.spoiled 0 (s.stream 0 0 0) 0 = [])
    ∧ (let s := nodeState (strW 0 0 15 0 0) {} id
       nodeReady s = true ∧ checked (s.stream 0 0 0) pRD true = none)
    ∧ (let s := nodeState (strW 0 0 15 0 0) tile256 fun x => { x with done := true, ahead := [{ at_ := 9, pos := 0, ctx := 1, body := 5 }] }
       nodeReady s = true ∧ stDest (s.stream 0 0 0).words = 0 ∧ ((s.core 0).link 0).held ((s.core 0).hops (outerElem 0) 0 false) s.cycle < 2) := by decide +kernel
theorem witness_StreamEvents_write : (let s := nodeState (strW 0 1 15 0 3) tile256 fun x => { x with queue := [aReq] }
      nodeReady s = true ∧ (s.core 0).classFirst fetchRegion 0 0 = true ∧ checked (s.stream 0 0 0) pWR false = some [2048])
    ∧ (let s := nodeState (strW 0 1 15 0 3) {} fun x => { x with queue := [aReq] }
       nodeReady s = true ∧ (s.core 0).classFirst fetchRegion 0 0 = true ∧ checked (s.stream 0 0 0) pWR false = none) := by decide +kernel
/-- A random read, a random write without and with an ordering port, an ordered update, and a write that fails its check. -/
theorem witness_StreamEvents_request : (let s := nodeState (strW 1 0 15 0 0) tile256 fun x => { x with queue := [aReq] }
      nodeReady s = true ∧ (s.core 0).classFirst fetchRegion 0 0 = true ∧ s.responseRoom 0 0 0 fetchRegion (s.stream 0 0 0) = true ∧ checked (s.stream 0 0 0) pRD true = some [2048])
    ∧ ([none, some 0].all fun o => let s := nodeState (strW 1 1 15 0 0) tile256 fun x => { x with queue := [{ aReq with port := o }] }
       nodeReady s && (s.core 0).classFirst fetchRegion 0 0 && checked (s.stream 0 0 0) pWR false == some [2048]) = true
    ∧ (let s := nodeState (strW 2 0 15 0 0) tile256 fun x => { x with queue := [aReq] }
       nodeReady s = true ∧ (s.core 0).classFirst fetchRegion 0 0 = true ∧ s.responseRoom 0 0 0 fetchRegion (s.stream 0 0 0) = true ∧ checked (s.stream 0 0 0) pAT true = some [2048])
    ∧ (let s := nodeState (strW 1 1 15 0 0) {} fun x => { x with queue := [aReq] }
       nodeReady s = true ∧ (s.core 0).classFirst fetchRegion 0 0 = true ∧ checked (s.stream 0 0 0) pWR false = none) := by decide +kernel
/-- A retry that passes with the entry as it now stands, and one that fails again. -/
theorem witness_StreamEvents_retry : ([tile256, {}].map fun c => let s := (nodeState (strW 0 0 15 0 0) {} fun x => { x with stopped := true }).storeCap (tileLoc 0 0) c
    nodeReady s && (s.stream 0 0 0).stopped && tileLoc 0 (s.bankOf 0 0 * 2 ^ 17 + 16 * stCap (s.stream 0 0 0).words) == tileLoc 0 0 && (s.unreadable (tileLoc 0 0) 16).isNone
      && (checked { s.stream 0 0 0 with cap := s.loadCap (tileLoc 0 0) } pRD true == (if c.tag then some [2048] else none))) = [true, true] := by decide +kernel
/-- A random write that its port waits for has written its element. -/
theorem test_node_write : let s := nodeState (strW 1 1 2 0 0) tile256 fun x => { x with queue := [{ aReq with port := some 0 }] }
    ((after? (exec (.nodeRequest 0 0 0) s)).load (tileLoc 0 0x20000) 1, ((after? (exec (.nodeRequest 0 0 0) s)).stream 0 0 0).queue.length) = (7, 0) := by decide +kernel

/-! ### States that meet the hypotheses: steps of engines, power, launches, faults, errors -/

/-- Core 0 has `m` at the head of engine `eng`; `f` of the core. -/
def engState (eng : Nat) (m : Cmd) (f : Core → Core) : State :=
  (ofLaunch 1 (ms [])).modCore 0 fun c => f { c with engines := modAt c.engines eng fun q => m :: q }
def cmd7 (op : Nat) (w : List Nat) : Cmd := { id := 7, op := op, dst := 0, order := 0, scope := 0, issued := 0, c0 := tileAll, c1 := tileAll, words := w.map (BitVec.ofNat 64) }
def copyCmd : Cmd := cmd7 0xE0 [0, 64, 0x100000040, 0]
def okCopy (r : Option (Except (Nat × Nat) Unit) × State) : Option Bool := r.1.map fun r => match r with
  | .ok _ => true
  | .error _ => false

/-- Within one bank the read of an atom comes in one cycle and its write in a later one. -/
theorem witness_EngineEvents_unit : (let s := engState 0 copyCmd id
      (s.core 0).cmd? 7 = some copyCmd ∧ copyCmd.id = 7 ∧ copyCmd.fin = none ∧ copyCmd.at_ ≤ s.cycle ∧ s.mayStart 0 copyCmd = true ∧ copyCmd.order < 2 ∧ dmaUnit copyCmd = some (0x20000, 0x20040, 32)
      ∧ okCopy (s.copyAtom 0 7 1 0x20000 1 0x20040 32) = none ∧ (dmaUnit (dmaNext copyCmd 32)).isSome = true)
    ∧ (let m := { copyCmd with c1 := mkCap 0x40000 256 0x1F 1 }
       let s := engState 0 m id
       (s.core 0).cmd? 7 = some m ∧ s.mayStart 0 m = true ∧ dmaUnit m = some (0x20000, 0x40040, 32) ∧ okCopy (s.copyAtom 0 7 1 0x20000 1 0x40040 32) = some true)
    ∧ (let m := { copyCmd with c0 := farCap }
       let s := engState 0 m id
       (s.core 0).cmd? 7 = some m ∧ s.mayStart 0 m = true ∧ dmaUnit m = some (0x4000, 0x20040, 32) ∧ okCopy (s.copyAtom 0 7 2 0x4000 1 0x20040 32) = some false)
    ∧ dmaUnit (cmd7 0xE0 [0, 64, 0, 0]) = none ∧ ((engState 0 (cmd7 0xE0 [0, 64, 0, 0]) id).core 0).cmd? 7 = some (cmd7 0xE0 [0, 64, 0, 0]) := by decide +kernel
theorem witness_EngineEvents_completion : (let m := { copyCmd with fin := some (0, 0) }
      (engState 0 m id).completes 0 m = true ∧ m.op ≠ 0xE7 ∧ ((engState 0 m id).core 0).cmd? 7 = some m)
    ∧ (let m := { cmd7 0xE7 [0x20000] with fin := some (2, 0) }
       (engState 3 m id).completes 0 m = true ∧ m.op = 0xE7 ∧ ((engState 3 m id).core 0).cmd? 7 = some m) := by decide +kernel
def segState (seg : Nat) (bank : Option Nat) (served : SMap Nat) (p3 : Nat) : State × Cmd :=
  let m := { cmd7 0xE1 [0, 0, 64, p3] with c1 := mkCap 0x40000 0x40000 2 1, segs := [seg, 0] }
  (engState 0 m fun c => { c with regions := [(0, fetchRegion)], nodes := [(0, { s0 := { bank := bank, banked := served } })] }, m)
theorem witness_EngineEvents_segment : (let p := segState 1 (some 2) [(2, 90)] 1
      (p.1.core 0).cmd? 7 = some p.2 ∧ p.2.op = 0xE1 ∧ p.2.fin = none ∧ 0 < p.2.segs.length ∧ p.2.at_ ≤ p.1.cycle ∧ p.1.mayStart 0 p.2 = true ∧ p.2.order < 2 ∧ p.2.seg 0 = 1
        ∧ p.2.handedAt 0 < (p.1.fifoStream 0 p.2).banked.getD (p.2.bankOf 0) 0)
    ∧ (let p := segState 2 (some 3) [] 1
       p.2.seg 0 = 2 ∧ (p.1.fifoStream 0 p.2).bank ≠ some (p.2.bankOf 0) ∧ p.1.bankPending 0 (fifoReg (p.2.P 3)) (p.2.bankOf 0) = false)
    ∧ (let p := segState 0 none [] 9
       let s := p.1.modCore 0 fun c => { c with bankTok := [(p.2.bankOf 0, 8)] }
       p.2.seg 0 = 0 ∧ fifoOut (p.2.P 3) = true ∧ p.2.needs 0 = true ∧ (s.core 0).holder s.cycle (p.2.bankOf 0) = some 8) := by decide +kernel
def oneInbox : Inbox := { base := 0x20040, size := 2 }
theorem witness_EngineEvents_message : let m := cmd7 0xE6 [0, 1, 2, 3, 4, 5, 6, 7, 8]
    let s := engState 3 m id
    let t := engState 3 m fun c => { c with inbox := some oneInbox }
    (s.core 0).cmd? 7 = some m ∧ m.at_ ≤ s.cycle ∧ s.mayStart 0 m = true ∧ (s.core 0).firstTo m = true ∧ m.order < 2 ∧ s.targetCore 0 (m.P 0) = some 0 ∧ (s.core 0).inbox = none
    ∧ s.targetCore 0 ((cmd7 0xE6 [5]).P 0) = none ∧ (t.core 0).cmd? 7 = some m ∧ t.mayStart 0 m = true ∧ (t.core 0).firstTo m = true ∧ t.targetCore 0 (m.P 0) = some 0 ∧ (t.core 0).inbox = some oneInbox
    ∧ oneInbox.slots.length < oneInbox.size ∧ t.banksFree 0 (oneInbox.slotAt 0) 64 = true ∧ ((t.launchOf 0).map fun x => x.2.det).getD false = false := by decide +kernel
theorem witness_EngineEvents_take : let m := cmd7 0xE7 [0x20000]
    let b := { oneInbox with slots := [(3, none)] }
    let s := engState 3 m fun c => { c with inbox := some b }
    (s.core 0).cmd? 7 = some m ∧ (((s.core 0).engine 3).filter fun m => m.op == 0xE7 && m.fin.isNone) = [m] ∧ (s.core 0).inbox = some b ∧ b.slots = [(3, none)] ∧ m.at_ ≤ s.cycle ∧ s.mayStart 0 m = true
    ∧ s.banksFree 0 (b.slotAt 0) 64 = true ∧ s.banksFree 0 (m.P 0) 64 = true ∧ s.unreadable (tileLoc 0 (b.slotAt 0)) 64 = none := by decide +kernel
theorem witness_EngineEvents_enqueue : let m := cmd7 0xE9 [0]
    let s := engState 4 m id
    (s.core 0).cmd? 7 = some m ∧ m.fin = none ∧ m.at_ ≤ s.cycle ∧ s.mayStart 0 m = true ∧ m.order < 2 ∧ (s.queue (s.partOf 0) (bits (m.P 0) 47 44)).recs.length < 64 := by decide +kernel
def far7 : Far := { id := 7, op := 0xC4, space := 8, addr := 0x4000, bytes := 4, val := 1, order := 0, scope := 0, issued := 0 }
theorem witness_EngineEvents_far : let s := mapped (engState 0 copyCmd fun c => { c with far := [far7] })
    (s.core 0).cmd? 7 = some copyCmd ∧ ((s.core 0).far.find? fun f => f.id == 7) = some far7 ∧ s.farReady 0 far7 = true ∧ far7.order < 2
    ∧ (s.place (dieOf 0) 0 (s.partOf 0) 8 0x4000 needAT).1.toOption = some (.loc (mediaLoc 0 0x4000) (some 0x4000))
    ∧ (s.place (dieOf 0) 0 (s.partOf 0) 8 0x4000 needAT).2.mustPark 0 7 8 (.loc (mediaLoc 0 0x4000) (some 0x4000)) = none
    ∧ ((s.place (dieOf 0) 0 (s.partOf 0) 8 0x4000 needAT).2.readPlace (.loc (mediaLoc 0 0x4000) (some 0x4000)) 4).1.toOption = some [0, 0, 0, 0] := by decide +kernel
theorem witness_EngineEvents_time : (let m := { cmd7 0xE5 [] with sub := 1 }
      let c : Coll := { launch := 0, domain := false, tag := 5, params := 0, joined := [(0, 0, 7)], due := some 100 }
      let s : State := { engState 4 m id with colls := [c] }
      (s.core 0).cmd? 7 = some m ∧ (s.colls.find? fun c => c.launch == 0 && c.tag == 5 && c.due == some s.cycle) = some c ∧ c.joined = [(0, 0, 7)] ∧ m.sub = 1)
    ∧ (let s := (engState 0 copyCmd id).modLaunch 0 fun x => { x with bars := [{ count := 1, waiters := [0], due := some 100 }] }
       ((s.launches.get? 0).map fun x => ((x.bar 0).due, (x.bar 0).count, (x.bar 0).waiters)) = some (some s.cycle, 1, [0]) ∧ (s.core 0).cmd? 7 = some copyCmd) := by decide +kernel

def oneTable : OpTable := { core := 0, str := 0, sensor := 0, thresholds := [5], mV := List.replicate 168 700 }
def trimmed (s : State) : State := { s with trim := some { onePattern with opTables := [oneTable] } }
def leased (x : Lease) (s : State) : State := s.modPart 0 fun y => { y with lease := some x }
def lease80 : Lease := { pct := 80, left := 0 }
theorem witness_PowerEvents : (let s := inPart (ms [])
      s.homes.Nodup ∧ 0 ∈ s.homes)
    ∧ (ms []).suspendOrder = [] ∧ ({ ms [] with scale := 62 } : State).scale < 63
    ∧ (let s := leased lease80 (inPart (ms []))
       s.suspendOrder = [0] ∧ (s.part 0).lease = some lease80 ∧ lease80.left = 0)
    ∧ (let s := leased { lease80 with capped := true } { inPart (ms []) with suspended := [0], scale := 63 }
       63 ≤ s.scale ∧ s.suspended = [0] ∧ (s.part 0).lease = some { lease80 with capped := true })
    ∧ (let t := after? (execSensorSample 0 [1840] (ms []))
       t.hottest 0 = 1840 ∧ t.tripped = false ∧ t.thermal = [0])
    ∧ (let t := after? (execSensorSample 0 [2000] (ms []))
       125 * 16 ≤ t.hottest 0 ∧ (ms []).tripped = false)
    ∧ (trimmed (ms [])).opTable 0 0 = some oneTable ∧ (((trimmed (ms [])).core 0).str 0).lastFire + 2000 ≤ ({ trimmed (ms []) with cycle := 2000 } : State).cycle
    ∧ oneTable.mV.getD 7 720 ≠ (((trimmed (ms [])).core 0).str 0).target ∧ (((trimmed (ms [])).core 0).str 0).tempBin * 8 + (((trimmed (ms [])).core 0).str 0).leakBin = 7 := by decide +kernel

/-- Queue 3 of partition 0 with one record and the launch that it has made. -/
def queueState (st : QState) (checked : Bool) (launch : Option Nat) (w : List Nat) (x : Launch) : State :=
  { inPart (ms []) with
    parts := [(0, { ready := true, cores := [0, 1], queues := [(3, { st := st, recs := [{ words := w.map (BitVec.ofNat 64) }], checked := checked, launch := launch })] })]
    launches := [(5, { x with part := 0, queue := 3 })] }
def plainLaunch (gang : Nat) : Launch := { part := 0, queue := 3, words := [BitVec.ofNat 64 ((gang - 1) * 2 ^ 24)] }
/-- A record with a control core and without a fabric region, and one of a gang of two with both. -/
def ccWords : List Nat := [2 ^ 56 + 2 ^ 21, 0, 0, 0, 0, 0, 2 ^ 58, 0, 0, 0, 0, 0, 0, 0, 0, 0]
def gangWords : List Nat := [2 ^ 56 + 2 ^ 24 + 2 ^ 21 + 2 ^ 20, 0, 0, 0, 0, 0, 2 ^ 58]
def ofWords (w : List Nat) (l : List Member) : Launch := { part := 0, queue := 3, words := w.map (BitVec.ofNat 64), members := l }
def words (w : List Nat) : List Word64 := w.map (BitVec.ofNat 64)
theorem witness_LaunchEvents_check : (let s := queueState .waiting true (some 5) [0] (plainLaunch 1)
      (s.queue 0 3).st = .waiting ∧ (s.queue 0 3).recs ≠ [] ∧ (s.queue 0 3).checked = true ∧ s.depsMet 0 [0] = true)
    ∧ (let s := queueState .waiting false none [0] (plainLaunch 1)
       (s.queue 0 3).st = .waiting ∧ (s.queue 0 3).checked = false ∧ (s.queue 0 3).recs ≠ [] ∧ recFormat (words [0]) = false)
    ∧ (let s := queueState .waiting false none ccWords (plainLaunch 1)
       let n : Launch := { part := 0, queue := 3, words := words ccWords }
       (s.queue 0 3).checked = false ∧ (s.queue 0 3).recs ≠ [] ∧ recFormat (words ccWords) = true ∧ n.rights &&& (s.part 0).rights &&& 7 = n.rights ∧ n.fab = false) := by decide +kernel
theorem witness_LaunchEvents_checked : let s := queueState .waiting false none ccWords (plainLaunch 1)
    s.checkRecord 0 { words := words ccWords } = (.ok (none, []), s) := rfl
def placeState : State := (queueState .placing true (some 5) [0] (ofWords gangWords [{ core := 1 }])).modCc 0 fun c => { c with run := .idle }
theorem witness_LaunchEvents_place : (let s := placeState
      (s.queue 0 3).st = .placing ∧ (s.queue 0 3).launch = some 5 ∧ ((s.launches.get? 5).map fun x => (x.failing, x.members.length, x.gang)) = some (none, 1, 2) ∧ ((s.launches.get? 5).map fun x => (x.ctrl, x.fab, x.tbanks)) = some (true, true, 4)
        ∧ ((s.launches.get? 5).bind fun x => s.spot x 0) = some ⟨0, 0, 0, 0, 0⟩)
    ∧ (let s := queueState .placing true (some 5) [0] (plainLaunch 3)
       (s.queue 0 3).st = .placing ∧ ((s.launches.get? 5).map fun x => (x.failing, x.members, x.gang, s.neverFits x)) = some (none, [], 3, true)) := by decide +kernel
def stagingState (st : List StageEntry) (m : Member) : State := queueState .placing true (some 5) [0] { ofWords ccWords [m] with stage := st }
def okFill (o : Except Nat Unit × State) : Bool := o.1.toOption.isSome
def zeroEntry : StageEntry := ⟨0, 32, 64, true⟩
theorem witness_LaunchEvents_fill : (let s := stagingState [zeroEntry] { core := 0, placed := true, bank := 1 }
      ((s.launches.get? 5).map fun x => (x.failing, x.members)) = some (none, [{ core := 0, placed := true, bank := 1 }]) ∧ s.stageAhead 0 0 = false ∧ (stageBanks 1 [zeroEntry]).any (s.bankBusy 0) = false ∧ zeroEntry.zero = true
      ∧ okFill ((s.useBanks 0 (stageBanks 1 [zeroEntry])).fillEntries 0 0 0 1 [zeroEntry]) = true)
    ∧ (let s := stagingState [⟨0, 32, 0, false⟩] { core := 0, placed := true, bank := 1 }
       okFill ((s.useBanks 0 (stageBanks 1 [⟨0, 32, 0, false⟩])).fillEntries 0 0 0 1 [⟨0, 32, 0, false⟩]) = false) := by decide +kernel
theorem witness_LaunchEvents_start : let s := (stagingState [] { core := 0, placed := true, filled := true, region := some 0 }).modCore 0 fun c => { c with regions := [(0, { fetchRegion with started := false })] }
    ((s.launches.get? 5).map fun x => (x.failing, x.ctrl, x.members)) = some (none, true, [{ core := 0, placed := true, filled := true, region := some 0 }]) ∧ (s.region? 0 0).isSome = true := by decide +kernel
theorem witness_LaunchEvents_complete : (let x := { plainLaunch 1 with members := [{ core := 0, started := true }] }
      let s := queueState .running true (some 5) [0] x
      (s.queue 0 3).st = .running ∧ (s.queue 0 3).launch = some 5 ∧ s.launches.get? 5 = some x ∧ s.removing 0 = false ∧ x.abort = none ∧ x.failing = none ∧ x.preempted = false ∧ s.complete 5 x = true ∧ s.storesDone 5 x = true
        ∧ (x.members.all fun z => z.region.isNone) = true ∧ (s.launches.map Prod.fst).Nodup)
    ∧ (let x := { plainLaunch 1 with members := [{ core := 0, started := true }], failing := some 0x387 }
       let s := queueState .placing true (some 5) [0] x
       x.failing.isSome = true ∧ s.settled 5 x = true ∧ (s.endRegions 5 x).storesDone 5 x = true)
    ∧ (let x := { plainLaunch 1 with members := [{ core := 0, started := true }] }
       let s := (queueState .running true (some 5) [0] x).modCore 0 fun c => { c with far := [far7], cc := { c.cc with member := some (5, 0) } }
       (s.endRegions 5 x).storesDone 5 x = false) := by decide +kernel
/-- A launch of priority 0 wants a region of the one core, whose strings a running launch of priority 3 holds. -/
def preemptState : State :=
  let low : Launch := { part := 0, queue := 4, words := [BitVec.ofNat 64 (3 * 2 ^ 40 + 2 ^ 20 + 2 ^ 18 + 2 ^ 17), 0, 0, 0, 0, 0, BitVec.ofNat 64 (2 ^ 56)], members := [{ core := 0, region := some 0, started := true, placed := true, filled := true }], startedAt := some 1 }
  { (inPart (ms [])).modCore 0 fun c => { c with bankOwner := [(0, 6)], regions := [(0, { fetchRegion with launch := 6, height := 16, wide := true, rows := [] })] } with
    parts := [(0, { ready := true, cores := [0], queues := [(3, { st := .placing, recs := [{ words := [0] }], checked := true, launch := some 5 }), (4, { st := .running, recs := [{ words := [0] }], checked := true, launch := some 6 })] })]
    launches := [(5, { part := 0, queue := 3, words := [BitVec.ofNat 64 (2 ^ 20), 0, 0, 0, 0, 0, BitVec.ofNat 64 (2 ^ 56)] }), (6, low)] }
theorem witness_LaunchEvents_preempt : (preemptState.queue 0 3).st = .placing ∧ (preemptState.queue 0 3).launch = some 5 ∧ ((preemptState.launches.get? 5).map fun x => preemptState.freezing x) = some false ∧ (preemptState.launches.get? 6).isSome = true
    ∧ ((preemptState.launches.get? 5).map fun x => ((preemptState.placeNow 5 x).isNone, preemptState.victimsFor 5 x)) = some (true, some [6]) := by decide +kernel
/-- Launch 5's member stands frozen with its image, whose bytes are in the image area. -/
def frozenState : State :=
  { queueState .running true (some 5) [0] { ofWords ccWords [{ core := 0, started := true, placed := true, filled := true, frozen := true }] with preempted := true } with nextId := 9 }
def savedState (err : Bool) : State :=
  ((frozenState.modCc 0 fun c => { c with pc := 64, member := some (5, 0) }).saveImage 0 5 0 none { cc := true, err := err, lease := none, bars := [] }).modCc 0 fun c => { c with run := .idle, member := none, pc := 0 }
/-- Whether the image of a state may be restored, where the other conditions of a restore hold. -/
def restorable (s : State) : Option (Bool × Bool) :=
  (s.launches.get? 5).bind fun x => (s.images.get? 9).bind fun i => (x.members[0]?).bind fun z =>
    if !x.cosched && x.preempted && x.failing.isNone && x.members.all (fun z => !z.frozen || z.image.isSome) && z.image == some 9 && i.region.isNone && i.cc.isSome
        && (s.restoreSpot x 0 z).map Spot.core == some z.core then some (i.err, s.imageOk i) else none
theorem witness_LaunchEvents_restore : restorable (savedState false) = some (false, true) ∧ restorable (savedState true) = some (true, false)
    ∧ restorable ((savedState false).store (imageLoc 0 0) 1 55) = some (false, false) ∧ ((savedState false).images.map Prod.fst).Nodup := by decide +kernel
theorem test_restore_pc : ((after? (exec (.restore 5 0) (savedState false))).cc 0).pc = 64 := by decide +kernel
theorem witness_RetiringAdvancesDone : (0 : Nat) ∈ ((queueState .running true (some 5) [0] (plainLaunch 1)).part 0).cores ∧ ((queueState .running true (some 5) [0] (plainLaunch 1)).cc 0).run ≠ .off := by decide +kernel

def faultState (f : Region → Region) (x : Launch) : State := { passState f with launches := [(0, x)] }
theorem witness_FaultEvents : (let s := faultState (fun r => { r with drainAt := some 100, unresolved := [(0, 0, 0x201, 0, 0)] }) (plainLaunch 1)
      (s.region? 0 0).isSome = true ∧ (passRegion s).drainAt = some 100 ∧ (passRegion s).unresolved = [(0, 0, 0x201, 0, 0)] ∧ 100 ≤ s.cycle ∧ s.resolving 0 (passRegion s) = false)
    ∧ (let s := faultState (fun r => { r with freeze := .requested .kill }) (plainLaunch 1)
       (passRegion s).freeze = .requested .kill)
    ∧ (let s := faultState (fun r => { r with freeze := .halting .kill }) (plainLaunch 1)
       (s.launches.get? (passRegion s).launch).isSome = true ∧ (s.core 0).halted (passRegion s) = true ∧ s.edgesQuiet (passRegion s) = true)
    ∧ (passRegion (faultState (fun r => { r with freeze := .halting (.abort true) }) (plainLaunch 1))).freeze = .halting (.abort true)
    ∧ (passRegion (faultState (fun r => { r with freeze := .halting (.drain 0x201 0 0) }) (plainLaunch 1))).freeze = .halting (.drain 0x201 0 0)
    ∧ (passRegion (faultState (fun r => { r with freeze := .halting .preempt }) (plainLaunch 1))).freeze = .halting .preempt ∧ (plainLaunch 1).ctrl = false ∧ (ofWords ccWords []).ctrl = true
    ∧ ((faultState id (plainLaunch 1)).core 0).ccSettled = true ∧ (((faultState id (plainLaunch 1)).modCore 0 fun c => { c with far := [far7] }).core 0).ccSettled = false
    ∧ (let x := { plainLaunch 1 with members := [{ core := 0 }] }
       ((faultState id x).launches.get? 0) = some x ∧ x.failing = none ∧ x.members[0]? = some { core := 0 }) := by decide +kernel
theorem witness_ErrorAndDebugEvents : (ms []).bad.contains (tileLoc 0 0 / 16) = false ∧ (9 : Nat) ≤ 9 ∧ (ms []).bad.contains (mediaLoc (0 % 2) 0 / 16) = false ∧ (ms []).dumping = none ∧ ((ms []).cores.all fun c => c.2.regions.isEmpty) = true
    ∧ ((passState id).cores.all fun c => c.2.regions.isEmpty) = false ∧ ({ ms [] with dumping := some (0x3C0, 0, 100) } : State).dumping = some (0x3C0, 0, 100) ∧ 100 ≤ (ms []).cycle ∧ (ms []).allHalted = true
    ∧ ({ ms [] with atomErrs := [(64, 0)] } : State).atomErrs.get? (70 / 32 * 32) = some 0 ∧ (ms []).remaps = [] ∧ (ms []).remapFree 0 = true
    ∧ (let s := passState fun r => { r with stopReqs := [0] }
       (s.region? 0 0).isSome = true ∧ (passRegion s).stopReqs ≠ [] ∧ (passRegion s).frozen = false ∧ (passRegion s).freeze = .none ∧ (s.core 0).boundary 0 (passRegion s) = true)
    ∧ (((ms []).modCore 0 fun c => { c with reinit := some 100 }).core 0).reinit = some 100
    ∧ (let s := (passState fun r => { r with stopped := true }).modCore 0 fun c => { c with walks := [⟨0, 0, 0, 0, 0, 0, 100, 0, 0⟩] }
       (s.core 0).walks = [⟨0, 0, 0, 0, 0, 0, 100, 0, 0⟩] ∧ (passRegion s).stopped = true ∧ (passRegion s).launch = 0)
    ∧ (let s := (ms []).modPart 0 fun x => { x with unread := [0], irqctl := 1 }
       (s.part 0).unread = [0] ∧ bit (s.part 0).irqctl 0 = true ∧ 0 + bits (s.part 0).irqctl 31 16 * 1000 = ({ s with cycle := 0 } : State).cycle) := by decide +kernel
/-- A run that ends with the signature that a fault-free fabric gives, or with another one: which of the two holds is the fabric's. -/
def scanState (v : BitVec 32) : State := (faultState id (plainLaunch 1)).modCore 0 fun c => { c with scan := some { pattern := 5, start := 0, finish := 100, tok := 1, launch := 0, runUs := 1, expected := v } }
theorem witness_ErrorAndDebugEvents_scan : (∃ x, ((scanState 7).core 0).scan = some x ∧ x.finish ≤ (scanState 7).cycle)
    ∧ (∃ x, ((scanState (Config.scanSignature 5 0 + 1)).core 0).scan = some x ∧ (Config.scanSignature x.pattern 0).toNat ≠ x.expected.toNat) := by
  refine ⟨⟨_, rfl, by decide⟩, _, rfl, fun h => ?_⟩
  have e : Config.scanSignature 5 0 = Config.scanSignature 5 0 + 1 := BitVec.eq_of_toNat_eq h
  bv_omega
theorem witness_ErrorAndDebugEvents_scan_launch : ∀ n, (((scanState 7).writeToken 0 1 0 n none).reinitialise 0).launches.get? 0 ≠ none := fun _ h => nomatch h

/-! ### States that meet the hypotheses: links, translation, the host -/

def goodFlit (q : Nat) : BitVec 256 := if q = 0 then 0xA99A0020 else if q = 5 then 0x82C70520 else 0xF095C820
def groupState (f : LaneGroup → LaneGroup) : State := (ms []).modGroup 0 f
theorem witness_LinkEvents : (flitType 0x20 = 1 ∧ flitGood 0x20 = false ∧ flitType 0x40 = 2 ∧ flitGood 0x40 = false ∧ ((ms []).group 0).retired = false ∧ ((ms []).group 0).failed = none ∧ ((ms []).group 0).discarding = false
      ∧ ((ms []).group 0).remap = none)
    ∧ (flitGood (goodFlit 0) = true ∧ flitSeq (goodFlit 0) = ((ms []).group 0).eseq) ∧ (flitGood (goodFlit 200) = true ∧ ((0 : BitVec 8) - flitSeq (goodFlit 200)).toNat ≤ 128)
    ∧ (flitGood (goodFlit 5) = true ∧ 128 < ((0 : BitVec 8) - flitSeq (goodFlit 5)).toNat) ∧ (flitType 0x35A290040 = 2 ∧ flitGood 0x35A290040 = true) ∧ (flitType 0x3F3B30060 = 3 ∧ flitGood 0x3F3B30060 = true)
    ∧ ((groupState fun g => { g with sinceAck := 31 }).group 0).sinceAck = 31 ∧ ((groupState fun g => { g with remap := some (7, 0) }).group 0).remap = some (7, 0)
    ∧ ((groupState fun g => { g with failed := some (goodFlit 5) }).group 0).failed = some (goodFlit 5) ∧ flitSeq (goodFlit 5) ≠ flitSeq (goodFlit 0)
    ∧ ((ms []).ports.getD 0 {}).retraining = false ∧ (({ ms [] with ports := [(0, { retraining := true })] } : State).ports.getD (48 - 48) {}).retraining = true := by decide +kernel
/-- A lane map that the other end announces. -/
theorem witness_LinkEvents_map : (let s := groupState fun g => { g with remap := some (7, 0) }
      let raw := mkFlit 4 0 (spmapWord (s.group 0).newMap)
      flitType raw = 4 ∧ flitGood raw = true ∧ (s.group (otherWay 8)).remap.isSome = true ∧ spmapWord (s.group (otherWay 8)).newMap = bits raw.toNat 55 32 ∧ (s.group 8).retired = false) := by decide +kernel
def edgeState : State :=
  { ms [] with launches := [(5, { part := 0, queue := 0, words := [0], edges := [{ idx := 0, src := 0, tgt := 1, blk := 0, spick := 0, tpick := 0, scol := 0, tcol := 0, sq := 0, tq := 0, flying := [(100, 7, 0)] }] })] }
theorem witness_LinkEvents_edge : (edgeState.launches.get? 5).map (fun y => y.edges.map fun d => d.flying) = some [[(edgeState.cycle, 7, 0)]] := by decide +kernel

def shootState (x : Shoot) : State := (ms []).modPart 0 fun y => { y with shoots := [x] }
def oneShoot : Shoot := { id := 1, addr := 0x1000, words := [0, 0, 0, 0], caches := [3], pkgs := [1] }
theorem witness_TranslationEvents : (let s := shootState oneShoot
      s.shoot? 0 1 = some oneShoot ∧ oneShoot.caches.contains 3 = true ∧ s.shootRuns 0 1 = true ∧ s.outstanding 0 = false ∧ oneShoot.pkgs.contains 1 = true)
    ∧ (shootState { oneShoot with caches := [], pkgs := [] }).shoot? 0 1 = some { oneShoot with caches := [], pkgs := [] }
    ∧ (ms []).hotBlocks 0 = [] ∧ (ms []).moves = []
    ∧ (let s : State := { mapped (ms []) with copies := [⟨0, true, 3⟩] }
       s.copyOf 0 = some ⟨0, true, 3⟩ ∧ s.moves = [] ∧ s.parked = [])
    ∧ entMig ((mapped (ms [])).indirEntry 0) = false ∧ (ms []).remaps = [] := by decide +kernel

def hostState : State := mapped (inPart (ms []))
theorem flat_hostState : hostState.Flat :=
  ⟨rfl, by decide +kernel, rfl, fun p => by cases p <;> rfl, fun _ h => nomatch h⟩
theorem witness_HostAccessEvents : hostState.fnUp 0 = true ∧ hostState.pageUp 0 = true ∧ ({ ms [] with vfEnable := true, numVfs := 2 } : State).fnUp 2 = true
    ∧ (((ms []).fetch 0 0 0 2 0 needR 8).1.toOption = none) ∧ ((ms []).atomPlaces 0 0 0 2 0 4 (atomCount 0 4)).1.toOption = none
    ∧ (hostState.atomPlaces 0 0 0 2 0 4 (atomCount 0 4)).1.toOption = some [(.loc (mediaLoc 0 0) (some 0), 4)]
    ∧ bit (hostState.part 0).eqctl 0 = false ∧ bit ((hostState.modPart 0 fun x => { x with eqctl := 0x60001 }).part 0).eqctl 0 = true := by decide +kernel
/-- Values within the range of a register and beside it; a partition that exists and one that does not. -/
theorem witness_HostAccessEvents_ranges : canonical 0x1000000000 = true ∧ canonical (2 ^ 50) = false ∧ bits 0xA00 12 8 = 10 ∧ bits 0x900 12 8 = 9 ∧ bits 0x1900 12 8 = 25 ∧ bits 0x1010101 31 24 = 1
    ∧ (hostState.part hostState.psel).ready = true ∧ ((ms []).part (ms []).psel).ready = false ∧ (ms []).pageUp 0 = true := by decide +kernel
theorem test_register_drain : ((after? (exec (.registerWrite 0 0x060 10000) hostState)).readPage 0 0x060, (after? (exec (.registerWrite 0 0x060 10001) hostState)).readPage 0 0x060) = (10000, 100) := by decide +kernel
theorem witness_HostAccessEvents_read : ∃ b t, hostState.fetch 0 0 0 2 (((hostState.part 0).apbase + 64 % 2 ^ 36) % 2 ^ 64) needR 8 = (.ok b, t) := by
  obtain ⟨b, t, h, -, -⟩ := flat_hostState.fetch 0 0 0 64 needR 8 (by decide) (by decide)
  exact ⟨b, t, h⟩
/-- The first and the last size of a ring, and the sizes beside them. -/
theorem witness_HostAccessEvents_ring : ([0x60000, 0x100000].map fun v => decide (6 ≤ bits v 20 16 ∧ bits v 20 16 ≤ 16)) = [true, true]
    ∧ ([0x50000, 0x110000].map fun v => decide (6 ≤ bits v 20 16 ∧ bits v 20 16 ≤ 16)) = [false, false] := by decide +kernel

theorem witness_HostCommandEvents_submit : ((ms []).readRecord 0 0).1.toOption = none
    ∧ ∃ w t, hostState.readRecord 0 0 = (.ok w, t) ∧ ∀ i, (t.queue 0 i).recs.length < 64 := by
  refine ⟨by decide +kernel, ?_⟩
  obtain ⟨b, t, h, -, r⟩ := flat_hostState.fetch 0 0 0 0 needR 128 (by decide) (by decide)
  refine ⟨wordsOf b 16, t, ?_, fun i => ?_⟩
  · unfold State.readRecord
    rw [h]
  · have e : t.queue 0 i = hostState.queue 0 i := by rw [r]; rfl
    have e' : (hostState.queue 0 i).recs = [] := rfl
    rw [e, e']
    decide
/-- Every queue full. -/
def fullQueues : State := hostState.modPart 0 fun x => { x with queues := (upFrom 0 16).map fun q => (q, { recs := List.replicate 64 { words := [0] } }) }
theorem flat_fullQueues : fullQueues.Flat :=
  ⟨rfl, by decide +kernel, rfl, fun p => by cases p <;> rfl, fun _ h => nomatch h⟩
theorem witness_HostCommandEvents_full : ∃ w t, fullQueues.readRecord 0 0 = (.ok w, t) ∧ ∀ i < 16, 64 ≤ (t.queue 0 i).recs.length := by
  obtain ⟨b, t, h, -, r⟩ := flat_fullQueues.fetch 0 0 0 0 needR 128 (by decide) (by decide)
  refine ⟨wordsOf b 16, t, ?_, fun i hi => ?_⟩
  · unfold State.readRecord
    rw [h]
  · have e : t.queue 0 i = fullQueues.queue 0 i := by rw [r]; rfl
    have e' : ∀ j < 16, 64 ≤ (fullQueues.queue 0 j).recs.length := by decide +kernel
    rw [e]
    exact e' i hi
def debugged (f : Region → Region) : State :=
  let s := ({ passState f with parts := [(0, { ready := true, cores := [0], rights := 2 })] } : State)
  { s.modCc 0 fun c => { c with run := .waiting, wait := .debug } with launches := [(0, plainLaunch 1)] }
theorem witness_HostCommandEvents : (let s := queueState .stopped false none [0] (plainLaunch 1)
      s.pageUp 0 = true ∧ (s.queue 0 3).st = .stopped ∧ (s.queue 0 3).recs = [{ words := [0] }])
    ∧ ((queueState .running true (some 5) [0] (plainLaunch 1)).queue 0 3).launch = some 5 ∧ ((queueState .running true (some 5) [0] (plainLaunch 1)).queue 0 3).st = .running
    ∧ (let s := debugged fun r => { r with stopped := true }
       s.pageUp 0 = true ∧ bit (s.part 0).rights 1 = true ∧ s.coreOf 0 0 = some 0 ∧ (s.cc 0).run = .waiting ∧ (s.cc 0).wait = .debug ∧ (s.cc 0).trapping = none ∧ (s.cc 0).halting = false ∧ (s.cc 0).regs.drained = true ∧ (s.region? 0 0).isSome = true ∧ (passRegion s).stopped = true
         ∧ (passRegion s).freeze = .none ∧ ((s.launches.get? (passRegion s).launch)).isSome = true ∧ (s.imageFit 0 64).isSome = true ∧ (({ s with dumpHeld := true } : State).imageFit 0 64) = none) := by decide +kernel
theorem witness_HostCommandEvents_retry : ∃ (s : State) (w : List Word64) (t : State), s.pageUp 0 = true ∧ (s.queue 0 3).st = .stopped ∧ (s.queue 0 3).recs = [{ words := [0], src := some 0 }] ∧ s.readRecord 0 0 = (.ok w, t) := by
  let s := hostState.modPart 0 fun x => { x with queues := [(3, { st := .stopped, recs := [{ words := [0], src := some 0 }] })] }
  have hf : s.Flat := ⟨rfl, by decide +kernel, rfl, fun p => by cases p <;> rfl, fun _ h => nomatch h⟩
  obtain ⟨b, t, h, -, -⟩ := hf.fetch 0 0 0 0 needR 128 (by decide) (by decide)
  refine ⟨s, wordsOf b 16, t, by decide +kernel, by decide +kernel, by decide +kernel, ?_⟩
  unfold State.readRecord
  rw [h]

def partState (f : Part → Part) : State := { ms [] with parts := [(0, f {})] }
theorem witness_PartitionAndResetEvents : (let s := partState fun x => { x with pcores := 3 }
      s.pageUp 0 = true ∧ s.mayCreate s.psel = true)
    ∧ ((ms []).pageUp 0 = true ∧ (ms []).mayCreate (ms []).psel = false ∧ ((ms []).part (ms []).psel).ready = false) ∧ ((inPart (ms [])).part (inPart (ms [])).psel).ready = true
    ∧ (let s := (partState fun x => { x with ready := true, cores := [0], resetting := some 1 }).modCore 0 fun c => { c with far := [far7] }
       (s.part 0).resetting = some 1 ∧ (s.part 0).cores.all s.quenched = false)
    ∧ (partState fun x => { x with resetting := some 1, shoots := [oneShoot] }).pageUp 0 = false ∧ ((partState fun x => { x with resetting := some 1, shoots := [oneShoot] }).part 0).shoots ≠ []
    ∧ (let s := partState fun x => { x with ready := true, resetting := some 1 }
       (s.part 0).resetting = some 1 ∧ (s.part 0).cores = [] ∧ (s.part 0).lease = none ∧ (s.part 0).shoots = [])
    ∧ (ms []).fnUp 0 = true ∧ (ms []).tripped = false ∧ ((ms []).core 0).part = none ∧ ({ ms [] with tripped := true, sensors := [(0, 1600)] } : State).cool = false
    ∧ ({ ms [] with tripped := true } : State).cool = true ∧ (ms []).boot = none := by decide +kernel

/-! ### States that meet the hypotheses: the machine as a whole -/

/-- A value below 2 to the −1023 and one above 2 to the 1024: both ends of the rule. -/
theorem witness_RoundingFollowsR70 : (0 : Nat) < 2 ^ 16 ∧ (1 : Nat) ≠ 0 ∧ (roundFin .rne 0 false 1 (-1024) false).fl = 3 ∧ (roundFin .rne 0 false 1 1024 false).fl = 5
    ∧ (roundFin .rne 0 false 1 (-1023) false).fl = 0 ∧ (roundFin .rne 0 false (2 ^ 29 - 1) 995 false).fl = 5 := by decide +kernel
/-- 1, 2 and −1, and the zero sums that the statement leaves to R73. -/
theorem witness_RoundingFollowsR70_words : valueOf (readW 0x0008000000) = some 1 ∧ valueOf (readW 0x0018000000) = some 2 ∧ valueOf (readW 0x8008000000) = some (-1) ∧ (1 : ℚ) + 2 ≠ 0 ∧ (1 : ℚ) + (-1) = 0 := by
  refine ⟨?_, ?_, ?_, ?_, ?_⟩ <;> norm_num [valueOf, show readW 0x0008000000 = .fin false (2 ^ 27) (-27) from by decide +kernel, show readW 0x0018000000 = .fin false (2 ^ 27) (-26) from by decide +kernel,
    show readW 0x8008000000 = .fin true (2 ^ 27) (-27) from by decide +kernel]
theorem witness_FloatResultsAreNormalised : (0xFFFF : Nat) < 2 ^ 16 := by decide
theorem witness_DecodeEncodeAgree : (Instr.add 0xB000 (sl 4 8) (sl 32 8) (.imm 255)).wf .cc = true ∧ (Instr.vcmp 0x0080 (.outChan 1 0) (.inChan 1 false) (.inChan 0 false) ⟨.l16, true⟩).wf .vElem = true := by decide +kernel
/-- Core 0 about to fetch at PC 0; the line, and each refusal of $CODECAP. -/
def fetching (f : ControlCore → ControlCore) (w : Nat) : State :=
  { onCc fun c => f (c.withWord (State.reset.rootOf 0) (BitVec.ofNat 64 w)) with todo := [.issue 0] }
theorem witness_StepRunsDecodedInstruction : (let s := fetching id 0xB00001007007C010
      let u : State := { s with todo := [] }
      s.todo = [.issue 0] ∧ u.ccFrozen 0 = false ∧ (s.cc 0).deliverable s.cycle = false ∧ (s.cc 0).run = .running ∧ (s.cc 0).nextIssue ≤ s.cycle ∧ (s.cc 0).halting = false ∧ (s.cc 0).trapping = none
        ∧ (s.cc 0).gbar = none ∧ (s.cc 0).codecap.tag = true ∧ (s.cc 0).codecap.xi = true ∧ (s.cc 0).pc.toNat + 8 ≤ (s.cc 0).codecap.len
        ∧ u.lacking 0 (s.cc 0).fetchVa = none ∧ (s.cc 0).fetchVa % 8 = 0
        ∧ (u.line? 0 (s.cc 0).fetchVa).map (fun l => decode .cc (codeWord l (u.line? 0 ((s.cc 0).fetchVa + 7)) (s.cc 0).fetchVa)) = some (.ok (.sub 0xB000 (sl 0 8) (sl 0 8) (.imm 1))))
    ∧ (let s := fetching id 0x6D0000000000
       (({ s with todo := [] } : State).line? 0 (s.cc 0).fetchVa).map (fun l => (decode .cc (codeWord l (({ s with todo := [] } : State).line? 0 ((s.cc 0).fetchVa + 7)) (s.cc 0).fetchVa)).toOption) = some none)
    ∧ ((fetching (fun c => { c with codecap := ⟨0, false⟩ }) 0).cc 0).codecap.tag = false
    ∧ ((fetching (fun c => { c with codecap := mkCap 0 128 pRD 2 }) 0).cc 0).codecap.xi = false
    ∧ ((fetching (fun c => { c with pc := 128 }) 0).cc 0).codecap.len < ((fetching (fun c => { c with pc := 128 }) 0).cc 0).pc.toNat + 8 := by decide +kernel
/-- An element about to fire. -/
def firing : State := { vFull with todo := [.fire 0 0] }.modElem 0 0 fun x => { x with card := [0x0000A500F10F20F2] }
theorem witness_StepRunsDecodedInstruction_fire : (((firing.core 0).regionOf 0).map fun p => (p.1, p.2.started, p.2.stopped, p.2.frozen, p.2.freeze, (p.2.row (p.2.rowOf 0)).st)) = some (0, true, false, false, .none, .active)
    ∧ (firing.elem 0 0).used = true ∧ (firing.elem 0 0).card = [0x0000A500F10F20F2] ∧ ({ firing with todo := [] } : State).ctxOrder 0 0 false = [0, 1, 2, 3]
    ∧ (match decode .vElem 0x0000A500F10F20F2 with
       | .ok i => (after? (exec i { firing with todo := [], site := .ctx 0 0 0 0, fired := false })).fired
       | .error _ => false) = true := by decide +kernel
theorem witness_SoundStatesGoOn : State.reset.sound = true ∧ (withBank []).sound = true ∧ (fetching id 0x6D0000000000).sound = true := by decide +kernel
theorem witness_MemoryStaysCanonical : memWf State.reset.mem = true ∧ memWf (ms [(0, 5)]).mem = true ∧ memWf hostState.mem = true := by decide +kernel
/-- An issue and a firing of a register instruction. -/
theorem witness_RegisterOnlyFrame : (Instr.add 0 (sl 0 8) (sl 8 8) (.imm 1)).code = some 0 ∧ (onCc id).site = .cc 0 ∧ mayAct (.add 0 (sl 0 8) (sl 8 8) (.imm 1)) (onCc id) = true
    ∧ vFull.site = .ctx 0 0 0 0 ∧ mayAct (.add 0 (sl 0 8) (sl 8 8) (.imm 1)) vFull = true := by decide +kernel
theorem witness_StoreFrame : (ms []).site = .cc 0 ∧ memWf (ms []).mem = true ∧ mayIssue (.st 0 (.slice 8 7) (sl 64 16) (.imm 124) 0) 0 (ms []) = true ∧ unheld (ms []) 0 0 = true
    ∧ granted (ms []) 0 (sl 64 16) ((ms []).src (.imm 124)).ownS 4 pWR 0x2007C = true ∧ mayIssue (.cstc 0 (.slice 0 15) (sl 64 16) (.imm 112)) 0 (ms []) = true
    ∧ granted (ms []) 0 (sl 64 16) ((ms []).src (.imm 112)).ownS 16 pCS 0x20070 = true ∧ (0x20070 : Nat) % 16 = 0 := by decide +kernel
def storing : List Instr :=
  [.st 0 (sl 8 8) (sl 64 16) (.imm 0) 0, .stf 0 (sl 8 10) (sl 64 16) (.imm 0) 3, .cstc 0 (sl 0 16) (sl 64 16) (.imm 0), .aadd 0 (sl 8 8) (sl 64 16) (.imm 0) 0, .acas 0 (sl 0 16) (sl 64 16) (.imm 0) 0]
theorem witness_StoreFrame_all : (storing.all fun i => ((issued i (ms [])).cc 0).pc == 8) = true := by decide +kernel

/-! ### States that meet the hypotheses: values of the wide float -/

/-- NaNs, infinities, zeros, and finite values that are normal, unnormalised and below 2^−1023. -/
theorem witness_FloatArithmeticResults_values : readW 0xC000000007 = .nan true 7 ∧ readW 0x4000000001 = .inf false ∧ readW 0xC000000001 = .inf true ∧ readW 0xC000000000 = .fin true 0 0 ∧ readW 0 = .fin false 0 (-27)
    ∧ readW 0x4010000001 = .fin false 1 (-1050) ∧ readW 0x8008000000 = .fin true (2 ^ 27) (-27) ∧ (readW 0x4000000002).isNaN = true ∧ (readW 0x0008000000).isNaN = false := by decide +kernel
theorem witness_FloatArithmeticResults_sums : valueOf (readW 0) = some 0 ∧ valueOf (readW 0x0008000000) = some 1 ∧ valueOf (readW 0x8008000000) = some (-1) ∧ number (readW 0) = number (readW 0xC000000000)
    ∧ (readW 0xC000000000).sign = true ∧ (-1 : ℚ) < 0 := by
  refine ⟨?_, ?_, ?_, ?_, by decide +kernel, by norm_num⟩ <;> norm_num [valueOf, number, show readW 0 = .fin false 0 (-27) from by decide +kernel,
    show readW 0xC000000000 = .fin true 0 0 from by decide +kernel, show readW 0x0008000000 = .fin false (2 ^ 27) (-27) from by decide +kernel, show readW 0x8008000000 = .fin true (2 ^ 27) (-27) from by decide +kernel]
/-- Both ends of a width: −128 and 127 fit 8 bits, −129 and 128 do not. -/
theorem test_to_integer : toIntReal .s .rne 0 (.fin true 128 0) 8 = { val := 0x80 } ∧ toIntReal .s .rne 0 (.fin true 129 0) 8 = { val := 0x80, fl := 16 } ∧ toIntReal .s .rne 0 (.fin false 127 0) 8 = { val := 0x7F }
    ∧ toIntReal .z .rne 0 (.fin false 256 0) 8 = { val := 0xFF, fl := 16 } := by decide +kernel
theorem test_t256_ends : (2 * t256 0 - 1) ^ 256 < 2 ^ 4096 ∧ 2 ^ (4096 + 255) < (2 * t256 255 + 1) ^ 256 := by decide +kernel
theorem witness_ConversionResults_ranges : (0xFFFF : Nat) < 2 ^ 16 ∧ LFmt.l12.lmin < 1023 ∧ (1023 : Int) < -LFmt.l12.lmin ∧ (2 ^ 23 - 1 : Nat) < 2 ^ 23 ∧ (255 : Nat) < 256 := by decide

/-! ### States that meet the hypotheses: traps of the commands -/

/-- Each check of a block in turn: no tag, another space, the ends of the range and of the window, a misaligned block. -/
theorem witness_BlockCommandResults_block : allIssue [.dma 0 (sl 0 16) (sl 64 16) (.imm 0) 0, .dma 0 (sl 0 16) (sl 64 16) (.imm 32) 0, .dma 0 (sl 0 16) (sl 64 16) (.imm 0xFF) 0] (ms []) = true ∧ (ms []).held 0 = false
    ∧ mayIssue (.dma 0 (sl 0 16) (sl 64 16) (.imm 0) 0) 0 (onCc id) = true ∧ ((onCc id).capSrc (sl 64 16)).tag = false ∧ ((caps tileAll farCap []).capSrc (sl 64 16)).space = 2 ∧ ((ms []).src (.imm 0xFF)).ownS = -1
    ∧ tileAll.len < 224 + 64 ∧ (let s := caps tileAll (mkCap 0x200000 64 5 1) []
       mayIssue (.dma 0 (sl 0 16) (sl 64 16) (.imm 0) 0) 0 s = true ∧ (s.cc 0).tilecap.valid = true ∧ (s.cc 0).tilecap.base + (s.cc 0).tilecap.len < (s.capSrc (sl 64 16)).base + 64)
    ∧ (tileAll.base + 32) % 64 ≠ 0 := by decide +kernel
/-- The checks of the block's words: a field out of its limits, a capability without a tag, one without the permission, a range that does not fit, and a block that cannot be read. -/
theorem witness_BlockCommandResults_words : (let s := withBlock farCap tileAll [0, 0, 0, 0]
      ((gathRule false (s.block 0 0x20000)).fields.all fun f => f.2) = false)
    ∧ (let w := (withBlock ⟨0, false⟩ tileAll [0, 64, 0x100000040, 0]).block 0 0x20000
       ((dmaRule w).fields.all fun f => f.2) = true ∧ useFails w.c0 (dmaRule w).sp0 (dmaRule w).need0 = true ∧ w.c0.tag = false)
    ∧ (let w := (withBlock tileAll (mkCap 0x20000 256 1 1) [0, 64, 0x100000040, 0]).block 0 0x20000
       useFails w.c0 (dmaRule w).sp0 (dmaRule w).need0 = false ∧ useFails w.c1 (dmaRule w).sp1 (dmaRule w).need1 = true ∧ w.c1.tag = true)
    ∧ (let s := withBlock tileAll tileAll [250, 64, 0x100000040, 0]
       ((dmaRule (s.block 0 0x20000)).r0.all fun p => rangeOk (s.cc 0).tilecap (s.block 0 0x20000).c0 p.1 p.2) = false)
    ∧ (let s := withBlock tileAll tileAll [0, 250, 0x100000040, 0]
       ((dmaRule (s.block 0 0x20000)).r0.all fun p => rangeOk (s.cc 0).tilecap (s.block 0 0x20000).c0 p.1 p.2) = true
         ∧ ((dmaRule (s.block 0 0x20000)).r1.all fun p => rangeOk (s.cc 0).tilecap (s.block 0 0x20000).c1 p.1 p.2) = false)
    ∧ ({ ms [] with bad := [0x2000] } : State).unreadable (tileLoc 0 0x20000) 64 = some 0x2000 := by decide +kernel
/-- A DMAS without its banks, and one without its stream. -/
theorem witness_BlockCommandResults_fifo : (let s := dmasState.modCore 0 fun c => { c with bankTok := [(2, 8)] }
      (ruleCheck (s.cc 0).tilecap (s.block 0 0x20000) (dmasRule (s.block 0 0x20000))).isNone = true
        ∧ ((upFrom 0 (fifoSegs ((s.block 0 0x20000).P 3))).all fun g => (s.core 0).bankTok.get? (fifoBank (s.block 0 0x20000).c1 ((s.block 0 0x20000).P 1) g) == some 8) = false)
    ∧ (let s := dmasState.modCore 0 fun c => { c with regions := [] }
       (ruleCheck (s.cc 0).tilecap (s.block 0 0x20000) (dmasRule (s.block 0 0x20000))).isNone = true ∧ (s.core 0).fifoNode ((s.block 0 0x20000).P 3) = none) := by decide +kernel
theorem witness_MessageCommandResults_traps : (let s := inPart (ms [])
      s.targetCore 0 0 = some 0 ∧ s.targetCore 0 5 = none ∧ mayIssue (.msg 0 (sl 0 16) (sl 64 16) (.imm 5) 0) 0 s = true ∧ ({ s with bad := [0x2000] } : State).unreadable (tileLoc 0 0x20000) 64 = some 0x2000)
    ∧ ((caps tileAll (mkCap 0x20000 256 1 1) []).capSrc (sl 64 16)).perms &&& pWR ≠ pWR := by decide +kernel
/-- BANKT of the last bank and one beyond; of a bank that another launch owns; to the control core, to a region that stands, to one that does not; and of a segment of a stream FIFO. -/
theorem witness_EngineControlResults_bankt : let s := (ofLaunch 1 (ms [])).modCore 0 fun c => { c with bankOwner := [(2, 0), (3, 1), (31, 0)], regions := [(1, fetchRegion)] }
    (banktTrap s 0 31 8, banktTrap s 0 32 8, banktTrap s 0 3 1, banktTrap s 0 2 9, banktTrap s 0 2 1, banktTrap s 0 2 0) = (none, some 0x303, some 0x303, some 0x303, none, some 0x303)
    ∧ (s.core 0).ccBusy.getD 2 0 ≤ s.cycle ∧ ((s.modCore 0 fun c => { c with engines := modAt c.engines 0 fun q => { cmd7 0xE1 [0, 0, 64, 1] with c1 := mkCap 0x40000 0x40000 2 1, segs := [0, 0] } :: q }).core 0).fifoBusy 2 = true := by decide +kernel

/-! ### States that meet the hypotheses: tokens, passes and filler -/

/-- A latch with a head that may move on, one whose head arrived in this cycle, and a latch without room. -/
def link2 (at_ : Nat) (held : List Token) : Link := { stages := [held, [{ tok 0 7 with arrived := at_ }]] }
theorem witness_NetworkEvents_links : (link2 99 []).stage 1 = [{ tok 0 7 with arrived := 99 }] ∧ (link2 99 []).held 0 100 < 2 ∧ (99 : Nat) < 100 ∧ (100 : Nat) ≤ (((link2 100 []).stage 1).headD (tok 0 7)).arrived
    ∧ 2 ≤ (link2 99 [tok 0 1, tok 0 2]).held 0 100 ∧ (link2 99 []).held 1 100 ≤ 2
    ∧ ((link2 99 []).transfer 100).stages = [[{ tok 0 7 with arrived := 100 }], []] ∧ (({ stages := [[tok 0 1], [tok 0 2], [tok 0 3]] } : Link).transfer 100).stages.map List.length = [2, 1, 0] := by decide +kernel
/-- A V-element in row 0 without a long edge; an M-element that is due for filler in a region that is being frozen. -/
theorem witness_NetworkEvents_barred : wbElem.edgeFrom 0 0 0 = none ∧ (regionOf wbElem 0 0).isSome = true
    ∧ (let c := (mNet.modCore 0 fun c => { c with regions := [(0, { fetchRegion with freeze := .requested .kill })] }).core 0
       c.fillerDue 1 mNet.cycle = true ∧ c.fillerBarred 1 = true) := by decide +kernel
/-- Two instructions in flight that own disjoint slices. -/
theorem witness_OwnershipOfResults_landing : let g := { wbFlight with id := 2, own := sliceMask 8 8 }
    let r : Regs := { flights := [wbFlight, g] }
    (∀ h ∈ r.flights, h.id = wbFlight.id → h = wbFlight) ∧ (∀ h ∈ r.flights, h ≠ wbFlight → h.own &&& wbFlight.own = 0 ∧ h.pown &&& wbFlight.pown = 0)
    ∧ r.pending = sliceMask 0 16 ∧ (r.land wbFlight).pending = sliceMask 8 8 := by decide +kernel

/-! ### States that meet the hypotheses: units of the engines -/

def okE {α : Type} (r : Except (Nat × Nat) α) : Bool :=
  match r with
  | .ok _ => true
  | .error _ => false

/-- A release that meets a faulted write, for an engine and for a message. -/
theorem witness_EngineEvents_broken : (let m := { copyCmd with order := 2 }
      let s := engState 0 m fun c => { c with broken := [(3, 0x3E0, 0)] }
      (s.core 0).cmd? 7 = some m ∧ s.mayStart 0 m = true ∧ m.prog = 0 ∧ m.sub = 0 ∧ 2 ≤ m.order ∧ (s.core 0).brokenBefore 7 ≠ [])
    ∧ (let m := { cmd7 0xE6 [0] with order := 2 }
       let s := engState 3 m fun c => { c with broken := [(3, 0x3E0, 0)] }
       s.mayStart 0 m = true ∧ (s.core 0).firstTo m = true ∧ (s.core 0).brokenBefore 7 ≠ []) := by decide +kernel
/-- Segments into a tile and out of it: the last bytes, bytes in between, a busy bank, a fault, a segment that is not the engine's, and nothing left. -/
def fifo7 (seg off len p3 : Nat) (c0 : Cap) : Cmd := { cmd7 0xE1 [0, 0, len, p3] with c0 := c0, c1 := mkCap 0x40000 0x40000 2 1, segs := [seg, 0], data := [off] }
def fifoSt (m : Cmd) : State := engState 0 m fun c => { c with regions := [(0, fetchRegion)], bankTok := [(2, 8), (3, 8)] }
theorem witness_EngineEvents_fifo : (let m := fifo7 0 0 64 1 tileAll
      let s := fifoSt m
      (s.core 0).cmd? 7 = some m ∧ s.mayStart 0 m = true ∧ fifoUnit m = some (0x20000, 0x40000, 32) ∧ fifoOut (m.P 3) = false ∧ m.segAt m.off = 0 ∧ m.seg 0 = 0 ∧ (s.core 0).holder s.cycle (m.bankOf 0) = some 8
        ∧ okCopy (s.copyAtom 0 7 1 0x20000 1 0x40000 32) = some true ∧ (0 + 32) % 2 ^ 17 ≠ 0 ∧ 0 + 32 < m.P 2
        ∧ okCopy ((s.useBanks 0 [2]).copyAtom 0 7 1 0x20000 1 0x40000 32) = none)
    ∧ (let m := fifo7 0 32 64 1 tileAll
       fifoUnit m = some (0x20020, 0x40020, 32) ∧ m.P 2 ≤ 32 + 32 ∧ okCopy ((fifoSt m).copyAtom 0 7 1 0x20020 1 0x40020 32) = some true)
    ∧ (let m := fifo7 3 0 64 9 tileAll
       fifoUnit m = some (0x20000, 0x40000, 32) ∧ fifoOut (m.P 3) = true ∧ m.seg (m.segAt m.off) = 3 ∧ okCopy ((fifoSt m).copyAtom 0 7 1 0x40000 1 0x20000 32) = some true ∧ (0x20000 + 32) % 32 = 0)
    ∧ (let m := fifo7 0 0 64 1 farCap
       fifoUnit m = some (0x4000, 0x40000, 32) ∧ okCopy ((fifoSt m).copyAtom 0 7 2 0x4000 1 0x40000 32) = some false)
    ∧ (let m := fifo7 1 0 64 1 tileAll
       m.seg (m.segAt m.off) ≠ 0 ∧ (fifoUnit m).isSome = true)
    ∧ fifoUnit (fifo7 0 64 64 1 tileAll) = none := by decide +kernel
/-- One row of 32 bytes: its index, a fault, a row beyond the range, the row itself, and a row whose bank is busy. -/
def row7 (op off : Nat) (d : List Nat) (c0 : Cap) : Cmd := { cmd7 op [0, off, 0x100000020, 0] with c0 := c0, data := d }
theorem witness_EngineEvents_rows : (let m := row7 0xE2 0 [] tileAll
      let s := engState 1 m id
      (s.core 0).cmd? 7 = some m ∧ s.mayStart 0 m = true ∧ bits (m.P 2) 63 32 = 1 ∧ m.prog < 1 ∧ okE (s.readSpace (baseDie 0) 0 (s.partOf 0) 1 0x20000 4).1 = true ∧ 0 + rowSize m ≤ m.c0.len ∧ rowSize m = 32)
    ∧ (let m := row7 0xE2 250 [] tileAll
       okE ((engState 1 m id).readSpace (baseDie 0) 0 0 1 0x20000 4).1 = true ∧ m.c0.len < 250 + rowSize m)
    ∧ okE ((engState 1 (row7 0xE2 0 [] farCap) id).readSpace (baseDie 0) 0 0 2 0x4000 4).1 = false
    ∧ (let m := row7 0xE2 0 [0x20000] tileAll
       let r := (engState 1 m id).readSpace (baseDie 0) 0 0 1 0x20000 32
       okE r.1 = true ∧ m.sub = 0 ∧ m.rowAt % 64 + rowSize m ≤ 64 ∧ (r.1.toOption.map List.length) = some 32 ∧ r.2.banksFree 0 m.rowAt 32 = true)
    ∧ (let m := row7 0xE3 0 (0x20080 :: List.replicate 32 5) tileAll
       let s := engState 1 m id
       (s.core 0).cmd? 7 = some m ∧ s.mayStart 0 m = true ∧ rowSize m ≤ 32 ∧ okE (s.writeSpace (baseDie 0) 0 0 1 7 0x20080 (List.replicate 32 5)).1 = true
         ∧ okE (s.writeSpace (baseDie 0) 0 0 2 7 0x4000 (List.replicate 32 5)).1 = false)
    ∧ (let m := row7 0xE3 0 [0x20080] tileAll
       let s := engState 1 m id
       let q := m.rowLine m.sub
       ([] : List Nat).length < rowSize m ∧ s.banksFree 0 q.1 q.2 = true ∧ okE ((s.useBanks 0 (partsOf q.1 q.2)).readSpace (baseDie 0) 0 0 1 q.1 q.2).1 = true
         ∧ (s.useBanks 0 (partsOf q.1 q.2)).banksFree 0 q.1 q.2 = false)
    ∧ bits ((row7 0xE2 0 [] tileAll).P 2) 63 32 ≤ ({ row7 0xE2 0 [] tileAll with prog := 1 } : Cmd).prog := by decide +kernel
/-- A stage list: no entry, one, 1,024 and 1,025; a list that cannot be read; entries in form and out of it, of zeros and of bytes, within the ranges and beyond them. -/
def stage7 (p1 : Nat) (d : List Nat) (c0 : Cap) : Cmd := { cmd7 0xE4 [0, p1, 0, 0] with c0 := c0, c1 := mkCap 0x40000 256 0x1F 1, data := d }
def stageSt (m : Cmd) (count w1 z : Nat) : State := (((engState 2 m id).store (tileLoc 0 0x20000) 8 count).store (tileLoc 0 0x20028) 8 w1).store (tileLoc 0 0x20030) 8 z
def headOf (s : State) : Option Nat := (s.readSpace (dieOf 0) 0 0 1 0x20000 32).1.toOption.map fun h => bits (fieldAt h 0 8) 10 0
def entryAt (s : State) : Option (Bool × StageEntry) := (s.readSpace (dieOf 0) 0 0 1 0x20020 32).1.toOption.map fun e => (stageForm e, stageEntryOf e)
theorem witness_EngineEvents_stage : (let m := stage7 0 [] tileAll
      let s := stageSt m 1 0 0
      (s.core 0).cmd? 7 = some m ∧ s.mayStart 0 m = true ∧ s.stagingFirst 0 7 = false ∧ [0, 1, 1024, 1025].map (fun n => headOf (stageSt m n 0 0)) = [some 0, some 1, some 1024, some 1025])
    ∧ okE ((stageSt (stage7 0 [] farCap) 1 0 0).readSpace (dieOf 0) 0 0 2 0x4000 32).1 = false
    ∧ (let m := stage7 0 [0, 1] tileAll
       entryAt (stageSt m 1 0 0) = some (false, ⟨0, 0, 0, false⟩) ∧ entryAt (stageSt m 1 (16 * 2 ^ 32) 1) = some (true, ⟨0, 16, 0, true⟩) ∧ entryAt (stageSt m 1 (16 * 2 ^ 32) 0) = some (true, ⟨0, 16, 0, false⟩)
         ∧ 0 + 16 ≤ m.c1.len ∧ inTile ((stageSt m 1 0 0).cc 0).tilecap m.c1.base 16 = true ∧ (stageSt m 1 0 0).banksFree 0 0x40000 16 = true ∧ m.P 1 + 0 + 16 ≤ m.c0.len
         ∧ okE ((stageSt m 1 0 0).readSpace (dieOf 0) 0 0 1 0x20000 16).1 = true)
    ∧ (stage7 250 [0, 1] tileAll).c0.len < (stage7 250 [0, 1] tileAll).P 1 + 0 + 16 ∧ (mkCap 0x20000 32 1 1).len < 0 + 32 + 32
    ∧ (stagingState [] { core := 0, placed := true, staged := 7 }).stagingFirst 0 7 = true := by decide +kernel
/-- A collective that its member may not join, one that it joins, and each later part of it; a result that is poisoned, and one that is written. -/
def coll7 (p2 sub : Nat) (d : List Nat) : Cmd := { cmd7 0xE5 [0, 0, p2, 0] with owner := some (0, 0), sub := sub, data := d }
theorem witness_EngineEvents_coll : (let m := coll7 (2 ^ 16) 0 []
      let s := engState 4 m id
      (s.core 0).cmd? 7 = some m ∧ s.mayStart 0 m = true ∧ m.sub = 0 ∧ collGroup (m.P 2) = 1 ∧ ((s.cmdLaunch m).map fun x => (x.1, (s.part x.2.part).domain.contains (s.ownPkg, x.2.part))) = some (0, false))
    ∧ [coll7 0 0 [], coll7 0 1 [], coll7 0 2 [], coll7 0 3 [], coll7 0 4 [7], coll7 0 4 []].map (fun m => (collGroup (m.P 2), m.sub, (engState 4 m id).mayStart 0 m, decide (m.data.length ≤ m.prog)))
      = [(0, 0, true, true), (0, 1, true, true), (0, 2, true, true), (0, 3, true, true), (0, 4, true, false), (0, 4, true, true)]
    ∧ (coll7 0 4 [7]).data[0]? = some 7 ∧ (coll7 0 4 [2 ^ 64 + 5]).data[0]? = some (2 ^ 64 + 5) ∧ (2 ^ 64 : Nat) ≤ 2 ^ 64 + 5
    ∧ (engState 4 (coll7 0 4 [7]) id).banksFree 0 (tileAll.base + 0) (collBytes 0) = true ∧ (tileAll.base + 0) % 64 + collBytes 0 ≤ 64 := by decide +kernel
/-- A message that finds the ring's bank free or busy, and an MRECV whose own bank is busy. -/
theorem witness_EngineEvents_ring : (let m := cmd7 0xE6 [0, 1, 2, 3, 4, 5, 6, 7, 8]
      let t := engState 3 m fun c => { c with inbox := some oneInbox }
      let h := ((upFrom 0 8).flatMap fun i => toBytes (m.P (i + 1)) 8).map BitVec.toNat
      t.slotTaken oneInbox 0 7 = false ∧ m.held = [] ∧ (t.writeUnit 0 2 (oneInbox.slotAt 0 + (64 - h.length)) h).1 = []
        ∧ ((t.useBanks 0 (partsOf 0x20040 64)).writeUnit 0 2 (oneInbox.slotAt 0 + (64 - h.length)) h).1.length = 64)
    ∧ (let m := cmd7 0xE7 [0x40000]
       let b := { oneInbox with slots := [(3, none)] }
       let s := engState 3 m fun c => { c with inbox := some b }
       let r := s.readUnit 0 1 (b.slotAt 0) 64 2 m.held
       (r.1.toOption.map List.length) = some 64 ∧ r.2.banksFree 0 (m.P 0) 64 = true ∧ (r.2.useBanks 0 [2]).banksFree 0 (m.P 0) 64 = false) := by decide +kernel

/-! ### States that meet the hypotheses: launches, links and resets -/

/-- A co-scheduled record whose victim is still freezing, and one whose aborted run is being cleared; and the same record with neither. -/
def awaitState (prey : List Nat) (aborted : List Nat) : State :=
  let s := preemptState.modLaunch 6 fun x => { x with preempted := true, members := x.members.map fun z => { z with frozen := true } }
  (s.modLaunch 5 fun x => { x with words := [BitVec.ofNat 64 (2 ^ 20 + 2 ^ 23), 0, 0, 0, 0, 0, BitVec.ofNat 64 (2 ^ 56)], prey := prey, aborted := aborted }).modCore 0 fun c => { c with reinit := some 100 }
theorem witness_LaunchEvents_await : [awaitState [6] [], awaitState [] [0], awaitState [] []].map (fun s => (s.launches.get? 5).map fun x => (x.cosched, s.awaits x)) = [some (true, true), some (true, true), some (true, false)] := by decide +kernel
theorem witness_LaunchEvents_rest : (preemptState.launches.get? 5).map (fun x => (x.failing, x.members, x.gang, preemptState.awaits x, preemptState.neverFits x, (preemptState.placeNow 5 x).isNone)) = some (none, [], 1, false, false, true)
    ∧ ((placeState.launches.get? 5).map fun x => (placeState.awaits x, (placeState.placeNow 5 x).isSome)) = some (false, true)
    ∧ (let s := (queueState .placing true (some 5) [0] (ofWords (gangWords.set 0 (2 ^ 56 + 2 ^ 25 + 2 ^ 21 + 2 ^ 20)) [{ core := 1 }])).modCc 0 fun c => { c with run := .idle }
       ((s.launches.get? 5).map fun x => (x.cosched, x.gang, (s.spot x 0).isSome)) = some (false, 3, true)) := by decide +kernel
/-- The first member of a gang of one: the loader's checks pass for a control core alone, and fail for a fabric image that cannot be read. -/
def loadState (w : List Nat) (h : Option ImageHdr) : State := (queueState .placing true (some 5) [0] { ofWords w [] with hdr := h }).modCc 0 fun c => { c with run := .idle }
def loads (s : State) : Option (Bool × Bool × Bool) := (s.launches.get? 5).map fun x => (s.neverFits x, (s.placeNow 5 x).isSome, (s.loadLaunch 0 x).1.toOption.isSome)
theorem witness_LaunchEvents_load : loads (loadState ccWords none) = some (false, true, true) ∧ loads (loadState (gangWords.set 0 (2 ^ 56 + 2 ^ 21 + 2 ^ 20)) (some ⟨1, 1, false, 0, 0, 0⟩)) = some (false, true, false)
    ∧ ((loadState ccWords none).launches.get? 5).bind (fun x => (match (loadState ccWords none).loadLaunch 0 x with
      | (.ok v, t) => (((t.modLaunch 5 fun _ => v).placeNow 5 v).bind fun u => (u.launches.get? 5).bind u.gangEdges).map List.length
      | (.error _, _) => none)) = some 0 := by decide +kernel
theorem witness_LaunchEvents_together : ((savedState false).launches.get? 5).map (fun x => (x.cosched, (savedState false).restoreRoom 5 [0], ((savedState false).restoreAll 5 [0]).isSome)) = some (false, true, true)
    ∧ (savedState true).restoreRoom 5 [0] = true ∧ ((savedState true).restoreAll 5 [0]).isNone = true
    ∧ (((savedState false).modPart 0 fun x => { x with cores := [0] }).modCc 0 fun c => { c with member := some (9, 0), run := .running }).restoreRoom 5 [0] = false := by decide +kernel

/-- A retired group and one without a free spare; the next group of its flows, or none; a package that is not fenced. -/
def spent : LaneGroup → LaneGroup := fun g => { g with spmap := [(0, 7), (1, 8), (2, 9), (3, 10)] }
theorem witness_LinkEvents_retire : ((groupState fun g => { g with retired := true }).group 0).retired = true ∧ flitGood (goodFlit 0) = true ∧ flitType (goodFlit 0) = 1 ∧ flitGood 0x20 = false
    ∧ (let s := groupState spent
       (s.group 0).remap = none ∧ (s.group 0).freeSpare = none ∧ (s.modGroup 0 fun y => { y with retired := true }).nextGroup 0 = some 1)
    ∧ (let s := ((groupState spent).modGroup 1 fun g => { g with retired := true }).modGroup 2 fun g => { g with retired := true }
       (upFrom 0 16).all (fun i => ((upFrom 0 16).foldl (fun (t : State) j => t.modGroup j fun g => { g with retired := true }) s).nextGroup i == none) = true)
    ∧ (ms []).fenced.contains 3 = false := by decide +kernel

/-- A partition whose region is being frozen, one whose cores are quiet, with a lease, and one that is to be destroyed. -/
def resetState (reason : Nat) (r : Option Region) : State :=
  ({ ms [] with parts := [(0, { ready := true, cores := [0], resetting := some reason, lease := some lease80 })] } : State).modCore 0 fun c =>
    { c with part := some 0, regions := r.toList.map fun x => (0, x), cc := { c.cc with run := .idle } }
theorem witness_PartitionAndResetEvents_quiet : (let s := resetState 1 none
      (s.part 0).resetting = some 1 ∧ (s.part 0).cores = [0] ∧ (s.part 0).cores.all s.quenched = true ∧ (s.part 0).cores.all s.stilled = true ∧ (s.part 0).shoots = [] ∧ memWf s.mem = true ∧ (s.part 0).lease = some lease80)
    ∧ (let s := ({ ms [] with parts := [(1, { ready := true, cores := [0], resetting := some 1 })] } : State).modCore 0 fun c => { c with part := some 1 }
       ((s.core 0).part.bind fun p => (s.part p).resetting).isSome = true ∧ s.pageUp 0 = true)
    ∧ ((resetState 2 none).part 0).resetting = some 2 ∧ (((resetState 1 (some { fetchRegion with freeze := .requested .reset })).part 0).cores.all (resetState 1 (some { fetchRegion with freeze := .requested .reset })).stilled) = false
    ∧ (let s := (inPart (ms [])).modCore 0 fun c => { c with regions := [(0, fetchRegion)] }
       (s.part 0).ready = true ∧ (s.part 0).resetting = none ∧ ((s.core 0).part.bind fun p => (s.part p).resetting) = none ∧ (s.region? 0 0).isSome = true) := by decide +kernel
theorem test_core_reset : (let s := inPart (ms [])
      let t := after? (exec (.coreReset 0) s)
      ((t.cc 0).run, (t.core 0).reinit, (t.core 0).part)) = (.idle, some (100 + usCycles 4), some 0) := by decide +kernel

end Sys2Proof.Tests
end

section
/-! SUPPORT. Memory stays in canonical form over every step (O57), and the state right after reset (O58). In the order of the model's files: the operations that leave memory as it is (`…_mem`), the
operations that write it and keep the form `memWf` (`…_wf`), the effects of instructions (`…_keeps`), then each instruction, each turn of a cycle, and the step. A lemma `…_mem` that holds by definition is
proved `by rfl`, not by the term `rfl`: `simp` then uses it as an equation, which it needs for the step of a fold (`foldl_mem`). -/
namespace Sys2Proof.Machine

@[simp] theorem State.mem_ite {c : Prop} [Decidable c] (s t : State) : (if c then s else t).mem = if c then s.mem else t.mem := apply_ite ..
@[simp] theorem snd_mem_ite {α : Type} {c : Prop} [Decidable c] (p q : α × State) : (if c then p else q).2.mem = if c then p.2.mem else q.2.mem :=
  apply_ite (fun p : α × State => p.2.mem) ..

/-- The memory of a state that a call answers beside its result. -/
theorem mem_of_call {α : Type} {p : α × State} {a : α} {t : State} {m : List Host.Cell} (h : p = (a, t)) (hp : p.2.mem = m) : t.mem = m := by
  subst h; exact hp

/-- A fold of steps that leave memory alone leaves it alone. -/
@[simp] theorem foldl_mem {α : Type} {f : State → α → State} (hf : ∀ s x, (f s x).mem = s.mem) (l : List α) (s : State) : (l.foldl f s).mem = s.mem := by
  induction l generalizing s with
  | nil => rfl
  | cons x r ih => exact (ih (f s x)).trans (hf s x)

/-! ### Ops -/

@[simp] theorem State.draw_mem (s : State) : s.draw.2.mem = s.mem := by rfl

@[simp] theorem State.enterTrap_mem (s : State) (k cause : Nat) (v : Word64) (pc : BitVec 32) (async : Bool) : (s.enterTrap k cause v pc async).mem = s.mem := by
  simp only [State.enterTrap, State.mem_ite, State.modCc_mem, ite_eq_right_iff]
  intro _
  split <;> rfl

@[simp] theorem State.raise_mem (s : State) (k cause : Nat) (v : Word64) (pc : BitVec 32) : (s.raise k cause v pc).mem = s.mem := by simp [State.raise]

/-! ### Posts -/

@[simp] theorem State.postCore_mem (s : State) (k type arg0 arg1 : Nat) : (s.postCore k type arg0 arg1).mem = s.mem := by
  unfold State.postCore
  split <;> simp

@[simp] theorem State.postStr_mem (s : State) (k str type arg0 arg1 : Nat) : (s.postStr k str type arg0 arg1).mem = s.mem := by
  unfold State.postStr
  split <;> simp

@[simp] theorem State.traceCc_mem (s : State) (k type arg0 arg1 : Nat) : (s.traceCc k type arg0 arg1).mem = s.mem := by
  unfold State.traceCc
  split <;> simp

@[simp] theorem State.traceRegion_mem (s : State) (k rn type arg0 arg1 : Nat) : (s.traceRegion k rn type arg0 arg1).mem = s.mem := by
  unfold State.traceRegion
  split <;> simp

/-! ### Operands -/

@[simp] theorem State.modEdge_mem (s : State) (l i : Nat) (f : LEdge → LEdge) : (s.modEdge l i f).mem = s.mem := by rfl

/-! ### Run -/

@[simp] theorem State.beginThread_mem (s : State) (k e c : Nat) (g : BitVec 16) : (s.beginThread k e c g).mem = s.mem := by
  unfold State.beginThread
  cases s.chanHead k e c (guardCH g) <;> simp

@[simp] theorem State.popChan_mem (s : State) (k e ch : Nat) : (s.popChan k e ch).mem = s.mem := by rfl
@[simp] theorem State.popPort_mem (s : State) (k e p : Nat) : (s.popPort k e p).mem = s.mem := by rfl

@[simp] theorem State.popPass_mem (s : State) (k e q : Nat) : (s.popPass k e q).mem = s.mem := by
  unfold State.popPass
  split <;> simp

@[simp] theorem State.consume_mem (s : State) (k e : Nat) (h : Shape) : (s.consume k e h).mem = s.mem := by simp [State.consume]
@[simp] theorem State.haltCc_mem (s : State) (k : Nat) : (s.haltCc k).mem = s.mem := by simp [State.haltCc]

@[simp] theorem State.note_mem (s : State) (i : Instr) (k e c slot : Nat) (x : Ctx) (met : Nat × Nat × Nat) : (s.note i k e c slot x met).mem = s.mem := by
  unfold State.note
  split <;> simp

/-! ### Reports -/

@[simp] theorem State.regionFault_mem (s : State) (k rn cause arg0 pick : Nat) : (s.regionFault k rn cause arg0 pick).mem = s.mem := by
  unfold State.regionFault
  split
  · rfl
  · simp only
    split <;> simp

@[simp] theorem State.mcheck_mem (s : State) (k cause action addr : Nat) : (s.mcheck k cause action addr).mem = s.mem := by simp [State.mcheck]

@[simp] theorem State.unitCheck_mem (s : State) (k loc n : Nat) (ctrl : Bool) : (s.unitCheck k loc n ctrl).mem = s.mem := by
  unfold State.unitCheck
  split <;> simp

@[simp] theorem State.ctlCheck_mem (s : State) (k rn loc n : Nat) : (s.ctlCheck k rn loc n).mem = s.mem := by simp [State.ctlCheck]

/-! ### MemInstr -/

@[simp] theorem State.useBanks_mem (s : State) (k : Nat) (banks : List Nat) : (s.useBanks k banks).mem = s.mem := by rfl
@[simp] theorem State.serve_mem (s : State) (k order : Nat) (banks : List Nat) : (s.serve k order banks).mem = s.mem := by rfl

@[simp] theorem State.modMember_mem (s : State) (k : Nat) (f : Member → Member) : (s.modMember k f).mem = s.mem := by
  unfold State.modMember
  split <;> simp

/-! ### Xlate -/

@[simp] theorem State.heatUp_mem (s : State) (d : Nat) : (s.heatUp d).mem = s.mem := by rfl
@[simp] theorem State.keep_mem (s : State) (x : XEntry) : (s.keep x).mem = s.mem := by rfl
@[simp] theorem State.heatPte_mem (s : State) (d : Nat) : (s.heatPte d).mem = s.mem := by simp [State.heatPte]

@[simp] theorem State.walkPte_mem (s : State) (cache part space lvl va d : Nat) : (s.walkPte cache part space lvl va d).2.mem = s.mem := by
  simp only [State.walkPte]
  split <;> simp

@[simp] theorem State.pteAt_mem (s : State) (cache part space lvl va d : Nat) : (s.pteAt cache part space lvl va d).2.mem = s.mem := by
  unfold State.pteAt
  split <;> simp

@[simp] theorem State.walkFrom_mem (s : State) (cache part space va need n t : Nat) : (s.walkFrom cache part space va need n t).2.mem = s.mem := by
  induction n generalizing s t with
  | zero => rfl
  | succ n ih =>
    unfold State.walkFrom
    simp only
    split <;> next h => simp [ih, mem_of_call h (State.pteAt_mem ..)]

@[simp] theorem State.walk_mem (s : State) (cache part space va need : Nat) : (s.walk cache part space va need).2.mem = s.mem := by simp [State.walk]

@[simp] theorem State.placeDpa_mem (s : State) (r : Xl × State) : (s.placeDpa r).2.mem = r.2.mem := by
  obtain ⟨_ | d, t⟩ := r
  · rfl
  · cases h : t.media d <;> simp [State.placeDpa, h]

@[simp] theorem State.modGroup_mem (s : State) (g : Nat) (f : LaneGroup → LaneGroup) : (s.modGroup g f).mem = s.mem := by rfl
@[simp] theorem State.buildRoutes_mem (s : State) : s.buildRoutes.mem = s.mem := by rfl
@[simp] theorem State.dropRoutes_mem (s : State) (pkg : Nat) : (s.dropRoutes pkg).mem = s.mem := by simp [State.dropRoutes]
@[simp] theorem State.portSend_mem (s : State) (k pkg a : Nat) : (s.portSend k pkg a).mem = s.mem := by rfl

@[simp] theorem State.placePeer_mem (s : State) (cache k part a need : Nat) : (s.placePeer cache k part a need).2.mem = s.mem := by
  simp only [State.placePeer, snd_mem_ite, ite_eq_left_iff]
  intro _
  split
  · rfl
  · simp only [snd_mem_ite, State.after_mem, State.draw_mem, State.portSend_mem, ite_self, ite_eq_left_iff, ite_eq_right_iff]
    intro _ _ _
    split <;> simp

@[simp] theorem State.place_mem (s : State) (cache k part space a need : Nat) : (s.place cache k part space a need).2.mem = s.mem := by
  unfold State.place
  split <;> simp

@[simp] theorem State.remoteBytes_mem (s : State) (n : Nat) : (s.remoteBytes n).2.mem = s.mem := by
  induction n generalizing s with
  | zero => rfl
  | succ n ih => simp [State.remoteBytes, ih]

@[simp] theorem State.readPlace_mem (s : State) (p : Place) (n : Nat) : (s.readPlace p n).2.mem = s.mem := by
  cases p with
  | remote => simp [State.readPlace]
  | loc x d => cases d <;> simp [State.readPlace]

@[simp] theorem State.fetchBytes_mem (s : State) (cache k part space a need n : Nat) : (s.fetchBytes cache k part space a need n).2.mem = s.mem := by
  induction n generalizing s a with
  | zero => rfl
  | succ n ih =>
    unfold State.fetchBytes
    split
    · next h => exact mem_of_call h (State.place_mem ..)
    next h =>
    have hp := mem_of_call h (State.place_mem ..)
    split
    · next h => exact (mem_of_call h (State.readPlace_mem ..)).trans hp
    next h =>
    have hr := (mem_of_call h (State.readPlace_mem ..)).trans hp
    split <;> next h => exact (mem_of_call h (ih ..)).trans hr

@[simp] theorem State.fetch_mem (s : State) (cache k part space a need n : Nat) : (s.fetch cache k part space a need n).2.mem = s.mem := by simp [State.fetch]

/-! ### EngineInstr -/

@[simp] theorem State.modEngine_mem (s : State) (k i : Nat) (f : List Cmd → List Cmd) : (s.modEngine k i f).mem = s.mem := by rfl
@[simp] theorem State.modCmd_mem (s : State) (k id : Nat) (f : Cmd → Cmd) : (s.modCmd k id f).mem = s.mem := by rfl
@[simp] theorem State.moveToken_mem (s : State) (k b : Nat) (h : Option Nat) : (s.moveToken k b h).mem = s.mem := by rfl

theorem fifoCheck_mem (s : State) (k : Nat) (w : BlockWords) : ∀ r ∈ fifoCheck s k w, r.2.2.mem = s.mem := by
  unfold fifoCheck
  simp only
  split_ifs <;> simp

@[simp] theorem State.modBar_mem (s : State) (l n : Nat) (f : Bar → Bar) : (s.modBar l n f).mem = s.mem := by rfl
@[simp] theorem State.passBar_mem (s : State) (k : Nat) : (s.passBar k).mem = s.mem := by rfl
@[simp] theorem State.leaveColl_mem (s : State) (k id : Nat) : (s.leaveColl k id).mem = s.mem := by rfl

/-! ### Placement -/

/-! ### SystemOps -/

@[simp] theorem State.endWait_mem (s : State) (k : Nat) (res : Option (Operand × Nat)) : (s.endWait k res).mem = s.mem := by rfl

@[simp] theorem State.wake_mem (s : State) (k : Nat) : (s.wake k).mem = s.mem := by
  simp only [State.wake, State.mem_ite, ite_eq_left_iff]
  intro _
  split <;> simp

/-! ### Records -/

@[simp] theorem State.setLatch_mem (s : State) (k n : Nat) : (s.setLatch k n).mem = s.mem := by rfl
@[simp] theorem State.latchAll_mem (s : State) (p n : Nat) : (s.latchAll p n).mem = s.mem := by simp [State.latchAll]
@[simp] theorem State.recordWritten_mem (s : State) (p : Nat) : (s.recordWritten p).mem = s.mem := by simp [State.recordWritten]

/-! ### Power -/

@[simp] theorem State.postPart_mem (s : State) (p type arg0 arg1 : Nat) : (s.postPart p type arg0 arg1).mem = s.mem := by rfl
@[simp] theorem State.askLease_mem (s : State) (p dur pct : Nat) (l : Option Nat) : (s.askLease p dur pct l).2.mem = s.mem := by simp [State.askLease]
@[simp] theorem State.forfeit_mem (s : State) (p left : Nat) : (s.forfeit p left).mem = s.mem := by rfl

@[simp] theorem State.endLease_mem (s : State) (p reason : Nat) : (s.endLease p reason).mem = s.mem := by
  unfold State.endLease
  split <;> simp

@[simp] theorem State.removeCore_mem (s : State) (p lc : Nat) : (s.removeCore p lc).mem = s.mem := by
  unfold State.removeCore
  split <;> simp

/-! ### TokenOps -/

@[simp] theorem State.releaseThread_mem (s : State) (k e c : Nat) : (s.releaseThread k e c).mem = s.mem := by
  simp only [State.releaseThread]
  split <;> simp

@[simp] theorem State.endThread_mem (s : State) (k e : Nat) : (s.endThread k e).mem = s.mem := by
  unfold State.endThread
  split <;> simp

@[simp] theorem State.passRow_mem (s : State) (k rn i : Nat) : (s.passRow k rn i).mem = s.mem := by
  unfold State.passRow
  split <;> simp

@[simp] theorem State.passRows_mem (s : State) (k rn : Nat) : (s.passRows k rn).mem = s.mem := by
  unfold State.passRows
  split <;> simp

/-! ### EvCore -/

@[simp] theorem State.writeToken_mem (s : State) (k id start v : Nat) (cap : Option Cap) : (s.writeToken k id start v cap).mem = s.mem := by
  unfold State.writeToken
  split <;> simp

@[simp] theorem State.finishToken_mem (s : State) (k id v : Nat) (cap : Option Cap) : (s.finishToken k id v cap).mem = s.mem := by simp [State.finishToken]

@[simp] theorem State.sendToken_mem (s : State) (k e ch : Nat) (t : Token) : (s.sendToken k e ch t).mem = s.mem := by
  unfold State.sendToken
  split <;> simp

@[simp] theorem State.sendCtok_mem (s : State) (k e p : Nat) (t : Token) : (s.sendCtok k e p t).mem = s.mem := by
  unfold State.sendCtok
  split <;> simp

@[simp] theorem State.handOver_mem (s : State) (path : List Nat) (e hop : Nat) (p : BitVec 224) : (s.handOver path e hop p).mem = s.mem := by
  unfold State.handOver
  split <;> simp

@[simp] theorem State.sendPass_mem (s : State) (k e q : Nat) (t : Token) : (s.sendPass k e q t).mem = s.mem := by
  unfold State.sendPass
  split
  · simp
  · split <;> simp

@[simp] theorem State.queueRequest_mem (s : State) (k e st : Nat) (q : NodeReq) : (s.queueRequest k e st q).mem = s.mem := by rfl
@[simp] theorem State.exitTarget_mem (s : State) (k rn : Nat) (r : Region) (e n : Nat) : (s.exitTarget k rn r e n).mem = s.mem := by simp [State.exitTarget]
@[simp] theorem State.landCc_mem (s : State) (k : Nat) (f : Flight) : (s.landCc k f).mem = s.mem := by simp [State.landCc]

@[simp] theorem State.withdraw_mem (s : State) (k : Nat) : (s.withdraw k).mem = s.mem := by
  unfold State.withdraw
  split <;> simp

/-! ### Image -/

@[simp] theorem State.readImage_mem (s : State) (k part a n : Nat) : (s.readImage k part a n).2.mem = s.mem := by simp [State.readImage]
@[simp] theorem State.readCard_mem (s : State) (k part a n : Nat) : (s.readCard k part a n).2.mem = s.mem := by simp [State.readCard]

@[simp] theorem State.fetchCard_mem (s : State) (k part img cardOff crcOff idx : Nat) : (s.fetchCard k part img cardOff crcOff idx).2.mem = s.mem := by
  unfold State.fetchCard
  split
  · next h => exact mem_of_call h (State.readCard_mem ..)
  next h =>
  have hr := mem_of_call h (State.readCard_mem ..)
  split <;> next h => exact (mem_of_call h (State.readCard_mem ..)).trans hr

@[simp] theorem State.cardOf_mem (s : State) (k rn part img cardOff crcOff idx : Nat) : (s.cardOf k rn part img cardOff crcOff idx).2.mem = s.mem := by
  unfold State.cardOf
  split
  · rfl
  cases s.mergedFill k part img idx with
  | some ws => simp
  | none =>
    have h := s.fetchCard_mem k part img cardOff crcOff idx
    simp only
    split <;> next he => simpa [he] using h

@[simp] theorem State.loadCards_mem (s : State) (k rn part img cardOff crcOff : Nat) (b : List Byte) (l : List Nat) :
    (s.loadCards k rn part img cardOff crcOff b l).2.mem = s.mem := by
  induction l generalizing s with
  | nil => rfl
  | cons c rest ih =>
    unfold State.loadCards
    simp only [snd_mem_ite, ih]
    split
    · rfl
    split
    · next h => exact mem_of_call h (State.cardOf_mem ..)
    next h =>
    have hc := mem_of_call h (State.cardOf_mem ..)
    split
    · exact hc
    split <;> next h => exact (mem_of_call h (ih ..)).trans hc

@[simp] theorem State.loadPick_mem (s : State) (k rn part img off stageEnd : Nat) (h : ImageHdr) (wide : Bool) (p : PickPlace) (placed : Option (List Byte)) :
    (s.loadPick k rn part img off stageEnd h wide p placed).2.mem = s.mem := by
  unfold State.loadPick
  split
  · next h => cases placed <;> exact mem_of_call h (by simp)
  next b s' h =>
  have hs : s'.mem = s.mem := by cases placed <;> exact mem_of_call h (by simp)
  simp only [snd_mem_ite]
  split
  · exact hs
  split
  · exact hs
  split
  · next h => exact (mem_of_call h (State.loadCards_mem ..)).trans hs
  next h =>
  have hc := (mem_of_call h (State.loadCards_mem ..)).trans hs
  split <;> exact hc

@[simp] theorem State.pickBytes_mem (s : State) (k part a : Nat) (wide : Bool) (placed : Option (List Byte)) : (s.pickBytes k part a wide placed).2.mem = s.mem := by
  cases placed with
  | some b => rfl
  | none =>
    simp only [State.pickBytes]
    split <;> next h => exact mem_of_call h (State.readImage_mem ..)

@[simp] theorem State.readPicks_mem (s : State) (k part a : Nat) (wide : Bool) (placed : SMap (List Byte)) (i j n : Nat) :
    (s.readPicks k part a wide placed i j n).2.mem = s.mem := by
  induction n generalizing s a j with
  | zero => rfl
  | succ n ih =>
    unfold State.readPicks
    split
    · next h => exact mem_of_call h (State.pickBytes_mem ..)
    next h =>
    have hb := mem_of_call h (State.pickBytes_mem ..)
    split <;> next h => exact (mem_of_call h (ih ..)).trans hb

@[simp] theorem State.readBlocks_mem (s : State) (k part img : Nat) (wide : Bool) (placed : SMap (List Byte)) (i : Nat) (l : List Block) :
    (s.readBlocks k part img wide placed i l).2.mem = s.mem := by
  induction l generalizing s i with
  | nil => rfl
  | cons b rest ih =>
    unfold State.readBlocks
    split
    · next h => exact mem_of_call h (State.readPicks_mem ..)
    next h =>
    have hb := mem_of_call h (State.readPicks_mem ..)
    split <;> next h => exact (mem_of_call h (ih ..)).trans hb

@[simp] theorem State.draftCards_mem (s : State) (k part img cardOff : Nat) (p : DraftPick) (l : List Nat) : (s.draftCards k part img cardOff p l).2.mem = s.mem := by
  induction l generalizing s p with
  | nil => rfl
  | cons c rest ih =>
    unfold State.draftCards
    simp only [snd_mem_ite, ih]
    split
    · rfl
    split
    · next h => exact mem_of_call h (State.readCard_mem ..)
    · next h => exact (ih ..).trans (mem_of_call h (State.readCard_mem ..))

@[simp] theorem State.draftPicks_mem (s : State) (k part img cardOff a : Nat) (wide : Bool) (n : Nat) : (s.draftPicks k part img cardOff a wide n).2.mem = s.mem := by
  induction n generalizing s a with
  | zero => rfl
  | succ n ih =>
    unfold State.draftPicks
    split
    · next h => exact mem_of_call h (State.readImage_mem ..)
    next h =>
    have hb := mem_of_call h (State.readImage_mem ..)
    split
    · next h => exact (mem_of_call h (State.draftCards_mem ..)).trans hb
    next h =>
    have hc := (mem_of_call h (State.draftCards_mem ..)).trans hb
    split <;> next h => exact (mem_of_call h (ih ..)).trans hc

@[simp] theorem State.placeDraft_mem (s : State) (k part img cardOff : Nat) (wide : Bool) (i : Nat) (p : Placed) (l : List Block) :
    (s.placeDraft k part img cardOff wide i p l).2.mem = s.mem := by
  induction l generalizing s i p with
  | nil => rfl
  | cons b rest ih =>
    unfold State.placeDraft
    split
    · next h => exact mem_of_call h (State.draftPicks_mem ..)
    next h =>
    have hb := mem_of_call h (State.draftPicks_mem ..)
    split
    · exact hb
    · exact (ih ..).trans hb

@[simp] theorem State.readStage_mem (s : State) (k part a alloc : Nat) : (s.readStage k part a alloc).2.mem = s.mem := by
  unfold State.readStage
  split
  · next h => exact mem_of_call h (State.readImage_mem ..)
  next h =>
  have hh := mem_of_call h (State.readImage_mem ..)
  simp only [snd_mem_ite]
  split
  · exact hh
  split <;> next h => exact (mem_of_call h (State.readImage_mem ..)).trans hh

/-! ### Matrix -/

@[simp] theorem State.takeRow_mem (s : State) (k e : Nat) : (s.takeRow k e).mem = s.mem := by
  unfold State.takeRow
  split <;> simp

@[simp] theorem State.takeCol_mem (s : State) (k e : Nat) : (s.takeCol k e).mem = s.mem := by
  unfold State.takeCol
  split
  · simp only
    split <;> simp
  · rfl

@[simp] theorem State.tileStep_mem (s : State) (k e c : Nat) (f : Acc → Acc) : (s.tileStep k e c f).mem = s.mem := by rfl

/-! ### Fabric -/

@[simp] theorem State.recordChecks_mem (s : State) (k rn n : Nat) (b : Block) : (s.recordChecks k rn n b).mem = s.mem := by simp [State.recordChecks]

@[simp] theorem State.takeRecords_mem (s : State) (k rn b n : Nat) : (s.takeRecords k rn b n).2.mem = s.mem := by
  unfold State.takeRecords
  split <;> simp

@[simp] theorem State.addFault_mem (s : State) (k rn node st cause arg0 pick : Nat) : (s.addFault k rn node st cause arg0 pick).mem = s.mem := by rfl

@[simp] theorem State.rejectPick_mem (s : State) (k rn row pick : Nat) (x : Reject) : (s.rejectPick k rn row pick x).mem = s.mem := by
  unfold State.rejectPick
  split <;> simp

@[simp] theorem State.nodeFault_mem (s : State) (k n st p cause : Nat) (u : optParam (Option Nat) none) : (s.nodeFault k n st p cause u).mem = s.mem := by
  unfold State.nodeFault
  split <;> simp

@[simp] theorem State.configureRow_mem (s : State) (k : Nat) (r : Region) (row : Nat) (b : List Byte) (cards : List (Nat × List Word64)) :
    (s.configureRow k r row b cards).mem = s.mem := by
  unfold State.configureRow
  simp only
  rw [foldl_mem, foldl_mem]
  · simp
  · intro s h
    rw [foldl_mem]
    · simp
    · intro s i
      split <;> simp

@[simp] theorem State.layers_mem (s : State) (k : Nat) (r : Region) (row d at_ : Nat) : (s.layers k r row d at_).mem = s.mem := by rfl
@[simp] theorem State.calm_mem (s : State) (k : Nat) (r : Region) (row : Nat) : (s.calm k r row).mem = s.mem := by rfl

@[simp] theorem State.pickLoaded_mem (s : State) (k rn row : Nat) : (s.pickLoaded k rn row).mem = s.mem := by
  unfold State.pickLoaded
  split <;> simp

@[simp] theorem State.loadDone_mem (s : State) (k rn row : Nat) : (s.loadDone k rn row).mem = s.mem := by simp [State.loadDone]

@[simp] theorem State.placePick_mem (s : State) (k rn row pick : Nat) (b : List Byte) (cards : List (Nat × List Word64)) : (s.placePick k rn row pick b cards).mem = s.mem := by
  unfold State.placePick
  split <;> simp

theorem State.restoreElems_mem (s : State) (k : Nat) (r : Region) (row : Nat) (b : List Byte) (l : List Nat) :
    ∀ t ∈ s.restoreElems k r row b l, t.mem = s.mem := by
  induction l generalizing s b with
  | nil => simp [State.restoreElems]
  | cons col rest ih =>
    unfold State.restoreElems
    simp only
    split_ifs
    · exact ih s b
    · split
      · simp
      · exact fun t ht => (ih _ _ t ht).trans (by simp)
    · exact fun t ht => (ih _ _ t ht).trans (by simp)

@[simp] theorem State.modRow_mem (s : State) (k rn row : Nat) (f : Row → Row) : (s.modRow k rn row f).mem = s.mem := by rfl

@[simp] theorem State.emptyRow_mem (s : State) (k rn row : Nat) : (s.emptyRow k rn row).mem = s.mem := by
  unfold State.emptyRow
  split <;> simp

theorem State.putWrapped_mem (s : State) (k e net port : Nat) (x : Token) : ∀ t ∈ s.putWrapped k e net port x, t.mem = s.mem := by
  unfold State.putWrapped
  simp only
  split <;> split_ifs <;> simp

@[simp] theorem State.dropWrap_mem (s : State) (k rn : Nat) (w : WrapEntry) : (s.dropWrap k rn w).mem = s.mem := by rfl

@[simp] theorem State.deliverWraps_mem (s : State) (k rn : Nat) (r : Region) (busy : List (Nat × Nat × Nat)) (l : List WrapEntry) :
    (s.deliverWraps k rn r busy l).mem = s.mem := by
  induction l generalizing s busy with
  | nil => rfl
  | cons w rest ih =>
    unfold State.deliverWraps
    simp only [State.mem_ite, ih, State.dropWrap_mem, State.ctlCheck_mem, ite_eq_left_iff]
    intro _
    split
    · exact ih ..
    simp only [State.mem_ite, ih, ite_eq_left_iff]
    intro _
    split
    · exact ih ..
    · next h => simp [ih, State.putWrapped_mem _ _ _ _ _ _ _ h]

/-! ### NodeEv -/

@[simp] theorem State.modStream_mem (s : State) (k n i : Nat) (f : Stream → Stream) : (s.modStream k n i f).mem = s.mem := by rfl

@[simp] theorem State.setFnan_mem (s : State) (k n i p : Nat) (scale : Option Nat) : (s.setFnan k n i p scale).mem = s.mem := by
  unfold State.setFnan
  split <;> simp

theorem State.sendFrom_mem (s : State) (k n rn row : Nat) (r : Region) (w : List Word64) (ctx : Nat) (body : BitVec 256) :
    ∀ t ∈ s.sendFrom k n rn row r w ctx body, t.mem = s.mem := by
  unfold State.sendFrom
  simp only
  split
  · split_ifs <;> simp
  all_goals simp

@[simp] theorem State.sendAhead_mem (s : State) (k n i : Nat) : (s.sendAhead k n i).mem = s.mem := by
  unfold State.sendAhead
  simp only
  split
  · simp only [State.mem_ite, ite_eq_right_iff]
    intro _
    split
    · next h => simp [State.sendFrom_mem _ _ _ _ _ _ _ _ _ _ h]
    · rfl
  · rfl

@[simp] theorem State.performed_mem (s : State) (k n i : Nat) (q : NodeReq) : (s.performed k n i q).mem = s.mem := by
  unfold State.performed
  split <;> simp

@[simp] theorem State.resolveFault_mem (s : State) (k rn n i : Nat) : (s.resolveFault k rn n i).mem = s.mem := by rfl

/-! ### Engines -/

@[simp] theorem State.readSpace_mem (s : State) (cache k part space a n : Nat) : (s.readSpace cache k part space a n).2.mem = s.mem := by
  unfold State.readSpace
  split <;> split <;> simp

@[simp] theorem State.atomPlaces_mem (s : State) (cache k part space a n f : Nat) : (s.atomPlaces cache k part space a n f).2.mem = s.mem := by
  induction f generalizing s a n with
  | zero => rfl
  | succ f ih =>
    unfold State.atomPlaces
    simp only [snd_mem_ite]
    split
    · rfl
    split
    · next h => exact mem_of_call h (State.place_mem ..)
    next h =>
    have hp := mem_of_call h (State.place_mem ..)
    split
    · next h => exact (mem_of_call h (ih ..)).trans hp
    · exact (ih ..).trans hp

@[simp] theorem State.postEngineFault_mem (s : State) (k op dst st cause prog v : Nat) : (s.postEngineFault k op dst st cause prog v).mem = s.mem := by simp [State.postEngineFault]
@[simp] theorem State.faultCmd_mem (s : State) (k : Nat) (m : Cmd) (cause v : Nat) : (s.faultCmd k m cause v).mem = s.mem := by simp [State.faultCmd]
@[simp] theorem State.writeBroken_mem (s : State) (k id cause v : Nat) : (s.writeBroken k id cause v).mem = s.mem := by simp [State.writeBroken]
@[simp] theorem State.refuseCmd_mem (s : State) (k : Nat) (m : Cmd) (cause : Nat) : (s.refuseCmd k m cause).mem = s.mem := by simp [State.refuseCmd]
@[simp] theorem State.doneCmd_mem (s : State) (k id : Nat) : (s.doneCmd k id).mem = s.mem := by rfl
@[simp] theorem State.unitDone_mem (s : State) (k id : Nat) (f : Cmd → Cmd) : (s.unitDone k id f).mem = s.mem := by rfl
@[simp] theorem State.meetBroken_mem (s : State) (k id : Nat) : (s.meetBroken k id).mem = s.mem := by rfl
@[simp] theorem State.breakCmd_mem (s : State) (k : Nat) (m : Cmd) : (s.breakCmd k m).mem = s.mem := by simp [State.breakCmd]
@[simp] theorem State.cmdBroken_mem (s : State) (k id cause v : Nat) : (s.cmdBroken k id cause v).mem = s.mem := by simp [State.cmdBroken]

@[simp] theorem State.useRange_mem (s : State) (k sp a n : Nat) : (s.useRange k sp a n).mem = s.mem := by
  unfold State.useRange
  split <;> simp

@[simp] theorem State.readUnit_mem (s : State) (k sp a n f : Nat) (l : List Nat) : (s.readUnit k sp a n f l).2.mem = s.mem := by
  induction f generalizing s l with
  | zero => rfl
  | succ f ih =>
    have hr (c : Nat) := ((s.useRange k sp (a + l.length) c).readSpace_mem (dieOf k) k (s.partOf k) sp (a + l.length) c).trans (by simp : _ = s.mem)
    simp only [State.readUnit, snd_mem_ite, ite_eq_left_iff]
    intro _ _
    split
    · next h => exact mem_of_call h (hr _)
    · next h => exact (ih ..).trans (mem_of_call h (hr _))

@[simp] theorem State.rowDone_mem (s : State) (k : Nat) (m : Cmd) : (s.rowDone k m).mem = s.mem := by simp [State.rowDone]

@[simp] theorem State.stageHeader_mem (s : State) (k : Nat) (m : Cmd) : (s.stageHeader k m).mem = s.mem := by
  unfold State.stageHeader
  split <;> next h => simp [mem_of_call h (State.readSpace_mem ..)]

@[simp] theorem State.collStart_mem (s : State) (c : Coll) : (s.collStart c).mem = s.mem := by simp [State.collStart]
@[simp] theorem State.collCombined_mem (s : State) (c : Coll) : (s.collCombined c).mem = s.mem := by simp [State.collCombined]

@[simp] theorem State.collEnd_mem (s : State) (c : Coll) (st cause : Nat) : (s.collEnd c st cause).mem = s.mem := by
  unfold State.collEnd
  simp only
  rw [foldl_mem]
  intro s j
  split <;> simp

@[simp] theorem State.collGather_mem (s : State) (p : Nat) (c : Coll) : (s.collGather p c).mem = s.mem := by simp [State.collGather]

@[simp] theorem State.peersJoin_mem (s : State) (p tag : Nat) : (s.peersJoin p tag).mem = s.mem := by
  simp only [State.peersJoin]
  split <;> simp

@[simp] theorem State.collJoin_mem (s : State) (k : Nat) (m : Cmd) (l : Nat) (x : Launch) : (s.collJoin k m l x).mem = s.mem := by
  simp only [State.collJoin]
  split <;> simp

@[simp] theorem State.collSettle_mem (s : State) (k id : Nat) : (s.collSettle k id).mem = s.mem := by
  unfold State.collSettle
  split <;> simp

@[simp] theorem State.collTry_mem (s : State) (k id : Nat) : (s.collTry k id).mem = s.mem := by
  unfold State.collTry
  split <;> simp

@[simp] theorem State.collSourced_mem (s : State) (k id : Nat) : (s.collSourced k id).mem = s.mem := by simp [State.collSourced]
@[simp] theorem State.collRead_mem (s : State) (k : Nat) (m : Cmd) : (s.collRead k m).mem = s.mem := by simp [State.collRead]
@[simp] theorem State.dropCmd_mem (s : State) (k id : Nat) : (s.dropCmd k id).mem = s.mem := by rfl
@[simp] theorem State.placeMessage_mem (s : State) (t : Nat) (b : Inbox) (m : Cmd) (sender key : Nat) : (s.placeMessage t b m sender key).mem = s.mem := by rfl
@[simp] theorem State.appendQueue_mem (s : State) (p q : Nat) (r : QRec) : (s.appendQueue p q r).mem = s.mem := by rfl
@[simp] theorem State.farEnd_mem (s : State) (k : Nat) (f : Far) (v : Nat) : (s.farEnd k f v).mem = s.mem := by simp [State.farEnd]
@[simp] theorem State.farFault_mem (s : State) (k : Nat) (f : Far) (cause v : Nat) : (s.farFault k f cause v).mem = s.mem := by simp [State.farFault]

/-! ### Freeze -/

@[simp] theorem State.freeImage_mem (s : State) (i : Nat) : (s.freeImage i).mem = s.mem := by rfl

@[simp] theorem State.requestFreeze_mem (s : State) (k rn : Nat) (w : Why) : (s.requestFreeze k rn w).mem = s.mem := by
  unfold State.requestFreeze
  split <;> simp

@[simp] theorem State.endStops_mem (s : State) (k rn : Nat) : (s.endStops k rn).mem = s.mem := by
  unfold State.endStops
  split <;> simp

@[simp] theorem State.reinitialise_mem (s : State) (k : Nat) (run : optParam Bool true) : (s.reinitialise k run).mem = s.mem := by rfl

@[simp] theorem State.abortScan_mem (s : State) (k : Nat) (tell : Bool) : (s.abortScan k tell).mem = s.mem := by
  unfold State.abortScan
  split <;> simp

@[simp] theorem State.dropImages_mem (s : State) (l : Nat) : (s.dropImages l).mem = s.mem := by rfl
@[simp] theorem State.dropCmds_mem (s : State) (k : Nat) : (s.dropCmds k).mem = s.mem := by simp [State.dropCmds]
@[simp] theorem State.haltCore_mem (s : State) (k : Nat) : (s.haltCore k).mem = s.mem := by simp [State.haltCore]

@[simp] theorem State.killMember_mem (s : State) (l m : Nat) (x : Member) (w : Why) : (s.killMember l m x w).mem = s.mem := by
  unfold State.killMember
  split <;> simp

@[simp] theorem State.returnShelved_mem (s : State) (l p : Nat) : (s.returnShelved l p).mem = s.mem := by
  unfold State.returnShelved
  split <;> simp

@[simp] theorem State.blame_mem (s : State) (l k : Nat) : (s.blame l k).mem = s.mem := by rfl

@[simp] theorem State.kill_mem (s : State) (l cause : Nat) (w : Why) : (s.kill l cause w).mem = s.mem := by
  unfold State.kill
  split <;> simp

@[simp] theorem State.failLaunch_mem (s : State) (l cause : Nat) : (s.failLaunch l cause).mem = s.mem := by simp [State.failLaunch]

@[simp] theorem State.emptyRegion_mem (s : State) (k rn : Nat) : (s.emptyRegion k rn).mem = s.mem := by
  unfold State.emptyRegion
  split <;> simp

@[simp] theorem State.shelveLease_mem (s : State) (l m : Nat) : (s.shelveLease l m).mem = s.mem := by
  unfold State.shelveLease
  split <;> simp

@[simp] theorem State.preempted_mem (s : State) (l : Nat) : (s.preempted l).mem = s.mem := by
  unfold State.preempted
  split <;> simp

@[simp] theorem State.startClocks_mem (s : State) (l : Nat) : (s.startClocks l).mem = s.mem := by
  simp only [State.startClocks]
  split <;> simp

@[simp] theorem State.retryAll_mem (s : State) (k : Nat) (r : Region) : (s.retryAll k r).mem = s.mem := by rfl

@[simp] theorem State.thaw_mem (s : State) (k l m : Nat) (reg : Option (Nat × Region)) : (s.thaw k l m reg).mem = s.mem := by
  unfold State.thaw
  split <;> simp

/-! ### LaunchEv -/

@[simp] theorem State.checkImage_mem (s : State) (p : Nat) (x : Launch) : (s.checkImage p x).2.mem = s.mem := by
  unfold State.checkImage
  split
  · next h => exact mem_of_call h (State.readImage_mem ..)
  next h =>
  have hb := mem_of_call h (State.readImage_mem ..)
  simp only [snd_mem_ite]
  split
  · exact hb
  split <;> next h => simpa using (mem_of_call h (State.readImage_mem ..)).trans hb

@[simp] theorem State.checkRecord_mem (s : State) (p : Nat) (r : QRec) : (s.checkRecord p r).2.mem = s.mem := by simp [State.checkRecord]
@[simp] theorem State.modQueue_mem (s : State) (p q : Nat) (f : Queue → Queue) : (s.modQueue p q f).mem = s.mem := by rfl

@[simp] theorem State.refuseRecord_mem (s : State) (p q cause : Nat) : (s.refuseRecord p q cause).mem = s.mem := by
  simp only [State.refuseRecord]
  split <;> simp

@[simp] theorem State.readTable_mem (s : State) (p : Nat) (x : Launch) : (s.readTable p x).2.mem = s.mem := by
  unfold State.readTable
  split <;> next h => exact mem_of_call h (State.fetch_mem ..)

@[simp] theorem State.placedPicks_mem (s : State) (p : Nat) (x : Launch) (h : ImageHdr) : (s.placedPicks p x h).2.mem = s.mem := by simp [State.placedPicks]

@[simp] theorem State.loadImage_mem (s : State) (p : Nat) (x : Launch) (h : ImageHdr) : (s.loadImage p x h).2.mem = s.mem := by
  unfold State.loadImage
  simp only
  split
  · next h => exact mem_of_call h (State.placedPicks_mem ..)
  · next h => exact mem_of_call h (State.placedPicks_mem ..)
  next h =>
  have hp := mem_of_call h (State.placedPicks_mem ..)
  split
  · next h => exact (mem_of_call h (State.readBlocks_mem ..)).trans hp
  next h =>
  have hb := (mem_of_call h (State.readBlocks_mem ..)).trans hp
  split
  · exact hb
  split <;> next h => exact (mem_of_call h (State.readStage_mem ..)).trans hb

@[simp] theorem State.loadLaunch_mem (s : State) (p : Nat) (x : Launch) : (s.loadLaunch p x).2.mem = s.mem := by
  simp only [State.loadLaunch]
  split <;> simp

@[simp] theorem State.edgeCheck_mem (t s : State) (x : Launch) (y : Member) : (t.edgeCheck s x y).mem = s.mem := by simp [State.edgeCheck]

@[simp] theorem State.placedAll_mem (s : State) (p q l : Nat) : (s.placedAll p q l).mem = s.mem := by
  unfold State.placedAll
  split <;> simp

@[simp] theorem State.firstStart_mem (s : State) (l : Nat) (x : Launch) : (s.firstStart l x).mem = s.mem := by simp [State.firstStart]

@[simp] theorem State.endRegions_mem (s : State) (l : Nat) (x : Launch) : (s.endRegions l x).mem = s.mem := by
  unfold State.endRegions
  rw [foldl_mem]
  intro s p
  split <;> simp

@[simp] theorem State.releaseMember_mem (s : State) (l m : Nat) (x : Launch) (y : Member) : (s.releaseMember l m x y).mem = s.mem := by
  simp only [State.releaseMember, State.modCore_mem, State.mem_ite, State.withdraw_mem, ite_self]
  rw [foldl_mem fun _ _ => State.moveToken_mem ..]
  split
  · split <;> simp
  · rfl

@[simp] theorem State.endQuarantine_mem (s : State) (l : Nat) : (s.endQuarantine l).mem = s.mem := by rfl
@[simp] theorem State.advanceDone_mem (s : State) (p q : Nat) : (s.advanceDone p q).mem = s.mem := by simp [State.advanceDone]

@[simp] theorem State.retire_mem (s : State) (p q l : Nat) (x : Launch) : (s.retire p q l x).mem = s.mem := by
  unfold State.retire
  split <;> simp

@[simp] theorem State.abortExpired_mem (s : State) (l : Nat) (x : Launch) : (s.abortExpired l x).mem = s.mem := by
  unfold State.abortExpired
  split <;> simp

/-! ### FaultEv -/

@[simp] theorem State.stopClocks_mem (s : State) (l : Nat) : (s.stopClocks l).mem = s.mem := by
  simp only [State.stopClocks]
  split <;> simp

@[simp] theorem State.preemptMember_mem (s : State) (l m : Nat) (x : Launch) (y : Member) : (s.preemptMember l m x y).mem = s.mem := by
  unfold State.preemptMember
  split <;> simp

@[simp] theorem State.preemptLaunch_mem (s : State) (l : Nat) : (s.preemptLaunch l).mem = s.mem := by
  unfold State.preemptLaunch
  split <;> simp

@[simp] theorem State.putStrings_mem (s : State) (k : Nat) (i : Image) (r : Region) : (s.putStrings k i r).mem = s.mem := by rfl
@[simp] theorem State.freeMoved_mem (s : State) (k l b n : Nat) : (s.freeMoved k l b n).mem = s.mem := by rfl

theorem State.reloadRow_mem (s : State) (k rn : Nat) (x : Launch) (row : Nat) : ∀ t ∈ s.reloadRow k rn x row, t.mem = s.mem := by
  unfold State.reloadRow
  split
  · simp only
    split
    · simp
    split
    · simp
    split
    · simp
    · next h => simp [mem_of_call h (State.loadPick_mem ..)]
  · simp

theorem State.reloadRows_mem (s : State) (k rn : Nat) (x : Launch) (l : List Nat) : ∀ t ∈ s.reloadRows k rn x l, t.mem = s.mem := by
  induction l generalizing s with
  | nil => simp [State.reloadRows]
  | cons i r ih =>
    intro t ht
    obtain ⟨u, hu, ht⟩ := Option.bind_eq_some_iff.mp ht
    exact (ih u t ht).trans (s.reloadRow_mem k rn x i u hu)

@[simp] theorem State.reloaded_mem (s : State) (k rn row : Nat) : (s.reloaded k rn row).mem = s.mem := by
  simp only [State.reloaded]
  split <;> simp

@[simp] theorem State.putRegion_mem (s : State) (k rn : Nat) (i : Image) (old r : Region) : (s.putRegion k rn i old r).mem = s.mem := by simp [State.putRegion]

@[simp] theorem State.resumeCc_mem (s : State) (k l m : Nat) (x : Launch) (c : ControlCore) (broken : List (Nat × Nat × Nat)) : (s.resumeCc k l m x c broken).mem = s.mem := by
  unfold State.resumeCc
  split <;> simp

@[simp] theorem State.resumeLease_mem (s : State) (l p : Nat) (lease : Option (Nat × Nat)) : (s.resumeLease l p lease).mem = s.mem := by
  unfold State.resumeLease
  split <;> simp

@[simp] theorem State.countError_mem (s : State) (die i : Nat) : (s.countError die i).mem = s.mem := by rfl
@[simp] theorem State.settleCounts_mem (s : State) : s.settleCounts.mem = s.mem := by rfl

@[simp] theorem State.abortHolder_mem (s : State) (k rn cause : Nat) : (s.abortHolder k rn cause).mem = s.mem := by
  simp only [State.abortHolder]
  split <;> simp

@[simp] theorem State.atomError_mem (s : State) (a : Nat) : (s.atomError a).mem = s.mem := by simp [State.atomError]
@[simp] theorem State.mediaError_mem (s : State) (k a : Nat) (us : List Nat) : (s.mediaError k a us).mem = s.mem := by simp [State.mediaError]
@[simp] theorem State.bringUpFrom_mem (s : State) (n fail : Nat) (b : BringUp) : (s.bringUpFrom n fail b).mem = s.mem := by simp [State.bringUpFrom]

@[simp] theorem State.bootAgain_mem (s : State) : s.bootAgain.mem = s.mem := by
  unfold State.bootAgain
  split <;> simp

@[simp] theorem State.freezeAll_mem (s : State) : s.freezeAll.mem = s.mem := by simp [State.freezeAll]

/-! ### DebugEv -/

@[simp] theorem State.sample_mem (s : State) (k e c : Nat) : (s.sample k e c).mem = s.mem := by
  unfold State.sample
  split
  · simp only [State.mem_ite, ite_eq_left_iff]
    intro _
    split <;> simp
  · rfl

@[simp] theorem State.crit_mem (s : State) (k : Nat) (w : Walk) (f : Option Firing) (reason : Nat) : (s.crit k w f reason).mem = s.mem := by
  unfold State.crit
  split <;> simp

@[simp] theorem State.walkStep_mem (s : State) (k : Nat) (w : Walk) : (s.walkStep k w).2.mem = s.mem := by
  unfold State.walkStep
  split
  · simp
  · simp only [snd_mem_ite, State.crit_mem, ite_eq_left_iff]
    intro _
    split <;> simp

/-! ### LinkEv -/

@[simp] theorem State.postRepair_mem (s : State) (g lane spare : Nat) (retired : Bool) : (s.postRepair g lane spare retired).mem = s.mem := by rfl

@[simp] theorem State.retireGroup_mem (s : State) (g lane : Nat) : (s.retireGroup g lane).mem = s.mem := by
  simp only [State.retireGroup]
  split <;> simp

@[simp] theorem State.startRemap_mem (s : State) (g : Nat) : (s.startRemap g).mem = s.mem := by
  unfold State.startRemap
  simp only
  split
  · split <;> simp
  · rfl

@[simp] theorem State.chargeLane_mem (s : State) (g lane : Nat) : (s.chargeLane g lane).mem = s.mem := by simp [State.chargeLane]

@[simp] theorem State.acceptFlit_mem (s : State) (g : Nat) (raw : BitVec 256) : (s.acceptFlit g raw).mem = s.mem := by
  simp only [State.acceptFlit]
  split <;> simp

@[simp] theorem State.badFlit_mem (s : State) (g : Nat) (raw : BitVec 256) : (s.badFlit g raw).mem = s.mem := by rfl
@[simp] theorem State.dataFlit_mem (s : State) (g : Nat) (raw : BitVec 256) : (s.dataFlit g raw).mem = s.mem := by simp [State.dataFlit]
@[simp] theorem State.ackFlit_mem (s : State) (g : Nat) (e : BitVec 8) (neg : Bool) : (s.ackFlit g e neg).mem = s.mem := by rfl
@[simp] theorem State.mapFlit_mem (s : State) (g w : Nat) : (s.mapFlit g w).mem = s.mem := by rfl
@[simp] theorem State.retrainPort_mem (s : State) (n : Nat) : (s.retrainPort n).mem = s.mem := by simp [State.retrainPort]

@[simp] theorem State.takeFlit_mem (s : State) (g : Nat) (raw : BitVec 256) : (s.takeFlit g raw).mem = s.mem := by
  unfold State.takeFlit
  split <;> split <;> simp

@[simp] theorem State.portFlit_mem (s : State) (n : Nat) (raw : BitVec 256) : (s.portFlit n raw).mem = s.mem := by simp [State.portFlit]
@[simp] theorem State.transmit_mem (s : State) (g : Nat) (raw : BitVec 256) : (s.transmit g raw).mem = s.mem := by simp [State.transmit]
@[simp] theorem State.sendAnswer_mem (s : State) (g : Nat) : (s.sendAnswer g).mem = s.mem := by simp [State.sendAnswer]

@[simp] theorem State.relay_mem (s : State) (p : BitVec 224) : (s.relay p).mem = s.mem := by
  unfold State.relay
  simp only
  split
  · rfl
  · simp only [State.mem_ite, State.handOver_mem, ite_eq_left_iff]
    intro _
    split <;> simp

@[simp] theorem State.sendEcho_mem (s : State) (g : Nat) : (s.sendEcho g).mem = s.mem := by simp [State.sendEcho]
@[simp] theorem State.sendData_mem (s : State) (g : Nat) : (s.sendData g).mem = s.mem := by simp [State.sendData]
@[simp] theorem State.linkTurn_mem (s : State) (g : Nat) : (s.linkTurn g).mem = s.mem := by simp [State.linkTurn]
@[simp] theorem State.fence_mem (s : State) (pkg reason : Nat) : (s.fence pkg reason).mem = s.mem := by
  simp [State.fence, foldl_mem (f := fun (s : State) p => s.post _) fun _ _ => rfl]

/-! ### XlateEv -/

@[simp] theorem State.modShoot_mem (s : State) (p id : Nat) (f : Shoot → Shoot) : (s.modShoot p id f).mem = s.mem := by rfl
@[simp] theorem State.awaitAck_mem (s : State) (p id cache : Nat) : (s.awaitAck p id cache).mem = s.mem := by rfl
@[simp] theorem State.freeFrame_mem (s : State) (stack : Nat) (up : Bool) : (s.freeFrame stack up).2.mem = s.mem := rfl

theorem State.startMove_mem (s : State) (m : Nat × Bool) : ∀ t ∈ s.startMove m, t.mem = s.mem := by
  unfold State.startMove
  split
  · simp
  · next h => simp [mem_of_call h (State.freeFrame_mem ..)]

@[simp] theorem State.startMoves_mem (stack : Nat) (l : List (Nat × Bool)) (s : State) : (State.startMoves stack l s).mem = s.mem := by
  induction l generalizing s with
  | nil => rfl
  | cons m r ih =>
    simp only [State.startMoves, State.mem_ite, ih, ite_eq_left_iff]
    intro _ _
    split
    · next h => simp [ih, s.startMove_mem m _ h]
    · rfl

/-! ### HostEv -/

@[simp] theorem State.hostFault_mem (s : State) (f cause kind va : Nat) : (s.hostFault f cause kind va).mem = s.mem := by rfl
@[simp] theorem State.readErrc_mem (s : State) (die : Nat) : (s.readErrc die).mem = s.mem := by rfl
@[simp] theorem State.readLstat_mem (s : State) : s.readLstat.mem = s.mem := by rfl

@[simp] theorem State.rearm_mem (s : State) (f : Nat) : (s.rearm f).mem = s.mem := by
  simp only [State.rearm]
  split <;> simp

@[simp] theorem State.rethresh_mem (s : State) (f : Nat) : (s.rethresh f).mem = s.mem := by simp [State.rethresh]
@[simp] theorem State.writeHead_mem (s : State) (f v : Nat) : (s.writeHead f v).mem = s.mem := by simp [State.writeHead]
@[simp] theorem State.writeFbkp_mem (s : State) (k i : Nat) (v : Word64) : (s.writeFbkp k i v).mem = s.mem := by simp [State.writeFbkp]

@[simp] theorem State.writePage_mem (s : State) (f off : Nat) (v : Word64) : (s.writePage f off v).mem = s.mem := by
  unfold State.writePage
  split <;> split <;> simp

@[simp] theorem State.modNew_mem (s : State) (f : Part → Part) : (s.modNew f).mem = s.mem := by simp [State.modNew]

@[simp] theorem State.writePf_mem (s : State) (off : Nat) (v : Word64) : (s.writePf off v).mem = s.mem := by
  simp only [State.writePf, State.mem_ite, State.modNew_mem, ite_eq_left_iff]
  intro _
  split <;> simp

@[simp] theorem State.readRecord_mem (s : State) (f a : Nat) : (s.readRecord f a).2.mem = s.mem := by
  unfold State.readRecord
  split <;> next h => exact mem_of_call h (State.fetch_mem ..)

@[simp] theorem State.resumeAt_mem (s : State) (k : Nat) (pc : BitVec 32) : (s.resumeAt k pc).mem = s.mem := by simp [State.resumeAt]
@[simp] theorem State.idleCore_mem (s : State) (k : Nat) : (s.idleCore k).mem = s.mem := by simp [State.idleCore]
@[simp] theorem State.resetCore_mem (s : State) (k : Nat) : (s.resetCore k).mem = s.mem := by simp [State.resetCore]
@[simp] theorem State.quench_mem (s : State) (k : Nat) : (s.quench k).mem = s.mem := by simp [State.quench]
@[simp] theorem State.resetIdle_mem (s : State) (p : Nat) : (s.resetIdle p).mem = s.mem := by simp [State.resetIdle]
@[simp] theorem State.dropLeases_mem (s : State) (p reason : Nat) : (s.dropLeases p reason).mem = s.mem := by simp [State.dropLeases]
@[simp] theorem State.beginReset_mem (s : State) (p reason : Nat) : (s.beginReset p reason).mem = s.mem := by simp [State.beginReset]

@[simp] theorem State.resetLease_mem (s : State) (p : Nat) : (s.resetLease p).mem = s.mem := by
  unfold State.resetLease
  split <;> simp

@[simp] theorem State.releaseCores_mem (s : State) (p : Nat) : (s.releaseCores p).mem = s.mem := foldl_mem (fun _ _ => State.modCore_mem ..) ..

/-! ### PowerEv -/

@[simp] theorem State.throtRecord_mem (s : State) (k n : Nat) (old new : Str) (l : List (Option (Nat × Nat))) : (s.throtRecord k n old new l).mem = s.mem := by simp [State.throtRecord]
@[simp] theorem State.startString_mem (s : State) (k n : Nat) : (s.startString k n).mem = s.mem := by simp [State.startString]
@[simp] theorem State.eachString_mem (s : State) {f : State → Nat → Nat → State} (hf : ∀ s k n, (f s k n).mem = s.mem) : (s.eachString f).mem = s.mem := by
  simp [State.eachString, hf]
@[simp] theorem State.endString_mem (s : State) (k n : Nat) (ms : List Nat) : (s.endString k n ms).mem = s.mem := by simp [State.endString]

@[simp] theorem State.setLease_mem (s : State) (p : Nat) (f : Lease → Lease) : (s.setLease p f).mem = s.mem := by
  unfold State.setLease
  split <;> simp

@[simp] theorem suspendLeases_mem (l : List Nat) (s : State) : (suspendLeases l s).mem = s.mem := by
  induction l generalizing s with
  | nil => rfl
  | cons p r ih => simp [suspendLeases, ih]

@[simp] theorem State.resumeLeases_mem (s : State) : s.resumeLeases.mem = s.mem := foldl_mem (fun _ _ => State.setLease_mem ..) ..
@[simp] theorem State.lowerScale_mem (s : State) : s.lowerScale.mem = s.mem := by simp [State.lowerScale]
@[simp] theorem State.raiseScale_mem (s : State) : s.raiseScale.mem = s.mem := by simp [State.raiseScale]
@[simp] theorem State.postDie_mem (s : State) (ps : List Nat) (die type arg0 arg1 : Nat) : (s.postDie ps die type arg0 arg1).mem = s.mem :=
  foldl_mem (fun _ _ => State.post_mem ..) ..
@[simp] theorem State.readSensor_mem (s : State) (die n : Nat) (r : Int) : (s.readSensor die n r).mem = s.mem := by rfl
@[simp] theorem State.crossings_mem (s : State) (die : Nat) : (s.crossings die).mem = s.mem := by simp [State.crossings]
@[simp] theorem State.heatLeases_mem (s : State) (die : Nat) : (s.heatLeases die).mem = s.mem := by simp [State.heatLeases]
@[simp] theorem State.heatStep_mem (s : State) (die : Nat) : (s.heatStep die).mem = s.mem := by simp [State.heatStep]

@[simp] theorem State.rebin_mem (s : State) (die : Nat) : (s.rebin die).mem = s.mem := by
  unfold State.rebin
  rw [foldl_mem]
  intro s p
  rw [foldl_mem]
  intro s n
  split <;> simp

/-! ### Schedule -/

@[simp] theorem State.miss_mem (s : State) (k va : Nat) : (s.miss k va).mem = s.mem := by simp [State.miss]

@[simp] theorem State.loadTurn_mem (s : State) (k : Nat) : (s.loadTurn k).mem = s.mem := by
  unfold State.loadTurn
  split <;> simp

@[simp] theorem State.moveTurn_mem (s : State) (k : Nat) : (s.moveTurn k).mem = s.mem := by
  unfold State.moveTurn
  split <;> simp

@[simp] theorem State.draws_mem {α : Type} (s : State) (f : Nat → α) (n : Nat) : (s.draws f n).2.mem = s.mem := by
  induction n generalizing s with
  | zero => rfl
  | succ n ih => simp [State.draws, ih]

@[simp] theorem State.measures_mem (s : State) : s.measures.2.mem = s.mem := by
  unfold State.measures
  refine List.foldlRecOn _ _ (motive := fun r : List Meas × State => r.2.mem = s.mem) rfl ?_
  intro r hr p _
  simpa using hr

@[simp] theorem State.noteServed_mem (s : State) : s.noteServed.mem = s.mem := by
  unfold State.noteServed
  rw [foldl_mem]
  intro s p
  rw [foldl_mem]
  intro s i
  split <;> simp

@[simp] theorem State.nextCycle_mem (s : State) : s.nextCycle.mem = s.mem := by simp [State.nextCycle]

/-! ### Canonical memory after an outcome -/

/-- Where the outcome is a next state, its memory is in canonical form. -/
def CanonicalAfter (o : Out3) : Prop := ∀ t, o = .next t → memWf t.mem = true

@[simp] theorem canonicalAfter_next (t : State) : CanonicalAfter (.next t) ↔ memWf t.mem = true := by simp [CanonicalAfter]
@[simp] theorem canonicalAfter_fault (r : Fault) : CanonicalAfter (.fault r) := fun _ h => nomatch h
@[simp] theorem canonicalAfter_ite {c : Prop} [Decidable c] (o p : Out3) : CanonicalAfter (if c then o else p) ↔ if c then CanonicalAfter o else CanonicalAfter p := by
  split <;> rfl

@[simp] theorem memWf_ite {c : Prop} [Decidable c] (m n : List Host.Cell) : memWf (if c then m else n) = if c then memWf m else memWf n := apply_ite ..

/-- The memory of a state that a call answers beside its result is canonical. -/
theorem wf_of_call {α : Type} {p : α × State} {a : α} {t : State} (h : p = (a, t)) (hp : memWf p.2.mem = true) : memWf t.mem = true := by
  subst h; exact hp

/-- A fold of steps that keep the canonical form keeps it. -/
theorem foldl_wf {α : Type} {f : State → α → State} (hf : ∀ s x, memWf s.mem = true → memWf (f s x).mem = true) (l : List α) (s : State)
    (h : memWf s.mem = true) : memWf (l.foldl f s).mem = true := by
  induction l generalizing s with
  | nil => exact h
  | cons x r ih => exact ih _ (hf s x h)

/-! ### Issue and firing -/

/-- An effect on a control core keeps the canonical form. -/
def KeepsCc (eff : State → Option (Eff × Flow × State)) : Prop := ∀ s, memWf s.mem = true → ∀ r ∈ eff s, memWf r.2.2.mem = true

/-- An effect in an element keeps the canonical form. -/
def KeepsElem (eff : State → Option (Eff × State)) : Prop := ∀ s, memWf s.mem = true → ∀ r ∈ eff s, memWf r.2.mem = true

theorem runElem_wf {eff : State → Option (Eff × State)} (he : KeepsElem eff) (i : Instr) (k e c slot : Nat) (s : State) (h : memWf s.mem = true) :
    memWf (runElem i eff k e c slot s).mem = true := by
  unfold runElem
  simp only
  split_ifs
  · split <;> exact h
  · exact h
  split
  · exact h
  · next hr => simpa using he _ (by simpa using h) _ hr

theorem runCc_wf {eff : State → Option (Eff × Flow × State)} (he : KeepsCc eff) (i : Instr) (k : Nat) (s : State) (h : memWf s.mem = true) :
    memWf (runCc i eff k s).mem = true := by
  unfold runCc
  simp only
  split_ifs
  · exact h
  · exact h
  split
  · exact h
  · next f fl t hr =>
    have ht : memWf t.mem = true := he s h _ hr
    cases fl <;> simpa using ht

theorem runBoth_wf {effE : State → Option (Eff × State)} {effC : State → Option (Eff × Flow × State)} (hE : KeepsElem effE) (hC : KeepsCc effC) (i : Instr)
    (s : State) (h : memWf s.mem = true) : CanonicalAfter (runBoth i effE effC s) := by
  unfold runBoth
  split
  · simp [runCc_wf hC _ _ _ h]
  · simp [runElem_wf hE _ _ _ _ _ _ h]

/-- An instruction whose effect names no new state keeps the canonical form. -/
theorem run_wf (i : Instr) (eff : State → Eff) (s : State) (h : memWf s.mem = true) : CanonicalAfter (run i eff s) :=
  runBoth_wf (by rintro s h _ ⟨⟩; exact h) (by rintro s h _ ⟨⟩; exact h) i s h

theorem runControl_wf {eff : Nat → State → Option (Eff × Flow × State)} (he : ∀ k, KeepsCc (eff k)) (i : Instr) (s : State) (h : memWf s.mem = true) :
    CanonicalAfter (runControl i eff s) := by
  unfold runControl
  split
  · simp [runCc_wf (he _) _ _ _ h]
  · simp

theorem runFabric_wf {eff : Nat → Nat → Nat → State → Option (Eff × State)} (he : ∀ k e c, KeepsElem (eff k e c)) (i : Instr) (s : State)
    (h : memWf s.mem = true) : CanonicalAfter (runFabric i eff s) := by
  unfold runFabric
  split
  · simp
  · simp [runElem_wf (he _ _ _) _ _ _ _ _ _ h]

/-- An effect of a control core alone, by the core whose turn it is. -/
def onCc (eff : Nat → State → Option (Eff × Flow × State)) (s : State) : Option (Eff × Flow × State) :=
  match s.site with
  | .cc k => eff k s
  | .ctx .. => none

/-- An effect of an element alone, by the context whose turn it is. -/
def onCtx (eff : Nat → Nat → Nat → State → Option (Eff × State)) (s : State) : Option (Eff × State) :=
  match s.site with
  | .ctx k e c _ => eff k e c s
  | .cc _ => none

theorem onCc_keeps {eff : Nat → State → Option (Eff × Flow × State)} (he : ∀ k, KeepsCc (eff k)) : KeepsCc (onCc eff) := by
  intro s h
  unfold onCc
  split
  · exact he _ s h
  · simp

theorem onCtx_keeps {eff : Nat → Nat → Nat → State → Option (Eff × State)} (he : ∀ k e c, KeepsElem (eff k e c)) : KeepsElem (onCtx eff) := by
  intro s h
  unfold onCtx
  split
  · exact he _ _ _ s h
  · simp

/-- A choice between two states of canonical memory. -/
theorem ite_wf {c : Prop} [Decidable c] {s t : State} (hs : memWf s.mem = true) (ht : memWf t.mem = true) : memWf (if c then s else t).mem = true := by
  split
  · exact hs
  · exact ht

/-! ### MemInstr -/

/-- R258, R280: a tile access leaves the state that its own action answers, or that it found. -/
theorem tileAccess_wf {a b : Operand} {n need order : Nat} {aligned reads : Bool} {act : Nat → Option (Eff × Flow × State)} {k : Nat} {s : State}
    (h : memWf s.mem = true) (ha : ∀ addr, ∀ r ∈ act addr, memWf r.2.2.mem = true) :
    ∀ r ∈ tileAccess a b n need order aligned reads act k s, memWf r.2.2.mem = true := by
  unfold tileAccess
  simp only
  split
  · simp
  split
  · simp [h]
  split
  · simp [h]
  split
  · simp [h]
  · exact ha _

theorem requestEff_keeps (op : Nat) (d : Operand) (p v : Option Operand) (m : BitVec 4) (ordered : Bool) (k e c : Nat) :
    KeepsElem (requestEff op d p v m ordered k e c) := by
  intro s h
  simp only [requestEff]
  split_ifs <;> simp [h]

theorem ldEff_keeps (d a b : Operand) (m : BitVec 4) (k : Nat) : KeepsCc (ldEff d a b m k) := by
  intro s h
  unfold ldEff
  exact tileAccess_wf h (by simp [h])

theorem execLd_wf (g : BitVec 16) (d a b : Operand) (m : BitVec 4) (s : State) (h : memWf s.mem = true) : CanonicalAfter (execLd g d a b m s) :=
  runBoth_wf (onCtx_keeps fun k e c => requestEff_keeps 0xC0 d (some a) none m false k e c) (onCc_keeps fun k => ldEff_keeps d a b m k) _ s h

theorem stEff_keeps (v a b : Operand) (m : BitVec 4) (k : Nat) : KeepsCc (stEff v a b m k) := by
  intro s h
  unfold stEff
  exact tileAccess_wf h (by simp [State.store_wf, h])

theorem execSt_wf (g : BitVec 16) (d a b : Operand) (m : BitVec 4) (s : State) (h : memWf s.mem = true) : CanonicalAfter (execSt g d a b m s) :=
  runBoth_wf (onCtx_keeps fun k e c => requestEff_keeps 0xC1 d (storePos a) (some b) m false k e c) (onCc_keeps fun k => stEff_keeps d a b m k) _ s h

/-- R258, R280: an access to an element of a format leaves the state that its own action answers, or that it found. -/
theorem elemAccess_wf {a b : Operand} {fmt need : Nat} {reads : Bool} {act : Nat → Nat → Nat → Option (Eff × Flow × State)} {k : Nat} {s : State}
    (h : memWf s.mem = true) (ha : ∀ addr n sh, ∀ r ∈ act addr n sh, memWf r.2.2.mem = true) :
    ∀ r ∈ elemAccess a b fmt need reads act k s, memWf r.2.2.mem = true := by
  unfold elemAccess
  simp only
  split
  · simp
  split
  · simp [h]
  split
  · simp [h]
  · exact ha _ _ _

theorem ldfEff_keeps (d a b : Operand) (m : BitVec 4) (k : Nat) : KeepsCc (ldfEff d a b m k) := by
  intro s h
  unfold ldfEff
  exact elemAccess_wf h (by simp [h])

theorem execLdf_wf (g : BitVec 16) (d a b : Operand) (m : BitVec 4) (s : State) (h : memWf s.mem = true) : CanonicalAfter (execLdf g d a b m s) :=
  runBoth_wf (onCtx_keeps fun k e c => requestEff_keeps 0xC2 d (some a) none m false k e c) (onCc_keeps fun k => ldfEff_keeps d a b m k) _ s h

theorem stfEff_keeps (v a b : Operand) (m : BitVec 4) (k : Nat) : KeepsCc (stfEff v a b m k) := by
  intro s h
  unfold stfEff
  exact elemAccess_wf h (by simp [State.store_wf, h])

theorem execStf_wf (g : BitVec 16) (d a b : Operand) (m : BitVec 4) (s : State) (h : memWf s.mem = true) : CanonicalAfter (execStf g d a b m s) :=
  runBoth_wf (onCtx_keeps fun k e c => requestEff_keeps 0xC3 d (storePos a) (some b) m false k e c) (onCc_keeps fun k => stfEff_keeps d a b m k) _ s h

theorem farEff_keeps (op : Nat) (d a b : Operand) (m : BitVec 4) (k : Nat) : KeepsCc (farEff op d a b m k) := by
  intro s h
  simp only [farEff]
  split
  · simp
  split
  · simp [h]
  split
  · simp
  · simp [h]

theorem tileAtomicEff_keeps (op : Nat) (d a b : Operand) (m : BitVec 4) (k : Nat) : KeepsCc (tileAtomicEff op d a b m k) := by
  intro s h
  unfold tileAtomicEff
  exact tileAccess_wf h (by simp [State.store_wf, h])

theorem atomicEff_keeps (i : Instr) (op : Nat) (d a b : Operand) (m : BitVec 4) (k : Nat) : KeepsCc (atomicEff i op d a b m k) := by
  intro s h
  unfold atomicEff
  split
  · split
    · exact farEff_keeps _ _ _ _ _ _ s h
    · simp [h]
  · exact tileAtomicEff_keeps _ _ _ _ _ _ s h

theorem runAtomic_wf (i : Instr) (op : Nat) (d a b : Operand) (m : BitVec 4) (s : State) (h : memWf s.mem = true) : CanonicalAfter (runAtomic i op d a b m s) := by
  have hr := runBoth_wf (onCtx_keeps fun k e c => requestEff_keeps op d (some a) (some b) m true k e c) (onCc_keeps fun k => atomicEff_keeps i op d a b m k) i s h
  unfold runAtomic
  simp only
  split
  · simp only [canonicalAfter_ite]
    split
    · simp [h]
    · exact hr
  · exact hr

theorem execFence_wf (g : BitVec 16) (d : Option Operand) (a : Operand) (s : State) (h : memWf s.mem = true) : CanonicalAfter (execFence g d a s) := by
  refine runBoth_wf (by simp [KeepsElem]) (onCc_keeps (eff := fun k s => if !s.allPerformed k then none else some ({}, .next, s)) fun k s h => ?_) _ s h
  dsimp only
  split <;> simp [h]

theorem execJoin_wf (g : BitVec 16) (d a b : Operand) (s : State) (h : memWf s.mem = true) : CanonicalAfter (execJoin g d a b s) :=
  runFabric_wf (by simp [KeepsElem]) _ s h
theorem execFork_wf (g : BitVec 16) (d a : Operand) (s : State) (h : memWf s.mem = true) : CanonicalAfter (execFork g d a s) :=
  runFabric_wf (by simp [KeepsElem]) _ s h

/-! ### CapInstr -/

theorem execCldc_wf (g : BitVec 16) (d a b : Operand) (s : State) (h : memWf s.mem = true) : CanonicalAfter (execCldc g d a b s) :=
  runControl_wf (fun _ _ h => tileAccess_wf h (by simp [h])) _ s h
theorem execCstc_wf (g : BitVec 16) (d a b : Operand) (s : State) (h : memWf s.mem = true) : CanonicalAfter (execCstc g d a b s) :=
  runControl_wf (fun _ _ h => tileAccess_wf h (by simp [State.storeCap_wf, h])) _ s h

/-! ### FlowOps -/

theorem jumpTo_wf (f : Eff) (t delay : Nat) (s s' : State) (h : memWf s.mem = true) (h' : memWf s'.mem = true) : memWf (jumpTo f t delay s s').2.2.mem = true := by
  unfold jumpTo
  split
  · exact h'
  · exact h

theorem execBr_wf (g : BitVec 16) (off : BitVec 36) (s : State) (h : memWf s.mem = true) : CanonicalAfter (execBr g off s) :=
  runControl_wf (fun _ s h => by simp [jumpTo_wf, h]) _ s h
theorem execJmp_wf (g : BitVec 16) (a : Operand) (s : State) (h : memWf s.mem = true) : CanonicalAfter (execJmp g a s) :=
  runControl_wf (fun _ s h => by simp [jumpTo_wf, h]) _ s h
theorem execJal_wf (g : BitVec 16) (d : Operand) (off : BitVec 24) (s : State) (h : memWf s.mem = true) : CanonicalAfter (execJal g d off s) :=
  runControl_wf (fun _ s h => by simp [jumpTo_wf, h]) _ s h
theorem execJalr_wf (g : BitVec 16) (d a : Operand) (s : State) (h : memWf s.mem = true) : CanonicalAfter (execJalr g d a s) :=
  runControl_wf (fun _ s h => by simp [jumpTo_wf, h]) _ s h
theorem execLoop_wf (g : BitVec 16) (d a : Operand) (s : State) (h : memWf s.mem = true) : CanonicalAfter (execLoop g d a s) :=
  runControl_wf (fun _ s h => by dsimp only; split <;> simp [jumpTo_wf, h]) _ s h
theorem execWaitp_wf (g : BitVec 16) (a : Operand) (s : State) (h : memWf s.mem = true) : CanonicalAfter (execWaitp g a s) :=
  runControl_wf (fun _ s h => by dsimp only; split <;> simp [h]) _ s h
theorem execHalt_wf (g : BitVec 16) (s : State) (h : memWf s.mem = true) : CanonicalAfter (execHalt g s) := runControl_wf (fun _ s h => by simp [h]) _ s h

/-! ### Xlate -/

@[simp] theorem State.putDpa_wf (s : State) (d : Nat) (v : List Byte) (h : memWf s.mem = true) : memWf (s.putDpa d v).mem = true := by
  have hm : ∀ o : Option Nat, memWf (match o with
      | some x => s.put x v
      | none => s).mem = true := by
    rintro (_ | x)
    · exact h
    · exact s.put_wf x v h
  unfold State.putDpa
  simp only
  split
  · exact State.put_wf _ _ _ (hm _)
  · exact hm _

@[simp] theorem State.storePlace_wf (s : State) (p : Place) (v : List Byte) (h : memWf s.mem = true) : memWf (s.storePlace p v).mem = true := by
  match p with
  | .remote _ _ => exact h
  | .loc x none => exact s.put_wf x v h
  | .loc _ (some a) => exact s.putDpa_wf a v h

@[simp] theorem State.writePlace_wf (s : State) (p : Place) (v : List Byte) (h : memWf s.mem = true) : memWf (s.writePlace p v).mem = true := by
  unfold State.writePlace
  split <;> exact State.storePlace_wf _ _ _ (by simpa using h)

/-! ### EngineInstr -/

theorem issued_wf (k : Nat) (s : State) (f : Eff) (s' : State) (h : memWf s'.mem = true) : ∀ r ∈ issued k s f s', memWf r.2.2.mem = true := by simp [issued, h]

theorem enqueue_keeps (k : Nat) (f : Eff) (banks : List Nat) (m : Cmd) : KeepsCc (enqueue k f banks m) := by
  intro s h
  unfold enqueue
  split <;> simp [h]

theorem blockCommand_keeps (op : Nat) (d a b : Operand) (m : BitVec 4) (rule : State → Nat → BlockWords → BlockRule)
    {more : State → Nat → BlockWords → Option (Nat × Nat × State)} (hm : ∀ s k w, ∀ r ∈ more s k w, r.2.2.mem = s.mem) (init : BlockWords → Cmd → Cmd) (k : Nat) :
    KeepsCc (blockCommand op d a b m rule more init k) := by
  intro s h
  unfold blockCommand
  simp only
  split
  · simp
  split
  · simp [h]
  split
  · simp [h]
  split
  · simp [h]
  split
  · next hr => simpa [← hm _ _ _ _ hr] using h
  · exact enqueue_keeps _ _ _ _ s h

theorem execDma_wf (g : BitVec 16) (d a b : Operand) (m : BitVec 4) (s : State) (h : memWf s.mem = true) : CanonicalAfter (execDma g d a b m s) :=
  runControl_wf (fun _ => blockCommand_keeps _ _ _ _ _ _ (by simp) _ _) _ s h
theorem execDmas_wf (g : BitVec 16) (d a b : Operand) (m : BitVec 4) (s : State) (h : memWf s.mem = true) : CanonicalAfter (execDmas g d a b m s) :=
  runControl_wf (fun _ => blockCommand_keeps _ _ _ _ _ _ fifoCheck_mem _ _) _ s h
theorem execGath_wf (g : BitVec 16) (d a b : Operand) (m : BitVec 4) (s : State) (h : memWf s.mem = true) : CanonicalAfter (execGath g d a b m s) :=
  runControl_wf (fun _ => blockCommand_keeps _ _ _ _ _ _ (by simp) _ _) _ s h
theorem execScat_wf (g : BitVec 16) (d a b : Operand) (m : BitVec 4) (s : State) (h : memWf s.mem = true) : CanonicalAfter (execScat g d a b m s) :=
  runControl_wf (fun _ => blockCommand_keeps _ _ _ _ _ _ (by simp) _ _) _ s h
theorem execStage_wf (g : BitVec 16) (d a b : Operand) (m : BitVec 4) (s : State) (h : memWf s.mem = true) : CanonicalAfter (execStage g d a b m s) :=
  runControl_wf (fun _ => blockCommand_keeps _ _ _ _ _ _ (by simp) _ _) _ s h
theorem execColl_wf (g : BitVec 16) (d a b : Operand) (m : BitVec 4) (s : State) (h : memWf s.mem = true) : CanonicalAfter (execColl g d a b m s) :=
  runControl_wf (fun _ => blockCommand_keeps _ _ _ _ _ _ (by simp) _ _) _ s h

theorem msgEff_keeps (d a b : Operand) (m : BitVec 4) (k : Nat) : KeepsCc (msgEff d a b m k) := by
  intro s h
  unfold msgEff
  simp only
  split
  · simp
  split
  · simp [h]
  split
  · simp [h]
  split
  · simp [h]
  · exact enqueue_keeps _ _ _ _ s h

theorem execMsg_wf (g : BitVec 16) (d a b : Operand) (m : BitVec 4) (s : State) (h : memWf s.mem = true) : CanonicalAfter (execMsg g d a b m s) :=
  runControl_wf (fun k => msgEff_keeps d a b m k) _ s h

theorem mrecvEff_keeps (d a b : Operand) (m : BitVec 4) (k : Nat) : KeepsCc (mrecvEff d a b m k) := by
  intro s h
  unfold mrecvEff
  simp only
  split
  · simp
  split
  · simp [h]
  · exact enqueue_keeps _ _ _ _ s h

theorem execMrecv_wf (g : BitVec 16) (d a b : Operand) (m : BitVec 4) (s : State) (h : memWf s.mem = true) : CanonicalAfter (execMrecv g d a b m s) :=
  runControl_wf (fun k => mrecvEff_keeps d a b m k) _ s h

theorem execBankt_wf (g : BitVec 16) (a b : Operand) (s : State) (h : memWf s.mem = true) : CanonicalAfter (execBankt g a b s) := by
  refine runControl_wf (fun k s h => ?_) _ s h
  dsimp only
  split
  · simp
  split
  · simp [h]
  · exact issued_wf _ _ _ _ (by simp [h])

theorem launchEff_keeps (d a b : Operand) (m : BitVec 4) (k : Nat) : KeepsCc (launchEff d a b m k) := by
  intro s h
  unfold launchEff
  simp only
  split
  · simp
  split
  · simp [h]
  split
  · simp [h]
  · exact enqueue_keeps _ _ _ _ s h

theorem execLaunch_wf (g : BitVec 16) (d a b : Operand) (m : BitVec 4) (s : State) (h : memWf s.mem = true) : CanonicalAfter (execLaunch g d a b m s) :=
  runControl_wf (fun k => launchEff_keeps d a b m k) _ s h

theorem gbarEff_keeps (n k : Nat) : KeepsCc (gbarEff n k) := by
  intro s h
  unfold gbarEff
  split
  · simp
  split
  · exact issued_wf _ _ _ _ h
  simp only
  split
  · exact issued_wf _ _ _ _ (by simp [h])
  · simp [h]

theorem execGbar_wf (g : BitVec 16) (a : Operand) (s : State) (h : memWf s.mem = true) : CanonicalAfter (execGbar g a s) :=
  runControl_wf (fun _ s h => gbarEff_keeps _ _ s h) _ s h

theorem execQwait_wf (g : BitVec 16) (d a b : Operand) (s : State) (h : memWf s.mem = true) : CanonicalAfter (execQwait g d a b s) := by
  refine runControl_wf (fun k s h => ?_) _ s h
  dsimp only
  split
  · simp
  split
  · simp [h]
  · exact enqueue_keeps _ _ _ _ s h

theorem execEpoll_wf (g : BitVec 16) (d a : Operand) (s : State) (h : memWf s.mem = true) : CanonicalAfter (execEpoll g d a s) :=
  runControl_wf (fun _ _ h => issued_wf _ _ _ _ h) _ s h

@[simp] theorem State.endRow_wf (s : State) (k id : Nat) (h : memWf s.mem = true) : memWf (s.endRow k id).mem = true := by
  unfold State.endRow
  split
  · simp only
    split
    · exact State.put_wf _ _ _ (by simp [h])
    · exact h
  · exact h

@[simp] theorem State.endCmd_wf (s : State) (k id st : Nat) (h : memWf s.mem = true) : memWf (s.endCmd k id st).mem = true := by
  simp [State.endCmd, State.endRow_wf, h]
theorem execEcancel_wf (g : BitVec 16) (a : Operand) (s : State) (h : memWf s.mem = true) : CanonicalAfter (execEcancel g a s) :=
  runControl_wf (fun _ s h => issued_wf _ _ _ _ (by rwa [foldl_mem fun _ _ => State.after_mem ..])) _ s h

/-! ### SystemOps -/

theorem execTrap_wf (g : BitVec 16) (a b : Operand) (s : State) (h : memWf s.mem = true) : CanonicalAfter (execTrap g a b s) :=
  runControl_wf (fun _ s h => by simp [h]) _ s h
theorem execEret_wf (g : BitVec 16) (s : State) (h : memWf s.mem = true) : CanonicalAfter (execEret g s) :=
  runControl_wf (fun _ s h => by dsimp only; split_ifs <;> simp [h]) _ s h
theorem execSrd_wf (g : BitVec 16) (d a : Operand) (s : State) (h : memWf s.mem = true) : CanonicalAfter (execSrd g d a s) :=
  runControl_wf (fun _ s h => by split <;> simp [h]) _ s h
theorem execSwr_wf (g : BitVec 16) (d a : Operand) (s : State) (h : memWf s.mem = true) : CanonicalAfter (execSwr g d a s) :=
  runControl_wf (fun _ s h => by split <;> simp [h]) _ s h
theorem execCfence_wf (g : BitVec 16) (s : State) (h : memWf s.mem = true) : CanonicalAfter (execCfence g s) := runControl_wf (fun _ s h => by simp [h]) _ s h
theorem execWfe_wf (g : BitVec 16) (d a b : Operand) (s : State) (h : memWf s.mem = true) : CanonicalAfter (execWfe g d a b s) :=
  runControl_wf (fun _ s h => by dsimp only; split <;> simp [h]) _ s h
theorem execBkpt_wf (g : BitVec 16) (a : Operand) (s : State) (h : memWf s.mem = true) : CanonicalAfter (execBkpt g a s) :=
  runControl_wf (fun _ s h => by dsimp only; split <;> simp [h]) _ s h

/-! ### Records -/

@[simp] theorem State.writeRing_wf (s : State) (die p a : Nat) (b : List Byte) (h : memWf s.mem = true) : memWf (s.writeRing die p a b).2.mem = true := by
  unfold State.writeRing
  split <;> next hp => simp [State.writePlace_wf, mem_of_call hp (State.place_mem ..), h]

@[simp] theorem State.writeEvent_wf (s : State) (r : EventRec) (h : memWf s.mem = true) : memWf (s.writeEvent r).2.mem = true := by
  unfold State.writeEvent
  simp only
  split
  · exact h
  split <;> next hr => simp [wf_of_call hr (State.writeRing_wf _ _ _ _ _ h)]

@[simp] theorem State.writeLost_wf (s : State) (p : Nat) (h : memWf s.mem = true) : memWf (s.writeLost p).mem = true := by
  unfold State.writeLost
  simp only
  split
  · exact h
  split <;> next hr => simp [wf_of_call hr (State.writeEvent_wf _ _ h)]

@[simp] theorem State.deliverRecord_wf (s : State) (r : EventRec) (h : memWf s.mem = true) : memWf (s.deliverRecord r).mem = true := by
  unfold State.deliverRecord
  split <;> next hr => simp [wf_of_call hr (State.writeEvent_wf _ _ (s.writeLost_wf r.part h))]

@[simp] theorem State.deliver_wf (s : State) (r : EventRec) (h : memWf s.mem = true) : memWf (s.deliver r).mem = true := by simp [State.deliver, State.deliverRecord_wf, h]

@[simp] theorem State.writeTrace_wf (s : State) (p w arg0 arg1 die : Nat) (h : memWf s.mem = true) : memWf (s.writeTrace p w arg0 arg1 die).2.mem = true := by
  unfold State.writeTrace
  simp only
  split
  · exact h
  split <;> next hr => simp [wf_of_call hr (State.writeRing_wf _ _ _ _ _ h)]

@[simp] theorem State.deliverTrace_wf (s : State) (r : TraceRec) (h : memWf s.mem = true) : memWf (s.deliverTrace r).mem = true := by
  unfold State.deliverTrace
  split
  · exact h
  next p _ =>
  have hl (u : Bool × State) (hu : memWf u.2.mem = true) : memWf (match u with
      | (true, s) => s.modPart p fun x => { x with trDrop := 0 }
      | (false, s) => s).mem = true := by
    rcases u with ⟨_ | _, t⟩ <;> exact hu
  simp only
  split <;> next hr =>
    have := wf_of_call hr (State.writeTrace_wf _ _ _ _ _ _ (by split; exact h; exact hl _ (State.writeTrace_wf _ _ _ _ _ _ h)))
    simpa using this

@[simp] theorem State.flush_wf (s : State) (h : memWf s.mem = true) : memWf s.flush.mem = true := by
  simp only [State.flush]
  rw [foldl_mem State.wake_mem]
  exact foldl_wf State.deliverTrace_wf _ _ (foldl_wf State.deliver_wf _ _ h)

theorem execIrqTimer_wf (f : Nat) (s : State) (h : memWf s.mem = true) : CanonicalAfter (execIrqTimer f s) := by
  simp only [execIrqTimer]
  split <;> simp [h]

/-! ### Power -/

theorem leaseEff_wf (d a b : Operand) (k : Nat) (s : State) (h : memWf s.mem = true) : memWf (leaseEff d a b k s).2.mem = true := by
  unfold leaseEff
  split <;> simp [h]

theorem execLease_wf (g : BitVec 16) (d a b : Operand) (s : State) (h : memWf s.mem = true) : CanonicalAfter (execLease g d a b s) :=
  runControl_wf (fun _ s h => by simp [leaseEff_wf, h]) _ s h
theorem execLrel_wf (g : BitVec 16) (s : State) (h : memWf s.mem = true) : CanonicalAfter (execLrel g s) :=
  runControl_wf (fun k s h => by cases (s.core k).part <;> simp [h]) _ s h
theorem execPwrq_wf (g : BitVec 16) (d a b : Operand) (s : State) (h : memWf s.mem = true) : CanonicalAfter (execPwrq g d a b s) :=
  runControl_wf (fun _ s h => by simp [h]) _ s h
theorem execTstamp_wf (g : BitVec 16) (d : Operand) (s : State) (h : memWf s.mem = true) : CanonicalAfter (execTstamp g d s) :=
  runControl_wf (fun _ s h => by simp [h]) _ s h
theorem execMark_wf (g : BitVec 16) (a b : Operand) (s : State) (h : memWf s.mem = true) : CanonicalAfter (execMark g a b s) :=
  runControl_wf (fun _ s h => by simp [h]) _ s h

theorem dstopEff_wf (d a : Operand) (k : Nat) (s : State) (h : memWf s.mem = true) : memWf (dstopEff d a k s).2.mem = true := by
  simp only [dstopEff]
  split <;> simp [h]

theorem execDstop_wf (g : BitVec 16) (d a : Operand) (s : State) (h : memWf s.mem = true) : CanonicalAfter (execDstop g d a s) :=
  runControl_wf (fun _ s h => by simp [dstopEff_wf, h]) _ s h

theorem scantEff_wf (d a : Operand) (k : Nat) (s : State) (h : memWf s.mem = true) : ∀ r ∈ scantEff d a k s, memWf r.2.2.mem = true := by
  simp only [scantEff]
  split
  · simp
  split
  · simp [h]
  split <;> simp [h]

theorem execScant_wf (g : BitVec 16) (d a : Operand) (s : State) (h : memWf s.mem = true) : CanonicalAfter (execScant g d a s) :=
  runControl_wf (fun k s h => scantEff_wf d a k s h) _ s h
theorem execScanq_wf (g : BitVec 16) (d a : Operand) (s : State) (h : memWf s.mem = true) : CanonicalAfter (execScanq g d a s) :=
  runControl_wf (fun _ s h => by simp [h]) _ s h

theorem lcmapEff_wf (d a b : Operand) (k : Nat) (s : State) (h : memWf s.mem = true) : ∀ r ∈ lcmapEff d a b k s, memWf r.2.2.mem = true := by
  simp only [lcmapEff]
  split
  · simp [h]
  split
  · split <;> simp [h]
  · simp [h]

theorem execLcmap_wf (g : BitVec 16) (d a b : Operand) (s : State) (h : memWf s.mem = true) : CanonicalAfter (execLcmap g d a b s) :=
  runControl_wf (fun k s h => lcmapEff_wf d a b k s h) _ s h

/-! ### TokenOps -/

theorem execEmit_wf (g : BitVec 16) (d a : Operand) (b : Option Operand) (s : State) (h : memWf s.mem = true) : CanonicalAfter (execEmit g d a b s) :=
  runFabric_wf (by simp [KeepsElem]) _ s h
theorem execCtok_wf (g : BitVec 16) (d a : Operand) (b : Option Operand) (s : State) (h : memWf s.mem = true) : CanonicalAfter (execCtok g d a b s) :=
  runFabric_wf (by simp [KeepsElem]) _ s h
theorem execDeq_wf (g : BitVec 16) (a : Operand) (s : State) (h : memWf s.mem = true) : CanonicalAfter (execDeq g a s) :=
  runFabric_wf (by simp [KeepsElem]) _ s h
theorem execPeekk_wf (g : BitVec 16) (d a : Operand) (s : State) (h : memWf s.mem = true) : CanonicalAfter (execPeekk g d a s) :=
  runFabric_wf (by simp [KeepsElem]) _ s h
theorem execPass_wf (g : BitVec 16) (d a : Operand) (s : State) (h : memWf s.mem = true) : CanonicalAfter (execPass g d a s) :=
  runFabric_wf (by simp [KeepsElem]) _ s h
theorem execRetire_wf (g : BitVec 16) (x : Bool) (s : State) (h : memWf s.mem = true) : CanonicalAfter (execRetire g x s) :=
  runFabric_wf (fun _ _ _ s h => by split <;> simp [h]) _ s h

theorem exitEff_wf (a : Operand) (b : Option Operand) (nv : BitVec 3) (k e c : Nat) (s : State) (h : memWf s.mem = true) : ∀ r ∈ exitEff a b nv k e c s, memWf r.2.mem = true := by
  simp only [exitEff]
  split
  · simp
  split
  · simp
  split <;> simp [h]

theorem execExit_wf (g : BitVec 16) (a : Operand) (b : Option Operand) (nv : BitVec 3) (s : State) (h : memWf s.mem = true) : CanonicalAfter (execExit g a b nv s) :=
  runFabric_wf (fun k e c s h => exitEff_wf a b nv k e c s h) _ s h

theorem eowEff_wf (d : Option Operand) (a : Operand) (k e c : Nat) (s : State) (h : memWf s.mem = true) : ∀ r ∈ eowEff d a k e c s, memWf r.2.mem = true := by
  simp only [eowEff]
  split
  · split
    · split
      · split <;> split <;> simp [h]
      · simp
    · simp
  · simp

theorem execEow_wf (g : BitVec 16) (d : Option Operand) (a : Operand) (s : State) (h : memWf s.mem = true) : CanonicalAfter (execEow g d a s) :=
  runFabric_wf (fun k e c s h => eowEff_wf d a k e c s h) _ s h
theorem execTidx_wf (g : BitVec 16) (d a b : Operand) (s : State) (h : memWf s.mem = true) : CanonicalAfter (execTidx g d a b s) :=
  runFabric_wf (by simp [KeepsElem]) _ s h
theorem execIdle_wf (g : BitVec 16) (a : Operand) (s : State) (h : memWf s.mem = true) : CanonicalAfter (execIdle g a s) :=
  runFabric_wf (by simp [KeepsElem]) _ s h

/-! ### EvCore -/

@[simp] theorem State.sendWrap_wf (s : State) (k e : Nat) (payload : Word64) (w : Nat) (h : memWf s.mem = true) : memWf (s.sendWrap k e payload w).mem = true := by
  unfold State.sendWrap
  split
  · exact h
  · simp [State.store_wf, h]

@[simp] theorem State.appendRecord_wf (s : State) (k rn b : Nat) (ws : List Word64) (h : memWf s.mem = true) : memWf (s.appendRecord k rn b ws).mem = true := by
  unfold State.appendRecord
  split
  · exact h
  · simp [State.put_wf, h]

@[simp] theorem State.placeOut_wf (s : State) (k e c : Nat) (f : Flight) (o : Out) (h : memWf s.mem = true) : memWf (s.placeOut k e c f o).mem = true := by
  cases o with
  | record b ws =>
    simp only [State.placeOut]
    split
    · simp [State.appendRecord_wf, h]
    · exact h
  | token | ctok | pass => simp [State.placeOut, State.sendWrap_wf, h]
  | request | store => simp [State.placeOut, h]

@[simp] theorem State.landElem_wf (s : State) (k e c : Nat) (f : Flight) (h : memWf s.mem = true) : memWf (s.landElem k e c f).mem = true := by
  have hp (l : List Out) (t : State) (ht : memWf t.mem = true) : memWf (l.foldl (fun s o => s.placeOut k e c f o) t).mem = true :=
    foldl_wf (fun s o h => s.placeOut_wf k e c f o h) l t ht
  simp only [State.landElem]
  split
  · simpa using hp _ _ (by simpa using h)
  · exact hp _ _ (by simpa using h)

theorem execWriteBack_wf (x : Site) (id : Nat) (s : State) (h : memWf s.mem = true) : CanonicalAfter (execWriteBack x id s) := by
  simp only [execWriteBack]
  split
  · simp [h]
  split
  · simp [h]
  split <;> simp [h]

theorem execTrapEntry_wf (k : Nat) (s : State) (h : memWf s.mem = true) : CanonicalAfter (execTrapEntry k s) := by
  unfold execTrapEntry
  split <;> simp [h]

theorem execAsynchronousTrap_wf (k : Nat) (s : State) (h : memWf s.mem = true) : CanonicalAfter (execAsynchronousTrap k s) := by
  unfold execAsynchronousTrap
  split <;> simp [h]

theorem execInstructionCacheFill_wf (k : Nat) (s : State) (h : memWf s.mem = true) : CanonicalAfter (execInstructionCacheFill k s) := by
  unfold execInstructionCacheFill
  rw [canonicalAfter_next]
  split
  · exact h
  simp only
  split <;> next hf =>
    rw [foldl_mem (by simp), mem_of_call hf (State.fetch_mem ..)]
    exact h

theorem execWfeTimeout_wf (k : Nat) (s : State) (h : memWf s.mem = true) : CanonicalAfter (execWfeTimeout k s) := by
  unfold execWfeTimeout
  split <;> simp [h]

/-! ### Matrix -/

theorem mmacEff_wf (f : LFmt) (src : MmacSrc) (b : Operand) (k e c : Nat) (s : State) (h : memWf s.mem = true) : ∀ r ∈ mmacEff f src b k e c s, memWf r.2.mem = true := by
  simp only [mmacEff]
  split
  · simp
  split
  · simp
  split
  · split <;> simp [h]
  split
  · simp
  split <;> simp [h]

theorem execMmac_wf (g : BitVec 16) (src : MmacSrc) (b : Operand) (s : State) (h : memWf s.mem = true) : CanonicalAfter (execMmac g src b s) :=
  runFabric_wf (fun k e c s h => mmacEff_wf _ src b k e c s h) _ s h
theorem execMmac8_wf (g : BitVec 16) (src : MmacSrc) (b : Operand) (s : State) (h : memWf s.mem = true) : CanonicalAfter (execMmac8 g src b s) :=
  runFabric_wf (fun k e c s h => mmacEff_wf _ src b k e c s h) _ s h
theorem execMmac12_wf (g : BitVec 16) (src : MmacSrc) (b : Operand) (s : State) (h : memWf s.mem = true) : CanonicalAfter (execMmac12 g src b s) :=
  runFabric_wf (fun k e c s h => mmacEff_wf _ src b k e c s h) _ s h

theorem mmacwEff_wf (q : BitVec 2) (k e c : Nat) (s : State) (h : memWf s.mem = true) : ∀ r ∈ mmacwEff q k e c s, memWf r.2.mem = true := by
  simp only [mmacwEff]
  split
  · simp
  split <;> simp [h]

theorem execMmacw_wf (g : BitVec 16) (q : BitVec 2) (s : State) (h : memWf s.mem = true) : CanonicalAfter (execMmacw g q s) :=
  runFabric_wf (fun k e c s h => mmacwEff_wf q k e c s h) _ s h
theorem execMzero_wf (g : BitVec 16) (a : Operand) (s : State) (h : memWf s.mem = true) : CanonicalAfter (execMzero g a s) :=
  runFabric_wf (fun _ _ _ s h => by split <;> simp [h]) _ s h
theorem execMnorm_wf (g : BitVec 16) (a : Option Operand) (s : State) (h : memWf s.mem = true) : CanonicalAfter (execMnorm g a s) :=
  runFabric_wf (fun _ _ _ s h => by cases a <;> (split <;> simp [h])) _ s h
theorem execMdown_wf (g : BitVec 16) (f : LFmt) (s : State) (h : memWf s.mem = true) : CanonicalAfter (execMdown g f s) :=
  runFabric_wf (fun _ _ _ s h => by split <;> simp [h]) _ s h

theorem execMread_wf (g : BitVec 16) (d a b : Operand) (m : Rounding) (s : State) (h : memWf s.mem = true) : CanonicalAfter (execMread g d a b m s) := by
  refine runFabric_wf (fun k e _ s h => ?_) _ s h
  simp only
  generalize 8 * _ + (s.src b).ownZ % 8 = i
  split <;> simp [h]

theorem execMxget_wf (g : BitVec 16) (d a : Operand) (s : State) (h : memWf s.mem = true) : CanonicalAfter (execMxget g d a s) :=
  runFabric_wf (by simp [KeepsElem]) _ s h

theorem mtaskEff_wf (d : Option Operand) (a b : Operand) (p : BitVec 2) (k e c : Nat) (s : State) (h : memWf s.mem = true) : ∀ r ∈ mtaskEff d a b p k e c s, memWf r.2.mem = true := by
  simp only [mtaskEff]
  split
  · split <;> simp [h]
  · simp

theorem execMtask_wf (g : BitVec 16) (d : Option Operand) (a b : Operand) (p : BitVec 2) (s : State) (h : memWf s.mem = true) : CanonicalAfter (execMtask g d a b p s) :=
  runFabric_wf (fun k e c s h => mtaskEff_wf d a b p k e c s h) _ s h
theorem execMpois_wf (g : BitVec 16) (a : Operand) (x : Bool) (s : State) (h : memWf s.mem = true) : CanonicalAfter (execMpois g a x s) :=
  runFabric_wf (fun _ _ _ s h => by split <;> simp [h]) _ s h

/-! ### Fabric -/

theorem execTokenTransfer_wf (k net link : Nat) (s : State) (h : memWf s.mem = true) : CanonicalAfter (execTokenTransfer k net link s) := by
  unfold execTokenTransfer
  split <;> simp [h]

theorem execBusPacketDiscard_wf (k : Nat) (col : Bool) (bus : Nat) (s : State) (h : memWf s.mem = true) : CanonicalAfter (execBusPacketDiscard k col bus s) := by simp [execBusPacketDiscard, h]
theorem execFillerFiring_wf (k e : Nat) (s : State) (h : memWf s.mem = true) : CanonicalAfter (execFillerFiring k e s) := by simp [execFillerFiring, h]

@[simp] theorem State.takeLeast_wf (s : State) (k rn b n : Nat) (h : memWf s.mem = true) : memWf (s.takeLeast k rn b n).2.mem = true := by
  unfold State.takeLeast
  split
  · exact h
  · exact foldl_wf (fun s w h => s.appendRecord_wf k rn b w h) _ _ (by simp [h])

@[simp] theorem State.beginPass_wf (s : State) (k rn : Nat) (r : Region) (b : Nat) (same : Bool) (h : memWf s.mem = true) : memWf (s.beginPass k rn r b same).mem = true := by
  simp only [State.beginPass, State.modRegion_mem]
  split
  · exact s.takeLeast_wf k rn b _ h
  · simpa using h

theorem execPassStart_wf (k rn : Nat) (s : State) (h : memWf s.mem = true) : CanonicalAfter (execPassStart k rn s) := by
  simp only [execPassStart]
  split
  · simp [h]
  split
  · simp [h]
  split
  · simp [h]
  split
  · simp [h]
  split
  · simp [h]
  split <;> simp [h]

theorem execEntryTokenSend_wf (k rn : Nat) (s : State) (h : memWf s.mem = true) : CanonicalAfter (execEntryTokenSend k rn s) := by
  simp only [execEntryTokenSend]
  split
  · simp [h]
  split
  · simp [h]
  split
  · simp [h]
  split <;> simp [h]

theorem execPickLoad_wf (k rn row pick : Nat) (s : State) (h : memWf s.mem = true) : CanonicalAfter (execPickLoad k rn row pick s) := by
  unfold execPickLoad
  rw [canonicalAfter_next]
  split
  · exact h
  split
  · exact h
  split
  · split
    · exact h
    simp only
    split <;> next hl => simp [mem_of_call hl (State.loadPick_mem ..), h]
  · exact h

theorem execRestoreComplete_wf (k rn row : Nat) (s : State) (h : memWf s.mem = true) : CanonicalAfter (execRestoreComplete k rn row s) := by
  unfold execRestoreComplete
  rw [canonicalAfter_next]
  split
  · exact h
  simp only
  split
  · exact h
  split
  · simp [h]
  · next hr => simp [State.restoreElems_mem _ _ _ _ _ _ _ hr, h]

theorem execEviction_wf (k rn row : Nat) (s : State) (h : memWf s.mem = true) : CanonicalAfter (execEviction k rn row s) := by
  simp only [execEviction]
  split
  · simp [h]
  split
  · simp [h]
  split <;> simp [h]

theorem execSpillComplete_wf (k rn row : Nat) (s : State) (h : memWf s.mem = true) : CanonicalAfter (execSpillComplete k rn row s) := by
  unfold execSpillComplete
  rw [canonicalAfter_next]
  split
  · exact h
  · simp only
    split <;> simp [State.put_wf, h]

theorem execWrapDelivery_wf (k rn : Nat) (s : State) (h : memWf s.mem = true) : CanonicalAfter (execWrapDelivery k rn s) := by
  unfold execWrapDelivery
  split <;> simp [h]

theorem execWrapOverflow_wf (k rn e : Nat) (s : State) (h : memWf s.mem = true) : CanonicalAfter (execWrapOverflow k rn e s) := by
  unfold execWrapOverflow
  split <;> simp [h]

theorem execInitialRecordAppend_wf (k rn : Nat) (s : State) (h : memWf s.mem = true) : CanonicalAfter (execInitialRecordAppend k rn s) := by
  simp only [execInitialRecordAppend]
  split
  · simp [h]
  split <;> simp [h]

/-! ### NodeEv -/

@[simp] theorem State.serveLines_wf (k rn : Nat) (op : List Nat) {put : Nat → State → State} (hp : ∀ l t, memWf t.mem = true → memWf (put l t).mem = true) (ls : List Nat)
    (held : List (Nat × List Byte)) (s : State) (h : memWf s.mem = true) : memWf (State.serveLines k rn op put ls held s).2.mem = true := by
  induction ls generalizing held s with
  | nil => exact h
  | cons l r ih =>
    unfold State.serveLines
    split
    · exact ih _ _ h
    · exact ih _ _ (hp _ _ (by simp [h]))

@[simp] theorem State.putPart_wf (s : State) (k : Nat) (x : Stream) (p v l : Nat) (h : memWf s.mem = true) : memWf (s.putPart k x p v l).mem = true := State.store_wf _ _ _ _ h
@[simp] theorem State.putCode_wf (s : State) (k : Nat) (x : Stream) (p v : Nat) (h : memWf s.mem = true) : memWf (s.putCode k x p v).mem = true := State.store_wf _ _ _ _ h

/-- The state that a cycle of an access leaves. -/
def Served.state : Served → State
  | .fault _ _ s => s
  | .part _ _ s => s

@[simp] theorem State.serveAccess_wf (s : State) (k n i rn p need : Nat) (reads : Bool) (val : Option Nat) (op : List Nat) (held : List (Nat × List Byte))
    (h : memWf s.mem = true) : memWf (s.serveAccess k n i rn p need reads val op held).state.mem = true := by
  unfold State.serveAccess
  simp only
  split
  · exact h
  split
  · exact State.serveLines_wf _ _ _ (fun _ _ h => h) _ _ _ h
  · refine State.serveLines_wf _ _ _ (fun l t ht => ?_) _ _ _ h
    split
    · exact t.putPart_wf _ _ _ _ _ ht
    · exact ht

@[simp] theorem State.serveUpdate_wf (s : State) (k n i rn p : Nat) (h : memWf s.mem = true) : memWf (s.serveUpdate k n i rn p).state.mem = true := by
  unfold State.serveUpdate
  simp only
  split
  · exact h
  split
  · exact h
  split <;> simpa [Served.state] using h

theorem wf_of_fault {x : Served} {c : Nat} {u : Option Nat} {s : State} (h : x = .fault c u s) (hx : memWf x.state.mem = true) : memWf s.mem = true := by
  subst h; exact hx

theorem wf_of_part {x : Served} {held : List (Nat × List Byte)} {all : Bool} {s : State} (h : x = .part held all s) (hx : memWf x.state.mem = true) :
    memWf s.mem = true := by
  subst h; exact hx

@[simp] theorem State.gather_wf (s : State) (k n i rn : Nat) (old held : List (Nat × List Byte)) (f : Nat) (h : memWf s.mem = true) :
    memWf (s.gather k n i rn old held f).mem = true := by
  induction f generalizing s old held with
  | zero => exact h
  | succ f ih =>
    have ha := s.serveAccess_wf k n i rn (s.stream k n i).pos pRD true none [] held h
    unfold State.gather
    refine ite_wf h ?_
    split
    · next hs => simp [wf_of_fault hs ha]
    · next hs => simp [wf_of_part hs ha]
    · next hs => exact ite_wf (by simp [wf_of_part hs ha]) (ih _ _ _ (by simp [wf_of_part hs ha]))

theorem execStreamRead_wf (k n i : Nat) (s : State) (h : memWf s.mem = true) : CanonicalAfter (execStreamRead k n i s) := by
  unfold execStreamRead
  split <;> simp [h]

@[simp] theorem State.serveRequest_wf (s : State) (k n i : Nat) (h : memWf s.mem = true) : memWf (s.serveRequest k n i).mem = true := by
  have ha (b : Bool) (k n i rn p need : Nat) (reads : Bool) (val : Option Nat) (op : List Nat) (held : List (Nat × List Byte)) :
      memWf (if b then s.serveUpdate k n i rn p else s.serveAccess k n i rn p need reads val op held).state.mem = true := by
    cases b
    · exact s.serveAccess_wf _ _ _ _ _ _ _ _ _ _ h
    · exact s.serveUpdate_wf _ _ _ _ _ h
  unfold State.serveRequest
  split
  · refine ite_wf h ?_
    simp only
    split
    · next hs => simp [wf_of_fault hs (ha _ _ _ _ _ _ _ _ _ _ _)]
    · next hs => simp [wf_of_part hs (ha _ _ _ _ _ _ _ _ _ _ _)]
    · next hs => simp [wf_of_part hs (ha _ _ _ _ _ _ _ _ _ _ _)]
  · exact h

theorem execNodeRequest_wf (k n i : Nat) (s : State) (h : memWf s.mem = true) : CanonicalAfter (execNodeRequest k n i s) := by
  unfold execNodeRequest
  split <;> simp [h]

@[simp] theorem State.writeElems_wf (s : State) (k n i rn : Nat) (q : NodeReq) (op : List Nat) (old : List (Nat × List Byte)) (f : Nat) (h : memWf s.mem = true) :
    memWf (s.writeElems k n i rn q op old f).mem = true := by
  induction f generalizing s op old with
  | zero => exact h
  | succ f ih =>
    unfold State.writeElems
    simp only
    split
    · next hs => simp [wf_of_fault hs (State.serveAccess_wf _ _ _ _ _ _ _ _ _ _ _ h)]
    · next hs => simp [wf_of_part hs (State.serveAccess_wf _ _ _ _ _ _ _ _ _ _ _ h)]
    · next hs =>
      have ha := wf_of_part hs (State.serveAccess_wf _ _ _ _ _ _ _ _ _ _ _ h)
      exact ite_wf (by simp [ha]) (ih _ _ _ (by simp [ha]))

@[simp] theorem State.serveWrite_wf (s : State) (k n i : Nat) (h : memWf s.mem = true) : memWf (s.serveWrite k n i).mem = true := by
  unfold State.serveWrite
  split
  · simp only
    split
    · exact h
    split
    · simp [h]
    · exact State.writeElems_wf _ _ _ _ _ _ _ _ _ h
  · exact h

theorem execStreamWrite_wf (k n i : Nat) (s : State) (h : memWf s.mem = true) : CanonicalAfter (execStreamWrite k n i s) := by
  unfold execStreamWrite
  split <;> simp [h]

theorem execStreamRetry_wf (k n i : Nat) (s : State) (h : memWf s.mem = true) : CanonicalAfter (execStreamRetry k n i s) := by
  simp only [execStreamRetry]
  split
  · simp [h]
  split
  · simp [h]
  split <;> simp [h]

/-! ### Engines -/

@[simp] theorem State.writeOrPark_wf (s : State) (k id space : Nat) (p : Place) (v : List Byte) (h : memWf s.mem = true) : memWf (s.writeOrPark k id space p v).mem = true := by
  unfold State.writeOrPark
  split
  · exact h
  · exact s.writePlace_wf p v h

@[simp] theorem State.writeAtoms_wf (s : State) (k id space : Nat) (l : List (Place × Nat)) (v : List Byte) (h : memWf s.mem = true) :
    memWf (s.writeAtoms k id space l v).mem = true := by
  induction l generalizing s v with
  | nil => exact h
  | cons x r ih => exact ih _ _ (s.writeOrPark_wf k id space x.1 _ h)

@[simp] theorem State.writeSpace_wf (s : State) (cache k part space id a : Nat) (v : List Byte) (h : memWf s.mem = true) :
    memWf (s.writeSpace cache k part space id a v).2.mem = true := by
  unfold State.writeSpace
  split <;> next hp => simp [mem_of_call hp (State.atomPlaces_mem ..), h]

@[simp] theorem State.cmdWrite_wf (s : State) (k id sp a : Nat) (v : List Byte) (h : memWf s.mem = true) : memWf (s.cmdWrite k id sp a v).2.mem = true := by
  have hw := s.writeSpace_wf (dieOf k) k (s.partOf k) sp id a v h
  unfold State.cmdWrite
  split
  · next he => simp [wf_of_call he hw]
  · exact hw

@[simp] theorem State.writeUnit_wf (s : State) (k f a : Nat) (l : List Nat) (h : memWf s.mem = true) : memWf (s.writeUnit k f a l).2.mem = true := by
  induction f generalizing s a l with
  | zero => exact h
  | succ f ih =>
    unfold State.writeUnit
    simp only
    split
    · exact h
    · exact ih _ _ _ (State.put_wf _ _ _ (by simp [h]))

@[simp] theorem State.copyAtom_wf (s : State) (k id sp0 a sp1 b n : Nat) (h : memWf s.mem = true) : memWf (s.copyAtom k id sp0 a sp1 b n).2.mem = true := by
  unfold State.copyAtom
  split <;> next hr =>
    have hs := mem_of_call hr (State.readUnit_mem ..)
    simp [hs, h]

@[simp] theorem State.dmaStep_wf (s : State) (k : Nat) (m : Cmd) (h : memWf s.mem = true) : memWf (s.dmaStep k m).mem = true := by
  unfold State.dmaStep
  split
  · simp [h]
  split <;> next hc => simp [wf_of_call hc (State.copyAtom_wf _ _ _ _ _ _ _ _ h)]

@[simp] theorem State.fifoStep_wf (s : State) (k : Nat) (m : Cmd) (h : memWf s.mem = true) : memWf (s.fifoStep k m).mem = true := by
  unfold State.fifoStep
  split
  · simp [h]
  · refine ite_wf h ?_
    split <;> next hc =>
      have ht : memWf (State.mem _) = true := wf_of_call hc (by split <;> exact State.copyAtom_wf _ _ _ _ _ _ _ _ h)
      simp [ht]

theorem execSegmentHandover_wf (k id seg : Nat) (s : State) (h : memWf s.mem = true) : CanonicalAfter (execSegmentHandover k id seg s) := by
  unfold execSegmentHandover
  split <;> simp [h]

@[simp] theorem State.gathLine_wf (s : State) (k : Nat) (m : Cmd) (l : List Nat) (h : memWf s.mem = true) : memWf (s.gathLine k m l).mem = true := by
  unfold State.gathLine
  simp [State.put_wf, h]

@[simp] theorem State.scatLine_wf (s : State) (k : Nat) (m : Cmd) (a : Nat) (l : List Nat) (h : memWf s.mem = true) : memWf (s.scatLine k m a l).mem = true := by
  unfold State.scatLine
  simp only
  split
  · split <;> next hw => simp [wf_of_call hw (State.writeSpace_wf _ _ _ _ _ _ _ _ h)]
  split
  · exact h
  split <;> next hr => simp [mem_of_call hr (State.readSpace_mem ..), h]

@[simp] theorem State.gathStep_wf (s : State) (k : Nat) (m : Cmd) (h : memWf s.mem = true) : memWf (s.gathStep k m).mem = true := by
  unfold State.gathStep
  simp only
  split
  · simp [h]
  split
  · split <;> next hr => simp [mem_of_call hr (State.readSpace_mem ..), h]
  split
  · exact State.scatLine_wf _ _ _ _ _ h
  split
  · exact State.gathLine_wf _ _ _ _ h
  split <;> next hr => simp [mem_of_call hr (State.readSpace_mem ..), h]

@[simp] theorem State.stageAtom_wf (s : State) (k : Nat) (m : Cmd) (e : List Byte) (n : Nat) (h : memWf s.mem = true) : memWf (s.stageAtom k m e n).mem = true := by
  unfold State.stageAtom
  refine ite_wf (by simp [h]) (ite_wf (by simp [h]) (ite_wf (by simp [h]) (ite_wf h ?_)))
  simp only
  split <;> next hr =>
    have ht : memWf (State.mem _) = true := wf_of_call hr (by split <;> simp [h])
    simp [State.put_wf, ht]

@[simp] theorem State.stageStep_wf (s : State) (k : Nat) (m : Cmd) (h : memWf s.mem = true) : memWf (s.stageStep k m).mem = true := by
  unfold State.stageStep
  split
  · exact h
  split
  · simp only
    split
    · simp [h]
    split <;> next hr => simp [mem_of_call hr (State.readSpace_mem ..), h]
  · simp [h]

@[simp] theorem State.collUnit_wf (s : State) (k : Nat) (m : Cmd) (h : memWf s.mem = true) : memWf (s.collUnit k m).mem = true := by
  unfold State.collUnit
  split
  · simp [h]
  simp only
  split
  · simp [h]
  split <;> next hu => simp [wf_of_call hu (State.writeUnit_wf _ _ _ _ _ h)]

@[simp] theorem State.collStep_wf (s : State) (k : Nat) (m : Cmd) (h : memWf s.mem = true) : memWf (s.collStep k m).mem = true := by
  unfold State.collStep
  split <;> simp [h]

theorem execCollTimeout_wf (l tag : Nat) (s : State) (h : memWf s.mem = true) : CanonicalAfter (execCollTimeout l tag s) := by
  unfold execCollTimeout
  split <;> simp [h]

theorem execEngineUnit_wf (k id : Nat) (s : State) (h : memWf s.mem = true) : CanonicalAfter (execEngineUnit k id s) := by
  simp only [execEngineUnit]
  split
  · simp [h]
  split
  · simp [h]
  split
  · simp [h]
  split <;> simp [h]

theorem execEngineCompletion_wf (k id : Nat) (s : State) (h : memWf s.mem = true) : CanonicalAfter (execEngineCompletion k id s) := by
  unfold execEngineCompletion
  split <;> simp [h]

theorem execMessageDelivery_wf (k id : Nat) (s : State) (h : memWf s.mem = true) : CanonicalAfter (execMessageDelivery k id s) := by
  unfold execMessageDelivery
  rw [canonicalAfter_next]
  split
  · exact h
  split
  · exact h
  split
  · simp [h]
  split
  · simp [h]
  split
  · simp [h]
  simp only
  split
  · exact h
  split <;> next hu => simp [wf_of_call hu (State.writeUnit_wf _ _ _ _ _ h)]

theorem execMessageTake_wf (k : Nat) (s : State) (h : memWf s.mem = true) : CanonicalAfter (execMessageTake k s) := by
  unfold execMessageTake
  rw [canonicalAfter_next]
  split
  · split
    · exact h
    split
    · exact h
    split <;> next hr => simp [State.put_wf, mem_of_call hr (State.readUnit_mem ..), h]
  · exact h

theorem execBarrierTimeout_wf (l n : Nat) (s : State) (h : memWf s.mem = true) : CanonicalAfter (execBarrierTimeout l n s) := by
  unfold execBarrierTimeout
  split <;> simp [h]

theorem execRecordEnqueue_wf (k id : Nat) (s : State) (h : memWf s.mem = true) : CanonicalAfter (execRecordEnqueue k id s) := by
  unfold execRecordEnqueue
  split <;> simp [h]

@[simp] theorem State.farApply_wf (s : State) (k : Nat) (f : Far) (p : Place) (h : memWf s.mem = true) : memWf (s.farApply k f p).mem = true := by
  unfold State.farApply
  split <;> next hr => simp [mem_of_call hr (State.readPlace_mem ..), h]

theorem execFarAtomicCompletion_wf (k id : Nat) (s : State) (h : memWf s.mem = true) : CanonicalAfter (execFarAtomicCompletion k id s) := by
  unfold execFarAtomicCompletion
  rw [canonicalAfter_next]
  split
  · exact h
  refine ite_wf h (ite_wf (by simp [h]) ?_)
  split
  · next hp => simp [mem_of_call hp (State.place_mem ..), h]
  next hp =>
  have ht : memWf (State.mem _) = true := wf_of_call hp (by simp [h])
  split
  · simpa using ht
  · exact State.farApply_wf _ _ _ _ ht

/-! ### Freeze -/

@[simp] theorem State.freezeCc_wf (s : State) (k : Nat) (h : memWf s.mem = true) : memWf (s.freezeCc k).mem = true := by
  simp only [State.freezeCc, State.withdraw_mem]
  exact foldl_wf (fun s m h => s.endCmd_wf k m.id 4 h) _ _ (by simp [h])

theorem execFreezeWave_wf (k rn : Nat) (s : State) (h : memWf s.mem = true) : CanonicalAfter (execFreezeWave k rn s) := by
  simp only [execFreezeWave]
  split
  · simp [h]
  split
  · simp [h]
  split <;> simp [h]

@[simp] theorem State.saveImage_wf (s : State) (k l m : Nat) (reg : Option (Nat × Region)) (a : ImageArgs) (h : memWf s.mem = true) :
    memWf (s.saveImage k l m reg a).mem = true := by
  unfold State.saveImage
  split
  · exact h
  simp only
  split
  · simp [h]
  · simp [State.put_wf, h]

@[simp] theorem State.savePreempted_wf (s : State) (k l m : Nat) (reg : Option (Nat × Region)) (h : memWf s.mem = true) : memWf (s.savePreempted k l m reg).mem = true := by
  simp only [State.savePreempted]
  split
  · simp [h]
  split
  · simp [h]
  split <;> split <;> simp [h]

theorem execFreezeEnd_wf (k rn : Nat) (s : State) (h : memWf s.mem = true) : CanonicalAfter (execFreezeEnd k rn s) := by
  simp only [execFreezeEnd]
  split
  · split
    · split <;> simp [h]
    · simp [h]
  split
  · simp [h]
  split
  · split
    · simp [h]
    split <;> simp [h]
  · simp [h]

/-! ### LaunchEv -/

theorem execRecordCheck_wf (p q : Nat) (s : State) (h : memWf s.mem = true) : CanonicalAfter (execRecordCheck p q s) := by
  unfold execRecordCheck
  rw [canonicalAfter_next]
  simp only
  split
  · refine ite_wf (ite_wf (by simp [h]) h) ?_
    split <;> next hc => simp [mem_of_call hc (State.checkRecord_mem ..), h]
  · exact h

@[simp] theorem State.writeTable_wf (s : State) (x : Launch) (k b : Nat) (h : memWf s.mem = true) : memWf (s.writeTable x k b).mem = true :=
  foldl_wf (fun s _ h => s.storeCap_wf _ _ h) _ _ h
@[simp] theorem State.placeMember_wf (s : State) (l : Nat) (x : Launch) (t : Spot) (h : memWf s.mem = true) : memWf (s.placeMember l x t).mem = true := by simp [State.placeMember, h]

@[simp] theorem State.placeRest_wf (s : State) (lvl l n : Nat) (h : memWf s.mem = true) : ∀ t ∈ s.placeRest lvl l n, memWf t.mem = true := by
  induction n generalizing s with
  | zero => simp [State.placeRest, h]
  | succ n ih =>
    unfold State.placeRest
    split
    · simp
    split
    · exact ih _ (State.placeMember_wf _ _ _ _ h)
    · simp

@[simp] theorem State.placeMany_wf (s : State) (l n : Nat) (h : memWf s.mem = true) : memWf (s.placeMany l n).mem = true := by
  induction n generalizing s with
  | zero => exact h
  | succ n ih =>
    unfold State.placeMany
    split
    · next hp => exact ih _ (s.placeRest_wf 0 l 1 h _ hp)
    · exact h

theorem State.abortScansFor_wf (s : State) (l : Nat) (x : Launch) (n : Nat) (h : memWf s.mem = true) : ∀ r ∈ s.abortScansFor l x n, memWf r.mem = true := by
  simp only [State.abortScansFor]
  split
  · simp
  split <;> simp [h]

@[simp] theorem State.noPlace_wf (s : State) (p q l : Nat) (x : Launch) (h : memWf s.mem = true) : memWf (s.noPlace p q l x).mem = true := by
  unfold State.noPlace
  split
  · next ha => exact State.abortScansFor_wf _ _ _ _ h _ ha
  · simp [h]

@[simp] theorem State.placeNow_wf (s : State) (l : Nat) (x : Launch) (h : memWf s.mem = true) : ∀ t ∈ s.placeNow l x, memWf t.mem = true := by
  unfold State.placeNow
  simp only
  split
  · exact s.placeRest_wf 0 l _ h
  · intro t ht
    obtain ⟨u, hu, rfl⟩ := Option.map_eq_some_iff.mp ht
    exact u.placeMany_wf l _ (s.placeRest_wf 0 l 1 h u hu)

theorem execMemberPlacement_wf (p q : Nat) (s : State) (h : memWf s.mem = true) : CanonicalAfter (execMemberPlacement p q s) := by
  unfold execMemberPlacement
  rw [canonicalAfter_next]
  simp only
  split
  · refine ite_wf h (ite_wf (by simp [h]) ?_)
    split
    · exact State.noPlace_wf _ _ _ _ _ h
    next hr =>
    refine ite_wf ?_ (by simp [State.placeNow_wf _ _ _ h _ hr])
    split
    · next hl => simp [mem_of_call hl (State.loadLaunch_mem ..), h]
    next s' hl =>
    have hs' := (mem_of_call hl (State.loadLaunch_mem ..)).symm ▸ h
    split
    · exact hs'
    next ht =>
    have ht := State.placeNow_wf _ _ _ (by simpa using hs') _ ht
    split
    · split
      · simp [ht]
      · simp [hs']
    · exact hs'
  · exact h

@[simp] theorem State.fillEntry_wf (s : State) (k p img bank : Nat) (e : StageEntry) (h : memWf s.mem = true) : memWf (s.fillEntry k p img bank e).2.mem = true := by
  unfold State.fillEntry
  simp only
  split
  · exact s.put_wf _ _ h
  split <;> next hr => simp [State.put_wf, mem_of_call hr (State.readImage_mem ..), h]

@[simp] theorem State.fillEntries_wf (s : State) (k p img bank : Nat) (l : List StageEntry) (h : memWf s.mem = true) :
    memWf (s.fillEntries k p img bank l).2.mem = true := by
  induction l generalizing s with
  | nil => exact h
  | cons e r ih =>
    have he := s.fillEntry_wf k p img bank e h
    unfold State.fillEntries
    split
    · next hf => exact ih _ (wf_of_call hf he)
    · exact he

theorem execStagingFill_wf (l m : Nat) (s : State) (h : memWf s.mem = true) : CanonicalAfter (execStagingFill l m s) := by
  unfold execStagingFill
  rw [canonicalAfter_next]
  split
  · exact h
  split
  · exact h
  refine ite_wf h ?_
  split <;> next hf => simp [wf_of_call hf (State.fillEntries_wf _ _ _ _ _ _ (by simpa using h))]

theorem execMemberStart_wf (l m : Nat) (s : State) (h : memWf s.mem = true) : CanonicalAfter (execMemberStart l m s) := by
  simp only [execMemberStart]
  split
  · simp [h]
  split <;> simp [h]

theorem execLaunchCompletion_wf (p q : Nat) (s : State) (h : memWf s.mem = true) : CanonicalAfter (execLaunchCompletion p q s) := by
  simp only [execLaunchCompletion]
  split <;> simp [h]

/-! ### FaultEv -/

theorem execDrain_wf (k rn : Nat) (s : State) (h : memWf s.mem = true) : CanonicalAfter (execDrain k rn s) := by
  simp only [execDrain]
  split
  · simp [h]
  split <;> simp [h]

theorem execPreemption_wf (p q : Nat) (s : State) (h : memWf s.mem = true) : CanonicalAfter (execPreemption p q s) := by
  simp only [execPreemption]
  split
  · split
    · simp [h]
    split <;> simp [h]
  · simp [h]

@[simp] theorem State.moveBanks_wf (s : State) (l src dst bank n : Nat) (h : memWf s.mem = true) : memWf (s.moveBanks l src dst bank n).mem = true := by
  simp only [State.moveBanks]
  rw [foldl_mem fun _ _ => State.moveToken_mem .., foldl_mem fun _ _ => State.moveToken_mem ..]
  exact memWf_foldl_memWrite _ _ Prod.fst (memWf_filter _ _ h)

@[simp] theorem State.restoreMember_wf (s : State) (l m : Nat) (x : Launch) (y : Member) (n : Nat) (i : Image) (t : Spot) (h : memWf s.mem = true) :
    ∀ u ∈ s.restoreMember l m x y n i t, memWf u.mem = true := by
  have h' : memWf (if t.core = y.core then s else s.moveBanks l y.core t.core y.bank x.tbanks).mem = true := ite_wf h (State.moveBanks_wf _ _ _ _ _ _ h)
  unfold State.restoreMember
  generalize (if t.core = y.core then s else s.moveBanks l y.core t.core y.bank x.tbanks) = s' at h'
  simp only
  split
  · simp
  next v hv =>
  have hv' : memWf v.mem = true := by
    split at hv
    · cases hv
    split at hv
    · cases hv; exact h'
    · obtain ⟨w, hw, rfl⟩ := Option.map_eq_some_iff.mp hv
      simp [State.reloadRows_mem _ _ _ _ _ _ hw, h']
  cases i.cc <;> simp [hv']

@[simp] theorem State.restoreAll_wf (s : State) (l : Nat) (ms : List Nat) (h : memWf s.mem = true) : ∀ t ∈ s.restoreAll l ms, memWf t.mem = true := by
  induction ms generalizing s with
  | nil => simp [State.restoreAll, h]
  | cons m r ih =>
    unfold State.restoreAll
    split
    · simp
    split
    · split
      · intro t ht
        obtain ⟨u, hu, ht⟩ := Option.bind_eq_some_iff.mp ht
        exact ih u (State.restoreMember_wf _ _ _ _ _ _ _ _ h u hu) t ht
      · simp
    · simp

theorem execRestore_wf (l m : Nat) (s : State) (h : memWf s.mem = true) : CanonicalAfter (execRestore l m s) := by
  unfold execRestore
  rw [canonicalAfter_next]
  split
  · exact h
  refine ite_wf h ?_
  split
  · next hr => exact State.restoreAll_wf _ _ _ h _ hr
  · split <;> simp [h]

@[simp] theorem State.abortCore_wf (s : State) (k cause lcore : Nat) (h : memWf s.mem = true) : memWf (s.abortCore k cause lcore).mem = true := by simp [State.abortCore, h]

@[simp] theorem State.abortMember_wf (s : State) (l m : Nat) (x : Launch) (y : Member) (failing cause lcore : Nat) (h : memWf s.mem = true) : memWf (s.abortMember l m x y failing cause lcore).mem = true := by
  unfold State.abortMember
  split <;> simp [h]

theorem execGangAbort_wf (l m : Nat) (cause : BitVec 10) (s : State) (h : memWf s.mem = true) : CanonicalAfter (execGangAbort l m cause s) := by
  unfold execGangAbort
  rw [canonicalAfter_next]
  split
  · exact h
  refine ite_wf h ?_
  split
  · exact h
  · exact foldl_wf (fun s p h => s.abortMember_wf _ _ _ _ _ _ _ h) _ _ (by simpa using h)

theorem execUncorrectableError_wf (e : ErrorSite) (s : State) (h : memWf s.mem = true) : CanonicalAfter (execUncorrectableError e s) := by
  unfold execUncorrectableError
  split <;> simp [h]

@[simp] theorem State.packageReset_wf (s : State) (h : memWf s.mem = true) : memWf s.packageReset.mem = true := memWf_filter _ _ h

@[simp] theorem State.writeDump_wf (s : State) (cause die : Nat) (h : memWf s.mem = true) : memWf (s.writeDump cause die).mem = true := by
  unfold State.writeDump
  refine foldl_wf (fun s p h => s.put_wf _ _ h) _ _ ?_
  dsimp only
  refine State.put_wf _ _ _ (State.put_wf _ _ _ (State.put_wf _ _ _ (State.put_wf _ _ _ ?_)))
  exact h

@[simp] theorem State.endDump_wf (s : State) (cause die : Nat) (h : memWf s.mem = true) : memWf (s.endDump cause die).mem = true := by simp [State.endDump, h]

theorem execFatalDump_wf (cause : BitVec 10) (die : Nat) (s : State) (h : memWf s.mem = true) : CanonicalAfter (execFatalDump cause die s) := by
  unfold execFatalDump
  split <;> simp [h]

/-! ### DebugEv -/

theorem execCriticalPathStep_wf (k : Nat) (s : State) (h : memWf s.mem = true) : CanonicalAfter (execCriticalPathStep k s) := by simp [execCriticalPathStep, h]

theorem execRegionStop_wf (k rn : Nat) (s : State) (h : memWf s.mem = true) : CanonicalAfter (execRegionStop k rn s) := by
  unfold execRegionStop
  split <;> simp [h]

theorem execScanComplete_wf (k : Nat) (s : State) (h : memWf s.mem = true) : CanonicalAfter (execScanComplete k s) := by
  unfold execScanComplete
  split <;> simp [h]

theorem execReinitialisationEnd_wf (k : Nat) (s : State) (h : memWf s.mem = true) : CanonicalAfter (execReinitialisationEnd k s) := by
  unfold execReinitialisationEnd
  split <;> simp [h]

/-! ### LinkEv -/

theorem execEdgeValueArrival_wf (l e : Nat) (s : State) (h : memWf s.mem = true) : CanonicalAfter (execEdgeValueArrival l e s) := by
  simp only [execEdgeValueArrival]
  split
  · simp [h]
  split <;> simp [h]

theorem execFlitReceive_wf (g : Nat) (raw : BitVec 256) (s : State) (h : memWf s.mem = true) : CanonicalAfter (execFlitReceive g raw s) := by simp [execFlitReceive, h]
theorem execAcknowledgeTimer_wf (g : Nat) (s : State) (h : memWf s.mem = true) : CanonicalAfter (execAcknowledgeTimer g s) := by simp [execAcknowledgeTimer, h]
theorem execLaneMapResend_wf (g : Nat) (s : State) (h : memWf s.mem = true) : CanonicalAfter (execLaneMapResend g s) := by simp [execLaneMapResend, h]

theorem execLaneMapSwitch_wf (g : Nat) (s : State) (h : memWf s.mem = true) : CanonicalAfter (execLaneMapSwitch g s) := by
  simp only [execLaneMapSwitch]
  split <;> simp [h]

theorem execPortRetrain_wf (n : Nat) (s : State) (h : memWf s.mem = true) : CanonicalAfter (execPortRetrain n s) := by simp [execPortRetrain, h]
theorem execPortRetrainEnd_wf (n : Nat) (s : State) (h : memWf s.mem = true) : CanonicalAfter (execPortRetrainEnd n s) := by simp [execPortRetrainEnd, h]
theorem execDomainTimeout_wf (pkg : Nat) (s : State) (h : memWf s.mem = true) : CanonicalAfter (execDomainTimeout pkg s) := by simp [execDomainTimeout, h]
theorem execDomainRebuild_wf (own : Nat) (s : State) (h : memWf s.mem = true) : CanonicalAfter (execDomainRebuild own s) := by simp [execDomainRebuild, h]

/-! ### XlateEv -/

theorem execShootdownAck_wf (p id cache : Nat) (s : State) (h : memWf s.mem = true) : CanonicalAfter (execShootdownAck p id cache s) := by
  unfold execShootdownAck
  split <;> simp [h]

@[simp] theorem State.endShoot_wf (s : State) (p addr w : Nat) (h : memWf s.mem = true) : memWf (s.endShoot p addr w).mem = true := by
  unfold State.endShoot
  split <;> next hp => simp [mem_of_call hp (State.place_mem ..), h]

theorem execShootdownComplete_wf (p id : Nat) (s : State) (h : memWf s.mem = true) : CanonicalAfter (execShootdownComplete p id s) := by
  unfold execShootdownComplete
  split <;> simp [h]

theorem execShootdownTimeout_wf (p id pkg : Nat) (s : State) (h : memWf s.mem = true) : CanonicalAfter (execShootdownTimeout p id pkg s) := by
  unfold execShootdownTimeout
  split <;> simp [h]

@[simp] theorem State.startShoot_wf (s : State) (p addr : Nat) (words : List Word64) (h : memWf s.mem = true) : memWf (s.startShoot p addr words).mem = true := by
  unfold State.startShoot
  refine ite_wf (State.endShoot_wf _ _ _ _ h) ?_
  rw [foldl_mem fun _ _ => State.awaitAck_mem .., foldl_mem fun _ _ => State.after_mem ..]
  exact h

theorem execTrackerPeriod_wf (stack : Nat) (s : State) (h : memWf s.mem = true) : CanonicalAfter (execTrackerPeriod stack s) := by simp [execTrackerPeriod, h]
@[simp] theorem State.copyFrame_wf (s : State) (a b : Nat) (h : memWf s.mem = true) : memWf (s.copyFrame a b).mem = true := memWf_memCopy _ _ _ _ h

theorem execBlockSwitch_wf (blk : Nat) (s : State) (h : memWf s.mem = true) : CanonicalAfter (execBlockSwitch blk s) := by
  unfold execBlockSwitch
  split <;> simp [h]

@[simp] theorem State.replayOne_wf (s : State) (x : Parked) (h : memWf s.mem = true) : memWf (s.replayOne x).mem = true := by
  unfold State.replayOne
  simp only
  split
  · simp [State.putDpa_wf, h]
  split
  · exact h
  split <;> simp [State.farApply_wf, h]

theorem execParkedReplay_wf (blk : Nat) (s : State) (h : memWf s.mem = true) : CanonicalAfter (execParkedReplay blk s) := by
  unfold execParkedReplay
  rw [canonicalAfter_next]
  exact ite_wf h (foldl_wf State.replayOne_wf _ _ h)

theorem execAtomRemap_wf (tier media : Nat) (s : State) (h : memWf s.mem = true) : CanonicalAfter (execAtomRemap tier media s) := by simp [execAtomRemap, h]

/-! ### HostEv -/

theorem execBar2Read_wf (f off n : Nat) (s : State) (h : memWf s.mem = true) : CanonicalAfter (execBar2Read f off n s) := by
  unfold execBar2Read
  rw [canonicalAfter_next]
  refine ite_wf h ?_
  simp only
  split <;> next hf => simp [mem_of_call hf (State.fetch_mem ..), h]

/-- Writes to a list of places, each taking its part of the bytes, keep the canonical form. -/
theorem foldl_writePlace_wf (l : List (Place × Nat)) (r : State × List Byte) (h : memWf r.1.mem = true) :
    memWf (l.foldl (fun (r : State × List Byte) p => (r.1.writePlace p.1 (r.2.take p.2), r.2.drop p.2)) r).1.mem = true := by
  induction l generalizing r with
  | nil => exact h
  | cons p l ih => exact ih _ (r.1.writePlace_wf _ _ h)

theorem execBar2Write_wf (f off : Nat) (data : List Byte) (s : State) (h : memWf s.mem = true) : CanonicalAfter (execBar2Write f off data s) := by
  unfold execBar2Write
  rw [canonicalAfter_next]
  refine ite_wf h ?_
  simp only
  split
  · next hp => exact foldl_writePlace_wf _ _ ((mem_of_call hp (State.atomPlaces_mem ..)).symm ▸ h)
  · next hp => simp [mem_of_call hp (State.atomPlaces_mem ..), h]

theorem execBar0ReadFlush_wf (f off : Nat) (s : State) (h : memWf s.mem = true) : CanonicalAfter (execBar0ReadFlush f off s) := by simp [execBar0ReadFlush, h]
theorem execErrorCounterRead_wf (die : Nat) (s : State) (h : memWf s.mem = true) : CanonicalAfter (execErrorCounterRead die s) := by simp [execErrorCounterRead, h]
theorem execLaneStatusRead_wf (s : State) (h : memWf s.mem = true) : CanonicalAfter (execLaneStatusRead s) := by simp [execLaneStatusRead, h]
theorem execRegisterWrite_wf (f off : Nat) (v : Word64) (s : State) (h : memWf s.mem = true) : CanonicalAfter (execRegisterWrite f off v s) := by simp [execRegisterWrite, h]
theorem execEqctlWrite_wf (f : Nat) (v : Word64) (s : State) (h : memWf s.mem = true) : CanonicalAfter (execEqctlWrite f v s) := by simp [execEqctlWrite, h]

theorem execSubmit_wf (f : Nat) (v : Word64) (s : State) (h : memWf s.mem = true) : CanonicalAfter (execSubmit f v s) := by
  unfold execSubmit
  rw [canonicalAfter_next]
  refine ite_wf h ?_
  split <;> next hr => simp [mem_of_call hr (State.readRecord_mem ..), h]

theorem execSkip_wf (f q : Nat) (s : State) (h : memWf s.mem = true) : CanonicalAfter (execSkip f q s) := by simp [execSkip, h]

theorem execRetry_wf (f q : Nat) (s : State) (h : memWf s.mem = true) : CanonicalAfter (execRetry f q s) := by
  unfold execRetry
  rw [canonicalAfter_next]
  refine ite_wf h ?_
  split
  · simp [h]
  split <;> next hr => simp [mem_of_call hr (State.readRecord_mem ..), h]

theorem execQueueKill_wf (f q : Nat) (s : State) (h : memWf s.mem = true) : CanonicalAfter (execQueueKill f q s) := by
  simp only [execQueueKill]
  split <;> simp [h]

theorem execRegionAbort_wf (f lc r : Nat) (s : State) (h : memWf s.mem = true) : CanonicalAfter (execRegionAbort f lc r s) := by
  simp only [execRegionAbort]
  split
  · split <;> simp [h]
  · simp [h]

theorem execImgfree_wf (f off : Nat) (s : State) (h : memWf s.mem = true) : CanonicalAfter (execImgfree f off s) := by simp [execImgfree, h]

theorem execShoot_wf (f : Nat) (v : Word64) (s : State) (h : memWf s.mem = true) : CanonicalAfter (execShoot f v s) := by
  unfold execShoot
  rw [canonicalAfter_next]
  refine ite_wf h ?_
  split <;> next hf => simp [mem_of_call hf (State.fetch_mem ..), h]

theorem execDebugResume_wf (f lc : Nat) (s : State) (h : memWf s.mem = true) : CanonicalAfter (execDebugResume f lc s) := by
  unfold execDebugResume
  split <;> simp [h]

theorem execDebugResumeAtDbgpc_wf (f lc : Nat) (s : State) (h : memWf s.mem = true) : CanonicalAfter (execDebugResumeAtDbgpc f lc s) := by
  unfold execDebugResumeAtDbgpc
  split <;> simp [h]

theorem execRegionResume_wf (f lc r : Nat) (s : State) (h : memWf s.mem = true) : CanonicalAfter (execRegionResume f lc r s) := by
  unfold execRegionResume
  split <;> simp [h]

theorem execRegionImageWrite_wf (f lc rn : Nat) (s : State) (h : memWf s.mem = true) : CanonicalAfter (execRegionImageWrite f lc rn s) := by
  unfold execRegionImageWrite
  rw [canonicalAfter_next]
  split
  · exact h
  split
  · exact h
  split
  · exact h
  refine ite_wf h ?_
  simp only
  split <;> simp [State.put_wf, h]

@[simp] theorem State.scrub_wf (s : State) (k : Nat) (h : memWf s.mem = true) : memWf (s.scrub k).mem = true := memWf_filter _ _ h
theorem execCoreReset_wf (k : Nat) (s : State) (h : memWf s.mem = true) : CanonicalAfter (execCoreReset k s) := by simp [execCoreReset, h]

theorem execPartitionCreate_wf (s : State) (h : memWf s.mem = true) : CanonicalAfter (execPartitionCreate s) := by
  unfold execPartitionCreate
  rw [canonicalAfter_next]
  refine ite_wf h (ite_wf (by simp [h]) ?_)
  exact foldl_wf (fun s c h => by simp [h]) _ _ h

theorem execPartitionReset_wf (s : State) (h : memWf s.mem = true) : CanonicalAfter (execPartitionReset s) := by simp [execPartitionReset, h]
theorem execPartitionDestroy_wf (s : State) (h : memWf s.mem = true) : CanonicalAfter (execPartitionDestroy s) := by simp [execPartitionDestroy, h]
theorem execFunctionLevelReset_wf (f : Nat) (s : State) (h : memWf s.mem = true) : CanonicalAfter (execFunctionLevelReset f s) := by simp [execFunctionLevelReset, h]
theorem execVfDisable_wf (n : Nat) (s : State) (h : memWf s.mem = true) : CanonicalAfter (execVfDisable n s) := by simp [execVfDisable, h]
@[simp] theorem State.clearCore_wf (s : State) (k : Nat) (h : memWf s.mem = true) : memWf (s.clearCore k).mem = true := by simp [State.clearCore, h]

theorem execPartitionResetComplete_wf (p : Nat) (s : State) (h : memWf s.mem = true) : CanonicalAfter (execPartitionResetComplete p s) := by
  have hc := foldl_wf State.clearCore_wf (s.part p).cores s h
  unfold execPartitionResetComplete
  rw [canonicalAfter_next]
  split
  · exact h
  · exact ite_wf (by simp [h]) (by simp [hc])

theorem execPackageReset_wf (s : State) (h : memWf s.mem = true) : CanonicalAfter (execPackageReset s) := by simp [execPackageReset, h]
theorem execFundamentalReset_wf (s : State) (h : memWf s.mem = true) : CanonicalAfter (execFundamentalReset s) := by simp [execFundamentalReset, h]
theorem execDumpRelease_wf (s : State) (h : memWf s.mem = true) : CanonicalAfter (execDumpRelease s) := by simp [execDumpRelease, h]
theorem execBringUp_wf (b : BringUp) (s : State) (h : memWf s.mem = true) : CanonicalAfter (execBringUp b s) := by simp [execBringUp, h]

/-! ### PowerEv -/

theorem execIntervalStart_wf (s : State) (h : memWf s.mem = true) : CanonicalAfter (execIntervalStart s) := by simp [execIntervalStart, h]

theorem execTokenInstalment_wf (s : State) (h : memWf s.mem = true) : CanonicalAfter (execTokenInstalment s) := by
  unfold execTokenInstalment
  rw [canonicalAfter_next, State.eachString_mem _ fun _ _ _ => State.modCore_mem ..]
  exact h

theorem execIntervalEnd_wf (ms : List Meas) (s : State) (h : memWf s.mem = true) : CanonicalAfter (execIntervalEnd ms s) := by simp [execIntervalEnd, h]
theorem execPowerCapAction_wf (avg peak : Nat) (s : State) (h : memWf s.mem = true) : CanonicalAfter (execPowerCapAction avg peak s) := by simp [execPowerCapAction, h]

theorem execLeaseExpiry_wf (p : Nat) (s : State) (h : memWf s.mem = true) : CanonicalAfter (execLeaseExpiry p s) := by
  unfold execLeaseExpiry
  split <;> simp [h]

theorem execSensorSample_wf (die : Nat) (rd : List Int) (s : State) (h : memWf s.mem = true) : CanonicalAfter (execSensorSample die rd s) := by simp [execSensorSample, h]
theorem execLeakageMeasurement_wf (k n mA : Nat) (s : State) (h : memWf s.mem = true) : CanonicalAfter (execLeakageMeasurement k n mA s) := by simp [execLeakageMeasurement, h]

theorem execOppoint_wf (k n : Nat) (s : State) (h : memWf s.mem = true) : CanonicalAfter (execOppoint k n s) := by
  unfold execOppoint
  split <;> simp [h]

/-! ### SliceOps -/

theorem movEff_wf (d a : Operand) (s : State) (h : memWf s.mem = true) : ∀ r ∈ movEff d a s, memWf r.2.mem = true := by simp [movEff, h]
theorem execMov_wf (g : BitVec 16) (d a : Operand) (s : State) (h : memWf s.mem = true) : CanonicalAfter (execMov g d a s) :=
  runBoth_wf (fun s h => movEff_wf d a s h) (by simp [KeepsCc]) _ s h

theorem execSlext_wf (g : BitVec 16) (d a b : Operand) (s : State) (h : memWf s.mem = true) : CanonicalAfter (execSlext g d a b s) := by
  unfold execSlext
  split
  · simp [h]
  · refine runBoth_wf (fun s h => ?_) (fun s h => ?_) _ s h <;> simp [h]

/-! ### Every instruction -/

/-- Every instruction and every event keeps the canonical form. The last arm is the instructions that go through `run` with an effect on registers alone. -/
theorem exec_wf (i : Instr) (s : State) (h : memWf s.mem = true) : CanonicalAfter (exec i s) := by
  cases i with
  | mov => exact execMov_wf _ _ _ s h
  | slext => exact execSlext_wf _ _ _ _ s h
  | br => exact execBr_wf _ _ s h
  | jmp => exact execJmp_wf _ _ s h
  | jal => exact execJal_wf _ _ _ s h
  | jalr => exact execJalr_wf _ _ _ s h
  | loop => exact execLoop_wf _ _ _ s h
  | waitp => exact execWaitp_wf _ _ s h
  | halt => exact execHalt_wf _ s h
  | trap => exact execTrap_wf _ _ _ s h
  | eret => exact execEret_wf _ s h
  | srd => exact execSrd_wf _ _ _ s h
  | swr => exact execSwr_wf _ _ _ s h
  | cfence => exact execCfence_wf _ s h
  | wfe => exact execWfe_wf _ _ _ _ s h
  | bkpt => exact execBkpt_wf _ _ s h
  | emit => exact execEmit_wf _ _ _ _ s h
  | deq => exact execDeq_wf _ _ s h
  | peekk => exact execPeekk_wf _ _ _ s h
  | ctok => exact execCtok_wf _ _ _ _ s h
  | pass => exact execPass_wf _ _ _ s h
  | retire => exact execRetire_wf _ _ s h
  | exit => exact execExit_wf _ _ _ _ s h
  | eow => exact execEow_wf _ _ _ s h
  | tidx => exact execTidx_wf _ _ _ _ s h
  | idle => exact execIdle_wf _ _ s h
  | mzero => exact execMzero_wf _ _ s h
  | mmac => exact execMmac_wf _ _ _ s h
  | mmac8 => exact execMmac8_wf _ _ _ s h
  | mmac12 => exact execMmac12_wf _ _ _ s h
  | mmacw => exact execMmacw_wf _ _ s h
  | mdown => exact execMdown_wf _ _ s h
  | mread => exact execMread_wf _ _ _ _ _ s h
  | mnorm => exact execMnorm_wf _ _ s h
  | mxget => exact execMxget_wf _ _ _ s h
  | mtask => exact execMtask_wf _ _ _ _ _ s h
  | mpois => exact execMpois_wf _ _ _ s h
  | ld => exact execLd_wf _ _ _ _ _ s h
  | st => exact execSt_wf _ _ _ _ _ s h
  | ldf => exact execLdf_wf _ _ _ _ _ s h
  | stf => exact execStf_wf _ _ _ _ _ s h
  | fence => exact execFence_wf _ _ _ s h
  | join => exact execJoin_wf _ _ _ _ s h
  | fork => exact execFork_wf _ _ _ s h
  | cldc => exact execCldc_wf _ _ _ _ s h
  | cstc => exact execCstc_wf _ _ _ _ s h
  | dma => exact execDma_wf _ _ _ _ _ s h
  | dmas => exact execDmas_wf _ _ _ _ _ s h
  | gath => exact execGath_wf _ _ _ _ _ s h
  | scat => exact execScat_wf _ _ _ _ _ s h
  | stage => exact execStage_wf _ _ _ _ _ s h
  | coll => exact execColl_wf _ _ _ _ _ s h
  | msg => exact execMsg_wf _ _ _ _ _ s h
  | mrecv => exact execMrecv_wf _ _ _ _ _ s h
  | bankt => exact execBankt_wf _ _ _ s h
  | launch => exact execLaunch_wf _ _ _ _ _ s h
  | gbar => exact execGbar_wf _ _ s h
  | epoll => exact execEpoll_wf _ _ _ s h
  | ecancel => exact execEcancel_wf _ _ s h
  | qwait => exact execQwait_wf _ _ _ _ s h
  | lease => exact execLease_wf _ _ _ _ s h
  | lrel => exact execLrel_wf _ s h
  | pwrq => exact execPwrq_wf _ _ _ _ s h
  | tstamp => exact execTstamp_wf _ _ s h
  | mark => exact execMark_wf _ _ _ s h
  | dstop => exact execDstop_wf _ _ _ s h
  | scant => exact execScant_wf _ _ _ s h
  | scanq => exact execScanq_wf _ _ _ s h
  | lcmap => exact execLcmap_wf _ _ _ _ s h
  | writeBack => exact execWriteBack_wf _ _ s h
  | trapEntry => exact execTrapEntry_wf _ s h
  | asynchronousTrap => exact execAsynchronousTrap_wf _ s h
  | instructionCacheFill => exact execInstructionCacheFill_wf _ s h
  | wfeTimeout => exact execWfeTimeout_wf _ s h
  | tokenTransfer => exact execTokenTransfer_wf _ _ _ s h
  | busPacketDiscard => exact execBusPacketDiscard_wf _ _ _ s h
  | fillerFiring => exact execFillerFiring_wf _ _ s h
  | leaseExpiry => exact execLeaseExpiry_wf _ s h
  | passStart => exact execPassStart_wf _ _ s h
  | entryTokenSend => exact execEntryTokenSend_wf _ _ s h
  | pickLoad => exact execPickLoad_wf _ _ _ _ s h
  | restoreComplete => exact execRestoreComplete_wf _ _ _ s h
  | eviction => exact execEviction_wf _ _ _ s h
  | spillComplete => exact execSpillComplete_wf _ _ _ s h
  | wrapDelivery => exact execWrapDelivery_wf _ _ s h
  | wrapOverflow => exact execWrapOverflow_wf _ _ _ s h
  | initialRecordAppend => exact execInitialRecordAppend_wf _ _ s h
  | streamRead => exact execStreamRead_wf _ _ _ s h
  | streamWrite => exact execStreamWrite_wf _ _ _ s h
  | nodeRequest => exact execNodeRequest_wf _ _ _ s h
  | streamRetry => exact execStreamRetry_wf _ _ _ s h
  | engineUnit => exact execEngineUnit_wf _ _ s h
  | engineCompletion => exact execEngineCompletion_wf _ _ s h
  | segmentHandover => exact execSegmentHandover_wf _ _ _ s h
  | messageDelivery => exact execMessageDelivery_wf _ _ s h
  | messageTake => exact execMessageTake_wf _ s h
  | recordEnqueue => exact execRecordEnqueue_wf _ _ s h
  | farAtomicCompletion => exact execFarAtomicCompletion_wf _ _ s h
  | recordCheck => exact execRecordCheck_wf _ _ s h
  | memberPlacement => exact execMemberPlacement_wf _ _ s h
  | stagingFill => exact execStagingFill_wf _ _ s h
  | memberStart => exact execMemberStart_wf _ _ s h
  | launchCompletion => exact execLaunchCompletion_wf _ _ s h
  | drain => exact execDrain_wf _ _ s h
  | freezeWave => exact execFreezeWave_wf _ _ s h
  | freezeEnd => exact execFreezeEnd_wf _ _ s h
  | preemption => exact execPreemption_wf _ _ s h
  | restore => exact execRestore_wf _ _ s h
  | gangAbort => exact execGangAbort_wf _ _ _ s h
  | criticalPathStep => exact execCriticalPathStep_wf _ s h
  | regionStop => exact execRegionStop_wf _ _ s h
  | scanComplete => exact execScanComplete_wf _ s h
  | reinitialisationEnd => exact execReinitialisationEnd_wf _ s h
  | edgeValueArrival => exact execEdgeValueArrival_wf _ _ s h
  | acknowledgeTimer => exact execAcknowledgeTimer_wf _ s h
  | laneMapResend => exact execLaneMapResend_wf _ s h
  | laneMapSwitch => exact execLaneMapSwitch_wf _ s h
  | shootdownAck => exact execShootdownAck_wf _ _ _ s h
  | shootdownComplete => exact execShootdownComplete_wf _ _ s h
  | shootdownTimeout => exact execShootdownTimeout_wf _ _ _ s h
  | trackerPeriod => exact execTrackerPeriod_wf _ s h
  | blockSwitch => exact execBlockSwitch_wf _ s h
  | intervalStart => exact execIntervalStart_wf s h
  | tokenInstalment => exact execTokenInstalment_wf s h
  | intervalEnd => exact execIntervalEnd_wf _ s h
  | powerCapAction => exact execPowerCapAction_wf _ _ s h
  | sensorSample => exact execSensorSample_wf _ _ s h
  | leakageMeasurement => exact execLeakageMeasurement_wf _ _ _ s h
  | oppoint => exact execOppoint_wf _ _ s h
  | collTimeout => exact execCollTimeout_wf _ _ s h
  | barrierTimeout => exact execBarrierTimeout_wf _ _ s h
  | uncorrectableError => exact execUncorrectableError_wf _ s h
  | fatalDump => exact execFatalDump_wf _ _ s h
  | flitReceive => exact execFlitReceive_wf _ _ s h
  | portRetrain => exact execPortRetrain_wf _ s h
  | domainTimeout => exact execDomainTimeout_wf _ s h
  | parkedReplay => exact execParkedReplay_wf _ s h
  | atomRemap => exact execAtomRemap_wf _ _ s h
  | bar2Read => exact execBar2Read_wf _ _ _ s h
  | bar2Write => exact execBar2Write_wf _ _ _ s h
  | bar0ReadFlush => exact execBar0ReadFlush_wf _ _ s h
  | submit => exact execSubmit_wf _ _ s h
  | skip => exact execSkip_wf _ _ s h
  | retry => exact execRetry_wf _ _ s h
  | queueKill => exact execQueueKill_wf _ _ s h
  | shoot => exact execShoot_wf _ _ s h
  | regionAbort => exact execRegionAbort_wf _ _ _ s h
  | imgfree => exact execImgfree_wf _ _ s h
  | debugResume => exact execDebugResume_wf _ _ s h
  | debugResumeAtDbgpc => exact execDebugResumeAtDbgpc_wf _ _ s h
  | regionResume => exact execRegionResume_wf _ _ _ s h
  | regionImageWrite => exact execRegionImageWrite_wf _ _ _ s h
  | eqctlWrite => exact execEqctlWrite_wf _ _ s h
  | registerWrite => exact execRegisterWrite_wf _ _ _ s h
  | errorCounterRead => exact execErrorCounterRead_wf _ s h
  | laneStatusRead => exact execLaneStatusRead_wf s h
  | partitionCreate => exact execPartitionCreate_wf s h
  | partitionDestroy => exact execPartitionDestroy_wf s h
  | partitionReset => exact execPartitionReset_wf s h
  | partitionResetComplete => exact execPartitionResetComplete_wf _ s h
  | functionLevelReset => exact execFunctionLevelReset_wf _ s h
  | vfDisable => exact execVfDisable_wf _ s h
  | coreReset => exact execCoreReset_wf _ s h
  | packageReset => exact execPackageReset_wf s h
  | fundamentalReset => exact execFundamentalReset_wf s h
  | dumpRelease => exact execDumpRelease_wf s h
  | irqTimer => exact execIrqTimer_wf _ s h
  | bringUp => exact execBringUp_wf _ s h
  | portRetrainEnd => exact execPortRetrainEnd_wf _ s h
  | domainRebuild => exact execDomainRebuild_wf _ s h
  | aadd | amin | amax | aand | aor | axor | axchg | acas | afadd => exact runAtomic_wf _ _ _ _ _ _ s h
  | _ => exact run_wf _ _ s h

/-! ### The turns of a cycle -/

theorem State.issueWord_wf (s : State) (k : Nat) (w : Word64) (h : memWf s.mem = true) : CanonicalAfter (s.issueWord k w) := by
  unfold State.issueWord
  split
  · exact exec_wf _ _ h
  · simp [h]

theorem State.fetchIssue_wf (s : State) (k : Nat) (h : memWf s.mem = true) : CanonicalAfter (s.fetchIssue k) := by
  unfold State.fetchIssue
  simp only
  split
  · simp [h]
  split
  · exact s.issueWord_wf _ _ h
  · split
    · simp only [canonicalAfter_ite]
      split <;> simp [h]
    · simp [h]
  · simp [h]

theorem State.issue_wf (s : State) (k : Nat) (h : memWf s.mem = true) : CanonicalAfter (s.issue k) := by
  unfold State.issue
  simp only
  split
  · simp [h]
  split
  · exact exec_wf _ _ h
  split
  · simp [h]
  · exact s.fetchIssue_wf k h

theorem State.trySlot_wf (s : State) (k e c slot : Nat) (w : Word64) (h : memWf s.mem = true) : CanonicalAfter (s.trySlot k e c slot w) := by
  unfold State.trySlot
  split
  · exact exec_wf _ _ h
  · simp [h]

theorem State.trySlots_wf (s : State) (k e c n : Nat) (ws : List Word64) (h : memWf s.mem = true) : CanonicalAfter (s.trySlots k e c n ws) := by
  induction ws generalizing n with
  | nil => simp [State.trySlots, h]
  | cons w r ih =>
    have hw := s.trySlot_wf k e c n w h
    unfold State.trySlots
    split
    · next ht =>
      split
      · exact ht ▸ hw
      · exact ih _
    · exact hw

theorem State.tryCtxs_wf (s : State) (k e : Nat) (card : List Word64) (cs : List Nat) (h : memWf s.mem = true) : CanonicalAfter (s.tryCtxs k e card cs) := by
  induction cs with
  | nil => simp [State.tryCtxs, h]
  | cons c r ih =>
    have hc := s.trySlots_wf k e c 0 card h
    unfold State.tryCtxs
    split
    · next t ht =>
      have hm : memWf t.mem = true := hc t ht
      split
      · simp [hm]
      split
      · simp [hm]
      · exact ih
    · exact hc

theorem State.fire_wf (s : State) (k e : Nat) (h : memWf s.mem = true) : CanonicalAfter (s.fire k e) := by
  unfold State.fire
  split
  · simp [h]
  next r _ =>
  have ht := s.tryCtxs_wf k e (s.elem k e).card (s.ctxOrder k e r.det) h
  simp only
  split
  · simp [h]
  split
  · simp [h]
  split
  · next t he => simpa using ht t he
  · exact ht

/-- Every turn of a cycle keeps the canonical form. The last arm is the turns that leave memory as it is. -/
theorem State.turn_wf (s : State) (t : Turn) (h : memWf s.mem = true) : CanonicalAfter (s.turn t) := by
  cases t with
  | ev i => exact exec_wf i s h
  | issue k => exact s.issue_wf k h
  | fire k e => exact s.fire_wf k e h
  | flush => exact (canonicalAfter_next _).mpr (s.flush_wf h)
  | measure => exact execIntervalEnd_wf _ _ (by simp [h])
  | power => exact execPowerCapAction_wf _ _ _ (by simp [h])
  | sense die => exact execSensorSample_wf _ _ _ (by simp [h])
  | leak k n => exact execLeakageMeasurement_wf _ _ _ _ (by simp [h])
  | lookup k n => exact execOppoint_wf _ _ _ h
  | cancel k id => exact (canonicalAfter_next _).mpr (s.endCmd_wf k id 2 h)
  | remap a => exact execAtomRemap_wf _ _ _ h
  | flit g raw => exact execFlitReceive_wf _ _ _ h
  | silent pkg => exact execDomainTimeout_wf _ _ h
  | dump cause die => exact execFatalDump_wf _ _ _ h
  | replay blk => exact execParkedReplay_wf _ _ h
  | switched blk => exact execBlockSwitch_wf _ _ h
  | collDue l tag => exact execCollTimeout_wf _ _ _ h
  | barDue l n => exact execBarrierTimeout_wf _ _ _ h
  | resetEnd p => exact execPartitionResetComplete_wf _ _ h
  | irq f => exact execIrqTimer_wf _ _ h
  | retrained n => exact execPortRetrainEnd_wf _ _ h
  | interval => exact execIntervalStart_wf _ h
  | instalment => exact execTokenInstalment_wf _ h
  | _ => simp [State.turn, h]

/-- Every step keeps the canonical form of memory. -/
theorem step_wf (s : State) (h : memWf s.mem = true) : CanonicalAfter (step s) := by
  unfold step
  split
  · simp [h]
  · exact State.turn_wf _ _ h

/-- Settles O57: every turn of a cycle, so every step, leaves memory as it was, or writes, copies or drops bytes of it by an operation that keeps the form. -/
theorem memoryStaysCanonical : Obligations.MemoryStaysCanonical := fun s t h hs => step_wf s h t hs

/-- Settles O58: each clause reads a field of the state that has every field at its default; an unlisted core or partition is at its default too. -/
theorem resetState : Obligations.ResetState := by
  refine ⟨rfl, rfl, rfl, fun _ => rfl, rfl, rfl, fun _ => ?_, fun _ => ?_, rfl, rfl, rfl, rfl, rfl, fun _ => rfl⟩
  · exact ⟨rfl, rfl, rfl, rfl, rfl, rfl, rfl⟩
  · exact ⟨rfl, rfl, rfl, rfl⟩

end Sys2Proof.Machine
end

section
/-! SUPPORT. Steps of a control core (O35): traps, the timeout of WFE and the fill of its cache. -/
namespace Sys2Proof.Machine

/-- A change of a control core is what it makes of that control core. -/
theorem State.modCc_congr {s : State} {k : Nat} {f g : ControlCore → ControlCore} (h : f (s.cc k) = g (s.cc k)) : s.modCc k f = s.modCc k g := by
  have hc : f (s.core k).cc = g (s.core k).cc := h
  simp only [State.modCc, State.modCore, hc]

/-- R369, R408: TRAP_ENTRY enters the trap that waits, once nothing earlier is in flight and no debug halt holds the core. -/
theorem execTrapEntry_enters {k : Nat} {s : State} {t : TrapInfo} (ht : (s.cc k).trapping = some t) (hd : (s.cc k).regs.drained = true)
    (hw : (s.cc k).wait ≠ .debug) : exec (.trapEntry k) s = .next (s.enterTrap k t.cause t.eval t.epc false) := by
  simp [exec, execTrapEntry, ht, hd, hw]

/-- R408: a debug halt keeps TRAP_ENTRY from entering a trap. -/
theorem execTrapEntry_of_debug {k : Nat} {s : State} (hw : (s.cc k).wait = .debug) : exec (.trapEntry k) s = .next s := by
  simp only [exec, execTrapEntry, hw]
  split <;> simp

/-- R372: ASYNCHRONOUS_TRAP takes the oldest report that may be delivered. -/
theorem execAsynchronousTrap_delivers {k cause at_ : Nat} {v : Word64} {rest : List (Nat × Word64 × Nat)} {s : State} (hr : (s.cc k).reports = (cause, v, at_) :: rest)
    (hd : (s.cc k).deliverable s.cycle = true) (hw : (s.cc k).regs.drained = true) :
    exec (.asynchronousTrap k) s = .next (((s.withdraw k).modCc k fun c => { c with reports := rest }).enterTrap k cause v
      (((s.withdraw k).modCc k fun c => { c with reports := rest }).cc k).pc true) := by
  simp [exec, execAsynchronousTrap, hr, hd, hw]

/-- R117: WFE_TIMEOUT ends the wait whose time has come. -/
theorem execWfeTimeout_ends {k u : Nat} {m : BitVec 4} {d : Operand} {s : State} (hr : (s.cc k).run = .waiting) (hw : (s.cc k).wait = .event m d (some u)) (hu : u = s.cycle) :
    exec (.wfeTimeout k) s = .next (s.endWait k (some (d, 0x80))) := by
  simp [exec, execWfeTimeout, hr, hw, hu]

/-- R20, R22: a fault of the fill goes to every requester. -/
theorem execInstructionCacheFill_fault {k va x a : Nat} {s s' : State} (hf : (s.cc k).fill = some va)
    (hg : s.fetch (dieOf k) k ((s.core k).part.getD 0) 2 va (needX ||| needR) 128 = (.error (x, a), s')) :
    exec (.instructionCacheFill k) s = .next ((s.requesters k va).foldl (fun t j => t.modCc j fun c =>
      { c with fill := none, fillFault := if c.names va then some (c.pc, x, BitVec.ofNat 64 a) else c.fillFault }) s') := by
  simp only [exec, execInstructionCacheFill, hf, hg]

/-- R22: the line goes to the only requester, whose set has a free way. -/
theorem execInstructionCacheFill_line {k va : Nat} {b : List Byte} {s s' : State} (hf : (s.cc k).fill = some va) (hq : s.requesters k va = [k])
    (hn : ((s.cc k).icache.filter fun x : Line => Machine.setOf x.va == Machine.setOf va).length < 4)
    (hg : s.fetch (dieOf k) k ((s.core k).part.getD 0) 2 va (needX ||| needR) 128 = (.ok b, s')) (hi : (s'.cc k).icache = (s.cc k).icache) :
    exec (.instructionCacheFill k) s =
      .next { s'.modCc k fun c => c.addLine { va := va, root := s'.rootOf k, words := wordsOf b 16 } 0 with free := s'.free + 1 } := by
  simp only [exec, execInstructionCacheFill, hf, hg, hq, List.foldl_cons, List.foldl_nil]
  rw [State.modCc_congr]
  simp only [hi, hn, if_true]

/-- Settles O35: one clause for each step, by what its meaning answers under the clause's conditions. -/
theorem controlCoreEvents : Obligations.ControlCoreEvents := fun _ _ _ _ _ _ _ _ _ _ _ =>
  ⟨execTrapEntry_enters, execTrapEntry_of_debug, execAsynchronousTrap_delivers, execWfeTimeout_ends,
    fun hf _ _ _ hg => execInstructionCacheFill_fault hf hg, fun hf hq hn _ _ hg hi => execInstructionCacheFill_line hf hq hn hg hi⟩

end Sys2Proof.Machine
end

section
/-! SUPPORT. A step against the decoder (O55): the fetch of a control core, and the first slot of an element's first context in turn. -/
namespace Sys2Proof.Machine

theorem step_of_todo {s : State} {t : Turn} {rest : List Turn} (h : s.todo = t :: rest) : step s = ({ s with todo := rest } : State).turn t := by
  simp only [step, h]

/-- R19: a word that begins at a multiple of 8 stands in one line whole. -/
theorem codeWord_of_aligned (l : Line) (next : Option Line) {va : Nat} (h : va % 8 = 0) : codeWord l next va = l.words.getD (va % 128 / 8) 0 := by
  simp only [codeWord, h, Nat.mul_zero, pow_zero, Nat.div_one]
  apply BitVec.eq_of_toNat_eq
  rw [BitVec.toNat_ofNat, Nat.add_mul_mod_self_left, Nat.mod_eq_of_lt (BitVec.isLt _)]

/-- R18, R372: the turn of a running core that nothing holds back is its fetch. -/
theorem State.issue_fetches {u : State} {k : Nat} (hz : u.ccFrozen k = false) (hd : (u.cc k).deliverable u.cycle = false) (hr : (u.cc k).run = .running)
    (hn : (u.cc k).nextIssue ≤ u.cycle) (hh : (u.cc k).halting = false) (ht : (u.cc k).trapping = none) (hg : (u.cc k).gbar = none) :
    u.issue k = u.fetchIssue k := by
  simp [State.issue, hz, hd, hr, hn, hh, ht, hg]

/-- R20: a fetch that $CODECAP refuses traps. -/
theorem State.fetchIssue_of_fault {u : State} {k x : Nat} (h : (u.cc k).fetchFault = some x) :
    u.fetchIssue k = .next (u.raise k x ((u.cc k).pc.zeroExtend 64) (u.cc k).pc) := by
  simp only [State.fetchIssue, h]

/-- R21, R51: a fetch within $CODECAP from cached lines issues the word that they hold. -/
theorem State.fetchIssue_of_line {u : State} {k : Nat} {l : Line} (h : (u.cc k).fetchFault = none) (hk : u.lacking k (u.cc k).fetchVa = none)
    (hl : u.line? k (u.cc k).fetchVa = some l) :
    u.fetchIssue k = u.issueWord k (codeWord l (u.line? k ((u.cc k).fetchVa + 7)) (u.cc k).fetchVa) := by
  simp only [State.fetchIssue, h, hk, hl]

/-- R20: the code segment holds the instruction at the PC. -/
theorem ControlCore.fetchFault_of_held {c : ControlCore} (ht : c.codecap.tag = true) (hx : c.codecap.xi = true) (hl : c.pc.toNat + 8 ≤ c.codecap.len) :
    c.fetchFault = none := by
  simp [ControlCore.fetchFault, ht, hx, hl]

/-- R51: a word that decodes is executed on the core. -/
theorem State.issueWord_of_ok {u : State} {k : Nat} {w : Word64} {i : Instr} (h : decode .cc w = .ok i) : u.issueWord k w = exec i { u with site := .cc k } := by
  simp only [State.issueWord, h]

/-- R52: a word that does not decode traps. -/
theorem State.issueWord_of_error {u : State} {k : Nat} {w : Word64} {x : Illegal} (h : decode .cc w = .error x) :
    u.issueWord k w = .next (u.raise k (illegalCode x) w (u.cc k).pc) := by
  simp only [State.issueWord, h]

/-- R145: the first slot of a context, where it fires, ends its search. -/
theorem State.trySlots_of_first {s v : State} {k e x : Nat} {w : Word64} {card : List Word64} {i : Instr} (hd : decode (kindOf e) w = .ok i)
    (hx : exec i { s with site := .ctx k e x 0, fired := false } = .next v) (hv : v.fired = true) : s.trySlots k e x 0 (w :: card) = .next v := by
  simp [State.trySlots, State.trySlot, hd, hx, hv]

/-- R145, R409: at the turn of an element whose first context in turn fires slot 0, that firing is the turn's, and the pointer moves on. -/
theorem State.fire_first {u v : State} {k e rn x : Nat} {r : Region} {w : Word64} {card : List Word64} {cs : List Nat} {i : Instr}
    (hr : (u.core k).regionOf e = some (rn, r)) (hu : (u.elem k e).used = true) (hs : r.started = true) (hz : r.frozen = false) (he : r.ended = false) (hf : r.freeze = .none)
    (ha : (r.row (r.rowOf e)).st = .active) (hc : (u.elem k e).card = w :: card) (ho : u.ctxOrder k e r.det = x :: cs) (hd : decode (kindOf e) w = .ok i)
    (hx : exec i { u with site := .ctx k e x 0, fired := false } = .next v) (hv : v.fired = true) :
    u.fire k e = .next ((v.sample k e x).modElem k e fun y => { y with ptr := (y.ptr + 1) % 4 }) := by
  simp [State.fire, hr, hu, hs, hz, he, hf, ha, hc, ho, State.tryCtxs, State.trySlots_of_first hd hx hv, hv]

/-- Settles O55: the step is the head turn's, and each turn is followed through the schedule to the one instruction or trap that it carries out. -/
theorem stepRunsDecodedInstruction : Obligations.StepRunsDecodedInstruction := by
  intro k e rest i s u c
  refine ⟨fun h => by simp only [step, h], fun h => step_of_todo h, fun h hz hd hr hn hh ht hg => ?_, ?_⟩
  · have hs : step s = u.fetchIssue k := (step_of_todo h).trans (State.issue_fetches (u := u) hz hd hr hn hh ht hg)
    have hfault (x : Nat) (hx : c.fetchFault = some x) : step s = .next (u.raise k x (c.pc.zeroExtend 64) c.pc) := hs.trans (State.fetchIssue_of_fault (u := u) hx)
    refine ⟨fun h1 => hfault _ (by simp [ControlCore.fetchFault, h1]), fun h1 h2 => hfault _ (by simp [ControlCore.fetchFault, h1, h2]),
      fun h1 h2 h3 => hfault _ (by simp [ControlCore.fetchFault, h1, h2, h3]), fun h1 h2 h3 hk l hl => ?_⟩
    have hw := hs.trans (State.fetchIssue_of_line (u := u) (ControlCore.fetchFault_of_held h1 h2 h3) hk hl)
    exact ⟨codeWord_of_aligned l _, fun hd => hw.trans (State.issueWord_of_ok hd), fun _ hx => hw.trans (State.issueWord_of_error hx)⟩
  · intro rn r w card x cs v h hr hu hs hz he hf ha hc ho hd hx hv
    exact (step_of_todo h).trans (State.fire_first (u := u) hr hu hs hz he hf ha hc ho hd hx hv)

end Sys2Proof.Machine
end

section
/-! SUPPORT. The scoreboard (O34): what stays pending when an instruction issues and when it lands, and what lands. -/
namespace Sys2Proof.Machine

/-! ### Masks gathered over a list -/

/-- A bit of the union of masks over a list is set where it is in one of them. -/
theorem getLsbD_foldl_or {α : Type} {w : Nat} (mask : α → BitVec w) (l : List α) (m : BitVec w) (i : Nat) :
    (l.foldl (fun m x => m ||| mask x) m).getLsbD i = (m.getLsbD i || l.any fun x => (mask x).getLsbD i) := by
  induction l generalizing m with
  | nil => simp
  | cons x r ih => simp [ih, Bool.or_assoc]

theorem getLsbD_foldl_or_zero {α : Type} {w : Nat} (mask : α → BitVec w) (l : List α) (i : Nat) :
    (l.foldl (fun m x => m ||| mask x) 0).getLsbD i = l.any fun x => (mask x).getLsbD i := by
  simp [getLsbD_foldl_or]

/-- A mask is taken out of every member of a list and its holder added: the union gains the mask. -/
theorem foldl_or_taken_over {α : Type} {w : Nat} (mask : α → BitVec w) (f : α) (g : α → α) (hg : ∀ x, mask (g x) = mask x &&& ~~~mask f) (l : List α) :
    (l.map g ++ [f]).foldl (fun m x => m ||| mask x) 0 = l.foldl (fun m x => m ||| mask x) 0 ||| mask f := by
  refine BitVec.eq_of_getLsbD_eq fun i hi => ?_
  rw [BitVec.getLsbD_or, getLsbD_foldl_or_zero, getLsbD_foldl_or_zero, List.any_append, List.any_map]
  rw [show ((fun x => (mask x).getLsbD i) ∘ g) = fun x => (mask x).getLsbD i && !(mask f).getLsbD i by funext x; simp [hg, hi]]
  cases h : (mask f).getLsbD i <;> simp [h]

/-- Members of a list that hold a mask which no other shares are dropped: the union loses the mask. -/
theorem foldl_or_dropped {α : Type} {w : Nat} (mask : α → BitVec w) (own : BitVec w) (keep : α → Bool) (l : List α)
    (hk : ∀ x ∈ l, keep x = true → mask x &&& own = 0) (hd : ∀ x ∈ l, keep x = false → mask x = own) :
    (l.filter keep).foldl (fun m x => m ||| mask x) 0 = l.foldl (fun m x => m ||| mask x) 0 &&& ~~~own := by
  refine BitVec.eq_of_getLsbD_eq fun i hi => ?_
  rw [BitVec.getLsbD_and, BitVec.getLsbD_not, getLsbD_foldl_or_zero, getLsbD_foldl_or_zero, decide_eq_true hi, Bool.true_and]
  clear hi
  induction l with
  | nil => rfl
  | cons x r ih =>
    have hr := ih (fun y h => hk y (by simp [h])) (fun y h => hd y (by simp [h]))
    rw [List.filter_cons, List.any_cons, Bool.and_or_distrib_right, ← hr]
    cases hx : keep x with
    | true =>
      have h0 : ((mask x).getLsbD i && own.getLsbD i) = false := by simpa using congrArg (BitVec.getLsbD · i) (hk x (by simp) hx)
      cases ho : own.getLsbD i <;> simp_all
    | false => simp [hd x (by simp) hx]

/-! ### Issue -/

/-- R14: the slices that an issuing instruction writes become pending, and no others. -/
theorem Regs.pending_launch (r : Regs) (f : Flight) : (r.launch f).pending = r.pending ||| f.own := foldl_or_taken_over Flight.own f _ (fun _ => rfl) _

/-- R14: the predicates that an issuing instruction writes become pending, and no others. -/
theorem Regs.pendingPreds_launch (r : Regs) (f : Flight) : (r.launch f).pendingPreds = r.pendingPreds ||| f.pown :=
  foldl_or_taken_over Flight.pown f _ (fun _ => rfl) _

/-- R15: no earlier instruction still owns what an issuing one writes. -/
theorem Regs.launch_takes_over (r : Regs) (f : Flight) : ∀ g ∈ (r.launch f).flights, g ≠ f → g.own &&& f.own = 0 ∧ g.pown &&& f.pown = 0 := by
  intro g hg hne
  obtain ⟨x, -, rfl⟩ : ∃ x ∈ r.flights, x.yield f.own f.pown = g := by simpa [Regs.launch, hne] using hg
  simp [Flight.yield, BitVec.and_assoc, BitVec.and_comm (~~~ _)]

/-! ### Landing -/

theorem getLsbD_merge {w : Nat} (old new own : BitVec w) {i : Nat} (hi : i < w) :
    ((old &&& ~~~own) ||| (new &&& own)).getLsbD i = if own.getLsbD i then new.getLsbD i else old.getLsbD i := by
  rw [BitVec.getLsbD_or, BitVec.getLsbD_and, BitVec.getLsbD_and, BitVec.getLsbD_not, decide_eq_true hi]
  cases own.getLsbD i <;> simp

theorem getLsbD_ofBools (a b c d : Bool) : let m := BitVec.ofBool d ++ (BitVec.ofBool c ++ (BitVec.ofBool b ++ BitVec.ofBool a))
    m.getLsbD 0 = a ∧ m.getLsbD 1 = b ∧ m.getLsbD 2 = c ∧ m.getLsbD 3 = d := by
  revert a b c d; decide

/-- R43: the tags of the four positions. -/
theorem Regs.getLsbD_tags_land (r : Regs) (f : Flight) {q : Nat} (hq : q < 4) : (r.land f).tags.getLsbD q = tagAfter f (r.tags.getLsbD q) q := by
  obtain ⟨h0, h1, h2, h3⟩ :=
    getLsbD_ofBools (tagAfter f (r.tags.getLsbD 0) 0) (tagAfter f (r.tags.getLsbD 1) 1) (tagAfter f (r.tags.getLsbD 2) 2) (tagAfter f (r.tags.getLsbD 3) 3)
  match q, hq with
  | 0, _ => exact h0
  | 1, _ => exact h1
  | 2, _ => exact h2
  | 3, _ => exact h3

theorem posMask_ne_zero {q : Nat} (hq : q < 4) : posMask q ≠ 0 := by
  match q, hq with
  | 0, _ | 1, _ | 2, _ | 3, _ => decide +kernel

/-- R43: of a position that it owns a slice of, an instruction sets the tag only where it carries a tag of 1 for it and owns every slice. -/
theorem tagAfter_of_owned {f : Flight} {old : Bool} {q : Nat} (h : f.own &&& posMask q ≠ 0) :
    tagAfter f old q = true ↔ f.cap = some (q, true) ∧ f.own &&& posMask q = posMask q := by
  rw [tagAfter, if_neg h]
  cases f.cap with
  | none => simp
  | some c => obtain ⟨p, t⟩ := c; simp [and_assoc]

/-- An instruction that is the only one of its number and shares no slice with another leaves the scoreboard with what it owned. -/
theorem Regs.pending_land {r : Regs} {f : Flight} (hid : ∀ g ∈ r.flights, g.id = f.id → g = f) (hown : ∀ g ∈ r.flights, g ≠ f → g.own &&& f.own = 0) :
    (r.land f).pending = r.pending &&& ~~~f.own :=
  foldl_or_dropped Flight.own f.own _ _ (fun g hg hk => hown g hg fun h => by simp [h] at hk) fun g hg hd => by rw [hid g hg (by simpa using hd)]

/-- The same of its predicates. -/
theorem Regs.pendingPreds_land {r : Regs} {f : Flight} (hid : ∀ g ∈ r.flights, g.id = f.id → g = f) (hown : ∀ g ∈ r.flights, g ≠ f → g.pown &&& f.pown = 0) :
    (r.land f).pendingPreds = r.pendingPreds &&& ~~~f.pown :=
  foldl_or_dropped Flight.pown f.pown _ _ (fun g hg hk => hown g hg fun h => by simp [h] at hk) fun g hg hd => by rw [hid g hg (by simpa using hd)]

theorem Regs.fflags_land_of_swr {r : Regs} {f : Flight} {v : Word64} (h : f.sreg = some (0x10, v)) :
    (r.land f).fflags = (v &&& 0x1F) ||| BitVec.ofNat 64 f.flags := by
  simp [Regs.land, h]

theorem Regs.fflags_land {r : Regs} {f : Flight} (h : ∀ v, f.sreg ≠ some (0x10, v)) : (r.land f).fflags = r.fflags ||| BitVec.ofNat 64 f.flags := by
  unfold Regs.land
  cases hs : f.sreg with
  | none => rfl
  | some p =>
    obtain ⟨n, v⟩ := p
    have hn : n ≠ 0x10 := fun hn => h v (by rw [hs, hn])
    simp only [if_neg hn]

/-- Settles O34: what lands is read off bit by bit, and what is pending is the union over the flights, of which an issue adds one and a landing drops one. -/
theorem ownershipOfResults : Obligations.OwnershipOfResults := fun r f =>
  ⟨fun _ hi => getLsbD_merge _ _ _ hi, fun _ hi => getLsbD_merge _ _ _ hi, Regs.fflags_land, fun _ => Regs.fflags_land_of_swr,
    fun q hq h => by rw [Regs.getLsbD_tags_land r f hq, tagAfter, if_pos h],
    fun q hq h ht => (tagAfter_of_owned h).mp (Regs.getLsbD_tags_land r f hq ▸ ht),
    fun q hq hc ho => (Regs.getLsbD_tags_land r f hq).trans ((tagAfter_of_owned (by rw [ho]; exact posMask_ne_zero hq)).mpr ⟨hc, ho⟩),
    rfl, rfl, rfl, rfl, r.pending_launch f, r.pendingPreds_launch f, r.launch_takes_over f, rfl,
    fun hid h => ⟨Regs.pending_land hid fun g hg hne => (h g hg hne).1, Regs.pendingPreds_land hid fun g hg hne => (h g hg hne).2⟩⟩

end Sys2Proof.Machine
end

section
/-! SUPPORT. Write-backs (O33): what a control core's flight and an element's leave, and a write of $CAUSE bit by bit. -/
namespace Sys2Proof.Machine
open Sys2Proof.Claims

/-- R15, R16, R74, R113, R117: a control core's flight lands, and a trap that waited for it is due. -/
theorem execWriteBack_cc {k id : Nat} {f : Flight} {s : State} (hf : ((s.cc k).regs.flights.find? fun g => g.id == id) = some f) (hl : f.left = some 0) :
    exec (.writeBack (.cc k) id) s = .next (s.landCc k f) := by
  simp only [exec, execWriteBack, State.regsAt, hf, hl]
  rfl

/-- R129: an element's flight lands, unless it is a FENCE whose context still has requests. -/
theorem execWriteBack_ctx {k e c slot id : Nat} {f : Flight} {s : State} (hf : ((s.ctx k e c).regs.flights.find? fun g => g.id == id) = some f) (hl : f.left = some 0)
    (hq : f.fence = true → (s.core k).requestsOf e c = false) : exec (.writeBack (.ctx k e c slot) id) s = .next (s.landElem k e c f) := by
  have hq : (f.fence && (s.core k).requestsOf e c) = false := by cases h : f.fence <;> simp [h, hq]
  simp only [exec, execWriteBack, State.regsAt, hf, hl, hq]
  rfl

/-- R129, R139, R140: the results of a flight that names no ordering port, then its outputs in turn. -/
theorem State.landElem_of_unordered {s : State} {k e c : Nat} {f : Flight} {r : Region} (ho : f.ordered = false) (hr : regionOf s k e = some r) :
    s.landElem k e c f = f.outs.foldl (fun t o => t.placeOut k e c f o)
      (s.modCtx k e c fun x => { x.mark f s.cycle (originOf (r.rowOf e) (r.colOf e) c f.seq) with regs := x.regs.land f }) := by
  obtain ⟨⟨rn, r'⟩, hp, rfl⟩ := Option.map_eq_some_iff.mp hr
  simp only [State.landElem, ho, hp]
  rfl

/-- The bits of $CAUSE that a write takes: VEC, ASYNC and CODE. -/
theorem getLsbD_causeMask {i : Nat} (hi : i < 64) : (0xFFFFFFF800000BFF#64).getLsbD i = decide (35 ≤ i ∨ i = 11 ∨ i < 10) := by
  revert i; decide

theorem getLsbD_intrapMask {i : Nat} (hi : i < 64) : (0x0000000000010000#64).getLsbD i = decide (i = 16) := by
  revert i; decide

/-- R368: $CAUSE after a write keeps INTRAP, takes VEC, ASYNC and CODE of the value, and is 0 elsewhere. -/
theorem getLsbD_causeWrite (old v : Word64) {i : Nat} (hi : i < 64) :
    (causeWrite old v).getLsbD i = (old.getLsbD i && decide (i = 16) || v.getLsbD i && decide (35 ≤ i ∨ i = 11 ∨ i < 10)) := by
  rw [causeWrite, BitVec.getLsbD_or, BitVec.getLsbD_and, BitVec.getLsbD_and, getLsbD_intrapMask hi, getLsbD_causeMask hi]

theorem extractLsb'_causeWrite (old v : Word64) {lo n : Nat} (hn : lo + n ≤ 64) (h : ∀ i < n, lo + i ≠ 16 ∧ (35 ≤ lo + i ∨ lo + i = 11 ∨ lo + i < 10)) :
    (causeWrite old v).extractLsb' lo n = v.extractLsb' lo n := by
  refine BitVec.eq_of_getLsbD_eq fun i hi => ?_
  rw [BitVec.getLsbD_extractLsb', BitVec.getLsbD_extractLsb', getLsbD_causeWrite _ _ (by omega)]
  simp [h i hi]

/-- R16: the registers that an SWR does not write. -/
theorem ControlCore.writeSreg_of_other (c : ControlCore) (v : Word64) {n : BitVec 8} (h8 : n ≠ 0x08) (h9 : n ≠ 0x09) (hA : n ≠ 0x0A) : c.writeSreg n v = c := by
  have h (m : BitVec 8) (hm : n ≠ m) : n.toNat ≠ m.toNat := fun h => hm (BitVec.eq_of_toNat_eq h)
  have h8 : n.toNat ≠ 8 := h 8 h8
  have h9 : n.toNat ≠ 9 := h 9 h9
  have hA : n.toNat ≠ 10 := h 10 hA
  unfold ControlCore.writeSreg
  split
  · contradiction
  · contradiction
  · contradiction
  · rfl

/-- Settles O33: the two landings by what WRITE_BACK answers for a flight whose latency has ended, and the special registers by the bits that a write takes. -/
theorem writeBackEvents : Obligations.WriteBackEvents := by
  refine ⟨fun k id f s hf hl => execWriteBack_cc hf hl, fun k e c slot id f r s hf hl ho hq hr => ?_, fun c v => ⟨rfl, rfl, rfl, ?_, ?_, ?_, ?_, ?_, ?_⟩⟩
  · rw [execWriteBack_ctx hf hl hq, State.landElem_of_unordered ho hr]
  · exact extractLsb'_causeWrite _ _ (by omega) (by omega)
  · exact (getLsbD_causeWrite c.cause v (i := 11) (by omega)).trans (by simp)
  · exact extractLsb'_causeWrite _ _ (by omega) (by omega)
  · exact (getLsbD_causeWrite c.cause v (i := 16) (by omega)).trans (by simp)
  · intro i hi h16 h11 h10
    exact (getLsbD_causeWrite c.cause v (by omega)).trans (by simp; omega)
  · intro n h8 h9 hA
    exact c.writeSreg_of_other v h8 h9 hA

end Sys2Proof.Machine
end

section
/-! SUPPORT. The special registers of the control core (O11). -/
namespace Sys2Proof.Machine
open Sys2Proof.Claims Sys2Proof.Laws

/-- R75: nothing holds back an access of a special register other than $FFLAGS, nor one of $FFLAGS once every earlier instruction has written back. -/
theorem flagsHeld_eq_false {s : State} {k : Nat} {n : BitVec 8} (h : n = 0x10 → (s.cc k).regs.drained = true) : flagsHeld s k (.sreg n) = false := by
  simpa [flagsHeld] using h

/-- R16, R116: SRD completes with what it reads. -/
theorem execSrd_next {g : BitVec 16} {d : Operand} {n : BitVec 8} {k : Nat} {s : State} (hs : s.site = .cc k) (hf : n = 0x10 → (s.cc k).regs.drained = true)
    (h : mayIssue (.srd g d (.sreg n)) k s = true) :
    exec (.srd g d (.sreg n)) s = .next (afterAct (.srd g d (.sreg n)) (srdEff d (.sreg n) k s) s s) := by
  rw [exec, execSrd, ctl_next _ _ _ _ hs h]
  simp only [flagsHeld_eq_false hf, afterAct, hs]
  rfl

/-- R116: SWR completes with the register and the value that its write-back writes. -/
theorem execSwr_next {g : BitVec 16} {a : Operand} {n : BitVec 8} {k : Nat} {s : State} (hs : s.site = .cc k) (hf : n = 0x10 → (s.cc k).regs.drained = true)
    (h : mayIssue (.swr g (.sreg n) a) k s = true) :
    exec (.swr g (.sreg n) a) s = .next (afterAct (.swr g (.sreg n) a) { sreg := some (n, BitVec.ofNat 64 (zn s a 64)) } s s) := by
  rw [exec, execSwr, ctl_next _ _ _ _ hs h]
  simp only [flagsHeld_eq_false hf, afterAct, hs]
  rfl

/-- R182: what one string adds to $STRIMB. -/
def Core.strimbPart (c : Core) (n : Nat) : Nat := if c.stringEmpty n then 0 else min 255 ((c.str n).imbalance / 10)

theorem Core.strimbPart_lt (c : Core) (n : Nat) : c.strimbPart n < 256 := by
  unfold Core.strimbPart
  split <;> omega

/-- R182: $STRIMB holds the eight strings' parts, a byte each. -/
theorem Core.strimb_byte (c : Core) {n : Nat} (hn : n < 8) : c.strimb / 2 ^ (8 * n) % 2 ^ 8 = c.strimbPart n := by
  have hs : c.strimb = c.strimbPart 0 + 2 ^ 8 * c.strimbPart 1 + 2 ^ 16 * c.strimbPart 2 + 2 ^ 24 * c.strimbPart 3 + 2 ^ 32 * c.strimbPart 4
      + 2 ^ 40 * c.strimbPart 5 + 2 ^ 48 * c.strimbPart 6 + 2 ^ 56 * c.strimbPart 7 := by
    simp [Core.strimb, Core.strimbPart, upFrom]
  have h := c.strimbPart_lt
  have h0 := h 0
  have h1 := h 1
  have h2 := h 2
  have h3 := h 3
  have h4 := h 4
  have h5 := h 5
  have h6 := h 6
  have h7 := h 7
  rw [hs]
  clear h hs
  interval_cases n <;> omega

/-- R16: an operand that names a special register names one of the table. -/
theorem ccReg_listed {n : BitVec 8} (h : Wf.ccReg (.sreg n) = true) :
    n.toNat ∈ [0x00, 0x01, 0x02, 0x08, 0x09, 0x0A, 0x10, 0x18, 0x19, 0x20, 0x21, 0x22] := by
  revert h n; decide +kernel

theorem operandsOk_of_wf {k : SiteKind} {i : Instr} (h : i.wf k = true) : i.operandsOk k = true := by
  simp only [Instr.wf, Bool.and_eq_true] at h
  exact h.2

/-- R16: SRD and SWR name a listed register, and SRD reads a capability register into a capability-typed operand alone. -/
theorem srd_wf_listed {g : BitVec 16} {d : Operand} {n : BitVec 8} (h : (Instr.srd g d (.sreg n)).wf .cc = true) :
    Wf.ccReg (.sreg n) = true ∧ (n = 0x18 ∨ n = 0x19 → Wf.capOk d = true) := by
  have h := operandsOk_of_wf h
  simp only [Instr.operandsOk, Wf.srdOk, Bool.and_eq_true] at h
  refine ⟨h.1.2, fun hn => ?_⟩
  rcases hn with rfl | rfl <;> exact h.2

theorem swr_wf_listed {g : BitVec 16} {a : Operand} {n : BitVec 8} (h : (Instr.swr g (.sreg n) a).wf .cc = true) : Wf.ccReg (.sreg n) = true := by
  have h := operandsOk_of_wf h
  simp only [Instr.operandsOk, Bool.and_eq_true] at h
  exact h.1

/-- Settles O11: SRD and SWR through the issue rule, the table register by register, and the legal operands from the rule of well-formed words. -/
theorem specialRegisterResults : Obligations.SpecialRegisterResults := by
  refine ⟨fun g d a n k s hs hf => ⟨execSrd_next hs hf, execSwr_next hs hf⟩,
    fun k s => ⟨rfl, rfl, rfl, rfl, rfl, rfl, rfl, rfl, rfl, fun n hn => (s.core k).strimb_byte hn⟩,
    fun g d a n h => ccReg_listed (h.elim (fun h => (srd_wf_listed h).1) swr_wf_listed), fun g p c n hn h => ?_⟩
  have hc := (srd_wf_listed h).2 hn
  simp only [Wf.capOk, Bool.and_eq_true, beq_iff_eq] at hc
  exact ⟨BitVec.eq_of_toNat_eq hc.2, hc.1⟩

end Sys2Proof.Machine
end

section
/-! SUPPORT. A firing that a breakpoint meets (O59): with debug halt enabled, R407 and R408 stop the control core of the element's core, and one that waits is marked to stay halted. -/
namespace Sys2Proof.Machine

/-- A breakpoint word of region 0, block 0, pick 0, slot 0, with no firings left to count, that halts the control core (R407). -/
def haltingBreakpoint : Word64 := 0xC000000000010000#64

/-- Core 0 under a launch with DEBUG: V-element 0 runs thread 0 and has a power token; the breakpoint is set; the control core, with debug halt enabled, waits in a WFE. -/
def breakpointState : State :=
  { site := .ctx 0 0 0 0, cycle := 1
    launches := [(0, { part := 0, queue := 0, words := [2] })]
    cores := [(0, {
      cc := { run := .waiting, wait := .event 1 (.slice 0 0) none, debugHalt := true }
      regions := [(0, fetchRegion)], elems := [(0, fetchElem 0)], strings := [(0, { light := 1 })]
      fbkp := [haltingBreakpoint, 0, 0, 0] })] }

/-- MOVI of 5 to slice 0, as it stands in an element. -/
def firedMovi : Instr := .movi 0 (.slice 0 0) 5

/-- The effect of `firedMovi` (R91). -/
def moviEffect (s : State) : Eff := quietOf s (.slice 0 0) (wrap (sext (5 : BitVec 28).toNat 28) (destWidth (.slice 0 0)))

/-- What the firing leaves. -/
def afterBreakpoint : State := runElem firedMovi (fun s => some (moviEffect s, s)) 0 0 0 0 breakpointState

theorem firedMovi_wf : firedMovi.wf .vElem = true := by decide

theorem exec_firedMovi : exec firedMovi breakpointState = .next afterBreakpoint :=
  if_pos (e := .fault .illFormed) firedMovi_wf

theorem afterBreakpoint_fired : afterBreakpoint.fired = true := by decide +kernel
theorem afterBreakpoint_stall : (afterBreakpoint.cc 0).stall = true := by decide +kernel

/-- Refutes O59: the element clause lets only `run` and `wait` of the firing core's control core change, but a firing that meets a breakpoint with a halt bit stops that control core (R407, R408), and one that waits is marked `stall`. The state is `breakpointState`, the instruction a MOVI. -/
theorem not_registerOnlyFrame : ¬ Obligations.RegisterOnlyFrame := by
  unfold Obligations.RegisterOnlyFrame
  intro h
  obtain ⟨-, hElem⟩ := h firedMovi 0x31 0 0 0 0 breakpointState afterBreakpoint rfl (by decide) exec_firedMovi
  obtain ⟨-, -, -, -, -, hFrame⟩ := hElem rfl
  have hKept : (afterBreakpoint.cc 0).stall = false := congrArg ControlCore.stall hFrame
  rw [afterBreakpoint_stall] at hKept
  cases hKept

end Sys2Proof.Machine
end

section
/-! SUPPORT. An instruction that the decoder answers is well formed at its site: its code and guard are the word's, its modifier passes the site's check, and its operands have been checked
(R51, R52). -/
namespace Sys2Proof

/-- What the decoder need not check again of an instruction built from fields: its code and its guard are the fields', and its modifier is legal wherever the site assigns the fields'. -/
def FitsFields (f : Fields) (o : Option Instr) : Prop :=
  ∀ i, o = some i → i.code = some f.op.toNat ∧ i.guard = f.guard ∧ ∀ k, siteMod k f = true → i.modOk k = true

theorem fitsFields_none (f : Fields) : FitsFields f none := fun _ h => nomatch h

theorem fitsFields_some {f : Fields} {i : Instr} (hc : i.code = some f.op.toNat) (hg : i.guard = f.guard)
    (hm : ∀ k, siteMod k f = true → i.modOk k = true) : FitsFields f (some i) := by
  rintro _ ⟨⟩
  exact ⟨hc, hg, hm⟩

theorem fitsFields_bind {α : Type} {f : Fields} {o : Option α} {g : α → Option Instr} (h : ∀ x, o = some x → FitsFields f (g x)) : FitsFields f (o.bind g) := by
  cases o with
  | none => exact fitsFields_none f
  | some x => exact h x rfl

theorem fitsFields_ite {f : Fields} {c : Prop} [Decidable c] {o : Option Instr} (h : FitsFields f o) : FitsFields f (if c then o else none) := by
  split
  · exact h
  · exact fitsFields_none f

/-- R79: the low bits of a modifier below 4 are below 4. -/
theorem predField_lt {k : SiteKind} (m : BitVec 4) (h : (k == .cc || decide (m.toNat < 4)) = true) :
    (decide (k = .cc) || decide ((m.extractLsb' 0 3).toNat < 4)) = true := by
  cases k with
  | cc => rfl
  | _ => revert m; decide

/-- R227: the group that a modifier names, by its value. -/
theorem groupField_toNat (m : BitVec 4) (h : m.getLsbD 3 = true) : m.toNat = 8 + (m.extractLsb' 0 3).toNat := by
  revert m
  decide

/-- R227: the group of a modifier below `8 + n` is below `n`. -/
theorem groupOk_of_mmacSrcOf {m : BitVec 4} {x : BitVec 12} {src : MmacSrc} {n : Nat} (hs : mmacSrcOf m x = some src) (hm : m.toNat < 8 + n) :
    Wf.groupOk src n = true := by
  unfold mmacSrcOf at hs
  split at hs
  · next hbit =>
    have hval := groupField_toNat m hbit
    split at hs
    · cases hs
      simp only [Wf.groupOk, decide_eq_true_eq]
      omega
    · cases hs
  · obtain ⟨o, -, rfl⟩ := Option.map_eq_some_iff.mp hs
    rfl

theorem build_fits_from_00 (g : BitVec 16) (n : Nat) (hl : 0x0 ≤ n) (h : n < 0x20) (d a b : BitVec 12) (m : BitVec 4) :
    FitsFields ⟨g, BitVec.ofNat 8 n, d, a, b, m⟩ (build ⟨g, BitVec.ofNat 8 n, d, a, b, m⟩) := by
  interval_cases n
  all_goals repeat' first | exact fitsFields_none _ | (refine fitsFields_bind fun _ hs => ?_) | refine fitsFields_ite ?_
  all_goals try exact fitsFields_some rfl rfl fun _ h => h
  · exact fitsFields_some rfl rfl fun _ h => predField_lt m h
  · exact fitsFields_some rfl rfl fun _ h => predField_lt m h

theorem build_fits_from_20 (g : BitVec 16) (n : Nat) (hl : 0x20 ≤ n) (h : n < 0x40) (d a b : BitVec 12) (m : BitVec 4) :
    FitsFields ⟨g, BitVec.ofNat 8 n, d, a, b, m⟩ (build ⟨g, BitVec.ofNat 8 n, d, a, b, m⟩) := by
  interval_cases n
  all_goals repeat' first | exact fitsFields_none _ | (refine fitsFields_bind fun _ hs => ?_) | refine fitsFields_ite ?_
  all_goals exact fitsFields_some rfl rfl fun _ h => h

theorem build_fits_from_40 (g : BitVec 16) (n : Nat) (hl : 0x40 ≤ n) (h : n < 0x60) (d a b : BitVec 12) (m : BitVec 4) :
    FitsFields ⟨g, BitVec.ofNat 8 n, d, a, b, m⟩ (build ⟨g, BitVec.ofNat 8 n, d, a, b, m⟩) := by
  interval_cases n
  all_goals repeat' first | exact fitsFields_none _ | (refine fitsFields_bind fun _ hs => ?_) | refine fitsFields_ite ?_
  all_goals try exact fitsFields_some rfl rfl fun _ h => h
  · exact fitsFields_some rfl rfl fun _ h => predField_lt m h

theorem build_fits_from_60 (g : BitVec 16) (n : Nat) (hl : 0x60 ≤ n) (h : n < 0x80) (d a b : BitVec 12) (m : BitVec 4) :
    FitsFields ⟨g, BitVec.ofNat 8 n, d, a, b, m⟩ (build ⟨g, BitVec.ofNat 8 n, d, a, b, m⟩) := by
  interval_cases n
  all_goals repeat' first | exact fitsFields_none _ | (refine fitsFields_bind fun _ hs => ?_) | refine fitsFields_ite ?_
  all_goals exact fitsFields_some rfl rfl fun _ h => h

theorem build_fits_from_80 (g : BitVec 16) (n : Nat) (hl : 0x80 ≤ n) (h : n < 0xA0) (d a b : BitVec 12) (m : BitVec 4) :
    FitsFields ⟨g, BitVec.ofNat 8 n, d, a, b, m⟩ (build ⟨g, BitVec.ofNat 8 n, d, a, b, m⟩) := by
  interval_cases n
  all_goals repeat' first | exact fitsFields_none _ | (refine fitsFields_bind fun _ hs => ?_) | refine fitsFields_ite ?_
  all_goals exact fitsFields_some rfl rfl fun _ h => h

theorem build_fits_from_A0 (g : BitVec 16) (n : Nat) (hl : 0xA0 ≤ n) (h : n < 0xC0) (d a b : BitVec 12) (m : BitVec 4) :
    FitsFields ⟨g, BitVec.ofNat 8 n, d, a, b, m⟩ (build ⟨g, BitVec.ofNat 8 n, d, a, b, m⟩) := by
  interval_cases n
  all_goals repeat' first | exact fitsFields_none _ | (refine fitsFields_bind fun _ hs => ?_) | refine fitsFields_ite ?_
  all_goals try exact fitsFields_some rfl rfl fun _ h => h
  · next hsrc _ => exact fitsFields_some rfl rfl fun _ h => groupOk_of_mmacSrcOf hsrc (of_decide_eq_true h)
  · next hsrc _ => exact fitsFields_some rfl rfl fun _ h => groupOk_of_mmacSrcOf hsrc (of_decide_eq_true h)
  · next hsrc _ => exact fitsFields_some rfl rfl fun _ _ => groupOk_of_mmacSrcOf hsrc m.isLt

theorem build_fits_from_C0 (g : BitVec 16) (n : Nat) (hl : 0xC0 ≤ n) (h : n < 0xE0) (d a b : BitVec 12) (m : BitVec 4) :
    FitsFields ⟨g, BitVec.ofNat 8 n, d, a, b, m⟩ (build ⟨g, BitVec.ofNat 8 n, d, a, b, m⟩) := by
  interval_cases n
  all_goals repeat' first | exact fitsFields_none _ | (refine fitsFields_bind fun _ hs => ?_) | refine fitsFields_ite ?_
  all_goals exact fitsFields_some rfl rfl fun _ h => h

theorem build_fits_from_E0 (g : BitVec 16) (n : Nat) (hl : 0xE0 ≤ n) (h : n < 0x100) (d a b : BitVec 12) (m : BitVec 4) :
    FitsFields ⟨g, BitVec.ofNat 8 n, d, a, b, m⟩ (build ⟨g, BitVec.ofNat 8 n, d, a, b, m⟩) := by
  interval_cases n
  all_goals repeat' first | exact fitsFields_none _ | (refine fitsFields_bind fun _ hs => ?_) | refine fitsFields_ite ?_
  all_goals exact fitsFields_some rfl rfl fun _ h => h

/-- R31, R50: an instruction built from fields has their code and their guard, and a modifier legal wherever theirs is. -/
theorem build_fits (f : Fields) : FitsFields f (build f) := by
  obtain ⟨g, op, d, a, b, m⟩ := f
  obtain ⟨n, hn, rfl⟩ : ∃ n, n < 0x100 ∧ op = BitVec.ofNat 8 n := ⟨op.toNat, op.isLt, by simp⟩
  rcases lt_or_ge n 0x20 with h20 | h20
  · exact build_fits_from_00 g n n.zero_le h20 d a b m
  rcases lt_or_ge n 0x40 with h40 | h40
  · exact build_fits_from_20 g n h20 h40 d a b m
  rcases lt_or_ge n 0x60 with h60 | h60
  · exact build_fits_from_40 g n h40 h60 d a b m
  rcases lt_or_ge n 0x80 with h80 | h80
  · exact build_fits_from_60 g n h60 h80 d a b m
  rcases lt_or_ge n 0xA0 with hA0 | hA0
  · exact build_fits_from_80 g n h80 hA0 d a b m
  rcases lt_or_ge n 0xC0 with hC0 | hC0
  · exact build_fits_from_A0 g n hA0 hC0 d a b m
  rcases lt_or_ge n 0xE0 with hE0 | hE0
  · exact build_fits_from_C0 g n hC0 hE0 d a b m
  exact build_fits_from_E0 g n hE0 hn d a b m

/-- R51, R52: an instruction that the decoder answers may stand at the site. -/
theorem wf_of_decode {k : SiteKind} {w : Word64} {i : Instr} (h : decode k w = .ok i) : i.wf k = true := by
  unfold decode at h
  simp only at h
  split at h
  · cases h
  split at h
  · cases h
  next hassigned =>
  split at h
  · cases h
  next hguard =>
  split at h
  · cases h
  next hbuild =>
  split at h
  · next hops =>
    cases h
    obtain ⟨hc, hg, hm⟩ := build_fits _ _ hbuild
    simp only [Bool.not_eq_true', Bool.not_eq_false, Bool.and_eq_true] at hassigned hguard
    obtain ⟨⟨-, hsite⟩, hmod⟩ := hassigned
    simp [Instr.wf, hc, hg, hm k hmod, hsite, hguard, hops]
  · cases h

end Sys2Proof
end

section
/-! SUPPORT. A step from a sound state goes on and leaves a sound state (O56). In the order of the model's files: what an operation adds to the turns of a cycle or to the steps due later is
sound (`…_sound`), and so is what the effect of an instruction, an instruction, a turn of a cycle and a step leave. An instruction word runs where the decoder has found it well formed, so it
meets no `illFormed`. A lemma `…_sound` that holds by definition is proved `by rfl`, not by the term `rfl`: `simp` then uses it as an equation, which it needs for the step of a fold
(`foldl_sound`). -/
namespace Sys2Proof.Machine

/-! ### The soundness of a state -/

/-- `State.sound`, by the constructor: `simp` reads off a state that is written out what its turns are. -/
def State.turnsSound : State → Bool
  | { todo, timers, .. } => todo.all Turn.sound && timers.all fun t => t.2.sound

/-- The equation of `State.turnsSound`, on a state that is written out. -/
@[simp] theorem State.turnsSound_mk : type_of% @State.turnsSound.eq_1 := @State.turnsSound.eq_1

theorem State.sound_eq_turnsSound (s : State) : s.sound = s.turnsSound := by rfl

@[simp] theorem State.all_todo_timers (s : State) : (s.todo.all Turn.sound && s.timers.all fun t => t.2.sound) = s.turnsSound := by rfl

/-! ### The turns that the model posts or builds are sound -/

/-- Steps of spec/95 with one argument. -/
@[simp] theorem Turn.unary_step_sound :
    (∀ a, (Turn.ev (.acknowledgeTimer a)).sound = true) ∧ (∀ a, (Turn.ev (.criticalPathStep a)).sound = true) ∧ (∀ a, (Turn.ev (.instructionCacheFill a)).sound = true)
      ∧ (∀ a, (Turn.ev (.laneMapResend a)).sound = true) ∧ (∀ a, (Turn.ev (.laneMapSwitch a)).sound = true) ∧ (∀ a, (Turn.ev (.leaseExpiry a)).sound = true)
      ∧ (∀ a, (Turn.ev (.messageTake a)).sound = true) ∧ (∀ a, (Turn.ev (.reinitialisationEnd a)).sound = true) ∧ (∀ a, (Turn.ev (.scanComplete a)).sound = true)
      ∧ (∀ a, (Turn.ev (.trackerPeriod a)).sound = true) ∧ (∀ a, (Turn.ev (.trapEntry a)).sound = true) ∧ (∀ a, (Turn.ev (.wfeTimeout a)).sound = true) := by
  and_intros <;> intros <;> rfl

/-- Steps of spec/95 with two arguments. -/
@[simp] theorem Turn.binary_step_sound :
    (∀ a b, (Turn.ev (.writeBack a b)).sound = true) ∧ (∀ a b, (Turn.ev (.drain a b)).sound = true) ∧ (∀ a b, (Turn.ev (.edgeValueArrival a b)).sound = true)
      ∧ (∀ a b, (Turn.ev (.engineCompletion a b)).sound = true) ∧ (∀ a b, (Turn.ev (.engineUnit a b)).sound = true) ∧ (∀ a b, (Turn.ev (.entryTokenSend a b)).sound = true)
      ∧ (∀ a b, (Turn.ev (.farAtomicCompletion a b)).sound = true) ∧ (∀ a b, (Turn.ev (.fillerFiring a b)).sound = true) ∧ (∀ a b, (Turn.ev (.freezeEnd a b)).sound = true)
      ∧ (∀ a b, (Turn.ev (.freezeWave a b)).sound = true) ∧ (∀ a b, (Turn.ev (.initialRecordAppend a b)).sound = true) ∧ (∀ a b, (Turn.ev (.launchCompletion a b)).sound = true)
      ∧ (∀ a b, (Turn.ev (.memberPlacement a b)).sound = true) ∧ (∀ a b, (Turn.ev (.memberStart a b)).sound = true) ∧ (∀ a b, (Turn.ev (.messageDelivery a b)).sound = true)
      ∧ (∀ a b, (Turn.ev (.passStart a b)).sound = true) ∧ (∀ a b, (Turn.ev (.preemption a b)).sound = true) ∧ (∀ a b, (Turn.ev (.recordCheck a b)).sound = true)
      ∧ (∀ a b, (Turn.ev (.recordEnqueue a b)).sound = true) ∧ (∀ a b, (Turn.ev (.regionStop a b)).sound = true) ∧ (∀ a b, (Turn.ev (.restore a b)).sound = true)
      ∧ (∀ a b, (Turn.ev (.shootdownComplete a b)).sound = true) ∧ (∀ a b, (Turn.ev (.stagingFill a b)).sound = true) ∧ (∀ a b, (Turn.ev (.wrapDelivery a b)).sound = true) := by
  and_intros <;> intros <;> rfl

/-- Steps of spec/95 with three arguments, and the pick load with four. -/
@[simp] theorem Turn.ternary_step_sound :
    (∀ a b c, (Turn.ev (.busPacketDiscard a b c)).sound = true) ∧ (∀ a b c, (Turn.ev (.eviction a b c)).sound = true) ∧ (∀ a b c, (Turn.ev (.nodeRequest a b c)).sound = true)
      ∧ (∀ a b c, (Turn.ev (.segmentHandover a b c)).sound = true) ∧ (∀ a b c, (Turn.ev (.shootdownAck a b c)).sound = true)
      ∧ (∀ a b c, (Turn.ev (.shootdownTimeout a b c)).sound = true) ∧ (∀ a b c, (Turn.ev (.streamRead a b c)).sound = true) ∧ (∀ a b c, (Turn.ev (.streamRetry a b c)).sound = true)
      ∧ (∀ a b c, (Turn.ev (.streamWrite a b c)).sound = true) ∧ (∀ a b c, (Turn.ev (.tokenTransfer a b c)).sound = true) ∧ (∀ a b c, (Turn.ev (.wrapOverflow a b c)).sound = true)
      ∧ (∀ a b c, (Turn.ev (.restoreComplete a b c)).sound = true) ∧ (∀ a b c, (Turn.ev (.spillComplete a b c)).sound = true) ∧ (∀ a b c, (Turn.ev (.gangAbort a b c)).sound = true)
      ∧ (∀ a b c d, (Turn.ev (.pickLoad a b c d)).sound = true) := by
  and_intros <;> intros <;> rfl

/-- The turns of the model's own names. -/
@[simp] theorem Turn.named_sound :
    Turn.sound .flush = true ∧ Turn.sound .measure = true ∧ Turn.sound .power = true ∧ Turn.sound .interval = true ∧ Turn.sound .instalment = true
      ∧ (∀ a, (Turn.issue a).sound = true) ∧ (∀ a b, (Turn.fire a b).sound = true) ∧ (∀ a, (Turn.filler a).sound = true) ∧ (∀ a, (Turn.load a).sound = true)
      ∧ (∀ a, (Turn.move a).sound = true) ∧ (∀ a b c, (Turn.fail a b c).sound = true) ∧ (∀ a, (Turn.sense a).sound = true) ∧ (∀ a b, (Turn.leak a b).sound = true)
      ∧ (∀ a b, (Turn.lookup a b).sound = true) ∧ (∀ a b, (Turn.cancel a b).sound = true) ∧ (∀ a b, (Turn.dump a b).sound = true) ∧ (∀ a, (Turn.remap a).sound = true)
      ∧ (∀ a, (Turn.replay a).sound = true) ∧ (∀ a, (Turn.link a).sound = true) ∧ (∀ a b, (Turn.flit a b).sound = true) ∧ (∀ a, (Turn.silent a).sound = true)
      ∧ (∀ a, (Turn.switched a).sound = true) ∧ (∀ a b, (Turn.collDue a b).sound = true) ∧ (∀ a b, (Turn.collPeers a b).sound = true) ∧ (∀ a b, (Turn.barDue a b).sound = true)
      ∧ (∀ a, (Turn.resetIdle a).sound = true) ∧ (∀ a, (Turn.resetEnd a).sound = true) ∧ (∀ a, (Turn.irq a).sound = true) ∧ (∀ a, (Turn.retrained a).sound = true)
      ∧ (∀ a b c d, (Turn.freeBanks a b c d).sound = true) := by
  and_intros <;> intros <;> rfl

@[simp] theorem Turn.ite_sound {c : Prop} [Decidable c] (t u : Turn) : (if c then t else u).sound = if c then t.sound else u.sound := apply_ite ..
@[simp] theorem Turn.ev_ite_sound {c : Prop} [Decidable c] (i j : Instr) : (Turn.ev (if c then i else j)).sound = if c then (Turn.ev i).sound else (Turn.ev j).sound :=
  apply_ite (fun i => (Turn.ev i).sound) ..
@[simp] theorem all_ite_sound {c : Prop} [Decidable c] (l m : List Turn) :
    (if c then l else m).all Turn.sound = if c then l.all Turn.sound else m.all Turn.sound := apply_ite (List.all · Turn.sound) ..

/-! ### Steps due later, and the updates of a state -/

theorem State.todo_sound {s : State} (h : s.turnsSound = true) : s.todo.all Turn.sound = true := by
  rw [← State.all_todo_timers, Bool.and_eq_true] at h
  exact h.1

theorem State.timers_sound {s : State} (h : s.turnsSound = true) : (s.timers.all fun t => t.2.sound) = true := by
  rw [← State.all_todo_timers, Bool.and_eq_true] at h
  exact h.2

theorem all_filter_of_all {α : Type} {p q : α → Bool} {l : List α} (h : l.all p = true) : (l.filter q).all p = true :=
  List.all_eq_true.mpr fun x hx => List.all_eq_true.mp h x (List.mem_of_mem_filter hx)

theorem all_insertTime {α : Type} (p : α → Bool) (l : List (Nat × α)) (t : Nat) (v : α) :
    ((insertTime l t v).all fun x => p x.2) = (p v && l.all fun x => p x.2) := by
  induction l with
  | nil => rfl
  | cons x r ih =>
    unfold insertTime
    split
    · rfl
    · simp [ih, Bool.and_left_comm]

@[simp] theorem State.after_timers_all (s : State) (d : Nat) (t : Turn) :
    ((s.after d t).timers.all fun x => x.2.sound) = (t.sound && s.timers.all fun x => x.2.sound) := all_insertTime ..

@[simp] theorem State.after_sound (s : State) (d : Nat) (t : Turn) : (s.after d t).turnsSound = (t.sound && s.turnsSound) := by
  rw [← State.all_todo_timers, State.after_todo, State.after_timers_all, Bool.and_left_comm, State.all_todo_timers]

@[simp] theorem State.modCore_sound (s : State) (k : Nat) (f : Core → Core) : (s.modCore k f).turnsSound = s.turnsSound := by rfl
@[simp] theorem State.modCc_sound (s : State) (k : Nat) (f : ControlCore → ControlCore) : (s.modCc k f).turnsSound = s.turnsSound := by rfl
@[simp] theorem State.modElem_sound (s : State) (k e : Nat) (f : Elem → Elem) : (s.modElem k e f).turnsSound = s.turnsSound := by rfl
@[simp] theorem State.modCtx_sound (s : State) (k e c : Nat) (f : Ctx → Ctx) : (s.modCtx k e c f).turnsSound = s.turnsSound := by rfl
@[simp] theorem State.modRegion_sound (s : State) (k r : Nat) (f : Region → Region) : (s.modRegion k r f).turnsSound = s.turnsSound := by rfl
@[simp] theorem State.modPart_sound (s : State) (p : Nat) (f : Part → Part) : (s.modPart p f).turnsSound = s.turnsSound := by rfl
@[simp] theorem State.modLaunch_sound (s : State) (l : Nat) (f : Launch → Launch) : (s.modLaunch l f).turnsSound = s.turnsSound := by rfl
@[simp] theorem State.put_sound (s : State) (a : Nat) (v : List Byte) : (s.put a v).turnsSound = s.turnsSound := by rfl
@[simp] theorem State.store_sound (s : State) (loc n v : Nat) : (s.store loc n v).turnsSound = s.turnsSound := by rfl
@[simp] theorem State.post_sound (s : State) (r : EventRec) : (s.post r).turnsSound = s.turnsSound := by rfl
@[simp] theorem State.interrupt_sound (s : State) (p v : Nat) : (s.interrupt p v).turnsSound = s.turnsSound := by rfl

@[simp] theorem State.turnsSound_ite {c : Prop} [Decidable c] (s t : State) : (if c then s else t).turnsSound = if c then s.turnsSound else t.turnsSound := apply_ite ..
@[simp] theorem snd_turnsSound_ite {α : Type} {c : Prop} [Decidable c] (p q : α × State) : (if c then p else q).2.turnsSound = if c then p.2.turnsSound else q.2.turnsSound :=
  apply_ite (fun p : α × State => p.2.turnsSound) ..

@[simp] theorem State.storeCap_sound (s : State) (loc : Nat) (c : Cap) : (s.storeCap loc c).turnsSound = s.turnsSound := by simp [State.storeCap]

/-- The soundness of a state that a call answers beside its result. -/
theorem sound_of_call {α : Type} {p : α × State} {a : α} {t : State} {b : Bool} (h : p = (a, t)) (hp : p.2.turnsSound = b) : t.turnsSound = b := by
  subst h; exact hp

/-- A fold of steps that keep the soundness keeps it. -/
@[simp] theorem foldl_sound {α : Type} {f : State → α → State} (hf : ∀ s x, (f s x).turnsSound = s.turnsSound) (l : List α) (s : State) : (l.foldl f s).turnsSound = s.turnsSound := by
  induction l generalizing s with
  | nil => rfl
  | cons x r ih => exact (ih (f s x)).trans (hf s x)

/-! ### Ops -/

@[simp] theorem State.draw_sound (s : State) : s.draw.2.turnsSound = s.turnsSound := by rfl

@[simp] theorem State.enterTrap_sound (s : State) (k cause : Nat) (v : Word64) (pc : BitVec 32) (async : Bool) : (s.enterTrap k cause v pc async).turnsSound = s.turnsSound := by
  simp only [State.enterTrap, State.turnsSound_ite, State.modCc_sound, ite_eq_right_iff]
  intro _
  split <;> rfl

@[simp] theorem State.raise_sound (s : State) (k cause : Nat) (v : Word64) (pc : BitVec 32) : (s.raise k cause v pc).turnsSound = s.turnsSound := by simp [State.raise]

/-! ### Posts -/

@[simp] theorem State.postCore_sound (s : State) (k type arg0 arg1 : Nat) : (s.postCore k type arg0 arg1).turnsSound = s.turnsSound := by
  unfold State.postCore
  split <;> simp

@[simp] theorem State.postStr_sound (s : State) (k str type arg0 arg1 : Nat) : (s.postStr k str type arg0 arg1).turnsSound = s.turnsSound := by
  unfold State.postStr
  split <;> simp

@[simp] theorem State.traceCc_sound (s : State) (k type arg0 arg1 : Nat) : (s.traceCc k type arg0 arg1).turnsSound = s.turnsSound := by
  unfold State.traceCc
  split <;> simp

@[simp] theorem State.traceRegion_sound (s : State) (k rn type arg0 arg1 : Nat) : (s.traceRegion k rn type arg0 arg1).turnsSound = s.turnsSound := by
  unfold State.traceRegion
  split <;> simp

/-! ### Operands -/

@[simp] theorem State.modEdge_sound (s : State) (l i : Nat) (f : LEdge → LEdge) : (s.modEdge l i f).turnsSound = s.turnsSound := by rfl

/-! ### Run -/

@[simp] theorem State.beginThread_sound (s : State) (k e c : Nat) (g : BitVec 16) : (s.beginThread k e c g).turnsSound = s.turnsSound := by
  unfold State.beginThread
  cases s.chanHead k e c (guardCH g) <;> simp

@[simp] theorem State.popChan_sound (s : State) (k e ch : Nat) : (s.popChan k e ch).turnsSound = s.turnsSound := by rfl
@[simp] theorem State.popPort_sound (s : State) (k e p : Nat) : (s.popPort k e p).turnsSound = s.turnsSound := by rfl

@[simp] theorem State.popPass_sound (s : State) (k e q : Nat) : (s.popPass k e q).turnsSound = s.turnsSound := by
  unfold State.popPass
  split <;> simp

@[simp] theorem State.consume_sound (s : State) (k e : Nat) (h : Shape) : (s.consume k e h).turnsSound = s.turnsSound := by simp [State.consume]
@[simp] theorem State.haltCc_sound (s : State) (k : Nat) : (s.haltCc k).turnsSound = s.turnsSound := by simp [State.haltCc]

@[simp] theorem State.note_sound (s : State) (i : Instr) (k e c slot : Nat) (x : Ctx) (met : Nat × Nat × Nat) : (s.note i k e c slot x met).turnsSound = s.turnsSound := by
  unfold State.note
  split <;> simp

/-! ### Reports -/

@[simp] theorem State.regionFault_sound (s : State) (k rn cause arg0 pick : Nat) : (s.regionFault k rn cause arg0 pick).turnsSound = s.turnsSound := by
  unfold State.regionFault
  split
  · rfl
  · simp only
    split <;> simp

@[simp] theorem State.mcheck_sound (s : State) (k cause action addr : Nat) : (s.mcheck k cause action addr).turnsSound = s.turnsSound := by simp [State.mcheck]

@[simp] theorem State.unitCheck_sound (s : State) (k loc n : Nat) (ctrl : Bool) : (s.unitCheck k loc n ctrl).turnsSound = s.turnsSound := by
  unfold State.unitCheck
  split <;> simp

@[simp] theorem State.ctlCheck_sound (s : State) (k rn loc n : Nat) : (s.ctlCheck k rn loc n).turnsSound = s.turnsSound := by simp [State.ctlCheck]

/-! ### MemInstr -/

@[simp] theorem State.useBanks_sound (s : State) (k : Nat) (banks : List Nat) : (s.useBanks k banks).turnsSound = s.turnsSound := by rfl
@[simp] theorem State.serve_sound (s : State) (k order : Nat) (banks : List Nat) : (s.serve k order banks).turnsSound = s.turnsSound := by rfl

@[simp] theorem State.modMember_sound (s : State) (k : Nat) (f : Member → Member) : (s.modMember k f).turnsSound = s.turnsSound := by
  unfold State.modMember
  split <;> simp

/-! ### Xlate -/

@[simp] theorem State.heatUp_sound (s : State) (d : Nat) : (s.heatUp d).turnsSound = s.turnsSound := by rfl
@[simp] theorem State.keep_sound (s : State) (x : XEntry) : (s.keep x).turnsSound = s.turnsSound := by rfl
@[simp] theorem State.heatPte_sound (s : State) (d : Nat) : (s.heatPte d).turnsSound = s.turnsSound := by simp [State.heatPte]

@[simp] theorem State.walkPte_sound (s : State) (cache part space lvl va d : Nat) : (s.walkPte cache part space lvl va d).2.turnsSound = s.turnsSound := by
  simp only [State.walkPte]
  split <;> simp

@[simp] theorem State.pteAt_sound (s : State) (cache part space lvl va d : Nat) : (s.pteAt cache part space lvl va d).2.turnsSound = s.turnsSound := by
  unfold State.pteAt
  split <;> simp

@[simp] theorem State.walkFrom_sound (s : State) (cache part space va need n t : Nat) : (s.walkFrom cache part space va need n t).2.turnsSound = s.turnsSound := by
  induction n generalizing s t with
  | zero => rfl
  | succ n ih =>
    unfold State.walkFrom
    simp only
    split <;> next h => simp [ih, sound_of_call h (State.pteAt_sound ..)]

@[simp] theorem State.walk_sound (s : State) (cache part space va need : Nat) : (s.walk cache part space va need).2.turnsSound = s.turnsSound := by simp [State.walk]

@[simp] theorem State.placeDpa_sound (s : State) (r : Xl × State) : (s.placeDpa r).2.turnsSound = r.2.turnsSound := by
  obtain ⟨_ | d, t⟩ := r
  · rfl
  · cases h : t.media d <;> simp [State.placeDpa, h]

@[simp] theorem State.modGroup_sound (s : State) (g : Nat) (f : LaneGroup → LaneGroup) : (s.modGroup g f).turnsSound = s.turnsSound := by rfl
@[simp] theorem State.buildRoutes_sound (s : State) : s.buildRoutes.turnsSound = s.turnsSound := by rfl
@[simp] theorem State.dropRoutes_sound (s : State) (pkg : Nat) : (s.dropRoutes pkg).turnsSound = s.turnsSound := by simp [State.dropRoutes]
@[simp] theorem State.portSend_sound (s : State) (k pkg a : Nat) : (s.portSend k pkg a).turnsSound = s.turnsSound := by rfl

@[simp] theorem State.placePeer_sound (s : State) (cache k part a need : Nat) : (s.placePeer cache k part a need).2.turnsSound = s.turnsSound := by
  simp only [State.placePeer, snd_turnsSound_ite, ite_eq_left_iff]
  intro _
  split
  · rfl
  · simp only [snd_turnsSound_ite, State.after_sound, State.draw_sound, State.portSend_sound, Turn.named_sound, Bool.true_and, ite_self, ite_eq_left_iff, ite_eq_right_iff]
    intro _ _ _
    split <;> simp

@[simp] theorem State.place_sound (s : State) (cache k part space a need : Nat) : (s.place cache k part space a need).2.turnsSound = s.turnsSound := by
  unfold State.place
  split <;> simp

@[simp] theorem State.remoteBytes_sound (s : State) (n : Nat) : (s.remoteBytes n).2.turnsSound = s.turnsSound := by
  induction n generalizing s with
  | zero => rfl
  | succ n ih => simp [State.remoteBytes, ih]

@[simp] theorem State.readPlace_sound (s : State) (p : Place) (n : Nat) : (s.readPlace p n).2.turnsSound = s.turnsSound := by
  cases p with
  | remote => simp [State.readPlace]
  | loc x d => cases d <;> simp [State.readPlace]

@[simp] theorem State.fetchBytes_sound (s : State) (cache k part space a need n : Nat) : (s.fetchBytes cache k part space a need n).2.turnsSound = s.turnsSound := by
  induction n generalizing s a with
  | zero => rfl
  | succ n ih =>
    unfold State.fetchBytes
    split
    · next h => exact sound_of_call h (State.place_sound ..)
    next h =>
    have hp := sound_of_call h (State.place_sound ..)
    split
    · next h => exact (sound_of_call h (State.readPlace_sound ..)).trans hp
    next h =>
    have hr := (sound_of_call h (State.readPlace_sound ..)).trans hp
    split <;> next h => exact (sound_of_call h (ih ..)).trans hr

@[simp] theorem State.fetch_sound (s : State) (cache k part space a need n : Nat) : (s.fetch cache k part space a need n).2.turnsSound = s.turnsSound := by simp [State.fetch]

/-! ### EngineInstr -/

@[simp] theorem State.modEngine_sound (s : State) (k i : Nat) (f : List Cmd → List Cmd) : (s.modEngine k i f).turnsSound = s.turnsSound := by rfl
@[simp] theorem State.modCmd_sound (s : State) (k id : Nat) (f : Cmd → Cmd) : (s.modCmd k id f).turnsSound = s.turnsSound := by rfl
@[simp] theorem State.moveToken_sound (s : State) (k b : Nat) (h : Option Nat) : (s.moveToken k b h).turnsSound = s.turnsSound := by rfl

theorem fifoCheck_sound (s : State) (k : Nat) (w : BlockWords) : ∀ r ∈ fifoCheck s k w, r.2.2.turnsSound = s.turnsSound := by
  unfold fifoCheck
  simp only
  split_ifs <;> simp

@[simp] theorem State.modBar_sound (s : State) (l n : Nat) (f : Bar → Bar) : (s.modBar l n f).turnsSound = s.turnsSound := by rfl
@[simp] theorem State.passBar_sound (s : State) (k : Nat) : (s.passBar k).turnsSound = s.turnsSound := by rfl
@[simp] theorem State.leaveColl_sound (s : State) (k id : Nat) : (s.leaveColl k id).turnsSound = s.turnsSound := by rfl

/-! ### SystemOps -/

@[simp] theorem State.endWait_sound (s : State) (k : Nat) (res : Option (Operand × Nat)) : (s.endWait k res).turnsSound = s.turnsSound := by rfl

@[simp] theorem State.wake_sound (s : State) (k : Nat) : (s.wake k).turnsSound = s.turnsSound := by
  simp only [State.wake, State.turnsSound_ite, ite_eq_left_iff]
  intro _
  split <;> simp

/-! ### Records -/

@[simp] theorem State.setLatch_sound (s : State) (k n : Nat) : (s.setLatch k n).turnsSound = s.turnsSound := by rfl
@[simp] theorem State.latchAll_sound (s : State) (p n : Nat) : (s.latchAll p n).turnsSound = s.turnsSound := by simp [State.latchAll]
@[simp] theorem State.recordWritten_sound (s : State) (p : Nat) : (s.recordWritten p).turnsSound = s.turnsSound := by simp [State.recordWritten]

/-! ### Power -/

@[simp] theorem State.postPart_sound (s : State) (p type arg0 arg1 : Nat) : (s.postPart p type arg0 arg1).turnsSound = s.turnsSound := by rfl
@[simp] theorem State.askLease_sound (s : State) (p dur pct : Nat) (l : Option Nat) : (s.askLease p dur pct l).2.turnsSound = s.turnsSound := by simp [State.askLease]
@[simp] theorem State.forfeit_sound (s : State) (p left : Nat) : (s.forfeit p left).turnsSound = s.turnsSound := by rfl

@[simp] theorem State.endLease_sound (s : State) (p reason : Nat) : (s.endLease p reason).turnsSound = s.turnsSound := by
  unfold State.endLease
  split <;> simp

@[simp] theorem State.removeCore_sound (s : State) (p lc : Nat) : (s.removeCore p lc).turnsSound = s.turnsSound := by
  unfold State.removeCore
  split <;> simp

/-! ### TokenOps -/

@[simp] theorem State.releaseThread_sound (s : State) (k e c : Nat) : (s.releaseThread k e c).turnsSound = s.turnsSound := by
  simp only [State.releaseThread]
  split <;> simp

@[simp] theorem State.endThread_sound (s : State) (k e : Nat) : (s.endThread k e).turnsSound = s.turnsSound := by
  unfold State.endThread
  split <;> simp

@[simp] theorem State.passRow_sound (s : State) (k rn i : Nat) : (s.passRow k rn i).turnsSound = s.turnsSound := by
  unfold State.passRow
  split <;> simp

@[simp] theorem State.passRows_sound (s : State) (k rn : Nat) : (s.passRows k rn).turnsSound = s.turnsSound := by
  unfold State.passRows
  split <;> simp

/-! ### EvCore -/

@[simp] theorem State.writeToken_sound (s : State) (k id start v : Nat) (cap : Option Cap) : (s.writeToken k id start v cap).turnsSound = s.turnsSound := by
  unfold State.writeToken
  split <;> simp

@[simp] theorem State.finishToken_sound (s : State) (k id v : Nat) (cap : Option Cap) : (s.finishToken k id v cap).turnsSound = s.turnsSound := by simp [State.finishToken]

@[simp] theorem State.sendToken_sound (s : State) (k e ch : Nat) (t : Token) : (s.sendToken k e ch t).turnsSound = s.turnsSound := by
  unfold State.sendToken
  split <;> simp

@[simp] theorem State.sendCtok_sound (s : State) (k e p : Nat) (t : Token) : (s.sendCtok k e p t).turnsSound = s.turnsSound := by
  unfold State.sendCtok
  split <;> simp

@[simp] theorem State.handOver_sound (s : State) (path : List Nat) (e hop : Nat) (p : BitVec 224) : (s.handOver path e hop p).turnsSound = s.turnsSound := by
  unfold State.handOver
  split <;> simp

@[simp] theorem State.sendPass_sound (s : State) (k e q : Nat) (t : Token) : (s.sendPass k e q t).turnsSound = s.turnsSound := by
  unfold State.sendPass
  split
  · simp
  · split <;> simp

@[simp] theorem State.queueRequest_sound (s : State) (k e st : Nat) (q : NodeReq) : (s.queueRequest k e st q).turnsSound = s.turnsSound := by rfl
@[simp] theorem State.exitTarget_sound (s : State) (k rn : Nat) (r : Region) (e n : Nat) : (s.exitTarget k rn r e n).turnsSound = s.turnsSound := by simp [State.exitTarget]
@[simp] theorem State.landCc_sound (s : State) (k : Nat) (f : Flight) : (s.landCc k f).turnsSound = s.turnsSound := by simp [State.landCc]

@[simp] theorem State.withdraw_sound (s : State) (k : Nat) : (s.withdraw k).turnsSound = s.turnsSound := by
  unfold State.withdraw
  split <;> simp

/-! ### Image -/

@[simp] theorem State.readImage_sound (s : State) (k part a n : Nat) : (s.readImage k part a n).2.turnsSound = s.turnsSound := by simp [State.readImage]
@[simp] theorem State.readCard_sound (s : State) (k part a n : Nat) : (s.readCard k part a n).2.turnsSound = s.turnsSound := by simp [State.readCard]

@[simp] theorem State.fetchCard_sound (s : State) (k part img cardOff crcOff idx : Nat) : (s.fetchCard k part img cardOff crcOff idx).2.turnsSound = s.turnsSound := by
  unfold State.fetchCard
  split
  · next h => exact sound_of_call h (State.readCard_sound ..)
  next h =>
  have hr := sound_of_call h (State.readCard_sound ..)
  split <;> next h => exact (sound_of_call h (State.readCard_sound ..)).trans hr

@[simp] theorem State.cardOf_sound (s : State) (k rn part img cardOff crcOff idx : Nat) : (s.cardOf k rn part img cardOff crcOff idx).2.turnsSound = s.turnsSound := by
  unfold State.cardOf
  split
  · rfl
  cases s.mergedFill k part img idx with
  | some ws => simp
  | none =>
    have h := s.fetchCard_sound k part img cardOff crcOff idx
    simp only
    split <;> next he => simpa [he] using h

@[simp] theorem State.loadCards_sound (s : State) (k rn part img cardOff crcOff : Nat) (b : List Byte) (l : List Nat) :
    (s.loadCards k rn part img cardOff crcOff b l).2.turnsSound = s.turnsSound := by
  induction l generalizing s with
  | nil => rfl
  | cons c rest ih =>
    unfold State.loadCards
    simp only [snd_turnsSound_ite, ih]
    split
    · rfl
    split
    · next h => exact sound_of_call h (State.cardOf_sound ..)
    next h =>
    have hc := sound_of_call h (State.cardOf_sound ..)
    split
    · exact hc
    split <;> next h => exact (sound_of_call h (ih ..)).trans hc

@[simp] theorem State.loadPick_sound (s : State) (k rn part img off stageEnd : Nat) (h : ImageHdr) (wide : Bool) (p : PickPlace) (placed : Option (List Byte)) :
    (s.loadPick k rn part img off stageEnd h wide p placed).2.turnsSound = s.turnsSound := by
  unfold State.loadPick
  split
  · next h => cases placed <;> exact sound_of_call h (by simp)
  next b s' h =>
  have hs : s'.turnsSound = s.turnsSound := by cases placed <;> exact sound_of_call h (by simp)
  simp only [snd_turnsSound_ite]
  split
  · exact hs
  split
  · exact hs
  split
  · next h => exact (sound_of_call h (State.loadCards_sound ..)).trans hs
  next h =>
  have hc := (sound_of_call h (State.loadCards_sound ..)).trans hs
  split <;> exact hc

@[simp] theorem State.pickBytes_sound (s : State) (k part a : Nat) (wide : Bool) (placed : Option (List Byte)) :
    (s.pickBytes k part a wide placed).2.turnsSound = s.turnsSound := by
  cases placed with
  | some b => rfl
  | none =>
    simp only [State.pickBytes]
    split <;> next h => exact sound_of_call h (State.readImage_sound ..)

@[simp] theorem State.readPicks_sound (s : State) (k part a : Nat) (wide : Bool) (placed : SMap (List Byte)) (i j n : Nat) :
    (s.readPicks k part a wide placed i j n).2.turnsSound = s.turnsSound := by
  induction n generalizing s a j with
  | zero => rfl
  | succ n ih =>
    unfold State.readPicks
    split
    · next h => exact sound_of_call h (State.pickBytes_sound ..)
    next h =>
    have hb := sound_of_call h (State.pickBytes_sound ..)
    split <;> next h => exact (sound_of_call h (ih ..)).trans hb

@[simp] theorem State.readBlocks_sound (s : State) (k part img : Nat) (wide : Bool) (placed : SMap (List Byte)) (i : Nat) (l : List Block) :
    (s.readBlocks k part img wide placed i l).2.turnsSound = s.turnsSound := by
  induction l generalizing s i with
  | nil => rfl
  | cons b rest ih =>
    unfold State.readBlocks
    split
    · next h => exact sound_of_call h (State.readPicks_sound ..)
    next h =>
    have hb := sound_of_call h (State.readPicks_sound ..)
    split <;> next h => exact (sound_of_call h (ih ..)).trans hb

@[simp] theorem State.draftCards_sound (s : State) (k part img cardOff : Nat) (p : DraftPick) (l : List Nat) :
    (s.draftCards k part img cardOff p l).2.turnsSound = s.turnsSound := by
  induction l generalizing s p with
  | nil => rfl
  | cons c rest ih =>
    unfold State.draftCards
    simp only [snd_turnsSound_ite, ih]
    split
    · rfl
    split
    · next h => exact sound_of_call h (State.readCard_sound ..)
    · next h => exact (ih ..).trans (sound_of_call h (State.readCard_sound ..))

@[simp] theorem State.draftPicks_sound (s : State) (k part img cardOff a : Nat) (wide : Bool) (n : Nat) :
    (s.draftPicks k part img cardOff a wide n).2.turnsSound = s.turnsSound := by
  induction n generalizing s a with
  | zero => rfl
  | succ n ih =>
    unfold State.draftPicks
    split
    · next h => exact sound_of_call h (State.readImage_sound ..)
    next h =>
    have hb := sound_of_call h (State.readImage_sound ..)
    split
    · next h => exact (sound_of_call h (State.draftCards_sound ..)).trans hb
    next h =>
    have hc := (sound_of_call h (State.draftCards_sound ..)).trans hb
    split <;> next h => exact (sound_of_call h (ih ..)).trans hc

@[simp] theorem State.placeDraft_sound (s : State) (k part img cardOff : Nat) (wide : Bool) (i : Nat) (p : Placed) (l : List Block) :
    (s.placeDraft k part img cardOff wide i p l).2.turnsSound = s.turnsSound := by
  induction l generalizing s i p with
  | nil => rfl
  | cons b rest ih =>
    unfold State.placeDraft
    split
    · next h => exact sound_of_call h (State.draftPicks_sound ..)
    next h =>
    have hb := sound_of_call h (State.draftPicks_sound ..)
    split
    · exact hb
    · exact (ih ..).trans hb

@[simp] theorem State.readStage_sound (s : State) (k part a alloc : Nat) : (s.readStage k part a alloc).2.turnsSound = s.turnsSound := by
  unfold State.readStage
  split
  · next h => exact sound_of_call h (State.readImage_sound ..)
  next h =>
  have hh := sound_of_call h (State.readImage_sound ..)
  simp only [snd_turnsSound_ite]
  split
  · exact hh
  split <;> next h => exact (sound_of_call h (State.readImage_sound ..)).trans hh

/-! ### Matrix -/

@[simp] theorem State.takeRow_sound (s : State) (k e : Nat) : (s.takeRow k e).turnsSound = s.turnsSound := by
  unfold State.takeRow
  split <;> simp

@[simp] theorem State.takeCol_sound (s : State) (k e : Nat) : (s.takeCol k e).turnsSound = s.turnsSound := by
  unfold State.takeCol
  split
  · simp only
    split <;> simp
  · rfl

@[simp] theorem State.tileStep_sound (s : State) (k e c : Nat) (f : Acc → Acc) : (s.tileStep k e c f).turnsSound = s.turnsSound := by rfl

/-! ### Fabric -/

@[simp] theorem State.recordChecks_sound (s : State) (k rn n : Nat) (b : Block) : (s.recordChecks k rn n b).turnsSound = s.turnsSound := by simp [State.recordChecks]

@[simp] theorem State.takeRecords_sound (s : State) (k rn b n : Nat) : (s.takeRecords k rn b n).2.turnsSound = s.turnsSound := by
  unfold State.takeRecords
  split <;> simp

@[simp] theorem State.addFault_sound (s : State) (k rn node st cause arg0 pick : Nat) : (s.addFault k rn node st cause arg0 pick).turnsSound = s.turnsSound := by rfl

@[simp] theorem State.rejectPick_sound (s : State) (k rn row pick : Nat) (x : Reject) : (s.rejectPick k rn row pick x).turnsSound = s.turnsSound := by
  unfold State.rejectPick
  split <;> simp

@[simp] theorem State.nodeFault_sound (s : State) (k n st p cause : Nat) (u : optParam (Option Nat) none) : (s.nodeFault k n st p cause u).turnsSound = s.turnsSound := by
  unfold State.nodeFault
  split <;> simp

@[simp] theorem State.configureRow_sound (s : State) (k : Nat) (r : Region) (row : Nat) (b : List Byte) (cards : List (Nat × List Word64)) :
    (s.configureRow k r row b cards).turnsSound = s.turnsSound := by
  unfold State.configureRow
  simp only
  rw [foldl_sound, foldl_sound]
  · simp
  · intro s h
    rw [foldl_sound]
    · simp
    · intro s i
      split <;> simp

@[simp] theorem State.layers_sound (s : State) (k : Nat) (r : Region) (row d at_ : Nat) : (s.layers k r row d at_).turnsSound = s.turnsSound := by rfl
@[simp] theorem State.calm_sound (s : State) (k : Nat) (r : Region) (row : Nat) : (s.calm k r row).turnsSound = s.turnsSound := by rfl

@[simp] theorem State.pickLoaded_sound (s : State) (k rn row : Nat) : (s.pickLoaded k rn row).turnsSound = s.turnsSound := by
  unfold State.pickLoaded
  split <;> simp

@[simp] theorem State.loadDone_sound (s : State) (k rn row : Nat) : (s.loadDone k rn row).turnsSound = s.turnsSound := by simp [State.loadDone]

@[simp] theorem State.placePick_sound (s : State) (k rn row pick : Nat) (b : List Byte) (cards : List (Nat × List Word64)) :
    (s.placePick k rn row pick b cards).turnsSound = s.turnsSound := by
  unfold State.placePick
  split <;> simp

theorem State.restoreElems_sound (s : State) (k : Nat) (r : Region) (row : Nat) (b : List Byte) (l : List Nat) :
    ∀ t ∈ s.restoreElems k r row b l, t.turnsSound = s.turnsSound := by
  induction l generalizing s b with
  | nil => simp [State.restoreElems]
  | cons col rest ih =>
    unfold State.restoreElems
    simp only
    split_ifs
    · exact ih s b
    · split
      · simp
      · exact fun t ht => (ih _ _ t ht).trans (by simp)
    · exact fun t ht => (ih _ _ t ht).trans (by simp)

@[simp] theorem State.modRow_sound (s : State) (k rn row : Nat) (f : Row → Row) : (s.modRow k rn row f).turnsSound = s.turnsSound := by rfl

@[simp] theorem State.emptyRow_sound (s : State) (k rn row : Nat) : (s.emptyRow k rn row).turnsSound = s.turnsSound := by
  unfold State.emptyRow
  split <;> simp

theorem State.putWrapped_sound (s : State) (k e net port : Nat) (x : Token) : ∀ t ∈ s.putWrapped k e net port x, t.turnsSound = s.turnsSound := by
  unfold State.putWrapped
  simp only
  split <;> split_ifs <;> simp

@[simp] theorem State.dropWrap_sound (s : State) (k rn : Nat) (w : WrapEntry) : (s.dropWrap k rn w).turnsSound = s.turnsSound := by rfl

@[simp] theorem State.deliverWraps_sound (s : State) (k rn : Nat) (r : Region) (busy : List (Nat × Nat × Nat)) (l : List WrapEntry) :
    (s.deliverWraps k rn r busy l).turnsSound = s.turnsSound := by
  induction l generalizing s busy with
  | nil => rfl
  | cons w rest ih =>
    unfold State.deliverWraps
    simp only [State.turnsSound_ite, ih, State.dropWrap_sound, State.ctlCheck_sound, ite_eq_left_iff]
    intro _
    split
    · exact ih ..
    simp only [State.turnsSound_ite, ih, ite_eq_left_iff]
    intro _
    split
    · exact ih ..
    · next h => simp [ih, State.putWrapped_sound _ _ _ _ _ _ _ h]

/-! ### NodeEv -/

@[simp] theorem State.modStream_sound (s : State) (k n i : Nat) (f : Stream → Stream) : (s.modStream k n i f).turnsSound = s.turnsSound := by rfl

@[simp] theorem State.setFnan_sound (s : State) (k n i p : Nat) (scale : Option Nat) : (s.setFnan k n i p scale).turnsSound = s.turnsSound := by
  unfold State.setFnan
  split <;> simp

theorem State.sendFrom_sound (s : State) (k n rn row : Nat) (r : Region) (w : List Word64) (ctx : Nat) (body : BitVec 256) :
    ∀ t ∈ s.sendFrom k n rn row r w ctx body, t.turnsSound = s.turnsSound := by
  unfold State.sendFrom
  simp only
  split
  · split_ifs <;> simp
  all_goals simp

@[simp] theorem State.sendAhead_sound (s : State) (k n i : Nat) : (s.sendAhead k n i).turnsSound = s.turnsSound := by
  unfold State.sendAhead
  simp only
  split
  · simp only [State.turnsSound_ite, ite_eq_right_iff]
    intro _
    split
    · next h => simp [State.sendFrom_sound _ _ _ _ _ _ _ _ _ _ h]
    · rfl
  · rfl

@[simp] theorem State.performed_sound (s : State) (k n i : Nat) (q : NodeReq) : (s.performed k n i q).turnsSound = s.turnsSound := by
  unfold State.performed
  split <;> simp

@[simp] theorem State.resolveFault_sound (s : State) (k rn n i : Nat) : (s.resolveFault k rn n i).turnsSound = s.turnsSound := by rfl

/-! ### Engines -/

@[simp] theorem State.readSpace_sound (s : State) (cache k part space a n : Nat) : (s.readSpace cache k part space a n).2.turnsSound = s.turnsSound := by
  unfold State.readSpace
  split <;> split <;> simp

@[simp] theorem State.atomPlaces_sound (s : State) (cache k part space a n f : Nat) : (s.atomPlaces cache k part space a n f).2.turnsSound = s.turnsSound := by
  induction f generalizing s a n with
  | zero => rfl
  | succ f ih =>
    unfold State.atomPlaces
    simp only [snd_turnsSound_ite]
    split
    · rfl
    split
    · next h => exact sound_of_call h (State.place_sound ..)
    next h =>
    have hp := sound_of_call h (State.place_sound ..)
    split
    · next h => exact (sound_of_call h (ih ..)).trans hp
    · exact (ih ..).trans hp

@[simp] theorem State.postEngineFault_sound (s : State) (k op dst st cause prog v : Nat) : (s.postEngineFault k op dst st cause prog v).turnsSound = s.turnsSound := by
  simp [State.postEngineFault]
@[simp] theorem State.faultCmd_sound (s : State) (k : Nat) (m : Cmd) (cause v : Nat) : (s.faultCmd k m cause v).turnsSound = s.turnsSound := by simp [State.faultCmd]
@[simp] theorem State.writeBroken_sound (s : State) (k id cause v : Nat) : (s.writeBroken k id cause v).turnsSound = s.turnsSound := by simp [State.writeBroken]
@[simp] theorem State.refuseCmd_sound (s : State) (k : Nat) (m : Cmd) (cause : Nat) : (s.refuseCmd k m cause).turnsSound = s.turnsSound := by simp [State.refuseCmd]
@[simp] theorem State.doneCmd_sound (s : State) (k id : Nat) : (s.doneCmd k id).turnsSound = s.turnsSound := by rfl
@[simp] theorem State.unitDone_sound (s : State) (k id : Nat) (f : Cmd → Cmd) : (s.unitDone k id f).turnsSound = s.turnsSound := by rfl
@[simp] theorem State.meetBroken_sound (s : State) (k id : Nat) : (s.meetBroken k id).turnsSound = s.turnsSound := by rfl
@[simp] theorem State.breakCmd_sound (s : State) (k : Nat) (m : Cmd) : (s.breakCmd k m).turnsSound = s.turnsSound := by simp [State.breakCmd]
@[simp] theorem State.cmdBroken_sound (s : State) (k id cause v : Nat) : (s.cmdBroken k id cause v).turnsSound = s.turnsSound := by simp [State.cmdBroken]

@[simp] theorem State.useRange_sound (s : State) (k sp a n : Nat) : (s.useRange k sp a n).turnsSound = s.turnsSound := by
  unfold State.useRange
  split <;> simp

@[simp] theorem State.readUnit_sound (s : State) (k sp a n f : Nat) (l : List Nat) : (s.readUnit k sp a n f l).2.turnsSound = s.turnsSound := by
  induction f generalizing s l with
  | zero => rfl
  | succ f ih =>
    have hr (c : Nat) := ((s.useRange k sp (a + l.length) c).readSpace_sound (dieOf k) k (s.partOf k) sp (a + l.length) c).trans (by simp : _ = s.turnsSound)
    simp only [State.readUnit, snd_turnsSound_ite, ite_eq_left_iff]
    intro _ _
    split
    · next h => exact sound_of_call h (hr _)
    · next h => exact (ih ..).trans (sound_of_call h (hr _))

@[simp] theorem State.rowDone_sound (s : State) (k : Nat) (m : Cmd) : (s.rowDone k m).turnsSound = s.turnsSound := by simp [State.rowDone]

@[simp] theorem State.stageHeader_sound (s : State) (k : Nat) (m : Cmd) : (s.stageHeader k m).turnsSound = s.turnsSound := by
  unfold State.stageHeader
  split <;> next h => simp [sound_of_call h (State.readSpace_sound ..)]

@[simp] theorem State.collStart_sound (s : State) (c : Coll) : (s.collStart c).turnsSound = s.turnsSound := by simp [State.collStart]
@[simp] theorem State.collCombined_sound (s : State) (c : Coll) : (s.collCombined c).turnsSound = s.turnsSound := by simp [State.collCombined]

@[simp] theorem State.collEnd_sound (s : State) (c : Coll) (st cause : Nat) : (s.collEnd c st cause).turnsSound = s.turnsSound := by
  unfold State.collEnd
  simp only
  rw [foldl_sound]
  · simp
  intro s j
  split <;> simp

@[simp] theorem State.collGather_sound (s : State) (p : Nat) (c : Coll) : (s.collGather p c).turnsSound = s.turnsSound := by simp [State.collGather]

@[simp] theorem State.peersJoin_sound (s : State) (p tag : Nat) : (s.peersJoin p tag).turnsSound = s.turnsSound := by
  simp only [State.peersJoin]
  split <;> simp

@[simp] theorem State.collJoin_sound (s : State) (k : Nat) (m : Cmd) (l : Nat) (x : Launch) : (s.collJoin k m l x).turnsSound = s.turnsSound := by
  simp only [State.collJoin]
  split <;> simp

@[simp] theorem State.collSettle_sound (s : State) (k id : Nat) : (s.collSettle k id).turnsSound = s.turnsSound := by
  unfold State.collSettle
  split <;> simp

@[simp] theorem State.collTry_sound (s : State) (k id : Nat) : (s.collTry k id).turnsSound = s.turnsSound := by
  unfold State.collTry
  split <;> simp

@[simp] theorem State.collSourced_sound (s : State) (k id : Nat) : (s.collSourced k id).turnsSound = s.turnsSound := by simp [State.collSourced]
@[simp] theorem State.collRead_sound (s : State) (k : Nat) (m : Cmd) : (s.collRead k m).turnsSound = s.turnsSound := by simp [State.collRead]
@[simp] theorem State.dropCmd_sound (s : State) (k id : Nat) : (s.dropCmd k id).turnsSound = s.turnsSound := by rfl
@[simp] theorem State.placeMessage_sound (s : State) (t : Nat) (b : Inbox) (m : Cmd) (sender key : Nat) : (s.placeMessage t b m sender key).turnsSound = s.turnsSound := by rfl
@[simp] theorem State.appendQueue_sound (s : State) (p q : Nat) (r : QRec) : (s.appendQueue p q r).turnsSound = s.turnsSound := by rfl
@[simp] theorem State.farEnd_sound (s : State) (k : Nat) (f : Far) (v : Nat) : (s.farEnd k f v).turnsSound = s.turnsSound := by simp [State.farEnd]
@[simp] theorem State.farFault_sound (s : State) (k : Nat) (f : Far) (cause v : Nat) : (s.farFault k f cause v).turnsSound = s.turnsSound := by simp [State.farFault]

/-! ### Freeze -/

@[simp] theorem State.freeImage_sound (s : State) (i : Nat) : (s.freeImage i).turnsSound = s.turnsSound := by rfl

@[simp] theorem State.requestFreeze_sound (s : State) (k rn : Nat) (w : Why) : (s.requestFreeze k rn w).turnsSound = s.turnsSound := by
  unfold State.requestFreeze
  split <;> simp

@[simp] theorem State.endStops_sound (s : State) (k rn : Nat) : (s.endStops k rn).turnsSound = s.turnsSound := by
  unfold State.endStops
  split <;> simp

@[simp] theorem State.reinitialise_sound (s : State) (k : Nat) (run : optParam Bool true) : (s.reinitialise k run).turnsSound = s.turnsSound := by
  simp [State.reinitialise]

@[simp] theorem State.abortScan_sound (s : State) (k : Nat) (tell : Bool) : (s.abortScan k tell).turnsSound = s.turnsSound := by
  unfold State.abortScan
  split <;> simp

@[simp] theorem State.dropImages_sound (s : State) (l : Nat) : (s.dropImages l).turnsSound = s.turnsSound := by rfl
@[simp] theorem State.dropCmds_sound (s : State) (k : Nat) : (s.dropCmds k).turnsSound = s.turnsSound := by simp [State.dropCmds]
@[simp] theorem State.haltCore_sound (s : State) (k : Nat) : (s.haltCore k).turnsSound = s.turnsSound := by simp [State.haltCore]

@[simp] theorem State.killMember_sound (s : State) (l m : Nat) (x : Member) (w : Why) : (s.killMember l m x w).turnsSound = s.turnsSound := by
  unfold State.killMember
  split <;> simp

@[simp] theorem State.returnShelved_sound (s : State) (l p : Nat) : (s.returnShelved l p).turnsSound = s.turnsSound := by
  unfold State.returnShelved
  split <;> simp

@[simp] theorem State.blame_sound (s : State) (l k : Nat) : (s.blame l k).turnsSound = s.turnsSound := by rfl

@[simp] theorem State.kill_sound (s : State) (l cause : Nat) (w : Why) : (s.kill l cause w).turnsSound = s.turnsSound := by
  unfold State.kill
  split <;> simp

@[simp] theorem State.failLaunch_sound (s : State) (l cause : Nat) : (s.failLaunch l cause).turnsSound = s.turnsSound := by simp [State.failLaunch]

@[simp] theorem State.emptyRegion_sound (s : State) (k rn : Nat) : (s.emptyRegion k rn).turnsSound = s.turnsSound := by
  unfold State.emptyRegion
  split <;> simp

@[simp] theorem State.shelveLease_sound (s : State) (l m : Nat) : (s.shelveLease l m).turnsSound = s.turnsSound := by
  unfold State.shelveLease
  split <;> simp

@[simp] theorem State.preempted_sound (s : State) (l : Nat) : (s.preempted l).turnsSound = s.turnsSound := by
  unfold State.preempted
  split <;> simp

@[simp] theorem State.startClocks_sound (s : State) (l : Nat) : (s.startClocks l).turnsSound = s.turnsSound := by
  simp only [State.startClocks]
  split <;> simp

@[simp] theorem State.retryAll_sound (s : State) (k : Nat) (r : Region) : (s.retryAll k r).turnsSound = s.turnsSound := by
  unfold State.retryAll
  rw [State.turnsSound_mk, List.all_append, List.all_flatMap]
  have hl : (s.core k).nodes.all (fun _ => true) = true := List.all_eq_true.mpr fun _ _ => rfl
  simp [hl]

@[simp] theorem State.thaw_sound (s : State) (k l m : Nat) (reg : Option (Nat × Region)) : (s.thaw k l m reg).turnsSound = s.turnsSound := by
  unfold State.thaw
  split <;> simp

/-! ### LaunchEv -/

@[simp] theorem State.checkImage_sound (s : State) (p : Nat) (x : Launch) : (s.checkImage p x).2.turnsSound = s.turnsSound := by
  unfold State.checkImage
  split
  · next h => exact sound_of_call h (State.readImage_sound ..)
  next h =>
  have hb := sound_of_call h (State.readImage_sound ..)
  simp only [snd_turnsSound_ite]
  split
  · exact hb
  split <;> next h => simpa using (sound_of_call h (State.readImage_sound ..)).trans hb

@[simp] theorem State.checkRecord_sound (s : State) (p : Nat) (r : QRec) : (s.checkRecord p r).2.turnsSound = s.turnsSound := by simp [State.checkRecord]
@[simp] theorem State.modQueue_sound (s : State) (p q : Nat) (f : Queue → Queue) : (s.modQueue p q f).turnsSound = s.turnsSound := by rfl

@[simp] theorem State.refuseRecord_sound (s : State) (p q cause : Nat) : (s.refuseRecord p q cause).turnsSound = s.turnsSound := by
  simp only [State.refuseRecord]
  split <;> simp

@[simp] theorem State.readTable_sound (s : State) (p : Nat) (x : Launch) : (s.readTable p x).2.turnsSound = s.turnsSound := by
  unfold State.readTable
  split <;> next h => exact sound_of_call h (State.fetch_sound ..)

@[simp] theorem State.placedPicks_sound (s : State) (p : Nat) (x : Launch) (h : ImageHdr) : (s.placedPicks p x h).2.turnsSound = s.turnsSound := by simp [State.placedPicks]

@[simp] theorem State.loadImage_sound (s : State) (p : Nat) (x : Launch) (h : ImageHdr) : (s.loadImage p x h).2.turnsSound = s.turnsSound := by
  unfold State.loadImage
  simp only
  split
  · next h => exact sound_of_call h (State.placedPicks_sound ..)
  · next h => exact sound_of_call h (State.placedPicks_sound ..)
  next h =>
  have hp := sound_of_call h (State.placedPicks_sound ..)
  split
  · next h => exact (sound_of_call h (State.readBlocks_sound ..)).trans hp
  next h =>
  have hb := (sound_of_call h (State.readBlocks_sound ..)).trans hp
  split
  · exact hb
  split <;> next h => exact (sound_of_call h (State.readStage_sound ..)).trans hb

@[simp] theorem State.loadLaunch_sound (s : State) (p : Nat) (x : Launch) : (s.loadLaunch p x).2.turnsSound = s.turnsSound := by
  simp only [State.loadLaunch]
  split <;> simp

@[simp] theorem State.edgeCheck_sound (t s : State) (x : Launch) (y : Member) : (t.edgeCheck s x y).turnsSound = s.turnsSound := by simp [State.edgeCheck]

@[simp] theorem State.placedAll_sound (s : State) (p q l : Nat) : (s.placedAll p q l).turnsSound = s.turnsSound := by
  unfold State.placedAll
  split <;> simp

@[simp] theorem State.firstStart_sound (s : State) (l : Nat) (x : Launch) : (s.firstStart l x).turnsSound = s.turnsSound := by simp [State.firstStart]

@[simp] theorem State.endRegions_sound (s : State) (l : Nat) (x : Launch) : (s.endRegions l x).turnsSound = s.turnsSound := by
  unfold State.endRegions
  rw [foldl_sound]
  intro s p
  split <;> simp

@[simp] theorem State.releaseMember_sound (s : State) (l m : Nat) (x : Launch) (y : Member) : (s.releaseMember l m x y).turnsSound = s.turnsSound := by
  simp only [State.releaseMember, State.modCore_sound, State.turnsSound_ite, State.withdraw_sound, ite_self]
  rw [foldl_sound fun _ _ => State.moveToken_sound ..]
  split
  · split <;> simp
  · rfl

@[simp] theorem State.endQuarantine_sound (s : State) (l : Nat) : (s.endQuarantine l).turnsSound = s.turnsSound := by rfl
@[simp] theorem State.advanceDone_sound (s : State) (p q : Nat) : (s.advanceDone p q).turnsSound = s.turnsSound := by simp [State.advanceDone]

@[simp] theorem State.retire_sound (s : State) (p q l : Nat) (x : Launch) : (s.retire p q l x).turnsSound = s.turnsSound := by
  unfold State.retire
  split <;> simp

@[simp] theorem State.abortExpired_sound (s : State) (l : Nat) (x : Launch) : (s.abortExpired l x).turnsSound = s.turnsSound := by
  unfold State.abortExpired
  split <;> simp

/-! ### FaultEv -/

@[simp] theorem State.stopClocks_sound (s : State) (l : Nat) : (s.stopClocks l).turnsSound = s.turnsSound := by
  simp only [State.stopClocks]
  split <;> simp

@[simp] theorem State.preemptMember_sound (s : State) (l m : Nat) (x : Launch) (y : Member) : (s.preemptMember l m x y).turnsSound = s.turnsSound := by
  unfold State.preemptMember
  split <;> simp

@[simp] theorem State.preemptLaunch_sound (s : State) (l : Nat) : (s.preemptLaunch l).turnsSound = s.turnsSound := by
  unfold State.preemptLaunch
  split <;> simp

@[simp] theorem State.putStrings_sound (s : State) (k : Nat) (i : Image) (r : Region) : (s.putStrings k i r).turnsSound = s.turnsSound := by rfl
@[simp] theorem State.freeMoved_sound (s : State) (k l b n : Nat) : (s.freeMoved k l b n).turnsSound = s.turnsSound := by rfl

theorem State.reloadRow_sound (s : State) (k rn : Nat) (x : Launch) (row : Nat) : ∀ t ∈ s.reloadRow k rn x row, t.turnsSound = s.turnsSound := by
  unfold State.reloadRow
  split
  · simp only
    split
    · simp
    split
    · simp
    split
    · simp
    · next h => simp [sound_of_call h (State.loadPick_sound ..)]
  · simp

theorem State.reloadRows_sound (s : State) (k rn : Nat) (x : Launch) (l : List Nat) : ∀ t ∈ s.reloadRows k rn x l, t.turnsSound = s.turnsSound := by
  induction l generalizing s with
  | nil => simp [State.reloadRows]
  | cons i r ih =>
    intro t ht
    obtain ⟨u, hu, ht⟩ := Option.bind_eq_some_iff.mp ht
    exact (ih u t ht).trans (s.reloadRow_sound k rn x i u hu)

@[simp] theorem State.reloaded_sound (s : State) (k rn row : Nat) : (s.reloaded k rn row).turnsSound = s.turnsSound := by
  simp only [State.reloaded]
  split <;> simp

@[simp] theorem State.putRegion_sound (s : State) (k rn : Nat) (i : Image) (old r : Region) : (s.putRegion k rn i old r).turnsSound = s.turnsSound := by simp [State.putRegion]

@[simp] theorem State.resumeCc_sound (s : State) (k l m : Nat) (x : Launch) (c : ControlCore) (broken : List (Nat × Nat × Nat)) :
    (s.resumeCc k l m x c broken).turnsSound = s.turnsSound := by
  unfold State.resumeCc
  split <;> simp

@[simp] theorem State.resumeLease_sound (s : State) (l p : Nat) (lease : Option (Nat × Nat)) : (s.resumeLease l p lease).turnsSound = s.turnsSound := by
  unfold State.resumeLease
  split <;> simp

@[simp] theorem State.countError_sound (s : State) (die i : Nat) : (s.countError die i).turnsSound = s.turnsSound := by rfl
@[simp] theorem State.settleCounts_sound (s : State) : s.settleCounts.turnsSound = s.turnsSound := by rfl

@[simp] theorem State.abortHolder_sound (s : State) (k rn cause : Nat) : (s.abortHolder k rn cause).turnsSound = s.turnsSound := by
  simp only [State.abortHolder]
  split <;> simp

@[simp] theorem State.atomError_sound (s : State) (a : Nat) : (s.atomError a).turnsSound = s.turnsSound := by simp [State.atomError]
@[simp] theorem State.mediaError_sound (s : State) (k a : Nat) (us : List Nat) : (s.mediaError k a us).turnsSound = s.turnsSound := by simp [State.mediaError]
@[simp] theorem State.bringUpFrom_sound (s : State) (n fail : Nat) (b : BringUp) : (s.bringUpFrom n fail b).turnsSound = s.turnsSound := by simp [State.bringUpFrom]

@[simp] theorem State.bootAgain_sound (s : State) : s.bootAgain.turnsSound = s.turnsSound := by
  unfold State.bootAgain
  split <;> simp

@[simp] theorem State.freezeAll_sound (s : State) : s.freezeAll.turnsSound = s.turnsSound := by simp [State.freezeAll]

/-! ### DebugEv -/

@[simp] theorem State.sample_sound (s : State) (k e c : Nat) : (s.sample k e c).turnsSound = s.turnsSound := by
  unfold State.sample
  split
  · simp only [State.turnsSound_ite, ite_eq_left_iff]
    intro _
    split <;> simp
  · rfl

@[simp] theorem State.crit_sound (s : State) (k : Nat) (w : Walk) (f : Option Firing) (reason : Nat) : (s.crit k w f reason).turnsSound = s.turnsSound := by
  unfold State.crit
  split <;> simp

@[simp] theorem State.walkStep_sound (s : State) (k : Nat) (w : Walk) : (s.walkStep k w).2.turnsSound = s.turnsSound := by
  unfold State.walkStep
  split
  · simp
  · simp only [snd_turnsSound_ite, State.crit_sound, ite_eq_left_iff]
    intro _
    split <;> simp

/-! ### LinkEv -/

@[simp] theorem State.postRepair_sound (s : State) (g lane spare : Nat) (retired : Bool) : (s.postRepair g lane spare retired).turnsSound = s.turnsSound := by rfl

@[simp] theorem State.retireGroup_sound (s : State) (g lane : Nat) : (s.retireGroup g lane).turnsSound = s.turnsSound := by
  simp only [State.retireGroup]
  split <;> simp

@[simp] theorem State.startRemap_sound (s : State) (g : Nat) : (s.startRemap g).turnsSound = s.turnsSound := by
  unfold State.startRemap
  simp only
  split
  · split <;> simp
  · rfl

@[simp] theorem State.chargeLane_sound (s : State) (g lane : Nat) : (s.chargeLane g lane).turnsSound = s.turnsSound := by simp [State.chargeLane]

@[simp] theorem State.acceptFlit_sound (s : State) (g : Nat) (raw : BitVec 256) : (s.acceptFlit g raw).turnsSound = s.turnsSound := by
  simp only [State.acceptFlit]
  split <;> simp

@[simp] theorem State.badFlit_sound (s : State) (g : Nat) (raw : BitVec 256) : (s.badFlit g raw).turnsSound = s.turnsSound := by rfl
@[simp] theorem State.dataFlit_sound (s : State) (g : Nat) (raw : BitVec 256) : (s.dataFlit g raw).turnsSound = s.turnsSound := by simp [State.dataFlit]
@[simp] theorem State.ackFlit_sound (s : State) (g : Nat) (e : BitVec 8) (neg : Bool) : (s.ackFlit g e neg).turnsSound = s.turnsSound := by rfl
@[simp] theorem State.mapFlit_sound (s : State) (g w : Nat) : (s.mapFlit g w).turnsSound = s.turnsSound := by rfl
@[simp] theorem State.retrainPort_sound (s : State) (n : Nat) : (s.retrainPort n).turnsSound = s.turnsSound := by simp [State.retrainPort]

@[simp] theorem State.takeFlit_sound (s : State) (g : Nat) (raw : BitVec 256) : (s.takeFlit g raw).turnsSound = s.turnsSound := by
  unfold State.takeFlit
  split <;> split <;> simp

@[simp] theorem State.portFlit_sound (s : State) (n : Nat) (raw : BitVec 256) : (s.portFlit n raw).turnsSound = s.turnsSound := by simp [State.portFlit]
@[simp] theorem State.transmit_sound (s : State) (g : Nat) (raw : BitVec 256) : (s.transmit g raw).turnsSound = s.turnsSound := by simp [State.transmit]
@[simp] theorem State.sendAnswer_sound (s : State) (g : Nat) : (s.sendAnswer g).turnsSound = s.turnsSound := by simp [State.sendAnswer]

@[simp] theorem State.relay_sound (s : State) (p : BitVec 224) : (s.relay p).turnsSound = s.turnsSound := by
  unfold State.relay
  simp only
  split
  · rfl
  · simp only [State.turnsSound_ite, State.handOver_sound, ite_eq_left_iff]
    intro _
    split <;> simp

@[simp] theorem State.sendEcho_sound (s : State) (g : Nat) : (s.sendEcho g).turnsSound = s.turnsSound := by simp [State.sendEcho]
@[simp] theorem State.sendData_sound (s : State) (g : Nat) : (s.sendData g).turnsSound = s.turnsSound := by simp [State.sendData]
@[simp] theorem State.linkTurn_sound (s : State) (g : Nat) : (s.linkTurn g).turnsSound = s.turnsSound := by simp [State.linkTurn]
@[simp] theorem State.fence_sound (s : State) (pkg reason : Nat) : (s.fence pkg reason).turnsSound = s.turnsSound := by
  simp [State.fence, foldl_sound (f := fun (s : State) p => s.post _) fun _ _ => rfl]

/-! ### XlateEv -/

@[simp] theorem State.modShoot_sound (s : State) (p id : Nat) (f : Shoot → Shoot) : (s.modShoot p id f).turnsSound = s.turnsSound := by rfl
@[simp] theorem State.awaitAck_sound (s : State) (p id cache : Nat) : (s.awaitAck p id cache).turnsSound = s.turnsSound := by simp [State.awaitAck]
@[simp] theorem State.freeFrame_sound (s : State) (stack : Nat) (up : Bool) : (s.freeFrame stack up).2.turnsSound = s.turnsSound := rfl

theorem State.startMove_sound (s : State) (m : Nat × Bool) : ∀ t ∈ s.startMove m, t.turnsSound = s.turnsSound := by
  unfold State.startMove
  split
  · simp
  · next h => simp [sound_of_call h (State.freeFrame_sound ..)]

@[simp] theorem State.startMoves_sound (stack : Nat) (l : List (Nat × Bool)) (s : State) : (State.startMoves stack l s).turnsSound = s.turnsSound := by
  induction l generalizing s with
  | nil => rfl
  | cons m r ih =>
    simp only [State.startMoves, State.turnsSound_ite, ih, ite_eq_left_iff]
    intro _ _
    split
    · next h => simp [ih, s.startMove_sound m _ h]
    · rfl

/-! ### HostEv -/

@[simp] theorem State.hostFault_sound (s : State) (f cause kind va : Nat) : (s.hostFault f cause kind va).turnsSound = s.turnsSound := by rfl
@[simp] theorem State.readErrc_sound (s : State) (die : Nat) : (s.readErrc die).turnsSound = s.turnsSound := by rfl
@[simp] theorem State.readLstat_sound (s : State) : s.readLstat.turnsSound = s.turnsSound := by rfl

@[simp] theorem State.rearm_sound (s : State) (f : Nat) : (s.rearm f).turnsSound = s.turnsSound := by
  simp only [State.rearm]
  split <;> simp

@[simp] theorem State.rethresh_sound (s : State) (f : Nat) : (s.rethresh f).turnsSound = s.turnsSound := by simp [State.rethresh]
@[simp] theorem State.writeHead_sound (s : State) (f v : Nat) : (s.writeHead f v).turnsSound = s.turnsSound := by simp [State.writeHead]
@[simp] theorem State.writeFbkp_sound (s : State) (k i : Nat) (v : Word64) : (s.writeFbkp k i v).turnsSound = s.turnsSound := by simp [State.writeFbkp]

@[simp] theorem State.writePage_sound (s : State) (f off : Nat) (v : Word64) : (s.writePage f off v).turnsSound = s.turnsSound := by
  unfold State.writePage
  split <;> split <;> simp

@[simp] theorem State.modNew_sound (s : State) (f : Part → Part) : (s.modNew f).turnsSound = s.turnsSound := by simp [State.modNew]

@[simp] theorem State.writePf_sound (s : State) (off : Nat) (v : Word64) : (s.writePf off v).turnsSound = s.turnsSound := by
  simp only [State.writePf, State.turnsSound_ite, State.modNew_sound, ite_eq_left_iff]
  intro _
  split <;> simp

@[simp] theorem State.readRecord_sound (s : State) (f a : Nat) : (s.readRecord f a).2.turnsSound = s.turnsSound := by
  unfold State.readRecord
  split <;> next h => exact sound_of_call h (State.fetch_sound ..)

@[simp] theorem State.resumeAt_sound (s : State) (k : Nat) (pc : BitVec 32) : (s.resumeAt k pc).turnsSound = s.turnsSound := by simp [State.resumeAt]
@[simp] theorem State.idleCore_sound (s : State) (k : Nat) : (s.idleCore k).turnsSound = s.turnsSound := by simp [State.idleCore]
@[simp] theorem State.resetCore_sound (s : State) (k : Nat) : (s.resetCore k).turnsSound = s.turnsSound := by simp [State.resetCore]
@[simp] theorem State.quench_sound (s : State) (k : Nat) : (s.quench k).turnsSound = s.turnsSound := by simp [State.quench]
@[simp] theorem State.resetIdle_sound (s : State) (p : Nat) : (s.resetIdle p).turnsSound = s.turnsSound := by simp [State.resetIdle]
@[simp] theorem State.dropLeases_sound (s : State) (p reason : Nat) : (s.dropLeases p reason).turnsSound = s.turnsSound := by simp [State.dropLeases]
@[simp] theorem State.beginReset_sound (s : State) (p reason : Nat) : (s.beginReset p reason).turnsSound = s.turnsSound := by simp [State.beginReset]

@[simp] theorem State.resetLease_sound (s : State) (p : Nat) : (s.resetLease p).turnsSound = s.turnsSound := by
  unfold State.resetLease
  split <;> simp

@[simp] theorem State.releaseCores_sound (s : State) (p : Nat) : (s.releaseCores p).turnsSound = s.turnsSound := foldl_sound (fun _ _ => State.modCore_sound ..) ..

/-! ### PowerEv -/

@[simp] theorem State.throtRecord_sound (s : State) (k n : Nat) (old new : Str) (l : List (Option (Nat × Nat))) : (s.throtRecord k n old new l).turnsSound = s.turnsSound := by
  simp [State.throtRecord]
@[simp] theorem State.startString_sound (s : State) (k n : Nat) : (s.startString k n).turnsSound = s.turnsSound := by simp [State.startString]
@[simp] theorem State.eachString_sound (s : State) {f : State → Nat → Nat → State} (hf : ∀ s k n, (f s k n).turnsSound = s.turnsSound) :
    (s.eachString f).turnsSound = s.turnsSound := by
  simp [State.eachString, hf]
@[simp] theorem State.endString_sound (s : State) (k n : Nat) (ms : List Nat) : (s.endString k n ms).turnsSound = s.turnsSound := by simp [State.endString]

@[simp] theorem State.setLease_sound (s : State) (p : Nat) (f : Lease → Lease) : (s.setLease p f).turnsSound = s.turnsSound := by
  unfold State.setLease
  split <;> simp

@[simp] theorem suspendLeases_sound (l : List Nat) (s : State) : (suspendLeases l s).turnsSound = s.turnsSound := by
  induction l generalizing s with
  | nil => rfl
  | cons p r ih => simp [suspendLeases, ih]

@[simp] theorem State.resumeLeases_sound (s : State) : s.resumeLeases.turnsSound = s.turnsSound := foldl_sound (fun _ _ => State.setLease_sound ..) ..
@[simp] theorem State.lowerScale_sound (s : State) : s.lowerScale.turnsSound = s.turnsSound := by simp [State.lowerScale]
@[simp] theorem State.raiseScale_sound (s : State) : s.raiseScale.turnsSound = s.turnsSound := by simp [State.raiseScale]
@[simp] theorem State.postDie_sound (s : State) (ps : List Nat) (die type arg0 arg1 : Nat) : (s.postDie ps die type arg0 arg1).turnsSound = s.turnsSound :=
  foldl_sound (fun _ _ => State.post_sound ..) ..
@[simp] theorem State.readSensor_sound (s : State) (die n : Nat) (r : Int) : (s.readSensor die n r).turnsSound = s.turnsSound := by rfl
@[simp] theorem State.crossings_sound (s : State) (die : Nat) : (s.crossings die).turnsSound = s.turnsSound := by simp [State.crossings]
@[simp] theorem State.heatLeases_sound (s : State) (die : Nat) : (s.heatLeases die).turnsSound = s.turnsSound := by simp [State.heatLeases]
@[simp] theorem State.heatStep_sound (s : State) (die : Nat) : (s.heatStep die).turnsSound = s.turnsSound := by simp [State.heatStep]

@[simp] theorem State.rebin_sound (s : State) (die : Nat) : (s.rebin die).turnsSound = s.turnsSound := by
  unfold State.rebin
  rw [foldl_sound]
  intro s p
  rw [foldl_sound]
  intro s n
  split <;> simp

/-! ### Schedule -/

@[simp] theorem State.miss_sound (s : State) (k va : Nat) : (s.miss k va).turnsSound = s.turnsSound := by simp [State.miss]

@[simp] theorem State.loadTurn_sound (s : State) (k : Nat) : (s.loadTurn k).turnsSound = s.turnsSound := by
  unfold State.loadTurn
  split <;> simp

@[simp] theorem State.moveTurn_sound (s : State) (k : Nat) : (s.moveTurn k).turnsSound = s.turnsSound := by
  unfold State.moveTurn
  split
  · rfl
  · simp only
    split <;> simp

@[simp] theorem State.draws_sound {α : Type} (s : State) (f : Nat → α) (n : Nat) : (s.draws f n).2.turnsSound = s.turnsSound := by
  induction n generalizing s with
  | zero => rfl
  | succ n ih => simp [State.draws, ih]

@[simp] theorem State.measures_sound (s : State) : s.measures.2.turnsSound = s.turnsSound := by
  unfold State.measures
  refine List.foldlRecOn _ _ (motive := fun r : List Meas × State => r.2.turnsSound = s.turnsSound) rfl ?_
  intro r hr p _
  simpa using hr

@[simp] theorem State.noteServed_sound (s : State) : s.noteServed.turnsSound = s.turnsSound := by
  unfold State.noteServed
  rw [foldl_sound]
  intro s p
  rw [foldl_sound]
  intro s i
  split <;> simp

/-! ### The turns of a cycle -/

theorem all_insertBy {α : Type} (p : α → Bool) (x : Nat × α) (l : List (Nat × α)) :
    ((insertBy x l).all fun y => p y.2) = (p x.2 && l.all fun y => p y.2) := by
  induction l with
  | nil => rfl
  | cons y r ih =>
    unfold insertBy
    split
    · rfl
    · simp [ih, Bool.and_left_comm]

/-- What holds of every ranked value holds of every value in the order of the ranks. -/
theorem all_byRank {α : Type} (p : α → Bool) (l : List (Nat × α)) (h : ∀ x ∈ l, p x.2 = true) : (byRank l).all p = true := by
  unfold byRank
  rw [List.all_map]
  refine List.foldlRecOn l _ (motive := fun m : List (Nat × α) => (m.all fun y => p y.2) = true) rfl ?_
  intro m hm x hx
  rw [all_insertBy, h x hx, Bool.true_and, hm]

@[simp] theorem memberTurns_sound (l : Nat × Launch) (f : Launch → Member → Bool) {g : Nat → Nat → Turn} (hg : ∀ a b, (g a b).sound = true) :
    (memberTurns l f g).all Turn.sound = true := by
  simp only [memberTurns, List.all_eq_true, List.mem_filterMap, Option.ite_none_right_eq_some, Option.some.injEq]
  rintro _ ⟨m, -, -, rfl⟩
  exact hg ..

@[simp] theorem State.backs_sound (s : State) : s.backs.all Turn.sound = true := by
  unfold State.backs
  rw [List.all_append, Bool.and_eq_true]
  constructor
  · simp
  · refine all_byRank _ _ fun x hx => ?_
    simp only [List.mem_flatMap, List.mem_map] at hx
    obtain ⟨p, -, e, -, c, -, f, -, rfl⟩ := hx
    rfl

@[simp] theorem State.retries_sound (s : State) : s.retries.all Turn.sound = true := by
  simp only [State.retries, List.all_flatMap, List.all_eq_true]
  intro p _ n _ t ht
  split at ht
  · cases ht
  · obtain ⟨i, -, rfl⟩ := List.mem_map.mp ht
    rfl

@[simp] theorem State.clockTurns_sound (s : State) : s.clockTurns.all Turn.sound = true := by simp [State.clockTurns]

@[simp] theorem nodeTurns_sound (k : Nat) (n : Nat × Node) : (nodeTurns k n).all Turn.sound = true := by
  simp only [nodeTurns, List.all_flatMap, List.all_eq_true]
  intro i _
  split_ifs <;> simp

@[simp] theorem State.stageTurns_sound (s : State) (k : Nat) : (s.stageTurns k).all Turn.sound = true := by
  simp [State.stageTurns]

@[simp] theorem State.dmaTurns_sound (s : State) (k : Nat) : (s.dmaTurns k).all Turn.sound = true := by
  simp only [State.dmaTurns, List.all_eq_true, List.mem_filterMap, Option.map_eq_some_iff]
  rintro _ ⟨i, -, id, -, rfl⟩
  rfl

@[simp] theorem State.messageTurns_sound (s : State) (k : Nat) : (s.messageTurns k).all Turn.sound = true := by
  unfold State.messageTurns
  rw [List.all_append, all_ite_sound]
  simp

@[simp] theorem State.portTurns_sound (s : State) (k : Nat) : (s.portTurns k).all Turn.sound = true := by
  simp only [State.portTurns, List.all_append, List.all_map, List.all_flatMap, Bool.and_eq_true]
  refine ⟨⟨⟨by simp, by simp⟩, ?_⟩, ?_⟩
  · simp only [all_ite_sound, List.all_map, List.all_eq_true]
    intro m _
    split <;> simp
  · simp only [List.all_eq_true, List.mem_filterMap, Option.ite_none_left_eq_some, Option.some.injEq]
    rintro _ ⟨m, -, -, rfl⟩
    rfl

@[simp] theorem State.engineTurns_sound (s : State) : s.engineTurns.all Turn.sound = true := by
  simp [State.engineTurns]

@[simp] theorem Core.fireTurns_sound (c : Core) (k now : Nat) : (c.fireTurns k now).all Turn.sound = true := by simp [Core.fireTurns]
@[simp] theorem Core.netTurns_sound (c : Core) (k : Nat) : (c.netTurns k).all Turn.sound = true := by simp [Core.netTurns]
@[simp] theorem Core.controlTurns_sound (c : Core) (k : Nat) : (c.controlTurns k).all Turn.sound = true := by simp [Core.controlTurns]
@[simp] theorem Core.dueEnds_sound (c : Core) (k now : Nat) : (c.dueEnds k now).all Turn.sound = true := by simp [Core.dueEnds]
@[simp] theorem Core.haltTurns_sound (c : Core) (k : Nat) : (c.haltTurns k).all Turn.sound = true := by simp [Core.haltTurns]

@[simp] theorem State.placeTurns_sound (s : State) (p : Nat × Part) : (s.placeTurns p).all Turn.sound = true := by
  rw [State.placeTurns, List.all_flatten]
  refine all_byRank _ _ fun x hx => ?_
  obtain ⟨q, -, rfl⟩ := List.mem_map.mp hx
  simp only [List.all_append]
  split <;> simp

@[simp] theorem State.launchTurns_sound (s : State) : s.launchTurns.all Turn.sound = true := by simp [State.launchTurns]
@[simp] theorem State.retireTurns_sound (s : State) : s.retireTurns.all Turn.sound = true := by simp [State.retireTurns]
@[simp] theorem State.dueTurns_sound (s : State) : s.dueTurns.all Turn.sound = true := by simp [State.dueTurns]

theorem State.timerTurns_sound (s : State) (h : s.turnsSound = true) : s.timerTurns.all Turn.sound = true := by
  have hdue : ((s.timers.filter fun t => t.1 ≤ s.cycle).map fun t => t.2).all Turn.sound = true := by
    rw [List.all_map]
    exact all_filter_of_all (State.timers_sound h)
  rw [State.timerTurns, List.all_append, Bool.and_eq_true]
  exact ⟨all_filter_of_all hdue, all_filter_of_all hdue⟩

theorem State.cycleTurns_sound (s : State) (h : s.turnsSound = true) : s.cycleTurns.all Turn.sound = true := by
  have hdump : (s.dumping.map fun d => Turn.dump d.1 d.2.1).toList.all Turn.sound = true := by cases s.dumping <;> simp
  simp [State.cycleTurns, s.timerTurns_sound h, hdump]

theorem State.nextCycle_sound (s : State) (h : s.turnsSound = true) : s.nextCycle.turnsSound = true := by
  unfold State.nextCycle
  simp only
  split
  · simp [State.timers_sound h]
  · rw [State.turnsSound_mk, List.all_append, Bool.and_eq_true, Bool.and_eq_true]
    exact ⟨⟨s.retries_sound, State.cycleTurns_sound _ (by simpa using h)⟩, all_filter_of_all (State.timers_sound (by simpa using h))⟩

/-! ### Outcomes -/

/-- The outcome is a next state, and a sound one. -/
def SoundAfter (o : Out3) : Prop := ∃ t, o = .next t ∧ t.turnsSound = true

@[simp] theorem soundAfter_next (t : State) : SoundAfter (.next t) ↔ t.turnsSound = true := by simp [SoundAfter]
@[simp] theorem soundAfter_ite {c : Prop} [Decidable c] (o p : Out3) : SoundAfter (if c then o else p) ↔ if c then SoundAfter o else SoundAfter p := by
  split <;> rfl

/-! ### Issue and firing -/

/-- An effect on a control core keeps a state sound. -/
def SoundCc (eff : State → Option (Eff × Flow × State)) : Prop := ∀ s, s.turnsSound = true → ∀ r ∈ eff s, r.2.2.turnsSound = true

/-- An effect in an element keeps a state sound. -/
def SoundElem (eff : State → Option (Eff × State)) : Prop := ∀ s, s.turnsSound = true → ∀ r ∈ eff s, r.2.turnsSound = true

/-- The kind of a site. -/
def kindAt : Site → SiteKind
  | .cc _ => .cc
  | .ctx _ e _ _ => kindOf e

/-- `i` may stand at the site whose turn it is (R51, R52). -/
def MayStand (s : State) (i : Instr) : Prop := i.wf (kindAt s.site) = true

/-- `i` may stand in no element (R51, R52). -/
def ControlOnly (i : Instr) : Prop := i.wf .vElem = false ∧ i.wf .mElem = false

theorem not_wf_of_operands {i : Instr} {k : SiteKind} (ho : i.operandsOk k = false) : i.wf k = false := by simp [Instr.wf, ho]

theorem not_wf_kindOf {i : Instr} (hn : ControlOnly i) (e : Nat) : i.wf (kindOf e) = false := by
  unfold kindOf
  split
  · exact hn.1
  · exact hn.2

theorem runElem_sound {eff : State → Option (Eff × State)} (he : SoundElem eff) (i : Instr) (k e c slot : Nat) (s : State) (h : s.turnsSound = true) :
    (runElem i eff k e c slot s).turnsSound = true := by
  unfold runElem
  simp only
  split_ifs
  · split <;> simp [h]
  · exact h
  split
  · exact h
  · next hr => simpa using he _ (by simpa using h) _ hr

theorem runCc_sound {eff : State → Option (Eff × Flow × State)} (he : SoundCc eff) (i : Instr) (k : Nat) (s : State) (h : s.turnsSound = true) :
    (runCc i eff k s).turnsSound = true := by
  unfold runCc
  simp only
  split_ifs
  · exact h
  · exact h
  split
  · exact h
  · next f fl t hr =>
    have ht : t.turnsSound = true := he s h _ hr
    cases fl <;> simpa using ht

theorem runBoth_sound {effE : State → Option (Eff × State)} {effC : State → Option (Eff × Flow × State)} (hE : SoundElem effE) (hC : SoundCc effC) (i : Instr)
    (s : State) (h : s.turnsSound = true) (hw : MayStand s i) : SoundAfter (runBoth i effE effC s) := by
  unfold runBoth
  split
  · next hs =>
    rw [MayStand, hs] at hw
    rw [if_pos (by exact hw), soundAfter_next]
    exact runCc_sound hC _ _ _ h
  · next hs =>
    rw [MayStand, hs] at hw
    rw [if_pos (by exact hw), soundAfter_next]
    exact runElem_sound hE _ _ _ _ _ _ h

/-- An instruction whose effect names no new state goes on and keeps the state sound. -/
theorem run_sound (i : Instr) (eff : State → Eff) (s : State) (h : s.turnsSound = true) (hw : MayStand s i) : SoundAfter (run i eff s) :=
  runBoth_sound (by rintro s h _ ⟨⟩; exact h) (by rintro s h _ ⟨⟩; exact h) i s h hw

theorem runControl_sound {eff : Nat → State → Option (Eff × Flow × State)} (he : ∀ k, SoundCc (eff k)) (i : Instr) (hn : ControlOnly i) (s : State)
    (h : s.turnsSound = true) (hw : MayStand s i) : SoundAfter (runControl i eff s) := by
  unfold runControl
  split
  · next hs =>
    rw [MayStand, hs] at hw
    rw [if_pos (by exact hw), soundAfter_next]
    exact runCc_sound (he _) _ _ _ h
  · next e _ _ hs =>
    rw [MayStand, hs] at hw
    exact absurd hw (by simp [kindAt, not_wf_kindOf hn])

theorem runFabric_sound {eff : Nat → Nat → Nat → State → Option (Eff × State)} (he : ∀ k e c, SoundElem (eff k e c)) (i : Instr) (hn : i.wf .cc = false) (s : State)
    (h : s.turnsSound = true) (hw : MayStand s i) : SoundAfter (runFabric i eff s) := by
  unfold runFabric
  split
  · next hs =>
    rw [MayStand, hs] at hw
    exact absurd hw (by simp [kindAt, hn])
  · next hs =>
    rw [MayStand, hs] at hw
    rw [if_pos (by exact hw), soundAfter_next]
    exact runElem_sound (he _ _ _) _ _ _ _ _ _ h

theorem onCc_sound {eff : Nat → State → Option (Eff × Flow × State)} (he : ∀ k, SoundCc (eff k)) : SoundCc (onCc eff) := by
  intro s h
  unfold onCc
  split
  · exact he _ s h
  · simp

theorem onCtx_sound {eff : Nat → Nat → Nat → State → Option (Eff × State)} (he : ∀ k e c, SoundElem (eff k e c)) : SoundElem (onCtx eff) := by
  intro s h
  unfold onCtx
  split
  · exact he _ _ _ s h
  · simp

/-- A choice between two states of the same soundness. -/
theorem ite_sound {c : Prop} [Decidable c] {s t : State} {b : Bool} (hs : s.turnsSound = b) (ht : t.turnsSound = b) : (if c then s else t).turnsSound = b := by
  split
  · exact hs
  · exact ht

/-! ### MemInstr -/

/-- R258, R280: a tile access leaves the state that its own action answers, or that it found. -/
theorem tileAccess_sound {a b : Operand} {n need order : Nat} {aligned reads : Bool} {act : Nat → Option (Eff × Flow × State)} {k : Nat} {s : State}
    (h : s.turnsSound = true) (ha : ∀ addr, ∀ r ∈ act addr, r.2.2.turnsSound = true) :
    ∀ r ∈ tileAccess a b n need order aligned reads act k s, r.2.2.turnsSound = true := by
  unfold tileAccess
  simp only
  split
  · simp
  split
  · simp [h]
  split
  · simp [h]
  split
  · simp [h]
  · exact ha _

theorem requestEff_sound (op : Nat) (d : Operand) (p v : Option Operand) (m : BitVec 4) (ordered : Bool) (k e c : Nat) :
    SoundElem (requestEff op d p v m ordered k e c) := by
  intro s h
  simp only [requestEff]
  split_ifs <;> simp [h]

theorem ldEff_sound (d a b : Operand) (m : BitVec 4) (k : Nat) : SoundCc (ldEff d a b m k) := by
  intro s h
  unfold ldEff
  exact tileAccess_sound h (by simp [h])

theorem execLd_sound (g : BitVec 16) (d a b : Operand) (m : BitVec 4) (s : State) (h : s.turnsSound = true) (hw : MayStand s (.ld g d a b m)) : SoundAfter (execLd g d a b m s) :=
  runBoth_sound (onCtx_sound fun k e c => requestEff_sound 0xC0 d (some a) none m false k e c) (onCc_sound fun k => ldEff_sound d a b m k) _ s h hw

theorem stEff_sound (v a b : Operand) (m : BitVec 4) (k : Nat) : SoundCc (stEff v a b m k) := by
  intro s h
  unfold stEff
  exact tileAccess_sound h (by simp [h])

theorem execSt_sound (g : BitVec 16) (d a b : Operand) (m : BitVec 4) (s : State) (h : s.turnsSound = true) (hw : MayStand s (.st g d a b m)) : SoundAfter (execSt g d a b m s) :=
  runBoth_sound (onCtx_sound fun k e c => requestEff_sound 0xC1 d (storePos a) (some b) m false k e c) (onCc_sound fun k => stEff_sound d a b m k) _ s h hw

/-- R258, R280: an access to an element of a format leaves the state that its own action answers, or that it found. -/
theorem elemAccess_sound {a b : Operand} {fmt need : Nat} {reads : Bool} {act : Nat → Nat → Nat → Option (Eff × Flow × State)} {k : Nat} {s : State}
    (h : s.turnsSound = true) (ha : ∀ addr n sh, ∀ r ∈ act addr n sh, r.2.2.turnsSound = true) :
    ∀ r ∈ elemAccess a b fmt need reads act k s, r.2.2.turnsSound = true := by
  unfold elemAccess
  simp only
  split
  · simp
  split
  · simp [h]
  split
  · simp [h]
  · exact ha _ _ _

theorem ldfEff_sound (d a b : Operand) (m : BitVec 4) (k : Nat) : SoundCc (ldfEff d a b m k) := by
  intro s h
  unfold ldfEff
  exact elemAccess_sound h (by simp [h])

theorem execLdf_sound (g : BitVec 16) (d a b : Operand) (m : BitVec 4) (s : State) (h : s.turnsSound = true) (hw : MayStand s (.ldf g d a b m)) :
    SoundAfter (execLdf g d a b m s) :=
  runBoth_sound (onCtx_sound fun k e c => requestEff_sound 0xC2 d (some a) none m false k e c) (onCc_sound fun k => ldfEff_sound d a b m k) _ s h hw

theorem stfEff_sound (v a b : Operand) (m : BitVec 4) (k : Nat) : SoundCc (stfEff v a b m k) := by
  intro s h
  unfold stfEff
  exact elemAccess_sound h (by simp [h])

theorem execStf_sound (g : BitVec 16) (d a b : Operand) (m : BitVec 4) (s : State) (h : s.turnsSound = true) (hw : MayStand s (.stf g d a b m)) :
    SoundAfter (execStf g d a b m s) :=
  runBoth_sound (onCtx_sound fun k e c => requestEff_sound 0xC3 d (storePos a) (some b) m false k e c) (onCc_sound fun k => stfEff_sound d a b m k) _ s h hw

theorem farEff_sound (op : Nat) (d a b : Operand) (m : BitVec 4) (k : Nat) : SoundCc (farEff op d a b m k) := by
  intro s h
  simp only [farEff]
  split
  · simp
  split
  · simp [h]
  split
  · simp
  · simp [h]

theorem tileAtomicEff_sound (op : Nat) (d a b : Operand) (m : BitVec 4) (k : Nat) : SoundCc (tileAtomicEff op d a b m k) := by
  intro s h
  unfold tileAtomicEff
  exact tileAccess_sound h (by simp [h])

theorem atomicEff_sound (i : Instr) (op : Nat) (d a b : Operand) (m : BitVec 4) (k : Nat) : SoundCc (atomicEff i op d a b m k) := by
  intro s h
  unfold atomicEff
  split
  · split
    · exact farEff_sound _ _ _ _ _ _ s h
    · simp [h]
  · exact tileAtomicEff_sound _ _ _ _ _ _ s h

theorem runAtomic_sound (i : Instr) (op : Nat) (d a b : Operand) (m : BitVec 4) (s : State) (h : s.turnsSound = true)
    (hw : MayStand s i) : SoundAfter (runAtomic i op d a b m s) := by
  have hr := runBoth_sound (onCtx_sound fun k e c => requestEff_sound op d (some a) (some b) m true k e c) (onCc_sound fun k => atomicEff_sound i op d a b m k) i s h hw
  unfold runAtomic
  simp only
  split
  · simp only [soundAfter_ite]
    split
    · simp [h]
    · exact hr
  · exact hr

theorem execFence_sound (g : BitVec 16) (d : Option Operand) (a : Operand) (s : State) (h : s.turnsSound = true) (hw : MayStand s (.fence g d a)) :
    SoundAfter (execFence g d a s) := by
  refine runBoth_sound (by simp [SoundElem]) (onCc_sound (eff := fun k s => if !s.allPerformed k then none else some ({}, .next, s)) fun k s h => ?_) _ s h hw
  dsimp only
  split <;> simp [h]

theorem execJoin_sound (g : BitVec 16) (d a b : Operand) (s : State) (h : s.turnsSound = true) (hw : MayStand s (.join g d a b)) : SoundAfter (execJoin g d a b s) :=
  runFabric_sound (by simp [SoundElem]) _ rfl s h hw
theorem execFork_sound (g : BitVec 16) (d a : Operand) (s : State) (h : s.turnsSound = true) (hw : MayStand s (.fork g d a)) : SoundAfter (execFork g d a s) :=
  runFabric_sound (by simp [SoundElem]) _ rfl s h hw

/-! ### CapInstr -/

theorem execCldc_sound (g : BitVec 16) (d a b : Operand) (s : State) (h : s.turnsSound = true) (hw : MayStand s (.cldc g d a b)) : SoundAfter (execCldc g d a b s) :=
  runControl_sound (fun _ _ h => tileAccess_sound h (by simp [h])) _ ⟨not_wf_of_operands rfl, not_wf_of_operands rfl⟩ s h hw
theorem execCstc_sound (g : BitVec 16) (d a b : Operand) (s : State) (h : s.turnsSound = true) (hw : MayStand s (.cstc g d a b)) : SoundAfter (execCstc g d a b s) :=
  runControl_sound (fun _ _ h => tileAccess_sound h (by simp [h])) _ ⟨not_wf_of_operands rfl, not_wf_of_operands rfl⟩ s h hw

/-! ### FlowOps -/

theorem jumpTo_sound (f : Eff) (t delay : Nat) (s s' : State) (h : s.turnsSound = true) (h' : s'.turnsSound = true) : (jumpTo f t delay s s').2.2.turnsSound = true := by
  unfold jumpTo
  split
  · exact h'
  · exact h

theorem execBr_sound (g : BitVec 16) (off : BitVec 36) (s : State) (h : s.turnsSound = true) (hw : MayStand s (.br g off)) : SoundAfter (execBr g off s) :=
  runControl_sound (fun _ s h => by simp [jumpTo_sound, h]) _ ⟨rfl, rfl⟩ s h hw
theorem execJmp_sound (g : BitVec 16) (a : Operand) (s : State) (h : s.turnsSound = true) (hw : MayStand s (.jmp g a)) : SoundAfter (execJmp g a s) :=
  runControl_sound (fun _ s h => by simp [jumpTo_sound, h]) _ ⟨rfl, rfl⟩ s h hw
theorem execJal_sound (g : BitVec 16) (d : Operand) (off : BitVec 24) (s : State) (h : s.turnsSound = true) (hw : MayStand s (.jal g d off)) : SoundAfter (execJal g d off s) :=
  runControl_sound (fun _ s h => by simp [jumpTo_sound, h]) _ ⟨rfl, rfl⟩ s h hw
theorem execJalr_sound (g : BitVec 16) (d a : Operand) (s : State) (h : s.turnsSound = true) (hw : MayStand s (.jalr g d a)) : SoundAfter (execJalr g d a s) :=
  runControl_sound (fun _ s h => by simp [jumpTo_sound, h]) _ ⟨rfl, rfl⟩ s h hw
theorem execLoop_sound (g : BitVec 16) (d a : Operand) (s : State) (h : s.turnsSound = true) (hw : MayStand s (.loop g d a)) : SoundAfter (execLoop g d a s) :=
  runControl_sound (fun _ s h => by dsimp only; split <;> simp [jumpTo_sound, h]) _ ⟨rfl, rfl⟩ s h hw
theorem execWaitp_sound (g : BitVec 16) (a : Operand) (s : State) (h : s.turnsSound = true) (hw : MayStand s (.waitp g a)) : SoundAfter (execWaitp g a s) :=
  runControl_sound (fun _ s h => by dsimp only; split <;> simp [h]) _ ⟨rfl, rfl⟩ s h hw
theorem execHalt_sound (g : BitVec 16) (s : State) (h : s.turnsSound = true) (hw : MayStand s (.halt g)) : SoundAfter (execHalt g s) :=
  runControl_sound (fun _ s h => by simp [h]) _ ⟨rfl, rfl⟩ s h hw

/-! ### Xlate -/

@[simp] theorem State.putDpa_sound (s : State) (d : Nat) (v : List Byte) : (s.putDpa d v).turnsSound = s.turnsSound := by
  unfold State.putDpa
  cases s.media d <;> cases s.copyOf (d / 2 ^ 16) <;> rfl

@[simp] theorem State.storePlace_sound (s : State) (p : Place) (v : List Byte) : (s.storePlace p v).turnsSound = s.turnsSound := by
  match p with
  | .remote _ _ => rfl
  | .loc x none => exact s.put_sound x v
  | .loc _ (some a) => exact s.putDpa_sound a v

@[simp] theorem State.writePlace_sound (s : State) (p : Place) (v : List Byte) : (s.writePlace p v).turnsSound = s.turnsSound := by
  unfold State.writePlace
  split <;> simp

/-! ### EngineInstr -/

theorem issued_sound (k : Nat) (s : State) (f : Eff) (s' : State) (h : s'.turnsSound = true) : ∀ r ∈ issued k s f s', r.2.2.turnsSound = true := by simp [issued, h]

theorem enqueue_sound (k : Nat) (f : Eff) (banks : List Nat) (m : Cmd) : SoundCc (enqueue k f banks m) := by
  intro s h
  unfold enqueue
  split <;> simp [h]

theorem blockCommand_sound (op : Nat) (d a b : Operand) (m : BitVec 4) (rule : State → Nat → BlockWords → BlockRule)
    {more : State → Nat → BlockWords → Option (Nat × Nat × State)} (hm : ∀ s k w, ∀ r ∈ more s k w, r.2.2.turnsSound = s.turnsSound) (init : BlockWords → Cmd → Cmd) (k : Nat) :
    SoundCc (blockCommand op d a b m rule more init k) := by
  intro s h
  unfold blockCommand
  simp only
  split
  · simp
  split
  · simp [h]
  split
  · simp [h]
  split
  · simp [h]
  split
  · next hr => simpa [← hm _ _ _ _ hr] using h
  · exact enqueue_sound _ _ _ _ s h

theorem execDma_sound (g : BitVec 16) (d a b : Operand) (m : BitVec 4) (s : State) (h : s.turnsSound = true) (hw : MayStand s (.dma g d a b m)) :
    SoundAfter (execDma g d a b m s) :=
  runControl_sound (fun _ => blockCommand_sound _ _ _ _ _ _ (by simp) _ _) _ ⟨rfl, rfl⟩ s h hw
theorem execDmas_sound (g : BitVec 16) (d a b : Operand) (m : BitVec 4) (s : State) (h : s.turnsSound = true) (hw : MayStand s (.dmas g d a b m)) :
    SoundAfter (execDmas g d a b m s) :=
  runControl_sound (fun _ => blockCommand_sound _ _ _ _ _ _ fifoCheck_sound _ _) _ ⟨rfl, rfl⟩ s h hw
theorem execGath_sound (g : BitVec 16) (d a b : Operand) (m : BitVec 4) (s : State) (h : s.turnsSound = true) (hw : MayStand s (.gath g d a b m)) :
    SoundAfter (execGath g d a b m s) :=
  runControl_sound (fun _ => blockCommand_sound _ _ _ _ _ _ (by simp) _ _) _ ⟨rfl, rfl⟩ s h hw
theorem execScat_sound (g : BitVec 16) (d a b : Operand) (m : BitVec 4) (s : State) (h : s.turnsSound = true) (hw : MayStand s (.scat g d a b m)) :
    SoundAfter (execScat g d a b m s) :=
  runControl_sound (fun _ => blockCommand_sound _ _ _ _ _ _ (by simp) _ _) _ ⟨rfl, rfl⟩ s h hw
theorem execStage_sound (g : BitVec 16) (d a b : Operand) (m : BitVec 4) (s : State) (h : s.turnsSound = true) (hw : MayStand s (.stage g d a b m)) :
    SoundAfter (execStage g d a b m s) :=
  runControl_sound (fun _ => blockCommand_sound _ _ _ _ _ _ (by simp) _ _) _ ⟨rfl, rfl⟩ s h hw
theorem execColl_sound (g : BitVec 16) (d a b : Operand) (m : BitVec 4) (s : State) (h : s.turnsSound = true) (hw : MayStand s (.coll g d a b m)) :
    SoundAfter (execColl g d a b m s) :=
  runControl_sound (fun _ => blockCommand_sound _ _ _ _ _ _ (by simp) _ _) _ ⟨rfl, rfl⟩ s h hw

theorem msgEff_sound (d a b : Operand) (m : BitVec 4) (k : Nat) : SoundCc (msgEff d a b m k) := by
  intro s h
  unfold msgEff
  simp only
  split
  · simp
  split
  · simp [h]
  split
  · simp [h]
  split
  · simp [h]
  · exact enqueue_sound _ _ _ _ s h

theorem execMsg_sound (g : BitVec 16) (d a b : Operand) (m : BitVec 4) (s : State) (h : s.turnsSound = true) (hw : MayStand s (.msg g d a b m)) :
    SoundAfter (execMsg g d a b m s) :=
  runControl_sound (fun k => msgEff_sound d a b m k) _ ⟨rfl, rfl⟩ s h hw

theorem mrecvEff_sound (d a b : Operand) (m : BitVec 4) (k : Nat) : SoundCc (mrecvEff d a b m k) := by
  intro s h
  unfold mrecvEff
  simp only
  split
  · simp
  split
  · simp [h]
  · exact enqueue_sound _ _ _ _ s h

theorem execMrecv_sound (g : BitVec 16) (d a b : Operand) (m : BitVec 4) (s : State) (h : s.turnsSound = true) (hw : MayStand s (.mrecv g d a b m)) :
    SoundAfter (execMrecv g d a b m s) :=
  runControl_sound (fun k => mrecvEff_sound d a b m k) _ ⟨rfl, rfl⟩ s h hw

theorem execBankt_sound (g : BitVec 16) (a b : Operand) (s : State) (h : s.turnsSound = true) (hw : MayStand s (.bankt g a b)) : SoundAfter (execBankt g a b s) := by
  refine runControl_sound (fun k s h => ?_) _ ⟨rfl, rfl⟩ s h hw
  dsimp only
  split
  · simp
  split
  · simp [h]
  · exact issued_sound _ _ _ _ (by simp [h])

theorem launchEff_sound (d a b : Operand) (m : BitVec 4) (k : Nat) : SoundCc (launchEff d a b m k) := by
  intro s h
  unfold launchEff
  simp only
  split
  · simp
  split
  · simp [h]
  split
  · simp [h]
  · exact enqueue_sound _ _ _ _ s h

theorem execLaunch_sound (g : BitVec 16) (d a b : Operand) (m : BitVec 4) (s : State) (h : s.turnsSound = true) (hw : MayStand s (.launch g d a b m)) :
    SoundAfter (execLaunch g d a b m s) :=
  runControl_sound (fun k => launchEff_sound d a b m k) _ ⟨rfl, rfl⟩ s h hw

theorem gbarEff_sound (n k : Nat) : SoundCc (gbarEff n k) := by
  intro s h
  unfold gbarEff
  split
  · simp
  split
  · exact issued_sound _ _ _ _ h
  simp only
  split
  · exact issued_sound _ _ _ _ (by simp [h])
  · simp [h]

theorem execGbar_sound (g : BitVec 16) (a : Operand) (s : State) (h : s.turnsSound = true) (hw : MayStand s (.gbar g a)) : SoundAfter (execGbar g a s) :=
  runControl_sound (fun _ s h => gbarEff_sound _ _ s h) _ ⟨rfl, rfl⟩ s h hw

theorem execQwait_sound (g : BitVec 16) (d a b : Operand) (s : State) (h : s.turnsSound = true) (hw : MayStand s (.qwait g d a b)) : SoundAfter (execQwait g d a b s) := by
  refine runControl_sound (fun k s h => ?_) _ ⟨rfl, rfl⟩ s h hw
  dsimp only
  split
  · simp
  split
  · simp [h]
  · exact enqueue_sound _ _ _ _ s h

theorem execEpoll_sound (g : BitVec 16) (d a : Operand) (s : State) (h : s.turnsSound = true) (hw : MayStand s (.epoll g d a)) : SoundAfter (execEpoll g d a s) :=
  runControl_sound (fun _ _ h => issued_sound _ _ _ _ h) _ ⟨rfl, rfl⟩ s h hw

@[simp] theorem State.endRow_sound (s : State) (k id : Nat) : (s.endRow k id).turnsSound = s.turnsSound := by
  unfold State.endRow
  split
  · simp only
    split
    · simp
    · rfl
  · rfl

@[simp] theorem State.endCmd_sound (s : State) (k id st : Nat) : (s.endCmd k id st).turnsSound = s.turnsSound := by
  simp [State.endCmd, State.endRow_sound]
theorem execEcancel_sound (g : BitVec 16) (a : Operand) (s : State) (h : s.turnsSound = true) (hw : MayStand s (.ecancel g a)) : SoundAfter (execEcancel g a s) :=
  runControl_sound (fun _ s h => issued_sound _ _ _ _ (by rwa [foldl_sound fun _ _ => State.after_sound ..])) _ ⟨rfl, rfl⟩ s h hw

/-! ### SystemOps -/

theorem execTrap_sound (g : BitVec 16) (a b : Operand) (s : State) (h : s.turnsSound = true) (hw : MayStand s (.trap g a b)) : SoundAfter (execTrap g a b s) :=
  runControl_sound (fun _ s h => by simp [h]) _ ⟨rfl, rfl⟩ s h hw
theorem execEret_sound (g : BitVec 16) (s : State) (h : s.turnsSound = true) (hw : MayStand s (.eret g)) : SoundAfter (execEret g s) :=
  runControl_sound (fun _ s h => by dsimp only; split_ifs <;> simp [h]) _ ⟨rfl, rfl⟩ s h hw
theorem execSrd_sound (g : BitVec 16) (d a : Operand) (s : State) (h : s.turnsSound = true) (hw : MayStand s (.srd g d a)) : SoundAfter (execSrd g d a s) :=
  runControl_sound (fun _ s h => by split <;> simp [h]) _ ⟨rfl, rfl⟩ s h hw
theorem execSwr_sound (g : BitVec 16) (d a : Operand) (s : State) (h : s.turnsSound = true) (hw : MayStand s (.swr g d a)) : SoundAfter (execSwr g d a s) :=
  runControl_sound (fun _ s h => by split <;> simp [h]) _ ⟨rfl, rfl⟩ s h hw
theorem execCfence_sound (g : BitVec 16) (s : State) (h : s.turnsSound = true) (hw : MayStand s (.cfence g)) : SoundAfter (execCfence g s) :=
  runControl_sound (fun _ s h => by simp [h]) _ ⟨rfl, rfl⟩ s h hw
theorem execWfe_sound (g : BitVec 16) (d a b : Operand) (s : State) (h : s.turnsSound = true) (hw : MayStand s (.wfe g d a b)) : SoundAfter (execWfe g d a b s) :=
  runControl_sound (fun _ s h => by dsimp only; split <;> simp [h]) _ ⟨rfl, rfl⟩ s h hw
theorem execBkpt_sound (g : BitVec 16) (a : Operand) (s : State) (h : s.turnsSound = true) (hw : MayStand s (.bkpt g a)) : SoundAfter (execBkpt g a s) :=
  runControl_sound (fun _ s h => by dsimp only; split <;> simp [h]) _ ⟨rfl, rfl⟩ s h hw

/-! ### Records -/

@[simp] theorem State.writeRing_sound (s : State) (die p a : Nat) (b : List Byte) : (s.writeRing die p a b).2.turnsSound = s.turnsSound := by
  unfold State.writeRing
  split <;> next hp => simp [State.writePlace_sound, sound_of_call hp (State.place_sound ..)]

@[simp] theorem State.writeEvent_sound (s : State) (r : EventRec) : (s.writeEvent r).2.turnsSound = s.turnsSound := by
  unfold State.writeEvent
  simp only
  split
  · rfl
  split <;> next hr => simp [sound_of_call hr (State.writeRing_sound ..)]

@[simp] theorem State.writeLost_sound (s : State) (p : Nat) : (s.writeLost p).turnsSound = s.turnsSound := by
  unfold State.writeLost
  simp only
  split
  · rfl
  split <;> next hr => simp [sound_of_call hr (State.writeEvent_sound ..)]

@[simp] theorem State.deliverRecord_sound (s : State) (r : EventRec) : (s.deliverRecord r).turnsSound = s.turnsSound := by
  unfold State.deliverRecord
  split <;> next hr => simp [sound_of_call hr ((State.writeEvent_sound ..).trans (s.writeLost_sound r.part))]

@[simp] theorem State.deliver_sound (s : State) (r : EventRec) : (s.deliver r).turnsSound = s.turnsSound := by simp [State.deliver, State.deliverRecord_sound]

@[simp] theorem State.writeTrace_sound (s : State) (p w arg0 arg1 die : Nat) : (s.writeTrace p w arg0 arg1 die).2.turnsSound = s.turnsSound := by
  unfold State.writeTrace
  simp only
  split
  · rfl
  split <;> next hr => simp [sound_of_call hr (State.writeRing_sound ..)]

@[simp] theorem State.deliverTrace_sound (s : State) (r : TraceRec) : (s.deliverTrace r).turnsSound = s.turnsSound := by
  unfold State.deliverTrace
  split
  · rfl
  next p _ =>
  have hl (u : Bool × State) : (match u with
      | (true, s) => s.modPart p fun x => { x with trDrop := 0 }
      | (false, s) => s).turnsSound = u.2.turnsSound := by
    rcases u with ⟨_ | _, t⟩ <;> rfl
  simp only
  split <;> next hr =>
    have := sound_of_call hr ((State.writeTrace_sound ..).trans (ite_sound rfl ((hl _).trans (State.writeTrace_sound ..))))
    simpa using this

@[simp] theorem State.flush_sound (s : State) : s.flush.turnsSound = s.turnsSound := by simp [State.flush]

theorem execIrqTimer_sound (f : Nat) (s : State) (h : s.turnsSound = true) : SoundAfter (execIrqTimer f s) := by
  simp only [execIrqTimer]
  split <;> simp [h]

/-! ### Power -/

theorem leaseEff_sound (d a b : Operand) (k : Nat) (s : State) (h : s.turnsSound = true) : (leaseEff d a b k s).2.turnsSound = true := by
  unfold leaseEff
  split <;> simp [h]

theorem execLease_sound (g : BitVec 16) (d a b : Operand) (s : State) (h : s.turnsSound = true) (hw : MayStand s (.lease g d a b)) : SoundAfter (execLease g d a b s) :=
  runControl_sound (fun _ s h => by simp [leaseEff_sound, h]) _ ⟨rfl, rfl⟩ s h hw
theorem execLrel_sound (g : BitVec 16) (s : State) (h : s.turnsSound = true) (hw : MayStand s (.lrel g)) : SoundAfter (execLrel g s) :=
  runControl_sound (fun k s h => by cases (s.core k).part <;> simp [h]) _ ⟨rfl, rfl⟩ s h hw
theorem execPwrq_sound (g : BitVec 16) (d a b : Operand) (s : State) (h : s.turnsSound = true) (hw : MayStand s (.pwrq g d a b)) : SoundAfter (execPwrq g d a b s) :=
  runControl_sound (fun _ s h => by simp [h]) _ ⟨rfl, rfl⟩ s h hw
theorem execTstamp_sound (g : BitVec 16) (d : Operand) (s : State) (h : s.turnsSound = true) (hw : MayStand s (.tstamp g d)) : SoundAfter (execTstamp g d s) :=
  runControl_sound (fun _ s h => by simp [h]) _ ⟨rfl, rfl⟩ s h hw
theorem execMark_sound (g : BitVec 16) (a b : Operand) (s : State) (h : s.turnsSound = true) (hw : MayStand s (.mark g a b)) : SoundAfter (execMark g a b s) :=
  runControl_sound (fun _ s h => by simp [h]) _ ⟨rfl, rfl⟩ s h hw

theorem dstopEff_sound (d a : Operand) (k : Nat) (s : State) (h : s.turnsSound = true) : (dstopEff d a k s).2.turnsSound = true := by
  simp only [dstopEff]
  split <;> simp [h]

theorem execDstop_sound (g : BitVec 16) (d a : Operand) (s : State) (h : s.turnsSound = true) (hw : MayStand s (.dstop g d a)) : SoundAfter (execDstop g d a s) :=
  runControl_sound (fun _ s h => by simp [dstopEff_sound, h]) _ ⟨rfl, rfl⟩ s h hw

theorem scantEff_sound (d a : Operand) (k : Nat) (s : State) (h : s.turnsSound = true) : ∀ r ∈ scantEff d a k s, r.2.2.turnsSound = true := by
  simp only [scantEff]
  split
  · simp
  split
  · simp [h]
  split <;> simp [h]

theorem execScant_sound (g : BitVec 16) (d a : Operand) (s : State) (h : s.turnsSound = true) (hw : MayStand s (.scant g d a)) : SoundAfter (execScant g d a s) :=
  runControl_sound (fun k s h => scantEff_sound d a k s h) _ ⟨rfl, rfl⟩ s h hw
theorem execScanq_sound (g : BitVec 16) (d a : Operand) (s : State) (h : s.turnsSound = true) (hw : MayStand s (.scanq g d a)) : SoundAfter (execScanq g d a s) :=
  runControl_sound (fun _ s h => by simp [h]) _ ⟨rfl, rfl⟩ s h hw

theorem lcmapEff_sound (d a b : Operand) (k : Nat) (s : State) (h : s.turnsSound = true) : ∀ r ∈ lcmapEff d a b k s, r.2.2.turnsSound = true := by
  simp only [lcmapEff]
  split
  · simp [h]
  split
  · split <;> simp [h]
  · simp [h]

theorem execLcmap_sound (g : BitVec 16) (d a b : Operand) (s : State) (h : s.turnsSound = true) (hw : MayStand s (.lcmap g d a b)) : SoundAfter (execLcmap g d a b s) :=
  runControl_sound (fun k s h => lcmapEff_sound d a b k s h) _ ⟨rfl, rfl⟩ s h hw

/-! ### TokenOps -/

theorem execEmit_sound (g : BitVec 16) (d a : Operand) (b : Option Operand) (s : State) (h : s.turnsSound = true) (hw : MayStand s (.emit g d a b)) :
    SoundAfter (execEmit g d a b s) :=
  runFabric_sound (by simp [SoundElem]) _ rfl s h hw
theorem execCtok_sound (g : BitVec 16) (d a : Operand) (b : Option Operand) (s : State) (h : s.turnsSound = true) (hw : MayStand s (.ctok g d a b)) :
    SoundAfter (execCtok g d a b s) :=
  runFabric_sound (by simp [SoundElem]) _ rfl s h hw
theorem execDeq_sound (g : BitVec 16) (a : Operand) (s : State) (h : s.turnsSound = true) (hw : MayStand s (.deq g a)) : SoundAfter (execDeq g a s) :=
  runFabric_sound (by simp [SoundElem]) _ rfl s h hw
theorem execPeekk_sound (g : BitVec 16) (d a : Operand) (s : State) (h : s.turnsSound = true) (hw : MayStand s (.peekk g d a)) : SoundAfter (execPeekk g d a s) :=
  runFabric_sound (by simp [SoundElem]) _ rfl s h hw
theorem execPass_sound (g : BitVec 16) (d a : Operand) (s : State) (h : s.turnsSound = true) (hw : MayStand s (.pass g d a)) : SoundAfter (execPass g d a s) :=
  runFabric_sound (by simp [SoundElem]) _ rfl s h hw
theorem execRetire_sound (g : BitVec 16) (x : Bool) (s : State) (h : s.turnsSound = true) (hw : MayStand s (.retire g x)) : SoundAfter (execRetire g x s) :=
  runFabric_sound (fun _ _ _ s h => by split <;> simp [h]) _ rfl s h hw

theorem exitEff_sound (a : Operand) (b : Option Operand) (nv : BitVec 3) (k e c : Nat) (s : State) (h : s.turnsSound = true) :
    ∀ r ∈ exitEff a b nv k e c s, r.2.turnsSound = true := by
  simp only [exitEff]
  split
  · simp
  split
  · simp
  split <;> simp [h]

theorem execExit_sound (g : BitVec 16) (a : Operand) (b : Option Operand) (nv : BitVec 3) (s : State) (h : s.turnsSound = true) (hw : MayStand s (.exit g a b nv)) :
    SoundAfter (execExit g a b nv s) :=
  runFabric_sound (fun k e c s h => exitEff_sound a b nv k e c s h) _ rfl s h hw

theorem eowEff_sound (d : Option Operand) (a : Operand) (k e c : Nat) (s : State) (h : s.turnsSound = true) : ∀ r ∈ eowEff d a k e c s, r.2.turnsSound = true := by
  simp only [eowEff]
  split
  · split
    · split
      · split <;> split <;> simp [h]
      · simp
    · simp
  · simp

theorem execEow_sound (g : BitVec 16) (d : Option Operand) (a : Operand) (s : State) (h : s.turnsSound = true) (hw : MayStand s (.eow g d a)) : SoundAfter (execEow g d a s) :=
  runFabric_sound (fun k e c s h => eowEff_sound d a k e c s h) _ rfl s h hw
theorem execTidx_sound (g : BitVec 16) (d a b : Operand) (s : State) (h : s.turnsSound = true) (hw : MayStand s (.tidx g d a b)) : SoundAfter (execTidx g d a b s) :=
  runFabric_sound (by simp [SoundElem]) _ rfl s h hw
theorem execIdle_sound (g : BitVec 16) (a : Operand) (s : State) (h : s.turnsSound = true) (hw : MayStand s (.idle g a)) : SoundAfter (execIdle g a s) :=
  runFabric_sound (by simp [SoundElem]) _ rfl s h hw

/-! ### EvCore -/

@[simp] theorem State.sendWrap_sound (s : State) (k e : Nat) (payload : Word64) (w : Nat) : (s.sendWrap k e payload w).turnsSound = s.turnsSound := by
  unfold State.sendWrap
  split
  · rfl
  · simp

@[simp] theorem State.appendRecord_sound (s : State) (k rn b : Nat) (ws : List Word64) : (s.appendRecord k rn b ws).turnsSound = s.turnsSound := by
  unfold State.appendRecord
  split
  · rfl
  · simp

@[simp] theorem State.placeOut_sound (s : State) (k e c : Nat) (f : Flight) (o : Out) : (s.placeOut k e c f o).turnsSound = s.turnsSound := by
  cases o with
  | record b ws =>
    simp only [State.placeOut]
    split
    · simp [State.appendRecord_sound]
    · rfl
  | token | ctok | pass => simp [State.placeOut, State.sendWrap_sound]
  | request | store => simp [State.placeOut]

@[simp] theorem State.landElem_sound (s : State) (k e c : Nat) (f : Flight) : (s.landElem k e c f).turnsSound = s.turnsSound := by
  simp only [State.landElem]
  split <;> simp

theorem execWriteBack_sound (x : Site) (id : Nat) (s : State) (h : s.turnsSound = true) : SoundAfter (execWriteBack x id s) := by
  simp only [execWriteBack]
  split
  · simp [h]
  split
  · simp [h]
  split <;> simp [h]

theorem execTrapEntry_sound (k : Nat) (s : State) (h : s.turnsSound = true) : SoundAfter (execTrapEntry k s) := by
  unfold execTrapEntry
  split <;> simp [h]

theorem execAsynchronousTrap_sound (k : Nat) (s : State) (h : s.turnsSound = true) : SoundAfter (execAsynchronousTrap k s) := by
  unfold execAsynchronousTrap
  split <;> simp [h]

theorem execInstructionCacheFill_sound (k : Nat) (s : State) (h : s.turnsSound = true) : SoundAfter (execInstructionCacheFill k s) := by
  unfold execInstructionCacheFill
  rw [soundAfter_next]
  split
  · exact h
  simp only
  split <;> next hf =>
    rw [foldl_sound (by simp), sound_of_call hf (State.fetch_sound ..)]
    exact h

theorem execWfeTimeout_sound (k : Nat) (s : State) (h : s.turnsSound = true) : SoundAfter (execWfeTimeout k s) := by
  unfold execWfeTimeout
  split <;> simp [h]

/-! ### Matrix -/

theorem mmacEff_sound (f : LFmt) (src : MmacSrc) (b : Operand) (k e c : Nat) (s : State) (h : s.turnsSound = true) : ∀ r ∈ mmacEff f src b k e c s, r.2.turnsSound = true := by
  simp only [mmacEff]
  split
  · simp
  split
  · simp
  split
  · split <;> simp [h]
  split
  · simp
  split <;> simp [h]

theorem execMmac_sound (g : BitVec 16) (src : MmacSrc) (b : Operand) (s : State) (h : s.turnsSound = true) (hw : MayStand s (.mmac g src b)) : SoundAfter (execMmac g src b s) :=
  runFabric_sound (fun k e c s h => mmacEff_sound _ src b k e c s h) _ rfl s h hw
theorem execMmac8_sound (g : BitVec 16) (src : MmacSrc) (b : Operand) (s : State) (h : s.turnsSound = true) (hw : MayStand s (.mmac8 g src b)) : SoundAfter (execMmac8 g src b s) :=
  runFabric_sound (fun k e c s h => mmacEff_sound _ src b k e c s h) _ rfl s h hw
theorem execMmac12_sound (g : BitVec 16) (src : MmacSrc) (b : Operand) (s : State) (h : s.turnsSound = true) (hw : MayStand s (.mmac12 g src b)) :
    SoundAfter (execMmac12 g src b s) :=
  runFabric_sound (fun k e c s h => mmacEff_sound _ src b k e c s h) _ rfl s h hw

theorem mmacwEff_sound (q : BitVec 2) (k e c : Nat) (s : State) (h : s.turnsSound = true) : ∀ r ∈ mmacwEff q k e c s, r.2.turnsSound = true := by
  simp only [mmacwEff]
  split
  · simp
  split <;> simp [h]

theorem execMmacw_sound (g : BitVec 16) (q : BitVec 2) (s : State) (h : s.turnsSound = true) (hw : MayStand s (.mmacw g q)) : SoundAfter (execMmacw g q s) :=
  runFabric_sound (fun k e c s h => mmacwEff_sound q k e c s h) _ rfl s h hw
theorem execMzero_sound (g : BitVec 16) (a : Operand) (s : State) (h : s.turnsSound = true) (hw : MayStand s (.mzero g a)) : SoundAfter (execMzero g a s) :=
  runFabric_sound (fun _ _ _ s h => by split <;> simp [h]) _ rfl s h hw
theorem execMnorm_sound (g : BitVec 16) (a : Option Operand) (s : State) (h : s.turnsSound = true) (hw : MayStand s (.mnorm g a)) : SoundAfter (execMnorm g a s) :=
  runFabric_sound (fun _ _ _ s h => by cases a <;> (split <;> simp [h])) _ rfl s h hw
theorem execMdown_sound (g : BitVec 16) (f : LFmt) (s : State) (h : s.turnsSound = true) (hw : MayStand s (.mdown g f)) : SoundAfter (execMdown g f s) :=
  runFabric_sound (fun _ _ _ s h => by split <;> simp [h]) _ rfl s h hw

theorem execMread_sound (g : BitVec 16) (d a b : Operand) (m : Rounding) (s : State) (h : s.turnsSound = true) (hw : MayStand s (.mread g d a b m)) :
    SoundAfter (execMread g d a b m s) := by
  refine runFabric_sound (fun k e _ s h => ?_) _ rfl s h hw
  simp only
  generalize 8 * _ + (s.src b).ownZ % 8 = i
  split <;> simp [h]

theorem execMxget_sound (g : BitVec 16) (d a : Operand) (s : State) (h : s.turnsSound = true) (hw : MayStand s (.mxget g d a)) : SoundAfter (execMxget g d a s) :=
  runFabric_sound (by simp [SoundElem]) _ rfl s h hw

theorem mtaskEff_sound (d : Option Operand) (a b : Operand) (p : BitVec 2) (k e c : Nat) (s : State) (h : s.turnsSound = true) :
    ∀ r ∈ mtaskEff d a b p k e c s, r.2.turnsSound = true := by
  simp only [mtaskEff]
  split
  · split <;> simp [h]
  · simp

theorem execMtask_sound (g : BitVec 16) (d : Option Operand) (a b : Operand) (p : BitVec 2) (s : State) (h : s.turnsSound = true) (hw : MayStand s (.mtask g d a b p)) :
    SoundAfter (execMtask g d a b p s) :=
  runFabric_sound (fun k e c s h => mtaskEff_sound d a b p k e c s h) _ rfl s h hw
theorem execMpois_sound (g : BitVec 16) (a : Operand) (x : Bool) (s : State) (h : s.turnsSound = true) (hw : MayStand s (.mpois g a x)) : SoundAfter (execMpois g a x s) :=
  runFabric_sound (fun _ _ _ s h => by split <;> simp [h]) _ rfl s h hw

/-! ### Fabric -/

theorem execTokenTransfer_sound (k net link : Nat) (s : State) (h : s.turnsSound = true) : SoundAfter (execTokenTransfer k net link s) := by
  unfold execTokenTransfer
  split <;> simp [h]

theorem execBusPacketDiscard_sound (k : Nat) (col : Bool) (bus : Nat) (s : State) (h : s.turnsSound = true) : SoundAfter (execBusPacketDiscard k col bus s) := by
  simp [execBusPacketDiscard, h]
theorem execFillerFiring_sound (k e : Nat) (s : State) (h : s.turnsSound = true) : SoundAfter (execFillerFiring k e s) := by simp [execFillerFiring, h]

@[simp] theorem State.takeLeast_sound (s : State) (k rn b n : Nat) : (s.takeLeast k rn b n).2.turnsSound = s.turnsSound := by
  unfold State.takeLeast
  split
  · rfl
  · simp

@[simp] theorem State.beginPass_sound (s : State) (k rn : Nat) (r : Region) (b : Nat) (same : Bool) : (s.beginPass k rn r b same).turnsSound = s.turnsSound := by
  simp only [State.beginPass, State.modRegion_sound]
  split
  · exact s.takeLeast_sound ..
  · simp

theorem execPassStart_sound (k rn : Nat) (s : State) (h : s.turnsSound = true) : SoundAfter (execPassStart k rn s) := by
  simp only [execPassStart]
  split
  · simp [h]
  split
  · simp [h]
  split
  · simp [h]
  split
  · simp [h]
  split
  · simp [h]
  split <;> simp [h]

theorem execEntryTokenSend_sound (k rn : Nat) (s : State) (h : s.turnsSound = true) : SoundAfter (execEntryTokenSend k rn s) := by
  simp only [execEntryTokenSend]
  split
  · simp [h]
  split
  · simp [h]
  split
  · simp [h]
  split <;> simp [h]

theorem execPickLoad_sound (k rn row pick : Nat) (s : State) (h : s.turnsSound = true) : SoundAfter (execPickLoad k rn row pick s) := by
  unfold execPickLoad
  rw [soundAfter_next]
  split
  · exact h
  split
  · exact h
  split
  · split
    · exact h
    simp only
    split <;> next hl => simp [sound_of_call hl (State.loadPick_sound ..), h]
  · exact h

theorem execRestoreComplete_sound (k rn row : Nat) (s : State) (h : s.turnsSound = true) : SoundAfter (execRestoreComplete k rn row s) := by
  unfold execRestoreComplete
  rw [soundAfter_next]
  split
  · exact h
  simp only
  split
  · exact h
  split
  · simp [h]
  · next hr => simp [State.restoreElems_sound _ _ _ _ _ _ _ hr, h]

theorem execEviction_sound (k rn row : Nat) (s : State) (h : s.turnsSound = true) : SoundAfter (execEviction k rn row s) := by
  simp only [execEviction]
  split
  · simp [h]
  split
  · simp [h]
  split <;> simp [h]

theorem execSpillComplete_sound (k rn row : Nat) (s : State) (h : s.turnsSound = true) : SoundAfter (execSpillComplete k rn row s) := by
  unfold execSpillComplete
  rw [soundAfter_next]
  split
  · exact h
  · simp only
    split <;> simp [h]

theorem execWrapDelivery_sound (k rn : Nat) (s : State) (h : s.turnsSound = true) : SoundAfter (execWrapDelivery k rn s) := by
  unfold execWrapDelivery
  split <;> simp [h]

theorem execWrapOverflow_sound (k rn e : Nat) (s : State) (h : s.turnsSound = true) : SoundAfter (execWrapOverflow k rn e s) := by
  unfold execWrapOverflow
  split <;> simp [h]

theorem execInitialRecordAppend_sound (k rn : Nat) (s : State) (h : s.turnsSound = true) : SoundAfter (execInitialRecordAppend k rn s) := by
  simp only [execInitialRecordAppend]
  split
  · simp [h]
  split <;> simp [h]

/-! ### NodeEv -/

@[simp] theorem State.serveLines_sound (k rn : Nat) (op : List Nat) {put : Nat → State → State} (hp : ∀ l t, (put l t).turnsSound = t.turnsSound) (ls : List Nat)
    (held : List (Nat × List Byte)) (s : State) : (State.serveLines k rn op put ls held s).2.turnsSound = s.turnsSound := by
  induction ls generalizing held s with
  | nil => rfl
  | cons l r ih =>
    unfold State.serveLines
    split
    · exact ih ..
    · exact (ih ..).trans ((hp ..).trans (by simp))

@[simp] theorem State.putPart_sound (s : State) (k : Nat) (x : Stream) (p v l : Nat) : (s.putPart k x p v l).turnsSound = s.turnsSound := by rfl
@[simp] theorem State.putCode_sound (s : State) (k : Nat) (x : Stream) (p v : Nat) : (s.putCode k x p v).turnsSound = s.turnsSound := by rfl

@[simp] theorem State.serveAccess_sound (s : State) (k n i rn p need : Nat) (reads : Bool) (val : Option Nat) (op : List Nat) (held : List (Nat × List Byte)) :
    (s.serveAccess k n i rn p need reads val op held).state.turnsSound = s.turnsSound := by
  unfold State.serveAccess
  simp only
  split
  · rfl
  split
  · exact State.serveLines_sound _ _ _ (fun _ _ => rfl) ..
  · refine State.serveLines_sound _ _ _ (fun l t => ?_) ..
    split <;> rfl

@[simp] theorem State.serveUpdate_sound (s : State) (k n i rn p : Nat) : (s.serveUpdate k n i rn p).state.turnsSound = s.turnsSound := by
  unfold State.serveUpdate
  simp only
  split
  · rfl
  split
  · rfl
  split <;> simp [Served.state]

theorem sound_of_fault {x : Served} {c : Nat} {u : Option Nat} {s : State} {b : Bool} (h : x = .fault c u s) (hx : x.state.turnsSound = b) : s.turnsSound = b := by
  subst h; exact hx

theorem sound_of_part {x : Served} {held : List (Nat × List Byte)} {all : Bool} {s : State} {b : Bool} (h : x = .part held all s)
    (hx : x.state.turnsSound = b) : s.turnsSound = b := by
  subst h; exact hx

@[simp] theorem State.gather_sound (s : State) (k n i rn : Nat) (old held : List (Nat × List Byte)) (f : Nat) :
    (s.gather k n i rn old held f).turnsSound = s.turnsSound := by
  induction f generalizing s old held with
  | zero => rfl
  | succ f ih =>
    have ha := s.serveAccess_sound k n i rn (s.stream k n i).pos pRD true none [] held
    unfold State.gather
    refine ite_sound rfl ?_
    split
    · next hs => simp [sound_of_fault hs ha]
    · next hs => simp [sound_of_part hs ha]
    · next hs => simp [ih, sound_of_part hs ha]

theorem execStreamRead_sound (k n i : Nat) (s : State) (h : s.turnsSound = true) : SoundAfter (execStreamRead k n i s) := by
  unfold execStreamRead
  split <;> simp [h]

@[simp] theorem State.serveRequest_sound (s : State) (k n i : Nat) : (s.serveRequest k n i).turnsSound = s.turnsSound := by
  have ha (b : Bool) (k n i rn p need : Nat) (reads : Bool) (val : Option Nat) (op : List Nat) (held : List (Nat × List Byte)) :
      (if b then s.serveUpdate k n i rn p else s.serveAccess k n i rn p need reads val op held).state.turnsSound = s.turnsSound := by
    cases b
    · exact s.serveAccess_sound ..
    · exact s.serveUpdate_sound ..
  unfold State.serveRequest
  split
  · refine ite_sound rfl ?_
    simp only
    split
    · next hs => simp [sound_of_fault hs (ha ..)]
    · next hs => simp [sound_of_part hs (ha ..)]
    · next hs => simp [sound_of_part hs (ha ..)]
  · rfl

theorem execNodeRequest_sound (k n i : Nat) (s : State) (h : s.turnsSound = true) : SoundAfter (execNodeRequest k n i s) := by
  unfold execNodeRequest
  split <;> simp [h]

@[simp] theorem State.writeElems_sound (s : State) (k n i rn : Nat) (q : NodeReq) (op : List Nat) (old : List (Nat × List Byte)) (f : Nat) :
    (s.writeElems k n i rn q op old f).turnsSound = s.turnsSound := by
  induction f generalizing s op old with
  | zero => rfl
  | succ f ih =>
    unfold State.writeElems
    simp only
    split
    · next hs => simp [sound_of_fault hs (State.serveAccess_sound ..)]
    · next hs => simp [sound_of_part hs (State.serveAccess_sound ..)]
    · next hs => simp [ih, sound_of_part hs (State.serveAccess_sound ..)]

@[simp] theorem State.serveWrite_sound (s : State) (k n i : Nat) : (s.serveWrite k n i).turnsSound = s.turnsSound := by
  unfold State.serveWrite
  split
  · simp only
    split
    · rfl
    split
    · simp
    · exact State.writeElems_sound ..
  · rfl

theorem execStreamWrite_sound (k n i : Nat) (s : State) (h : s.turnsSound = true) : SoundAfter (execStreamWrite k n i s) := by
  unfold execStreamWrite
  split <;> simp [h]

theorem execStreamRetry_sound (k n i : Nat) (s : State) (h : s.turnsSound = true) : SoundAfter (execStreamRetry k n i s) := by
  simp only [execStreamRetry]
  split
  · simp [h]
  split
  · simp [h]
  split <;> simp [h]

/-! ### Engines -/

@[simp] theorem State.writeOrPark_sound (s : State) (k id space : Nat) (p : Place) (v : List Byte) :
    (s.writeOrPark k id space p v).turnsSound = s.turnsSound := by
  unfold State.writeOrPark
  split
  · rfl
  · simp

@[simp] theorem State.writeAtoms_sound (s : State) (k id space : Nat) (l : List (Place × Nat)) (v : List Byte) :
    (s.writeAtoms k id space l v).turnsSound = s.turnsSound := by
  induction l generalizing s v with
  | nil => rfl
  | cons x r ih => exact (ih ..).trans (State.writeOrPark_sound ..)

@[simp] theorem State.writeSpace_sound (s : State) (cache k part space id a : Nat) (v : List Byte) :
    (s.writeSpace cache k part space id a v).2.turnsSound = s.turnsSound := by
  unfold State.writeSpace
  split <;> next hp => simp [sound_of_call hp (State.atomPlaces_sound ..)]

@[simp] theorem State.cmdWrite_sound (s : State) (k id sp a : Nat) (v : List Byte) : (s.cmdWrite k id sp a v).2.turnsSound = s.turnsSound := by
  have hw := s.writeSpace_sound (dieOf k) k (s.partOf k) sp id a v
  unfold State.cmdWrite
  split
  · next he => simp [sound_of_call he hw]
  · exact hw

@[simp] theorem State.writeUnit_sound (s : State) (k f a : Nat) (l : List Nat) : (s.writeUnit k f a l).2.turnsSound = s.turnsSound := by
  induction f generalizing s a l with
  | zero => rfl
  | succ f ih =>
    unfold State.writeUnit
    simp only
    split
    · rfl
    · simp [ih]

@[simp] theorem State.copyAtom_sound (s : State) (k id sp0 a sp1 b n : Nat) : (s.copyAtom k id sp0 a sp1 b n).2.turnsSound = s.turnsSound := by
  unfold State.copyAtom
  split <;> next hr =>
    have hs := sound_of_call hr (State.readUnit_sound ..)
    simp [hs]

@[simp] theorem State.dmaStep_sound (s : State) (k : Nat) (m : Cmd) : (s.dmaStep k m).turnsSound = s.turnsSound := by
  unfold State.dmaStep
  split
  · simp
  split <;> next hc => simp [sound_of_call hc (State.copyAtom_sound ..)]

@[simp] theorem State.fifoStep_sound (s : State) (k : Nat) (m : Cmd) : (s.fifoStep k m).turnsSound = s.turnsSound := by
  unfold State.fifoStep
  split
  · simp
  · refine ite_sound rfl ?_
    split <;> next hc =>
      have ht : State.turnsSound _ = s.turnsSound := sound_of_call hc (by split <;> exact State.copyAtom_sound ..)
      simp [ht]

theorem execSegmentHandover_sound (k id seg : Nat) (s : State) (h : s.turnsSound = true) : SoundAfter (execSegmentHandover k id seg s) := by
  unfold execSegmentHandover
  split <;> simp [h]

@[simp] theorem State.gathLine_sound (s : State) (k : Nat) (m : Cmd) (l : List Nat) : (s.gathLine k m l).turnsSound = s.turnsSound := by
  unfold State.gathLine
  simp

@[simp] theorem State.scatLine_sound (s : State) (k : Nat) (m : Cmd) (a : Nat) (l : List Nat) : (s.scatLine k m a l).turnsSound = s.turnsSound := by
  unfold State.scatLine
  simp only
  split
  · split <;> next hw => simp [sound_of_call hw (State.writeSpace_sound ..)]
  split
  · rfl
  split <;> next hr => simp [sound_of_call hr (State.readSpace_sound ..)]

@[simp] theorem State.gathStep_sound (s : State) (k : Nat) (m : Cmd) : (s.gathStep k m).turnsSound = s.turnsSound := by
  unfold State.gathStep
  simp only
  split
  · simp
  split
  · split <;> next hr => simp [sound_of_call hr (State.readSpace_sound ..)]
  split
  · exact State.scatLine_sound ..
  split
  · exact State.gathLine_sound ..
  split <;> next hr => simp [sound_of_call hr (State.readSpace_sound ..)]

@[simp] theorem State.stageAtom_sound (s : State) (k : Nat) (m : Cmd) (e : List Byte) (n : Nat) : (s.stageAtom k m e n).turnsSound = s.turnsSound := by
  unfold State.stageAtom
  refine ite_sound (by simp) (ite_sound (by simp) (ite_sound (by simp) (ite_sound rfl ?_)))
  simp only
  split <;> next hr =>
    have ht : State.turnsSound _ = s.turnsSound := sound_of_call hr (by split <;> simp)
    simp [ht]

@[simp] theorem State.stageStep_sound (s : State) (k : Nat) (m : Cmd) : (s.stageStep k m).turnsSound = s.turnsSound := by
  unfold State.stageStep
  split
  · rfl
  split
  · simp only
    split
    · simp
    split <;> next hr => simp [sound_of_call hr (State.readSpace_sound ..)]
  · simp

@[simp] theorem State.collUnit_sound (s : State) (k : Nat) (m : Cmd) : (s.collUnit k m).turnsSound = s.turnsSound := by
  unfold State.collUnit
  split
  · simp
  simp only
  split
  · simp
  split <;> next hu => simp [sound_of_call hu (State.writeUnit_sound ..)]

@[simp] theorem State.collStep_sound (s : State) (k : Nat) (m : Cmd) : (s.collStep k m).turnsSound = s.turnsSound := by
  unfold State.collStep
  split <;> simp

theorem execCollTimeout_sound (l tag : Nat) (s : State) (h : s.turnsSound = true) : SoundAfter (execCollTimeout l tag s) := by
  unfold execCollTimeout
  split <;> simp [h]

theorem execEngineUnit_sound (k id : Nat) (s : State) (h : s.turnsSound = true) : SoundAfter (execEngineUnit k id s) := by
  simp only [execEngineUnit]
  split
  · simp [h]
  split
  · simp [h]
  split
  · simp [h]
  split <;> simp [h]

theorem execEngineCompletion_sound (k id : Nat) (s : State) (h : s.turnsSound = true) : SoundAfter (execEngineCompletion k id s) := by
  unfold execEngineCompletion
  split <;> simp [h]

theorem execMessageDelivery_sound (k id : Nat) (s : State) (h : s.turnsSound = true) : SoundAfter (execMessageDelivery k id s) := by
  unfold execMessageDelivery
  rw [soundAfter_next]
  split
  · exact h
  split
  · exact h
  split
  · simp [h]
  split
  · simp [h]
  split
  · simp [h]
  simp only
  split
  · exact h
  split <;> next hu => simp [sound_of_call hu (State.writeUnit_sound ..), h]

theorem execMessageTake_sound (k : Nat) (s : State) (h : s.turnsSound = true) : SoundAfter (execMessageTake k s) := by
  unfold execMessageTake
  rw [soundAfter_next]
  split
  · split
    · exact h
    split
    · exact h
    split <;> next hr => simp [sound_of_call hr (State.readUnit_sound ..), h]
  · exact h

theorem execBarrierTimeout_sound (l n : Nat) (s : State) (h : s.turnsSound = true) : SoundAfter (execBarrierTimeout l n s) := by
  unfold execBarrierTimeout
  split <;> simp [h]

theorem execRecordEnqueue_sound (k id : Nat) (s : State) (h : s.turnsSound = true) : SoundAfter (execRecordEnqueue k id s) := by
  unfold execRecordEnqueue
  split <;> simp [h]

@[simp] theorem State.farApply_sound (s : State) (k : Nat) (f : Far) (p : Place) : (s.farApply k f p).turnsSound = s.turnsSound := by
  unfold State.farApply
  split <;> next hr => simp [sound_of_call hr (State.readPlace_sound ..)]

theorem execFarAtomicCompletion_sound (k id : Nat) (s : State) (h : s.turnsSound = true) : SoundAfter (execFarAtomicCompletion k id s) := by
  unfold execFarAtomicCompletion
  rw [soundAfter_next]
  split
  · exact h
  refine ite_sound h (ite_sound (by simp [h]) ?_)
  split
  · next hp => simp [sound_of_call hp (State.place_sound ..), h]
  next hp =>
  have ht : (State.turnsSound _) = true := sound_of_call hp (by simp [h])
  split
  · simpa using ht
  · simpa using ht

/-! ### Freeze -/

@[simp] theorem State.freezeCc_sound (s : State) (k : Nat) : (s.freezeCc k).turnsSound = s.turnsSound := by
  simp [State.freezeCc]

theorem execFreezeWave_sound (k rn : Nat) (s : State) (h : s.turnsSound = true) : SoundAfter (execFreezeWave k rn s) := by
  simp only [execFreezeWave]
  split
  · simp [h]
  split
  · simp [h]
  split <;> simp [h]

@[simp] theorem State.saveImage_sound (s : State) (k l m : Nat) (reg : Option (Nat × Region)) (a : ImageArgs) :
    (s.saveImage k l m reg a).turnsSound = s.turnsSound := by
  unfold State.saveImage
  split
  · rfl
  simp only
  split <;> simp

@[simp] theorem State.savePreempted_sound (s : State) (k l m : Nat) (reg : Option (Nat × Region)) : (s.savePreempted k l m reg).turnsSound = s.turnsSound := by
  simp only [State.savePreempted]
  split
  · simp
  split
  · simp
  split <;> split <;> simp

theorem execFreezeEnd_sound (k rn : Nat) (s : State) (h : s.turnsSound = true) : SoundAfter (execFreezeEnd k rn s) := by
  simp only [execFreezeEnd]
  split
  · split
    · split <;> simp [h]
    · simp [h]
  split
  · simp [h]
  split
  · split
    · simp [h]
    split <;> simp [h]
  · simp [h]

/-! ### LaunchEv -/

theorem execRecordCheck_sound (p q : Nat) (s : State) (h : s.turnsSound = true) : SoundAfter (execRecordCheck p q s) := by
  unfold execRecordCheck
  rw [soundAfter_next]
  simp only
  split
  · refine ite_sound (ite_sound (by simp [h]) h) ?_
    split <;> next hc => simp [sound_of_call hc (State.checkRecord_sound ..), h]
  · exact h

@[simp] theorem State.writeTable_sound (s : State) (x : Launch) (k b : Nat) : (s.writeTable x k b).turnsSound = s.turnsSound := by
  simp [State.writeTable]
@[simp] theorem State.placeMember_sound (s : State) (l : Nat) (x : Launch) (t : Spot) : (s.placeMember l x t).turnsSound = s.turnsSound := by
  simp [State.placeMember]

@[simp] theorem State.placeRest_sound (s : State) (lvl l n : Nat) : ∀ t ∈ s.placeRest lvl l n, t.turnsSound = s.turnsSound := by
  induction n generalizing s with
  | zero => simp [State.placeRest]
  | succ n ih =>
    unfold State.placeRest
    split
    · simp
    split
    · exact fun t ht => (ih _ t ht).trans (State.placeMember_sound ..)
    · simp

@[simp] theorem State.placeMany_sound (s : State) (l n : Nat) : (s.placeMany l n).turnsSound = s.turnsSound := by
  induction n generalizing s with
  | zero => rfl
  | succ n ih =>
    unfold State.placeMany
    split
    · next hp => exact (ih _).trans (s.placeRest_sound 0 l 1 _ hp)
    · rfl

theorem State.abortScansFor_sound (s : State) (l : Nat) (x : Launch) (n : Nat) : ∀ r ∈ s.abortScansFor l x n, r.turnsSound = s.turnsSound := by
  simp only [State.abortScansFor]
  split
  · simp
  split <;> simp

@[simp] theorem State.noPlace_sound (s : State) (p q l : Nat) (x : Launch) : (s.noPlace p q l x).turnsSound = s.turnsSound := by
  unfold State.noPlace
  split
  · next ha => exact State.abortScansFor_sound _ _ _ _ _ ha
  · simp

@[simp] theorem State.placeNow_sound (s : State) (l : Nat) (x : Launch) : ∀ t ∈ s.placeNow l x, t.turnsSound = s.turnsSound := by
  unfold State.placeNow
  simp only
  split
  · exact s.placeRest_sound 0 l _
  · intro t ht
    obtain ⟨u, hu, rfl⟩ := Option.map_eq_some_iff.mp ht
    exact (u.placeMany_sound l _).trans (s.placeRest_sound 0 l 1 u hu)

theorem execMemberPlacement_sound (p q : Nat) (s : State) (h : s.turnsSound = true) : SoundAfter (execMemberPlacement p q s) := by
  unfold execMemberPlacement
  rw [soundAfter_next]
  simp only
  split
  · refine ite_sound h (ite_sound (by simp [h]) ?_)
    split
    · simp [h]
    next hr =>
    refine ite_sound ?_ (by simp [State.placeNow_sound _ _ _ _ hr, h])
    split
    · next hl => simp [sound_of_call hl (State.loadLaunch_sound ..), h]
    next s' hl =>
    have hs' := (sound_of_call hl (State.loadLaunch_sound ..)).symm ▸ h
    split
    · exact hs'
    next ht =>
    have ht := (State.placeNow_sound _ _ _ _ ht).trans (by simpa using hs')
    split
    · split
      · simp [ht]
      · simp [hs']
    · exact hs'
  · exact h

@[simp] theorem State.fillEntry_sound (s : State) (k p img bank : Nat) (e : StageEntry) : (s.fillEntry k p img bank e).2.turnsSound = s.turnsSound := by
  unfold State.fillEntry
  simp only
  split
  · simp
  split <;> next hr => simp [sound_of_call hr (State.readImage_sound ..)]

@[simp] theorem State.fillEntries_sound (s : State) (k p img bank : Nat) (l : List StageEntry) :
    (s.fillEntries k p img bank l).2.turnsSound = s.turnsSound := by
  induction l generalizing s with
  | nil => rfl
  | cons e r ih =>
    have he := s.fillEntry_sound k p img bank e
    unfold State.fillEntries
    split
    · next hf => exact (ih _).trans (sound_of_call hf he)
    · exact he

theorem execStagingFill_sound (l m : Nat) (s : State) (h : s.turnsSound = true) : SoundAfter (execStagingFill l m s) := by
  unfold execStagingFill
  rw [soundAfter_next]
  split
  · exact h
  split
  · exact h
  refine ite_sound h ?_
  split <;> next hf => simp [sound_of_call hf (State.fillEntries_sound ..), h]

theorem execMemberStart_sound (l m : Nat) (s : State) (h : s.turnsSound = true) : SoundAfter (execMemberStart l m s) := by
  simp only [execMemberStart]
  split
  · simp [h]
  split <;> simp [h]

theorem execLaunchCompletion_sound (p q : Nat) (s : State) (h : s.turnsSound = true) : SoundAfter (execLaunchCompletion p q s) := by
  simp only [execLaunchCompletion]
  split <;> simp [h]

/-! ### FaultEv -/

theorem execDrain_sound (k rn : Nat) (s : State) (h : s.turnsSound = true) : SoundAfter (execDrain k rn s) := by
  simp only [execDrain]
  split
  · simp [h]
  split <;> simp [h]

theorem execPreemption_sound (p q : Nat) (s : State) (h : s.turnsSound = true) : SoundAfter (execPreemption p q s) := by
  simp only [execPreemption]
  split
  · split
    · simp [h]
    split <;> simp [h]
  · simp [h]

@[simp] theorem State.moveBanks_sound (s : State) (l src dst bank n : Nat) : (s.moveBanks l src dst bank n).turnsSound = s.turnsSound := by
  simp only [State.moveBanks]
  rw [foldl_sound fun _ _ => State.moveToken_sound .., foldl_sound fun _ _ => State.moveToken_sound ..]
  simp

@[simp] theorem State.restoreMember_sound (s : State) (l m : Nat) (x : Launch) (y : Member) (n : Nat) (i : Image) (t : Spot) :
    ∀ u ∈ s.restoreMember l m x y n i t, u.turnsSound = s.turnsSound := by
  have h' : (if t.core = y.core then s else s.moveBanks l y.core t.core y.bank x.tbanks).turnsSound = s.turnsSound := ite_sound rfl (State.moveBanks_sound ..)
  unfold State.restoreMember
  generalize (if t.core = y.core then s else s.moveBanks l y.core t.core y.bank x.tbanks) = s' at h'
  simp only
  split
  · simp
  next v hv =>
  have hv' : v.turnsSound = s.turnsSound := by
    split at hv
    · cases hv
    split at hv
    · cases hv; exact h'
    · obtain ⟨w, hw, rfl⟩ := Option.map_eq_some_iff.mp hv
      simp [State.reloadRows_sound _ _ _ _ _ _ hw, h']
  cases i.cc <;> simp [hv']

@[simp] theorem State.restoreAll_sound (s : State) (l : Nat) (ms : List Nat) : ∀ t ∈ s.restoreAll l ms, t.turnsSound = s.turnsSound := by
  induction ms generalizing s with
  | nil => simp [State.restoreAll]
  | cons m r ih =>
    unfold State.restoreAll
    split
    · simp
    split
    · split
      · intro t ht
        obtain ⟨u, hu, ht⟩ := Option.bind_eq_some_iff.mp ht
        exact (ih u t ht).trans (State.restoreMember_sound _ _ _ _ _ _ _ _ u hu)
      · simp
    · simp

theorem execRestore_sound (l m : Nat) (s : State) (h : s.turnsSound = true) : SoundAfter (execRestore l m s) := by
  unfold execRestore
  rw [soundAfter_next]
  split
  · exact h
  refine ite_sound h ?_
  split
  · next hr => exact (State.restoreAll_sound _ _ _ _ hr).trans h
  · split <;> simp [h]

@[simp] theorem State.abortCore_sound (s : State) (k cause lcore : Nat) : (s.abortCore k cause lcore).turnsSound = s.turnsSound := by simp [State.abortCore]

@[simp] theorem State.abortMember_sound (s : State) (l m : Nat) (x : Launch) (y : Member) (failing cause lcore : Nat) :
    (s.abortMember l m x y failing cause lcore).turnsSound = s.turnsSound := by
  unfold State.abortMember
  split <;> simp

theorem execGangAbort_sound (l m : Nat) (cause : BitVec 10) (s : State) (h : s.turnsSound = true) : SoundAfter (execGangAbort l m cause s) := by
  unfold execGangAbort
  rw [soundAfter_next]
  split
  · exact h
  refine ite_sound h ?_
  split
  · exact h
  · simp [h]

theorem execUncorrectableError_sound (e : ErrorSite) (s : State) (h : s.turnsSound = true) : SoundAfter (execUncorrectableError e s) := by
  unfold execUncorrectableError
  split <;> simp [h]

@[simp] theorem State.packageReset_sound (s : State) : s.packageReset.turnsSound = true := by rfl

@[simp] theorem State.writeDump_sound (s : State) (cause die : Nat) : (s.writeDump cause die).turnsSound = s.turnsSound := by
  simp [State.writeDump]

@[simp] theorem State.endDump_sound (s : State) (cause die : Nat) : (s.endDump cause die).turnsSound = true := by simp [State.endDump]

theorem execFatalDump_sound (cause : BitVec 10) (die : Nat) (s : State) (h : s.turnsSound = true) : SoundAfter (execFatalDump cause die s) := by
  unfold execFatalDump
  split <;> simp [h]

/-! ### DebugEv -/

theorem execCriticalPathStep_sound (k : Nat) (s : State) (h : s.turnsSound = true) : SoundAfter (execCriticalPathStep k s) := by simp [execCriticalPathStep, h]

theorem execRegionStop_sound (k rn : Nat) (s : State) (h : s.turnsSound = true) : SoundAfter (execRegionStop k rn s) := by
  unfold execRegionStop
  split <;> simp [h]

theorem execScanComplete_sound (k : Nat) (s : State) (h : s.turnsSound = true) : SoundAfter (execScanComplete k s) := by
  unfold execScanComplete
  split <;> simp [h]

theorem execReinitialisationEnd_sound (k : Nat) (s : State) (h : s.turnsSound = true) : SoundAfter (execReinitialisationEnd k s) := by
  unfold execReinitialisationEnd
  split <;> simp [h]

/-! ### LinkEv -/

theorem execEdgeValueArrival_sound (l e : Nat) (s : State) (h : s.turnsSound = true) : SoundAfter (execEdgeValueArrival l e s) := by
  simp only [execEdgeValueArrival]
  split
  · simp [h]
  split <;> simp [h]

theorem execFlitReceive_sound (g : Nat) (raw : BitVec 256) (s : State) (h : s.turnsSound = true) : SoundAfter (execFlitReceive g raw s) := by simp [execFlitReceive, h]
theorem execAcknowledgeTimer_sound (g : Nat) (s : State) (h : s.turnsSound = true) : SoundAfter (execAcknowledgeTimer g s) := by simp [execAcknowledgeTimer, h]
theorem execLaneMapResend_sound (g : Nat) (s : State) (h : s.turnsSound = true) : SoundAfter (execLaneMapResend g s) := by simp [execLaneMapResend, h]

theorem execLaneMapSwitch_sound (g : Nat) (s : State) (h : s.turnsSound = true) : SoundAfter (execLaneMapSwitch g s) := by
  simp only [execLaneMapSwitch]
  split <;> simp [h]

theorem execPortRetrain_sound (n : Nat) (s : State) (h : s.turnsSound = true) : SoundAfter (execPortRetrain n s) := by simp [execPortRetrain, h]
theorem execPortRetrainEnd_sound (n : Nat) (s : State) (h : s.turnsSound = true) : SoundAfter (execPortRetrainEnd n s) := by simp [execPortRetrainEnd, h]
theorem execDomainTimeout_sound (pkg : Nat) (s : State) (h : s.turnsSound = true) : SoundAfter (execDomainTimeout pkg s) := by simp [execDomainTimeout, h]
theorem execDomainRebuild_sound (own : Nat) (s : State) (h : s.turnsSound = true) : SoundAfter (execDomainRebuild own s) := by
  rw [execDomainRebuild, soundAfter_next, State.buildRoutes_sound, State.turnsSound_mk, Bool.and_eq_true]
  exact ⟨all_filter_of_all (State.todo_sound h), all_filter_of_all (State.timers_sound h)⟩

/-! ### XlateEv -/

theorem execShootdownAck_sound (p id cache : Nat) (s : State) (h : s.turnsSound = true) : SoundAfter (execShootdownAck p id cache s) := by
  unfold execShootdownAck
  split <;> simp [h]

@[simp] theorem State.endShoot_sound (s : State) (p addr w : Nat) : (s.endShoot p addr w).turnsSound = s.turnsSound := by
  unfold State.endShoot
  split <;> next hp => simp [sound_of_call hp (State.place_sound ..)]

theorem execShootdownComplete_sound (p id : Nat) (s : State) (h : s.turnsSound = true) : SoundAfter (execShootdownComplete p id s) := by
  unfold execShootdownComplete
  split <;> simp [h]

theorem execShootdownTimeout_sound (p id pkg : Nat) (s : State) (h : s.turnsSound = true) : SoundAfter (execShootdownTimeout p id pkg s) := by
  unfold execShootdownTimeout
  split <;> simp [h]

@[simp] theorem State.startShoot_sound (s : State) (p addr : Nat) (words : List Word64) : (s.startShoot p addr words).turnsSound = s.turnsSound := by
  unfold State.startShoot
  refine ite_sound (State.endShoot_sound ..) ?_
  rw [foldl_sound fun _ _ => State.awaitAck_sound .., foldl_sound fun _ _ => by simp]
  rfl

theorem execTrackerPeriod_sound (stack : Nat) (s : State) (h : s.turnsSound = true) : SoundAfter (execTrackerPeriod stack s) := by simp [execTrackerPeriod, h]
@[simp] theorem State.copyFrame_sound (s : State) (a b : Nat) : (s.copyFrame a b).turnsSound = s.turnsSound := by rfl

theorem execBlockSwitch_sound (blk : Nat) (s : State) (h : s.turnsSound = true) : SoundAfter (execBlockSwitch blk s) := by
  unfold execBlockSwitch
  split <;> simp [h]

@[simp] theorem State.replayOne_sound (s : State) (x : Parked) : (s.replayOne x).turnsSound = s.turnsSound := by
  unfold State.replayOne
  simp only
  split
  · simp [State.putDpa_sound]
  split
  · rfl
  split <;> simp [State.farApply_sound]

theorem execParkedReplay_sound (blk : Nat) (s : State) (h : s.turnsSound = true) : SoundAfter (execParkedReplay blk s) := by
  unfold execParkedReplay
  rw [soundAfter_next]
  exact ite_sound h (by simp [h])

theorem execAtomRemap_sound (tier media : Nat) (s : State) (h : s.turnsSound = true) : SoundAfter (execAtomRemap tier media s) := by simp [execAtomRemap, h]

/-! ### HostEv -/

theorem execBar2Read_sound (f off n : Nat) (s : State) (h : s.turnsSound = true) : SoundAfter (execBar2Read f off n s) := by
  unfold execBar2Read
  rw [soundAfter_next]
  refine ite_sound h ?_
  simp only
  split <;> next hf => simp [sound_of_call hf (State.fetch_sound ..), h]

/-- Writes to a list of places, each taking its part of the bytes, keep a state sound. -/
theorem foldl_writePlace_sound (l : List (Place × Nat)) (r : State × List Byte) (h : r.1.turnsSound = true) :
    (l.foldl (fun (r : State × List Byte) p => (r.1.writePlace p.1 (r.2.take p.2), r.2.drop p.2)) r).1.turnsSound = true := by
  induction l generalizing r with
  | nil => exact h
  | cons p l ih => exact ih _ (by simp [h])

theorem execBar2Write_sound (f off : Nat) (data : List Byte) (s : State) (h : s.turnsSound = true) : SoundAfter (execBar2Write f off data s) := by
  unfold execBar2Write
  rw [soundAfter_next]
  refine ite_sound h ?_
  simp only
  split
  · next hp => exact foldl_writePlace_sound _ _ ((sound_of_call hp (State.atomPlaces_sound ..)).symm ▸ h)
  · next hp => simp [sound_of_call hp (State.atomPlaces_sound ..), h]

theorem execBar0ReadFlush_sound (f off : Nat) (s : State) (h : s.turnsSound = true) : SoundAfter (execBar0ReadFlush f off s) := by simp [execBar0ReadFlush, h]
theorem execErrorCounterRead_sound (die : Nat) (s : State) (h : s.turnsSound = true) : SoundAfter (execErrorCounterRead die s) := by simp [execErrorCounterRead, h]
theorem execLaneStatusRead_sound (s : State) (h : s.turnsSound = true) : SoundAfter (execLaneStatusRead s) := by simp [execLaneStatusRead, h]
theorem execRegisterWrite_sound (f off : Nat) (v : Word64) (s : State) (h : s.turnsSound = true) : SoundAfter (execRegisterWrite f off v s) := by simp [execRegisterWrite, h]
theorem execEqctlWrite_sound (f : Nat) (v : Word64) (s : State) (h : s.turnsSound = true) : SoundAfter (execEqctlWrite f v s) := by simp [execEqctlWrite, h]

theorem execSubmit_sound (f : Nat) (v : Word64) (s : State) (h : s.turnsSound = true) : SoundAfter (execSubmit f v s) := by
  unfold execSubmit
  rw [soundAfter_next]
  refine ite_sound h ?_
  split <;> next hr => simp [sound_of_call hr (State.readRecord_sound ..), h]

theorem execSkip_sound (f q : Nat) (s : State) (h : s.turnsSound = true) : SoundAfter (execSkip f q s) := by simp [execSkip, h]

theorem execRetry_sound (f q : Nat) (s : State) (h : s.turnsSound = true) : SoundAfter (execRetry f q s) := by
  unfold execRetry
  rw [soundAfter_next]
  refine ite_sound h ?_
  split
  · simp [h]
  split <;> next hr => simp [sound_of_call hr (State.readRecord_sound ..), h]

theorem execQueueKill_sound (f q : Nat) (s : State) (h : s.turnsSound = true) : SoundAfter (execQueueKill f q s) := by
  simp only [execQueueKill]
  split <;> simp [h]

theorem execRegionAbort_sound (f lc r : Nat) (s : State) (h : s.turnsSound = true) : SoundAfter (execRegionAbort f lc r s) := by
  simp only [execRegionAbort]
  split
  · split <;> simp [h]
  · simp [h]

theorem execImgfree_sound (f off : Nat) (s : State) (h : s.turnsSound = true) : SoundAfter (execImgfree f off s) := by simp [execImgfree, h]

theorem execShoot_sound (f : Nat) (v : Word64) (s : State) (h : s.turnsSound = true) : SoundAfter (execShoot f v s) := by
  unfold execShoot
  rw [soundAfter_next]
  refine ite_sound h ?_
  split <;> next hf => simp [sound_of_call hf (State.fetch_sound ..), h]

theorem execDebugResume_sound (f lc : Nat) (s : State) (h : s.turnsSound = true) : SoundAfter (execDebugResume f lc s) := by
  unfold execDebugResume
  split <;> simp [h]

theorem execDebugResumeAtDbgpc_sound (f lc : Nat) (s : State) (h : s.turnsSound = true) : SoundAfter (execDebugResumeAtDbgpc f lc s) := by
  unfold execDebugResumeAtDbgpc
  split <;> simp [h]

theorem execRegionResume_sound (f lc r : Nat) (s : State) (h : s.turnsSound = true) : SoundAfter (execRegionResume f lc r s) := by
  unfold execRegionResume
  split <;> simp [h]

theorem execRegionImageWrite_sound (f lc rn : Nat) (s : State) (h : s.turnsSound = true) : SoundAfter (execRegionImageWrite f lc rn s) := by
  unfold execRegionImageWrite
  rw [soundAfter_next]
  split
  · exact h
  split
  · exact h
  split
  · exact h
  refine ite_sound h ?_
  simp only
  split <;> simp [h]

@[simp] theorem State.scrub_sound (s : State) (k : Nat) : (s.scrub k).turnsSound = s.turnsSound := by rfl
theorem execCoreReset_sound (k : Nat) (s : State) (h : s.turnsSound = true) : SoundAfter (execCoreReset k s) := by simp [execCoreReset, h]

theorem execPartitionCreate_sound (s : State) (h : s.turnsSound = true) : SoundAfter (execPartitionCreate s) := by
  unfold execPartitionCreate
  rw [soundAfter_next]
  refine ite_sound h (ite_sound (by simp [h]) ?_)
  simp [h]

theorem execPartitionReset_sound (s : State) (h : s.turnsSound = true) : SoundAfter (execPartitionReset s) := by simp [execPartitionReset, h]
theorem execPartitionDestroy_sound (s : State) (h : s.turnsSound = true) : SoundAfter (execPartitionDestroy s) := by simp [execPartitionDestroy, h]
theorem execFunctionLevelReset_sound (f : Nat) (s : State) (h : s.turnsSound = true) : SoundAfter (execFunctionLevelReset f s) := by simp [execFunctionLevelReset, h]
theorem execVfDisable_sound (n : Nat) (s : State) (h : s.turnsSound = true) : SoundAfter (execVfDisable n s) := by simp [execVfDisable, h]
@[simp] theorem State.clearCore_sound (s : State) (k : Nat) : (s.clearCore k).turnsSound = s.turnsSound := by simp [State.clearCore]

theorem execPartitionResetComplete_sound (p : Nat) (s : State) (h : s.turnsSound = true) : SoundAfter (execPartitionResetComplete p s) := by
  have hc := (foldl_sound State.clearCore_sound (s.part p).cores s).trans h
  unfold execPartitionResetComplete
  rw [soundAfter_next]
  split
  · exact h
  · exact ite_sound (by simp [h]) (by simp [hc])

theorem execPackageReset_sound (s : State) (h : s.turnsSound = true) : SoundAfter (execPackageReset s) := by simp [execPackageReset, h]
theorem execFundamentalReset_sound (s : State) (h : s.turnsSound = true) : SoundAfter (execFundamentalReset s) := by simp [execFundamentalReset, h]
theorem execDumpRelease_sound (s : State) (h : s.turnsSound = true) : SoundAfter (execDumpRelease s) := by simp [execDumpRelease, h]
theorem execBringUp_sound (b : BringUp) (s : State) (h : s.turnsSound = true) : SoundAfter (execBringUp b s) := by simp [execBringUp, h]

/-! ### PowerEv -/

theorem execIntervalStart_sound (s : State) (h : s.turnsSound = true) : SoundAfter (execIntervalStart s) := by simp [execIntervalStart, h]

theorem execTokenInstalment_sound (s : State) (h : s.turnsSound = true) : SoundAfter (execTokenInstalment s) := by
  unfold execTokenInstalment
  rw [soundAfter_next, State.eachString_sound _ fun _ _ _ => State.modCore_sound ..]
  exact h

theorem execIntervalEnd_sound (ms : List Meas) (s : State) (h : s.turnsSound = true) : SoundAfter (execIntervalEnd ms s) := by simp [execIntervalEnd, h]
theorem execPowerCapAction_sound (avg peak : Nat) (s : State) (h : s.turnsSound = true) : SoundAfter (execPowerCapAction avg peak s) := by simp [execPowerCapAction, h]

theorem execLeaseExpiry_sound (p : Nat) (s : State) (h : s.turnsSound = true) : SoundAfter (execLeaseExpiry p s) := by
  unfold execLeaseExpiry
  split <;> simp [h]

theorem execSensorSample_sound (die : Nat) (rd : List Int) (s : State) (h : s.turnsSound = true) : SoundAfter (execSensorSample die rd s) := by simp [execSensorSample, h]
theorem execLeakageMeasurement_sound (k n mA : Nat) (s : State) (h : s.turnsSound = true) : SoundAfter (execLeakageMeasurement k n mA s) := by simp [execLeakageMeasurement, h]

theorem execOppoint_sound (k n : Nat) (s : State) (h : s.turnsSound = true) : SoundAfter (execOppoint k n s) := by
  unfold execOppoint
  split <;> simp [h]

/-! ### SliceOps -/

theorem movEff_sound (d a : Operand) (s : State) (h : s.turnsSound = true) : ∀ r ∈ movEff d a s, r.2.turnsSound = true := by simp [movEff, h]
theorem execMov_sound (g : BitVec 16) (d a : Operand) (s : State) (h : s.turnsSound = true) (hw : MayStand s (.mov g d a)) : SoundAfter (execMov g d a s) :=
  runBoth_sound (fun s h => movEff_sound d a s h) (by simp [SoundCc]) _ s h hw

theorem execSlext_sound (g : BitVec 16) (d a b : Operand) (s : State) (h : s.turnsSound = true) (hw : MayStand s (.slext g d a b)) : SoundAfter (execSlext g d a b s) := by
  unfold execSlext
  split
  · simp [h]
  · refine runBoth_sound (fun s h => ?_) (fun s h => ?_) _ s h hw <;> simp [h]

/-! ### Every instruction -/

/-- Every instruction and every event keeps a state sound. The last arm is the instructions that go through `run` with an effect on registers alone. -/
theorem exec_sound (i : Instr) (s : State) (h : s.turnsSound = true) (hw : (encode i).isSome = true → MayStand s i) : SoundAfter (exec i s) := by
  cases i with
  | mov => exact execMov_sound _ _ _ s h (hw rfl)
  | slext => exact execSlext_sound _ _ _ _ s h (hw rfl)
  | br => exact execBr_sound _ _ s h (hw rfl)
  | jmp => exact execJmp_sound _ _ s h (hw rfl)
  | jal => exact execJal_sound _ _ _ s h (hw rfl)
  | jalr => exact execJalr_sound _ _ _ s h (hw rfl)
  | loop => exact execLoop_sound _ _ _ s h (hw rfl)
  | waitp => exact execWaitp_sound _ _ s h (hw rfl)
  | halt => exact execHalt_sound _ s h (hw rfl)
  | trap => exact execTrap_sound _ _ _ s h (hw rfl)
  | eret => exact execEret_sound _ s h (hw rfl)
  | srd => exact execSrd_sound _ _ _ s h (hw rfl)
  | swr => exact execSwr_sound _ _ _ s h (hw rfl)
  | cfence => exact execCfence_sound _ s h (hw rfl)
  | wfe => exact execWfe_sound _ _ _ _ s h (hw rfl)
  | bkpt => exact execBkpt_sound _ _ s h (hw rfl)
  | emit => exact execEmit_sound _ _ _ _ s h (hw rfl)
  | deq => exact execDeq_sound _ _ s h (hw rfl)
  | peekk => exact execPeekk_sound _ _ _ s h (hw rfl)
  | ctok => exact execCtok_sound _ _ _ _ s h (hw rfl)
  | pass => exact execPass_sound _ _ _ s h (hw rfl)
  | retire => exact execRetire_sound _ _ s h (hw rfl)
  | exit => exact execExit_sound _ _ _ _ s h (hw rfl)
  | eow => exact execEow_sound _ _ _ s h (hw rfl)
  | tidx => exact execTidx_sound _ _ _ _ s h (hw rfl)
  | idle => exact execIdle_sound _ _ s h (hw rfl)
  | mzero => exact execMzero_sound _ _ s h (hw rfl)
  | mmac => exact execMmac_sound _ _ _ s h (hw rfl)
  | mmac8 => exact execMmac8_sound _ _ _ s h (hw rfl)
  | mmac12 => exact execMmac12_sound _ _ _ s h (hw rfl)
  | mmacw => exact execMmacw_sound _ _ s h (hw rfl)
  | mdown => exact execMdown_sound _ _ s h (hw rfl)
  | mread => exact execMread_sound _ _ _ _ _ s h (hw rfl)
  | mnorm => exact execMnorm_sound _ _ s h (hw rfl)
  | mxget => exact execMxget_sound _ _ _ s h (hw rfl)
  | mtask => exact execMtask_sound _ _ _ _ _ s h (hw rfl)
  | mpois => exact execMpois_sound _ _ _ s h (hw rfl)
  | ld => exact execLd_sound _ _ _ _ _ s h (hw rfl)
  | st => exact execSt_sound _ _ _ _ _ s h (hw rfl)
  | ldf => exact execLdf_sound _ _ _ _ _ s h (hw rfl)
  | stf => exact execStf_sound _ _ _ _ _ s h (hw rfl)
  | fence => exact execFence_sound _ _ _ s h (hw rfl)
  | join => exact execJoin_sound _ _ _ _ s h (hw rfl)
  | fork => exact execFork_sound _ _ _ s h (hw rfl)
  | cldc => exact execCldc_sound _ _ _ _ s h (hw rfl)
  | cstc => exact execCstc_sound _ _ _ _ s h (hw rfl)
  | dma => exact execDma_sound _ _ _ _ _ s h (hw rfl)
  | dmas => exact execDmas_sound _ _ _ _ _ s h (hw rfl)
  | gath => exact execGath_sound _ _ _ _ _ s h (hw rfl)
  | scat => exact execScat_sound _ _ _ _ _ s h (hw rfl)
  | stage => exact execStage_sound _ _ _ _ _ s h (hw rfl)
  | coll => exact execColl_sound _ _ _ _ _ s h (hw rfl)
  | msg => exact execMsg_sound _ _ _ _ _ s h (hw rfl)
  | mrecv => exact execMrecv_sound _ _ _ _ _ s h (hw rfl)
  | bankt => exact execBankt_sound _ _ _ s h (hw rfl)
  | launch => exact execLaunch_sound _ _ _ _ _ s h (hw rfl)
  | gbar => exact execGbar_sound _ _ s h (hw rfl)
  | epoll => exact execEpoll_sound _ _ _ s h (hw rfl)
  | ecancel => exact execEcancel_sound _ _ s h (hw rfl)
  | qwait => exact execQwait_sound _ _ _ _ s h (hw rfl)
  | lease => exact execLease_sound _ _ _ _ s h (hw rfl)
  | lrel => exact execLrel_sound _ s h (hw rfl)
  | pwrq => exact execPwrq_sound _ _ _ _ s h (hw rfl)
  | tstamp => exact execTstamp_sound _ _ s h (hw rfl)
  | mark => exact execMark_sound _ _ _ s h (hw rfl)
  | dstop => exact execDstop_sound _ _ _ s h (hw rfl)
  | scant => exact execScant_sound _ _ _ s h (hw rfl)
  | scanq => exact execScanq_sound _ _ _ s h (hw rfl)
  | lcmap => exact execLcmap_sound _ _ _ _ s h (hw rfl)
  | writeBack => exact execWriteBack_sound _ _ s h
  | trapEntry => exact execTrapEntry_sound _ s h
  | asynchronousTrap => exact execAsynchronousTrap_sound _ s h
  | instructionCacheFill => exact execInstructionCacheFill_sound _ s h
  | wfeTimeout => exact execWfeTimeout_sound _ s h
  | tokenTransfer => exact execTokenTransfer_sound _ _ _ s h
  | busPacketDiscard => exact execBusPacketDiscard_sound _ _ _ s h
  | fillerFiring => exact execFillerFiring_sound _ _ s h
  | leaseExpiry => exact execLeaseExpiry_sound _ s h
  | passStart => exact execPassStart_sound _ _ s h
  | entryTokenSend => exact execEntryTokenSend_sound _ _ s h
  | pickLoad => exact execPickLoad_sound _ _ _ _ s h
  | restoreComplete => exact execRestoreComplete_sound _ _ _ s h
  | eviction => exact execEviction_sound _ _ _ s h
  | spillComplete => exact execSpillComplete_sound _ _ _ s h
  | wrapDelivery => exact execWrapDelivery_sound _ _ s h
  | wrapOverflow => exact execWrapOverflow_sound _ _ _ s h
  | initialRecordAppend => exact execInitialRecordAppend_sound _ _ s h
  | streamRead => exact execStreamRead_sound _ _ _ s h
  | streamWrite => exact execStreamWrite_sound _ _ _ s h
  | nodeRequest => exact execNodeRequest_sound _ _ _ s h
  | streamRetry => exact execStreamRetry_sound _ _ _ s h
  | engineUnit => exact execEngineUnit_sound _ _ s h
  | engineCompletion => exact execEngineCompletion_sound _ _ s h
  | segmentHandover => exact execSegmentHandover_sound _ _ _ s h
  | messageDelivery => exact execMessageDelivery_sound _ _ s h
  | messageTake => exact execMessageTake_sound _ s h
  | recordEnqueue => exact execRecordEnqueue_sound _ _ s h
  | farAtomicCompletion => exact execFarAtomicCompletion_sound _ _ s h
  | recordCheck => exact execRecordCheck_sound _ _ s h
  | memberPlacement => exact execMemberPlacement_sound _ _ s h
  | stagingFill => exact execStagingFill_sound _ _ s h
  | memberStart => exact execMemberStart_sound _ _ s h
  | launchCompletion => exact execLaunchCompletion_sound _ _ s h
  | drain => exact execDrain_sound _ _ s h
  | freezeWave => exact execFreezeWave_sound _ _ s h
  | freezeEnd => exact execFreezeEnd_sound _ _ s h
  | preemption => exact execPreemption_sound _ _ s h
  | restore => exact execRestore_sound _ _ s h
  | gangAbort => exact execGangAbort_sound _ _ _ s h
  | criticalPathStep => exact execCriticalPathStep_sound _ s h
  | regionStop => exact execRegionStop_sound _ _ s h
  | scanComplete => exact execScanComplete_sound _ s h
  | reinitialisationEnd => exact execReinitialisationEnd_sound _ s h
  | edgeValueArrival => exact execEdgeValueArrival_sound _ _ s h
  | acknowledgeTimer => exact execAcknowledgeTimer_sound _ s h
  | laneMapResend => exact execLaneMapResend_sound _ s h
  | laneMapSwitch => exact execLaneMapSwitch_sound _ s h
  | shootdownAck => exact execShootdownAck_sound _ _ _ s h
  | shootdownComplete => exact execShootdownComplete_sound _ _ s h
  | shootdownTimeout => exact execShootdownTimeout_sound _ _ _ s h
  | trackerPeriod => exact execTrackerPeriod_sound _ s h
  | blockSwitch => exact execBlockSwitch_sound _ s h
  | intervalStart => exact execIntervalStart_sound s h
  | tokenInstalment => exact execTokenInstalment_sound s h
  | intervalEnd => exact execIntervalEnd_sound _ s h
  | powerCapAction => exact execPowerCapAction_sound _ _ s h
  | sensorSample => exact execSensorSample_sound _ _ s h
  | leakageMeasurement => exact execLeakageMeasurement_sound _ _ _ s h
  | oppoint => exact execOppoint_sound _ _ s h
  | collTimeout => exact execCollTimeout_sound _ _ s h
  | barrierTimeout => exact execBarrierTimeout_sound _ _ s h
  | uncorrectableError => exact execUncorrectableError_sound _ s h
  | fatalDump => exact execFatalDump_sound _ _ s h
  | flitReceive => exact execFlitReceive_sound _ _ s h
  | portRetrain => exact execPortRetrain_sound _ s h
  | domainTimeout => exact execDomainTimeout_sound _ s h
  | parkedReplay => exact execParkedReplay_sound _ s h
  | atomRemap => exact execAtomRemap_sound _ _ s h
  | bar2Read => exact execBar2Read_sound _ _ _ s h
  | bar2Write => exact execBar2Write_sound _ _ _ s h
  | bar0ReadFlush => exact execBar0ReadFlush_sound _ _ s h
  | submit => exact execSubmit_sound _ _ s h
  | skip => exact execSkip_sound _ _ s h
  | retry => exact execRetry_sound _ _ s h
  | queueKill => exact execQueueKill_sound _ _ s h
  | shoot => exact execShoot_sound _ _ s h
  | regionAbort => exact execRegionAbort_sound _ _ _ s h
  | imgfree => exact execImgfree_sound _ _ s h
  | debugResume => exact execDebugResume_sound _ _ s h
  | debugResumeAtDbgpc => exact execDebugResumeAtDbgpc_sound _ _ s h
  | regionResume => exact execRegionResume_sound _ _ _ s h
  | regionImageWrite => exact execRegionImageWrite_sound _ _ _ s h
  | eqctlWrite => exact execEqctlWrite_sound _ _ s h
  | registerWrite => exact execRegisterWrite_sound _ _ _ s h
  | errorCounterRead => exact execErrorCounterRead_sound _ s h
  | laneStatusRead => exact execLaneStatusRead_sound s h
  | partitionCreate => exact execPartitionCreate_sound s h
  | partitionDestroy => exact execPartitionDestroy_sound s h
  | partitionReset => exact execPartitionReset_sound s h
  | partitionResetComplete => exact execPartitionResetComplete_sound _ s h
  | functionLevelReset => exact execFunctionLevelReset_sound _ s h
  | vfDisable => exact execVfDisable_sound _ s h
  | coreReset => exact execCoreReset_sound _ s h
  | packageReset => exact execPackageReset_sound s h
  | fundamentalReset => exact execFundamentalReset_sound s h
  | dumpRelease => exact execDumpRelease_sound s h
  | irqTimer => exact execIrqTimer_sound _ s h
  | bringUp => exact execBringUp_sound _ s h
  | portRetrainEnd => exact execPortRetrainEnd_sound _ s h
  | domainRebuild => exact execDomainRebuild_sound _ s h
  | aadd | amin | amax | aand | aor | axor | axchg | acas | afadd => exact runAtomic_sound _ _ _ _ _ _ s h (hw rfl)
  | _ => exact run_sound _ _ s h (hw rfl)

/-! ### The turns of a cycle -/

theorem State.issueWord_sound (s : State) (k : Nat) (w : Word64) (h : s.turnsSound = true) : SoundAfter (s.issueWord k w) := by
  unfold State.issueWord
  split
  · next hd => exact exec_sound _ _ (by simpa using h) fun _ => wf_of_decode hd
  · simp [h]

theorem State.fetchIssue_sound (s : State) (k : Nat) (h : s.turnsSound = true) : SoundAfter (s.fetchIssue k) := by
  unfold State.fetchIssue
  simp only
  split
  · simp [h]
  split
  · exact s.issueWord_sound _ _ h
  · split
    · simp only [soundAfter_ite]
      split <;> simp [h]
    · simp [h]
  · simp [h]

theorem State.issue_sound (s : State) (k : Nat) (h : s.turnsSound = true) : SoundAfter (s.issue k) := by
  unfold State.issue
  simp only
  split
  · simp [h]
  split
  · exact exec_sound _ _ h nofun
  split
  · simp [h]
  · exact s.fetchIssue_sound k h

theorem State.trySlot_sound (s : State) (k e c slot : Nat) (w : Word64) (h : s.turnsSound = true) : SoundAfter (s.trySlot k e c slot w) := by
  unfold State.trySlot
  split
  · next hd => exact exec_sound _ _ (by simpa using h) fun _ => wf_of_decode hd
  · simp [h]

theorem State.trySlots_sound (s : State) (k e c n : Nat) (ws : List Word64) (h : s.turnsSound = true) : SoundAfter (s.trySlots k e c n ws) := by
  induction ws generalizing n with
  | nil => simp [State.trySlots, h]
  | cons w r ih =>
    obtain ⟨t, hw, ht⟩ := s.trySlot_sound k e c n w h
    simp only [State.trySlots, hw]
    split
    · simp [ht]
    · exact ih _

theorem State.tryCtxs_sound (s : State) (k e : Nat) (card : List Word64) (cs : List Nat) (h : s.turnsSound = true) : SoundAfter (s.tryCtxs k e card cs) := by
  induction cs with
  | nil => simp [State.tryCtxs, h]
  | cons c r ih =>
    obtain ⟨t, hc, ht⟩ := s.trySlots_sound k e c 0 card h
    simp only [State.tryCtxs, hc]
    split
    · simp [ht]
    split
    · simp [ht]
    · exact ih

theorem State.fire_sound (s : State) (k e : Nat) (h : s.turnsSound = true) : SoundAfter (s.fire k e) := by
  unfold State.fire
  split
  · simp [h]
  next r _ =>
  obtain ⟨t, hc, ht⟩ := s.tryCtxs_sound k e (s.elem k e).card (s.ctxOrder k e r.det) h
  simp only [hc]
  split
  · simp [h]
  split
  · simp [h]
  · simp [ht]

@[simp] theorem Core.fillerTurns_sound (c : Core) (k now : Nat) : (c.fillerTurns k now).all Turn.sound = true := by simp [Core.fillerTurns]

/-- A sound turn goes on from a sound state. The last arm is the turns whose own operation keeps the soundness of every state. -/
theorem State.turn_sound (s : State) (t : Turn) (h : s.turnsSound = true) (ht : t.sound = true) : SoundAfter (s.turn t) := by
  cases t with
  | ev i => exact exec_sound i s h fun hi => absurd ht (by simp [Turn.sound, Option.isSome_iff_ne_none.mp hi])
  | issue k => exact s.issue_sound k h
  | fire k e => exact s.fire_sound k e h
  | filler k => simp [State.turn, State.turnsSound_mk, State.todo_sound h, State.timers_sound h]
  | flush => exact (soundAfter_next _).mpr (s.flush_sound.trans h)
  | measure => exact execIntervalEnd_sound _ _ (by simp [h])
  | power => exact execPowerCapAction_sound _ _ _ (by simp [h])
  | sense die => exact execSensorSample_sound _ _ _ (by simp [h])
  | leak k n => exact execLeakageMeasurement_sound _ _ _ _ (by simp [h])
  | lookup k n => exact execOppoint_sound _ _ _ h
  | cancel k id => exact (soundAfter_next _).mpr ((s.endCmd_sound k id 2).trans h)
  | remap a => exact execAtomRemap_sound _ _ _ h
  | flit g raw => exact execFlitReceive_sound _ _ _ h
  | silent pkg => exact execDomainTimeout_sound _ _ h
  | dump cause die => exact execFatalDump_sound _ _ _ h
  | replay blk => exact execParkedReplay_sound _ _ h
  | switched blk => exact execBlockSwitch_sound _ _ h
  | collDue l tag => exact execCollTimeout_sound _ _ _ h
  | barDue l n => exact execBarrierTimeout_sound _ _ _ h
  | resetEnd p => exact execPartitionResetComplete_sound _ _ h
  | irq f => exact execIrqTimer_sound _ _ h
  | retrained n => exact execPortRetrainEnd_sound _ _ h
  | interval => exact execIntervalStart_sound _ h
  | instalment => exact execTokenInstalment_sound _ h
  | _ => simp [State.turn, h]

/-- A step from a sound state goes on to a sound state. -/
theorem step_sound (s : State) (h : s.turnsSound = true) : SoundAfter (step s) := by
  unfold step
  split
  · exact (soundAfter_next _).mpr (s.nextCycle_sound h)
  · next t r htodo =>
    have hall := State.todo_sound h
    rw [htodo, List.all_cons, Bool.and_eq_true] at hall
    obtain ⟨ht, hr⟩ := hall
    refine State.turn_sound _ t ?_ ht
    rw [State.turnsSound_mk, hr, State.timers_sound h, Bool.and_self]

/-- Settles O56: whatever an operation adds to the turns is a step of spec/95 or a turn of the model's own, and an instruction word runs only where the decoder has found it well formed, so
no turn of a sound state stops the machine. -/
theorem soundStatesGoOn : Obligations.SoundStatesGoOn := by
  unfold Obligations.SoundStatesGoOn
  intro s hs
  obtain ⟨t, ht, hsound⟩ := step_sound s (s.sound_eq_turnsSound ▸ hs)
  refine ⟨⟨t, ht⟩, fun u hu => ?_⟩
  rw [ht, Host.Outcome.next.injEq] at hu
  rw [← hu, State.sound_eq_turnsSound]
  exact hsound

end Sys2Proof.Machine
end

section
/-! SUPPORT. An instruction that may stand at a site is read back from its word (O53): its operands one by one by the laws of their fields, its modifier by the law of its kind, and where an
operand may be absent, its presence by what tells it: the modifier, or a field that is not 0 (R30 to R35). The words that the spec writes out (O54) follow. -/
namespace Sys2Proof

/-! ### Reading fields in turn -/

theorem read_field {α : Type} {o : Option α} {x : α} {F : α → Option Instr} {i : Instr} (hx : o = some x) (hi : F x = some i) : o.bind F = some i :=
  Option.bind_eq_some_iff.mpr ⟨x, hx, hi⟩

theorem read_operand {o : Operand} {F : Operand → Option Instr} {i : Instr} (hi : F o = some i) : (operandOf o.enc).bind F = some i :=
  read_field (operandOf_enc o) hi

theorem read_two {a b : Operand} {F : Operand → Operand → Option Instr} {i : Instr} (hi : F a b = some i) :
    ((operandOf a.enc).bind fun a => (operandOf b.enc).bind fun b => F a b) = some i :=
  read_operand (read_operand hi)

theorem read_three {d a b : Operand} {F : Operand → Operand → Operand → Option Instr} {i : Instr} (hi : F d a b = some i) :
    ((operandOf d.enc).bind fun d => (operandOf a.enc).bind fun a => (operandOf b.enc).bind fun b => F d a b) = some i :=
  read_operand (read_two hi)

/-! ### Optional operands -/

/-- R193: EMIT and CTOK carry srcB where the modifier is 1. -/
theorem optField_present (b : Option Operand) : optField ((if b.isSome then (1 : BitVec 4) else 0) == 0) (optEnc b) = some b := by
  rw [optPresent_zero, optField_enc]

/-- R193, R222: EOW and MNORM carry their optional operand where the modifier is 0. -/
theorem optField_absent (b : Option Operand) : optField ((if b.isNone then (1 : BitVec 4) else 0) == 1) (optEnc b) = some b := by
  rw [optAbsent_one, optField_enc]

/-- R199: EXIT carries srcB where the count of its values is not 0. -/
theorem optField_exit {k : SiteKind} {g : BitVec 16} {a : Operand} {b : Option Operand} {nv : BitVec 3} (h : (Instr.exit g a b nv).operandsOk k = true) :
    optField ((0#1 ++ nv).extractLsb' 0 3 == 0) (optEnc b) = some b := by
  simp only [Instr.operandsOk, Bool.and_eq_true] at h
  obtain ⟨-, h⟩ := h
  have hnv : (nv == 0) = b.isNone := by
    cases b with
    | none => exact h
    | some o =>
      refine beq_eq_false_iff_ne.mpr fun h0 => ?_
      subst h0
      exact absurd h Bool.false_ne_true
  rw [predField3, hnv, optField_enc]

/-- An optional destination whose field is never 0 is read back from the field alone. -/
theorem optField_dest {p : Operand → Bool} {d : Option Operand} (hp : ∀ o, p o = true → (o.enc == 0) = false) (h : Wf.optAll p d = true) :
    optField (optEnc d == 0) (optEnc d) = some d := by
  have hd : (optEnc d == 0) = d.isNone := by
    cases d with
    | none => rfl
    | some o => exact hp o h
  rw [hd, optField_enc]

/-- R222: MTASK's destination. -/
theorem optField_mtask {k : SiteKind} {g : BitVec 16} {d : Option Operand} {a b : Operand} {p : BitVec 2} (h : (Instr.mtask g d a b p).operandsOk k = true) :
    optField (optEnc d == 0) (optEnc d) = some d := by
  simp only [Instr.operandsOk, Bool.and_eq_true] at h
  obtain ⟨⟨hd, -⟩, -⟩ := h
  exact optField_dest (fun _ => dst_enc_ne_zero) hd

/-- R279: FENCE's destination is none on a control core, and in an element none or an out port. -/
theorem optField_fence {k : SiteKind} {g : BitVec 16} {d : Option Operand} {a : Operand} (h : (Instr.fence g d a).operandsOk k = true) :
    optField (optEnc d == 0) (optEnc d) = some d := by
  simp only [Instr.operandsOk, Bool.and_eq_true] at h
  obtain ⟨hd, -⟩ := h
  split at hd
  · rw [Option.isNone_iff_eq_none.mp hd]
    rfl
  · exact optField_dest (fun _ => portOut_enc_ne_zero) hd

/-! ### Modifiers of the kind that their opcode has (R33) -/

theorem rounding_ok (r : Rounding) : ModKind.ok r.enc .rounding = true := decide_eq_true (rounding_enc_le r)
theorem lane_ok (l : Lane) : ModKind.ok l.enc .lane = true := decide_eq_true (lane_enc_le l)
theorem laneSign_ok (l : LaneSign) : ModKind.ok l.enc .laneSign = true := decide_eq_true (laneSign_enc_le l)
theorem lfmt_ok (l : LFmt) : ModKind.ok l.enc .lfmt = true := decide_eq_true (lfmt_enc_le l)
theorem flag_ok (x : Bool) : ModKind.ok (if x then 1 else 0) .flag = true := by cases x <;> rfl
theorem pred_ok (p : BitVec 3) : ModKind.ok (0#1 ++ p) .pred = true := decide_eq_true (predField3_toNat p ▸ p.isLt)
theorem nval_ok (n : BitVec 3) : ModKind.ok (0#1 ++ n) .nval = true := pred_ok n
theorem pred2_ok (p : BitVec 2) : ModKind.ok (0#2 ++ p) .pred2 = true := decide_eq_true (predField2_toNat p ▸ p.isLt)
theorem quad_ok (q : BitVec 2) : ModKind.ok (0#2 ++ q) .quad = true := pred2_ok q

/-- R79: the predicate of an element is below 4. -/
theorem pred_site {k : SiteKind} (p : BitVec 3) (h : (decide (k = .cc) || decide (p.toNat < 4)) = true) : (k == .cc || decide ((0#1 ++ p).toNat < 4)) = true := by
  rw [predField3_toNat]
  exact h

/-! ### The fields of an instruction -/

/-- The word of the instruction has the fields; their modifier is assigned, at the site too, and they build the instruction. -/
structure Spells (k : SiteKind) (i : Instr) (f : Fields) : Prop where
  encodes : encode i = some (wordOf f)
  assigned : ∃ mk, modKindOf f.op.toNat = some mk ∧ mk.ok f.mod = true
  atSite : siteMod k f = true
  builds : build f = some i

/-- R50 to R52: the decoder reads fields that spell an instruction as that instruction, where it may stand. -/
theorem Spells.decodes {k : SiteKind} {i : Instr} {f : Fields} (h : Spells k i f) (hw : i.wf k = true) : decode k (wordOf f) = .ok i := by
  obtain ⟨mk, hkind, hmod⟩ := h.assigned
  obtain ⟨hcode, hguard, -⟩ := build_fits f i h.builds
  simp only [Instr.wf, hcode, hguard, Bool.and_eq_true] at hw
  obtain ⟨⟨⟨hsite, -⟩, hg⟩, hops⟩ := hw
  exact decode_wordOf hkind hmod hsite h.atSite hg h.builds hops

/-- R31 to R35: an instruction with legal operands and a legal modifier has fields that spell it. The cases stand together by the layout of the word; fields that a layout leaves unused are 0, and
where `hm` is given for the site's check, that check is the one of `modOk` word for word. -/
theorem exists_spells {k : SiteKind} {i : Instr} (hm : i.modOk k = true) (ho : i.operandsOk k = true) : ∃ f, Spells k i f := by
  cases i with
  -- The operands, with no modifier.
  | add g d a b | sub g d a b | adds g d a b | subs g d a b | addz g d a b | subz g d a b | mins g d a b | minz g d a b | maxs g d a b | maxz g d a b
  | mul g d a b | mulhs g d a b | mulhz g d a b | mad g d a b | divs g d a b | divz g d a b | rems g d a b | remz g d a b | and g d a b | or g d a b
  | xor g d a b | andn g d a b | shl g d a b | shrz g d a b | shrs g d a b | rotl g d a b | sext g d a b | zext g d a b | slext g d a b
  | slins g d a b | pack g d a b | unpk g d a b | ceq g d a b | cne g d a b | clts g d a b | cltz g d a b | cles g d a b | clez g d a b
  | fceq g d a b | fclt g d a b | fcle g d a b | fcun g d a b | pand g d a b | por g d a b | pxor g d a b | fmin g d a b | fmax g d a b | wfe g d a b
  | tidx g d a b | join g d a b | csetb g d a b | candp g d a b | ctest g d a b | cldc g d a b | cstc g d a b | csub g d a b | qwait g d a b
  | lease g d a b | pwrq g d a b | lcmap g d a b =>
    exact ⟨_, rfl, ⟨_, rfl, rfl⟩, hm, read_three rfl⟩
  | neg g d a | abs g d a | not g d a | clz g d a | popc g d a | brev g d a | mov g d a | swap g d a | slclr g d a | pmov g d a | pnot g d a
  | fabs g d a | fneg g d a | fnorm g d a | fgete g d a | fgetm g d a | f32w g d a | jalr g d a | loop g d a | srd g d a | swr g d a | peekk g d a
  | pass g d a | mxget g d a | fork g d a | cgetb g d a | cgetl g d a | cgetp g d a | cmov g d a | cclr g d a | epoll g d a | dstop g d a
  | scant g d a | scanq g d a =>
    exact ⟨_, rfl, ⟨_, rfl, rfl⟩, hm, read_two rfl⟩
  | jmp g a | waitp g a | bkpt g a | deq g a | idle g a | mzero g a | gbar g a | ecancel g a =>
    exact ⟨_, rfl, ⟨_, rfl, rfl⟩, hm, read_operand rfl⟩
  | trap g a b | bankt g a b | mark g a b =>
    exact ⟨_, rfl, ⟨_, rfl, rfl⟩, hm, read_two rfl⟩
  | halt g | nop g | eret g | cfence g | lrel g =>
    exact ⟨_, rfl, ⟨_, rfl, rfl⟩, hm, rfl⟩
  | tstamp g d => exact ⟨_, rfl, ⟨_, rfl, rfl⟩, hm, read_operand rfl⟩
  -- A modifier that the instruction keeps as it is.
  | ld g d a b m | st g d a b m | ldf g d a b m | stf g d a b m | aadd g d a b m | amin g d a b m | amax g d a b m | aand g d a b m | aor g d a b m
  | axor g d a b m | axchg g d a b m | acas g d a b m | afadd g d a b m | dma g d a b m | dmas g d a b m | gath g d a b m | scat g d a b m
  | stage g d a b m | coll g d a b m | msg g d a b m | mrecv g d a b m | launch g d a b m =>
    exact ⟨_, rfl, ⟨_, rfl, rfl⟩, hm, read_three rfl⟩
  -- A modifier that names a rounding, a lane width or an L format.
  | fadd g d a b rm | fsub g d a b rm | fmul g d a b rm | fma g d a b rm | fnma g d a b rm | fdiv g d a b rm | fscale g d a b rm | fsete g d a b rm
  | mread g d a b rm =>
    exact ⟨_, rfl, ⟨_, rfl, rounding_ok rm⟩, hm, read_three (read_field (roundingOf_enc rm) rfl)⟩
  | frcp g d a rm | frsq g d a rm | fexp2 g d a rm | flog2 g d a rm | fsqrt g d a rm | fcvts g d a rm | fcvtz g d a rm | ftois g d a rm
  | ftoiz g d a rm | frnd g d a rm | wf32 g d a rm =>
    exact ⟨_, rfl, ⟨_, rfl, rounding_ok rm⟩, hm, read_two (read_field (roundingOf_enc rm) rfl)⟩
  | vadds g d a b ln | vmin g d a b ln | vmax g d a b ln | vaddmin g d a b ln | vaddmax g d a b ln | vred g d a b ln | vscan g d a b ln
  | vcmp g d a b ln | vdot g d a b ln =>
    exact ⟨_, rfl, ⟨_, rfl, laneSign_ok ln⟩, hm, read_three (read_field (laneSignOf_enc ln) rfl)⟩
  | vadd g d a b ln | vsub g d a b ln | vmul g d a b ln | vsel g d a b ln | lshl g d a b ln | lshr g d a b ln | vbcast g d a b ln =>
    exact ⟨_, rfl, ⟨_, rfl, lane_ok ln⟩, hm, read_three (read_field (laneOf_enc ln) rfl)⟩
  | ftol g d a lf | ltof g d a lf =>
    exact ⟨_, rfl, ⟨_, rfl, lfmt_ok lf⟩, hm, read_two (read_field (lfmtOf_enc lf) rfl)⟩
  | mdown g lf => exact ⟨_, rfl, ⟨_, rfl, lfmt_ok lf⟩, hm, read_field (lfmtOf_enc lf) rfl⟩
  -- A modifier that names a predicate, a tile group, a flag or a quarter.
  | addc g d a b p | subb g d a b p | selp g d a b p =>
    exact ⟨_, rfl, ⟨_, rfl, pred_ok p⟩, pred_site p hm, read_three (by rw [predField3])⟩
  | mmac12 g src b => exact ⟨_, rfl, ⟨_, rfl, mmacSrc_mod_ok src⟩, rfl, read_field (mmacSrcOf_enc src) (read_operand rfl)⟩
  | mmac g src b | mmac8 g src b =>
    exact ⟨_, rfl, ⟨_, rfl, mmacSrc_mod_ok src⟩, decide_eq_true (mmacSrc_mod_lt src _ hm), read_field (mmacSrcOf_enc src) (read_operand rfl)⟩
  | retire g x => exact ⟨_, rfl, ⟨_, rfl, flag_ok x⟩, hm, congrArg (some ∘ Instr.retire g) (boolField x)⟩
  | mpois g a x => exact ⟨_, rfl, ⟨_, rfl, flag_ok x⟩, hm, read_operand (congrArg (some ∘ Instr.mpois g a) (boolField x))⟩
  | mmacw g q => exact ⟨_, rfl, ⟨_, rfl, quad_ok q⟩, hm, congrArg (some ∘ Instr.mmacw g) (predField2 q)⟩
  -- The I28, B36 and D24 forms.
  | movi g d imm | movhi g d imm =>
    exact ⟨_, rfl, ⟨_, rfl, rfl⟩, hm, read_operand (by rw [immField28])⟩
  | br g off => exact ⟨_, rfl, ⟨_, rfl, rfl⟩, hm, congrArg (some ∘ Instr.br g) (targetField36 off)⟩
  | jal g d off => exact ⟨_, rfl, ⟨_, rfl, rfl⟩, hm, read_operand (congrArg (some ∘ Instr.jal g d) (targetField24 off))⟩
  -- An operand that may be absent.
  | emit g d a b | ctok g d a b =>
    exact ⟨_, rfl, ⟨_, rfl, flag_ok _⟩, hm, read_two (read_field (optField_present b) rfl)⟩
  | eow g d a => exact ⟨_, rfl, ⟨_, rfl, flag_ok _⟩, hm, read_field (optField_absent d) (read_operand rfl)⟩
  | mnorm g a => exact ⟨_, rfl, ⟨_, rfl, flag_ok _⟩, hm, read_field (optField_absent a) rfl⟩
  | exit g a b nv => exact ⟨_, rfl, ⟨_, rfl, nval_ok nv⟩, hm, read_operand (read_field (optField_exit ho) (congrArg (some ∘ Instr.exit g a b) (predField3 nv)))⟩
  | mtask g d a b p => exact ⟨_, rfl, ⟨_, rfl, pred2_ok p⟩, hm, read_field (optField_mtask ho) (read_two (congrArg (some ∘ Instr.mtask g d a b) (predField2 p)))⟩
  | fence g d a => exact ⟨_, rfl, ⟨_, rfl, rfl⟩, hm, read_field (optField_fence ho) (read_operand rfl)⟩
  -- A step of spec/95 has no legal operands.
  | _ => exact absurd ho Bool.false_ne_true

theorem modOk_of_wf {k : SiteKind} {i : Instr} (h : i.wf k = true) : i.modOk k = true := by
  simp only [Instr.wf, Bool.and_eq_true] at h
  obtain ⟨⟨⟨-, hmod⟩, -⟩, -⟩ := h
  exact hmod

/-- Settles O53: the fields of a well-formed instruction's word spell it, and the decoder reads fields as the instruction that they spell. -/
theorem decodeEncodeAgree : Obligations.DecodeEncodeAgree := by
  unfold Obligations.DecodeEncodeAgree
  intro k i hw
  obtain ⟨f, hf⟩ := exists_spells (modOk_of_wf hw) (Machine.operandsOk_of_wf hw)
  exact ⟨wordOf f, hf.encodes, hf.decodes hw⟩

/-- What the encoder answers for a well-formed instruction is read as that instruction. -/
theorem decode_of_encode {k : SiteKind} {i : Instr} {w : Word64} (hw : i.wf k = true) (he : encode i = some w) : decode k w = .ok i := by
  obtain ⟨v, hv, hd⟩ := decodeEncodeAgree k i hw
  obtain rfl := Option.some.inj (hv.symm.trans he)
  exact hd

/-- Settles O54: each instruction is well formed at its site, and the word that the spec writes is the one that it encodes to. -/
theorem decodeSamples : Obligations.DecodeSamples := by
  unfold Obligations.DecodeSamples
  and_intros <;> exact decode_of_encode (by decide) (by decide)

end Sys2Proof
end

section
/-! SUPPORT. Products, quotients and remainders (O3): the integer operations of one spelling at the destination's width, and R62's quotient with a zero divisor. -/
open Sys2Proof Sys2Proof.Machine Sys2Proof.Claims

namespace Sys2Proof.Laws

/-- R40, R41: an instruction over `int2` that does not saturate writes `v` where its operation agrees with `v` modulo 2^w. -/
theorem completes_int2 {i : Instr} {g : Sgn} {f : State → Nat → Int → Int → Int} {d a b : Operand} {v : State → Int}
    (hx : ∀ s, exec i s = run i (fun s => int2 g false (f s) d a b s) s)
    (hv : ∀ s, f s (destWidth d) ((s.src a).val g (destWidth d)) ((s.src b).val g (destWidth d)) % ((2 ^ destWidth d : Nat) : Int) = v s % ((2 ^ destWidth d : Nat) : Int)) :
    completes i (result d v) :=
  completes_of hx (funext fun s => by simp only [int2, narrow_f, result, hv])

/-- R62: all `w` bits set are −1 modulo 2^w, so both signednesses give the quotient of the rule. -/
theorem quotient_emod (g : Sgn) (a b : Int) (w : Nat) :
    quotient g a b w % ((2 ^ w : Nat) : Int) = (if b = 0 then -1 else a.tdiv b) % ((2 ^ w : Nat) : Int) := by
  cases g with
  | s => rfl
  | z =>
    by_cases hb : b = 0
    · simp only [quotient, if_pos hb, sub_eq_add_neg, Int.add_emod_left]
    · simp only [quotient, if_neg hb]

/-- Settles O3: every member is `int2` at the destination's width; only DIVS and DIVZ spell their result otherwise than the rule, by `quotient_emod`. -/
theorem multiplyDivideResults : Obligations.MultiplyDivideResults := by
  unfold Obligations.MultiplyDivideResults
  intro g d a b
  refine ⟨?mul, ?mulhs, ?mulhz, ?mad, ?divs, ?divz, ?rems, ?remz⟩
  case divs => exact completes_int2 (fun _ => rfl) fun s => quotient_emod .s (sv s a _) (sv s b _) _
  case divz => exact completes_int2 (fun _ => rfl) fun s => quotient_emod .z (zv s a _) (zv s b _) _
  all_goals exact completes_int2 (fun _ => rfl) fun _ => rfl

end Sys2Proof.Laws
end

section
/-! SUPPORT. Rounding to W40 (R70, R72, R73): the model's integer rounding against the rounding of a number. -/
namespace Sys2Proof.Machine
open Sys2Proof.Claims

variable {R : Type} [Field R] [LinearOrder R] [IsStrictOrderedRing R]

/-- `x` stands for the magnitude `t · 2^x.k`: `x.n` is `t` rounded down, `x.more` says whether `t` differs from it, and then enough bits stand in `x.n` for the offset of R71. -/
structure Mag.Holds (x : Mag) (t : R) : Prop where
  ne_zero : x.n ≠ 0
  lower : (x.n : R) ≤ t
  upper : t < x.n + 1
  more : x.more = true ↔ t ≠ x.n
  long : x.more = true → 2 ^ 43 ≤ x.n

/-- An exact magnitude. -/
theorem Mag.holds_exact {n : Nat} (k : Int) (hn : n ≠ 0) : ({ n := n, k := k } : Mag).Holds (n : R) :=
  { ne_zero := hn, lower := le_rfl, upper := lt_add_one _, more := by simp, long := fun h => absurd h Bool.false_ne_true }

theorem Mag.Holds.pos {x : Mag} {t : R} (hx : x.Holds t) : 0 < t :=
  lt_of_lt_of_le (Nat.cast_pos.2 (Nat.pos_of_ne_zero hx.ne_zero)) hx.lower

variable [FloorRing R]

omit [IsStrictOrderedRing R] in
theorem Mag.Holds.floor {x : Mag} {t : R} (hx : x.Holds t) : ⌊t⌋ = (x.n : Int) :=
  Int.floor_eq_iff.2 (by rw [Int.cast_natCast]; exact ⟨hx.lower, hx.upper⟩)

/-! ### The integer that a significand rounds to -/

/-- Every mode keeps an integer. -/
theorem roundTo_intCast (mode : Rounding) {h : Nat} (hh : h < 2 ^ 16) (s : Bool) (n : Int) : roundTo mode h s (n : R) = n := by
  have hfrac : ⌊(h : R) / 2 ^ 16⌋ = 0 := by
    rw [Int.floor_eq_zero_iff, Set.mem_Ico, div_lt_one (by positivity)]
    exact ⟨by positivity, by exact_mod_cast hh⟩
  cases mode <;> simp [roundTo, hfrac]

/-- A rounded number is the number itself where it is an integer, and nowhere else. -/
theorem roundTo_eq_self_iff (mode : Rounding) {h : Nat} (hh : h < 2 ^ 16) (s : Bool) (y : R) : (roundTo mode h s y : R) = y ↔ (⌊y⌋ : R) = y := by
  constructor
  · intro e; rw [← e, Int.floor_intCast]
  · intro e; rw [← e, roundTo_intCast mode hh]

section RoundDrop
variable {n d : Nat} {t : R} {more : Bool}

/-- A number with the integer part `n` drops bits as `n` does. -/
theorem floor_div_two_pow (hf : ⌊t⌋ = (n : Int)) (d : Nat) : ⌊t / 2 ^ d⌋ = (n / 2 ^ d : Nat) := by
  have h := Int.floor_div_natCast t (2 ^ d)
  rwa [hf, Nat.cast_pow, Nat.cast_ofNat, ← Int.natCast_div] at h

variable (hf : ⌊t⌋ = (n : Int)) (hmore : more = true ↔ t ≠ n)
include hf hmore

/-- A dropped bit, or what lies below the last bit of `n`, makes the result inexact. -/
theorem dropped_iff : (n % 2 ^ d != 0 || more) = true ↔ (⌊t / 2 ^ d⌋ : R) ≠ t / 2 ^ d := by
  have hp : (2 : R) ^ d ≠ 0 := pow_ne_zero d two_ne_zero
  rw [Bool.or_eq_true, bne_iff_ne, hmore, ← not_and_or, not_iff_not, floor_div_two_pow hf, Int.cast_natCast, eq_div_iff hp]
  constructor
  · rintro ⟨hr, rfl⟩
    exact_mod_cast Nat.div_mul_cancel (Nat.dvd_of_mod_eq_zero hr)
  · intro h
    have ht : t = (n / 2 ^ d * 2 ^ d : Nat) := by rw [← h]; push_cast; rfl
    have hn : n / 2 ^ d * 2 ^ d = n := by rw [ht, Int.floor_natCast] at hf; exact_mod_cast hf
    exact ⟨hn ▸ Nat.mul_mod_left _ _, hn ▸ ht⟩

omit hf hmore in
/-- Below the half, whose bit is not set. -/
theorem halfTest_below {P r q : Nat} (hr : r < P) : (decide (P * 2 < 2 * r) || (2 * r == P * 2 && (more || q % 2 == 1))) = false := by
  have h : 2 * r < P * 2 := by rw [Nat.mul_comm]; exact Nat.mul_lt_mul_of_pos_right hr two_pos
  rw [decide_eq_false h.not_gt, beq_eq_false_iff_ne.2 h.ne]; rfl

omit hf hmore in
/-- From the half on, whose bit is set. -/
theorem halfTest_above {P r q : Nat} : (decide (P * 2 < 2 * (r + P)) || (2 * (r + P) == P * 2 && (more || q % 2 == 1))) = ((r != 0 || more) || q % 2 == 1) := by
  have hP : P * 2 = 2 * (0 + P) := by rw [Nat.zero_add, Nat.mul_comm]
  cases r with
  | zero => rw [hP, decide_eq_false (lt_irrefl _), beq_self_eq_true]; rfl
  | succ r => rw [hP, decide_eq_true (Nat.mul_lt_mul_of_pos_left (Nat.add_lt_add_right r.succ_pos P) two_pos)]; rfl

/-- R70, RNE: whether the dropped part lies above the half, or at it beside an odd integer: the first dropped bit tells, and where it is set what comes after it. -/
theorem nearest_iff (hd : 1 ≤ d) :
    (t / 2 ^ d - ⌊t / 2 ^ d⌋ < 1 / 2 ∨ (t / 2 ^ d - ⌊t / 2 ^ d⌋ = 1 / 2 ∧ ⌊t / 2 ^ d⌋ % 2 = 0))
      ↔ ¬ (decide (2 ^ d < 2 * (n % 2 ^ d)) || (2 * (n % 2 ^ d) == 2 ^ d && (more || n / 2 ^ d % 2 == 1))) = true := by
  obtain ⟨e, rfl⟩ : ∃ e, d = e + 1 := ⟨d - 1, (Nat.sub_add_cancel hd).symm⟩
  have hy : t / 2 ^ (e + 1) = t / 2 ^ e / 2 := by rw [pow_succ, div_div]
  have hn : n / 2 ^ (e + 1) = n / 2 ^ e / 2 := by rw [pow_succ, Nat.div_div_eq_div_mul]
  have hx := dropped_iff (d := e) hf hmore
  have hfe := floor_div_two_pow hf e
  have hr := Nat.mod_lt n (Nat.two_pow_pos e)
  rw [floor_div_two_pow hf, hy, hn, Nat.mod_pow_succ, pow_succ]
  rw [hfe] at hx
  generalize t / 2 ^ e = y at *
  generalize n / 2 ^ e = c at *
  generalize n % 2 ^ e = r at *
  rw [Int.cast_natCast] at hx ⊢
  generalize hq : c / 2 = q at *
  have hhalf : y / 2 - q = (y - (2 * q : Nat)) / 2 := by push_cast; rw [sub_div, mul_div_cancel_left₀ _ two_ne_zero]
  have hlt : y - (2 * q : Nat) < 1 ↔ c < 1 + 2 * q := by
    have h := Int.floor_lt (a := y) (z := ((1 + 2 * q : Nat) : Int))
    rw [hfe, Nat.cast_lt, Int.cast_natCast] at h
    rw [h, sub_lt_iff_lt_add, Nat.cast_add, Nat.cast_one]
  have heq : y - (2 * q : Nat) = 1 ↔ c = 1 + 2 * q ∧ ¬ (r != 0 || more) = true := by
    have hone : (1 : R) + (2 * q : Nat) = (1 + 2 * q : Nat) := by rw [Nat.cast_add 1, Nat.cast_one]
    rw [hx, not_not, sub_eq_iff_eq_add, hone]
    constructor
    · intro h
      have hc : c = 1 + 2 * q := by rw [h, Int.floor_natCast] at hfe; exact (Nat.cast_inj.1 hfe).symm
      exact ⟨hc, by rw [h, hc]⟩
    · rintro ⟨hc, h⟩
      rw [← h, hc]
  rw [hhalf, div_lt_div_iff_of_pos_right two_pos, div_left_inj' two_ne_zero, hlt, heq]
  rcases Nat.mod_two_eq_zero_or_one c with hc | hc
  · have hceq : c = 2 * q := by rw [← hq, Nat.mul_div_cancel' (Nat.dvd_of_mod_eq_zero hc)]
    rw [hc, Nat.mul_zero, Nat.add_zero, halfTest_below hr, hceq]
    exact iff_of_true (.inl (Nat.lt_add_of_pos_left Nat.one_pos)) Bool.false_ne_true
  · have hceq : c = 1 + 2 * q := by rw [← hq, ← hc, Nat.mod_add_div]
    have hpar : ((q : Nat) : Int) % 2 = 0 ↔ ¬ (q % 2 == 1) = true := by
      rw [beq_iff_eq]; exact (by exact_mod_cast Iff.rfl : _ ↔ q % 2 = 0).trans Nat.mod_two_ne_one.symm
    rw [hc, Nat.mul_one, halfTest_above, or_iff_right (hceq ▸ lt_irrefl _), and_iff_right hceq, hpar, Bool.or_eq_true _ (q % 2 == 1), not_or]

/-- R70, R71: the offset in units of the 16 bits below the kept ones. -/
theorem floor_add_offset (h : Nat) (hd : more = true → 16 ≤ d) : ⌊t / 2 ^ d + (h : R) / 2 ^ 16⌋ = ((n * 65536 + h * 2 ^ d) / 2 ^ (d + 16) : Nat) := by
  have h16 : (2 : R) ^ 16 ≠ 0 := pow_ne_zero 16 two_ne_zero
  cases hm : more with
  | false =>
    have ht : t = n := not_not.1 fun hne => Bool.false_ne_true (hm ▸ hmore.2 hne)
    have hsum : t / 2 ^ d + (h : R) / 2 ^ 16 = ((n * 65536 + h * 2 ^ d : Nat) : R) / 2 ^ (d + 16) := by
      rw [ht, div_add_div _ _ (pow_ne_zero d two_ne_zero) h16, ← pow_add, mul_comm _ (h : R)]
      norm_num
    rw [hsum, floor_div_two_pow (Int.floor_natCast _)]
  | true =>
    -- What lies below the last bit of `n` stays below the bits that the offset reaches.
    obtain ⟨e, rfl⟩ : ∃ e, d = e + 16 := ⟨d - 16, (Nat.sub_add_cancel (hd hm)).symm⟩
    have hsum : t / 2 ^ (e + 16) + (h : R) / 2 ^ 16 = (t + (h * 2 ^ e : Nat)) / 2 ^ (e + 16) := by
      rw [add_div, pow_add]; push_cast; rw [mul_comm (h : R), mul_div_mul_left _ _ (pow_ne_zero e two_ne_zero)]
    have hnat : n * 65536 + h * 2 ^ (e + 16) = (n + h * 2 ^ e) * 2 ^ 16 := by ring
    rw [hsum, floor_div_two_pow (n := n + h * 2 ^ e) (by rw [Int.floor_add_natCast, hf]; rfl), hnat, pow_add _ (e + 16), Nat.mul_div_mul_right _ _ (Nat.two_pow_pos 16)]

/-- R70: the ceiling is one more where bits are dropped. -/
theorem ceil_div_two_pow : ⌈t / 2 ^ d⌉ = (n / 2 ^ d + b2n (n % 2 ^ d != 0 || more) : Nat) := by
  have hiff := dropped_iff (d := d) hf hmore
  rw [Nat.cast_add, ← floor_div_two_pow hf d]
  cases hx : (n % 2 ^ d != 0 || more) with
  | false =>
    have he : (⌊t / 2 ^ d⌋ : R) = t / 2 ^ d := not_not.1 fun hne => Bool.false_ne_true (hx ▸ hiff.2 hne)
    rw [← he, Int.ceil_intCast, Int.floor_intCast]
    exact (add_zero _).symm
  | true =>
    refine (Int.ceil_eq_floor_add_one_iff_notMem _).2 ?_
    rintro ⟨z, hz⟩
    exact hiff.1 hx (by rw [← hz, Int.floor_intCast])

/-- R70: `roundDrop` makes of `t` over the dropped bits what the mode makes of that number. -/
theorem roundDrop_fst (mode : Rounding) (h : Nat) (s : Bool) (hd : 1 ≤ d) (hlong : more = true → 16 ≤ d) :
    ((roundDrop mode h s n d more).1 : Int) = roundTo mode h s (t / 2 ^ d) := by
  have hq := floor_div_two_pow hf d
  have hc := ceil_div_two_pow (d := d) hf hmore
  cases mode with
  | rne =>
    simp only [roundDrop, roundTo]
    rw [if_congr (nearest_iff hf hmore hd) rfl rfl, hq, ite_not]
    split_ifs <;> rfl
  | rtz => exact hq.symm
  | rsr => exact (floor_add_offset hf hmore h hlong).symm
  | rup => cases s <;> simp only [roundDrop, roundTo, hq, hc] <;> rfl
  | rdn => cases s <;> simp only [roundDrop, roundTo, hq, hc] <;> rfl

end RoundDrop

/-! ### The parts of `roundW` -/

/-- R70: the significand of `x` before renormalisation, and whether it differs from `y`. -/
def Mag.significand (mode : Rounding) (h : Nat) (s : Bool) (x : Mag) : Nat × Bool :=
  if x.n.log2 ≤ 27 then (x.n * 2 ^ (27 - x.n.log2), x.more) else roundDrop mode h s x.n (x.n.log2 - 27) x.more

/-- R72: the word of an overflow. -/
def overflowWord (mode : Rounding) (s : Bool) : Nat := overflowTo mode s (wMax s) (wInf s)

/-- R73: the word of an underflow. -/
def underflowWord (mode : Rounding) (s : Bool) : Nat :=
  match mode with
  | .rup => if s then wZero s else wMin s
  | .rdn => if s then wMin s else wZero s
  | _ => wZero s

/-- R70, R72, R73: the word of a significand `n` at the exponent `E`, both before renormalisation, with the flags `fl` unless it overflows or underflows. -/
def wordW (mode : Rounding) (s : Bool) (E n : Int) (fl : Nat) : Flagged :=
  let e := if n = 2 ^ 28 then E + 1 else E
  let m := if n = 2 ^ 28 then 2 ^ 27 else n
  if 1023 < e then { val := overflowWord mode s, fl := 4 + 1 }
  else if e < -1023 then { val := underflowWord mode s, fl := 2 + 1 }
  else { val := b2n s * 2 ^ 39 + (e % 2 ^ 11).toNat * 2 ^ 28 + m.toNat, fl := fl }

/-- The rule's rounding by its parts. -/
theorem rounded_eq (mode : Rounding) (h : Nat) (s : Bool) (x : R) :
    rounded mode h s x = wordW mode s (Int.log 2 x) (roundTo mode h s (x * (2 : R) ^ (27 - Int.log 2 x)))
      (if (roundTo mode h s (x * (2 : R) ^ (27 - Int.log 2 x)) : R) = x * (2 : R) ^ (27 - Int.log 2 x) then 0 else 1) := by
  cases mode <;> cases s <;> rfl

/-- The model's rounding by its parts. -/
theorem roundW_eq (mode : Rounding) (h : Nat) (s : Bool) (x : Mag) :
    roundW mode h s x = wordW mode s x.exp (x.significand mode h s).1 (if (x.significand mode h s).2 then 1 else 0) := by
  unfold roundW Mag.significand
  dsimp only
  generalize x.exp = E
  generalize (if x.n.log2 ≤ 27 then (x.n * 2 ^ (27 - x.n.log2), x.more) else roundDrop mode h s x.n (x.n.log2 - 27) x.more) = r
  obtain ⟨n, nx⟩ := r
  by_cases h28 : n = 2 ^ 28
  · have h28' : (n : Int) = 2 ^ 28 := congrArg Nat.cast h28
    simp only [wordW, if_pos h28, if_pos h28']
    rfl
  · have h28' : ¬ (n : Int) = 2 ^ 28 := fun h => h28 (by exact_mod_cast h)
    simp only [wordW, if_neg h28, if_neg h28', add_zero]
    rfl

/-- R72: beyond the exponents of a word the significand does not matter. -/
theorem wordW_of_large (mode : Rounding) (s : Bool) {E E' : Int} (n n' : Int) (fl fl' : Nat) (hE : 1024 ≤ E) (hE' : 1024 ≤ E') :
    wordW mode s E n fl = wordW mode s E' n' fl' := by
  have h {E n : Int} (hE : 1024 ≤ E) : 1023 < if n = 2 ^ 28 then E + 1 else E := by split_ifs <;> omega
  simp only [wordW, if_pos (h hE), if_pos (h hE')]

/-- R73: nor does it below them. -/
theorem wordW_of_small (mode : Rounding) (s : Bool) {E E' : Int} (n n' : Int) (fl fl' : Nat) (hE : E < -1024) (hE' : E' < -1024) :
    wordW mode s E n fl = wordW mode s E' n' fl' := by
  have h {E n : Int} (hE : E < -1024) : (if n = 2 ^ 28 then E + 1 else E) < -1023 := by split_ifs <;> omega
  have h' {E n : Int} (hE : E < -1024) : ¬ 1023 < if n = 2 ^ 28 then E + 1 else E := by have := h (n := n) hE; omega
  simp only [wordW, if_neg (h' hE), if_neg (h' hE'), if_pos (h hE), if_pos (h hE')]

/-! ### The exponent and the significand of a magnitude -/

theorem two_zpow_of_nonpos {K : Type} [Field K] {e : Int} (he : e ≤ 0) : (2 : K) ^ e = (2 ^ (-e).toNat)⁻¹ := by
  rw [← zpow_natCast, Int.toNat_of_nonneg (by omega), zpow_neg, inv_inv]

theorem natLog2_bounds {n : Nat} (hn : n ≠ 0) : 2 ^ n.log2 ≤ n ∧ n + 1 ≤ 2 ^ (n.log2 + 1) :=
  ⟨Nat.log2_self_le hn, Nat.lt_log2_self⟩

/-- R70: E of a magnitude. -/
theorem Mag.Holds.log {x : Mag} {t : R} (hx : x.Holds t) : Int.log 2 (t * (2 : R) ^ x.k) = x.exp := by
  obtain ⟨hlo, hhi⟩ := natLog2_bounds hx.ne_zero
  have hlo' : (2 : R) ^ x.n.log2 ≤ t := le_trans (by exact_mod_cast hlo) hx.lower
  have hhi' : t < (2 : R) ^ (x.n.log2 + 1) := lt_of_lt_of_le hx.upper (by exact_mod_cast hhi)
  have hk : (0 : R) < 2 ^ x.k := by positivity
  have hpos : 0 < t * (2 : R) ^ x.k := mul_pos hx.pos hk
  refine le_antisymm (Int.lt_add_one_iff.1 ((Int.lt_zpow_iff_log_lt one_lt_two hpos).1 ?_)) ((Int.zpow_le_iff_le_log one_lt_two hpos).1 ?_)
  · calc t * (2 : R) ^ x.k < 2 ^ (x.n.log2 + 1) * 2 ^ x.k := mul_lt_mul_of_pos_right hhi' hk
      _ = ((2 : Nat) : R) ^ (x.exp + 1) := by
        rw [← zpow_natCast, ← zpow_add₀ two_ne_zero, Mag.exp]; push_cast; congr 1; ring
  · calc ((2 : Nat) : R) ^ x.exp = 2 ^ x.n.log2 * 2 ^ x.k := by
          rw [← zpow_natCast, ← zpow_add₀ two_ne_zero, Mag.exp]; push_cast; rfl
      _ ≤ t * (2 : R) ^ x.k := mul_le_mul_of_nonneg_right hlo' hk.le

omit [IsStrictOrderedRing R] in
/-- R70: y of a magnitude whose significand has no more bits than the word's. -/
theorem mul_zpow_scale_up {l : Nat} (hl : l ≤ 27) (k : Int) (t : R) : t * (2 : R) ^ k * 2 ^ (27 - ((l : Int) + k)) = t * 2 ^ (27 - l) := by
  rw [mul_assoc, ← zpow_add₀ two_ne_zero, ← zpow_natCast]
  congr 2
  push_cast [hl]; ring

omit [IsStrictOrderedRing R] in
/-- R70: y of a magnitude whose significand has more. -/
theorem mul_zpow_scale_down {l : Nat} (hl : 27 ≤ l) (k : Int) (t : R) : t * (2 : R) ^ k * 2 ^ (27 - ((l : Int) + k)) = t / 2 ^ (l - 27) := by
  rw [mul_assoc, ← zpow_add₀ two_ne_zero, div_eq_mul_inv, ← zpow_natCast, ← zpow_neg]
  congr 2
  push_cast [hl]; ring

/-- R70: the significand is what the mode makes of y, and inexact where y is no integer. -/
theorem Mag.Holds.significand {x : Mag} {t : R} (hx : x.Holds t) (mode : Rounding) {h : Nat} (hh : h < 2 ^ 16) (s : Bool) :
    let y := t * (2 : R) ^ x.k * 2 ^ (27 - x.exp)
    ((x.significand mode h s).1 : Int) = roundTo mode h s y ∧ ((x.significand mode h s).2 = true ↔ (⌊y⌋ : R) ≠ y) := by
  intro y
  have hlong (hm : x.more = true) : 43 ≤ x.n.log2 := (Nat.le_log2 hx.ne_zero).2 (hx.long hm)
  by_cases hl : x.n.log2 ≤ 27
  · have hmore : ¬ x.more = true := fun hm => absurd ((hlong hm).trans hl) (by decide)
    have hy : y = ((x.n * 2 ^ (27 - x.n.log2) : Nat) : Int) := by
      have ht : t = x.n := not_not.1 fun h => hmore (hx.more.2 h)
      rw [show y = t * 2 ^ (27 - x.n.log2) from mul_zpow_scale_up hl x.k t, ht]; push_cast; rfl
    rw [Mag.significand, if_pos hl, hy, roundTo_intCast mode hh, Int.floor_intCast]
    exact ⟨rfl, iff_of_false hmore (not_not.2 rfl)⟩
  · have hlt := not_le.1 hl
    have hy : y = t / 2 ^ (x.n.log2 - 27) := mul_zpow_scale_down hlt.le x.k t
    rw [Mag.significand, if_neg hl, hy]
    exact ⟨roundDrop_fst hx.floor hx.more mode h s (Nat.sub_pos_of_lt hlt) fun hm => Nat.le_sub_of_add_le (hlong hm), dropped_iff hx.floor hx.more⟩

/-- R70, R72, R73: `roundW` rounds the number that its magnitude stands for. -/
theorem Mag.Holds.roundW {x : Mag} {t : R} (hx : x.Holds t) (mode : Rounding) {h : Nat} (hh : h < 2 ^ 16) (s : Bool) :
    roundW mode h s x = rounded mode h s (t * (2 : R) ^ x.k) := by
  obtain ⟨hn, hnx⟩ := hx.significand mode hh s
  rw [roundW_eq, rounded_eq, hx.log, hn, if_congr (roundTo_eq_self_iff mode hh s _) rfl rfl, if_congr hnx rfl rfl, ite_not]

/-- R70, R73: a finite value that is not zero is rounded exactly. -/
theorem roundFin_eq_rounded (mode : Rounding) {h : Nat} (hh : h < 2 ^ 16) (s zs : Bool) {m : Nat} (k : Int) (hm : m ≠ 0) :
    roundFin mode h s m k zs = rounded mode h s ((m : R) * (2 : R) ^ k) := by
  rw [roundFin, if_neg hm, (Mag.holds_exact (R := R) k hm).roundW mode hh s]

/-- R70: the nonzero number whose magnitude is the one that `x` stands for. -/
theorem Mag.Holds.roundedTo {x : Mag} {t r : R} (hx : x.Holds t) (mode : Rounding) {h : Nat} (hh : h < 2 ^ 16) {s : Bool} (hs : decide (r < 0) = s) (hr : |r| = t * (2 : R) ^ x.k) :
    Machine.roundW mode h s x = Claims.roundedTo mode h r := by
  rw [hx.roundW mode hh, Claims.roundedTo, hr, hs]

/-! ### Beyond the exponents of a word (R72, R73) -/

/-- R72: all magnitudes from 2^1024 on overflow to the same word. -/
theorem rounded_of_large {x y : R} (hx : (2 : R) ^ (1024 : Int) ≤ x) (hy : (2 : R) ^ (1024 : Int) ≤ y) (mode : Rounding) (h : Nat) (s : Bool) :
    rounded mode h s x = rounded mode h s y := by
  have hlog {z : R} (hz : (2 : R) ^ (1024 : Int) ≤ z) : 1024 ≤ Int.log 2 z :=
    (Int.zpow_le_iff_le_log one_lt_two (lt_of_lt_of_le (zpow_pos two_pos _) hz)).1 (by rwa [Nat.cast_ofNat])
  rw [rounded_eq, rounded_eq]
  exact wordW_of_large mode s _ _ _ _ (hlog hx) (hlog hy)

/-- R73: all magnitudes below 2^−1024 underflow to the same word. -/
theorem rounded_of_small {x y : R} (hx0 : 0 < x) (hy0 : 0 < y) (hx : x < (2 : R) ^ (-1024 : Int)) (hy : y < (2 : R) ^ (-1024 : Int)) (mode : Rounding) (h : Nat) (s : Bool) :
    rounded mode h s x = rounded mode h s y := by
  have hlog {z : R} (hz0 : 0 < z) (hz : z < (2 : R) ^ (-1024 : Int)) : Int.log 2 z < -1024 := (Int.lt_zpow_iff_log_lt one_lt_two hz0).1 (by rwa [Nat.cast_ofNat])
  rw [rounded_eq, rounded_eq]
  exact wordW_of_small mode s _ _ _ _ (hlog hx0 hx) (hlog hy0 hy)

end Sys2Proof.Machine
end

section
/-! SUPPORT. Normalised words (R67, O52): the words with a name, the rounding, and then every operation, whatever it reads. -/
namespace Sys2Proof.Machine
open Sys2Proof.Claims

/-! ### Words -/

/-- R65: the one exponent pattern that is not a number's. -/
theorem sext_eq_iff : ∀ e < 2 ^ 11, (sext e 11 = -1024 ↔ e = 1024) := by decide +kernel

theorem sext_bounds : ∀ e < 2 ^ 11, -1024 ≤ sext e 11 ∧ sext e 11 ≤ 1023 := by decide +kernel

/-- R67: a word of its three fields is normalised when its significand is, for its exponent. -/
theorem normalised_fields {w : Nat} (s : Bool) (e n : Nat) (hw : w = b2n s * 2 ^ 39 + e * 2 ^ 28 + n) (he : e < 2 ^ 11) (hn : n < 2 ^ 28) (h : if e = 1024 then n ≤ 3 else 2 ^ 27 ≤ n) :
    normalised w := by
  have hs : b2n s ≤ 1 := by cases s <;> decide
  have hw' : w = 2 ^ 28 * (2 ^ 11 * b2n s + e) + n := by rw [hw]; ring
  have hq : w / 2 ^ 28 = 2 ^ 11 * b2n s + e := by rw [hw', Nat.mul_add_div (Nat.two_pow_pos 28), Nat.div_eq_of_lt hn, Nat.add_zero]
  have he' : bits w 38 28 = e := by rw [bits, hq]; exact (Nat.mul_add_mod _ _ _).trans (Nat.mod_eq_of_lt he)
  have hn' : bits w 27 0 = n := by rw [bits, Nat.pow_zero, Nat.div_one, hw']; exact (Nat.mul_add_mod _ _ _).trans (Nat.mod_eq_of_lt hn)
  have hb : 2 ^ 27 ≤ n → bit w 27 = true := fun hlo => by
    obtain ⟨r, hr⟩ := Nat.exists_eq_add_of_le hlo
    have hw'' : w = 2 ^ 27 * (2 * (2 ^ 11 * b2n s + e) + 1) + r := by rw [hw', hr]; ring
    have h1 : w / 2 ^ 27 = 2 * (2 ^ 11 * b2n s + e) + 1 := by
      rw [hw'', Nat.mul_add_div (Nat.two_pow_pos 27), Nat.div_eq_of_lt (Nat.lt_of_add_lt_add_left (hr ▸ hn : 2 ^ 27 + r < 2 ^ 27 + 2 ^ 27)), Nat.add_zero]
    rw [bit, h1, Nat.mul_add_mod]; rfl
  have hX : 2 ^ 11 * b2n s + e < 2 ^ 12 := add_lt_add_of_le_of_lt (Nat.mul_le_mul_left (2 ^ 11) hs) he
  refine ⟨((Nat.div_lt_iff_lt_mul (Nat.two_pow_pos 28)).1 (hq ▸ hX)).trans_le (by decide), ?_⟩
  rw [he', hn']
  by_cases h1024 : e = 1024
  · rw [if_pos h1024] at h
    rwa [if_pos ((sext_eq_iff e he).2 h1024)]
  · rw [if_neg h1024] at h
    rw [if_neg (mt (sext_eq_iff e he).1 h1024)]
    exact hb h

theorem normalised_wZero (s : Bool) : normalised (wZero s) := normalised_fields s 1024 0 rfl (by decide) (by decide) (by decide)
theorem normalised_wInf (s : Bool) : normalised (wInf s) := normalised_fields s 1024 1 rfl (by decide) (by decide) (by decide)
theorem normalised_wNaN : normalised wNaN := normalised_fields false 1024 2 rfl (by decide) (by decide) (by decide)
theorem normalised_wMax (s : Bool) : normalised (wMax s) := normalised_fields s 1023 (2 ^ 28 - 1) (by cases s <;> rfl) (by decide) (by decide) (by decide)
theorem normalised_wMin (s : Bool) : normalised (wMin s) := normalised_fields s 1025 (2 ^ 27) (by cases s <;> rfl) (by decide) (by decide) (by decide)
theorem normalised_wOne : normalised wOne := normalised_fields false 0 (2 ^ 27) rfl (by decide) (by decide) (by decide)

theorem normalised_normNaN (s : Bool) (m : Nat) : normalised (normNaN s m) := by
  have h (v : Nat) (hv : v = 2 ∨ v = 3) : normalised (b2n s * 2 ^ 39 + 0x4000000000 + v) :=
    normalised_fields s 1024 v rfl (by decide) (by omega) (by rw [if_pos rfl]; omega)
  unfold normNaN
  split_ifs with hm
  · exact h m (by simpa using hm)
  · exact h 2 (.inl rfl)

/-! ### Rounding -/

/-- R70: every mode gives the kept bits or one more. -/
theorem roundDrop_mem (mode : Rounding) {h : Nat} (hh : h < 2 ^ 16) (s : Bool) (n d : Nat) (more : Bool) :
    n / 2 ^ d ≤ (roundDrop mode h s n d more).1 ∧ (roundDrop mode h s n d more).1 ≤ n / 2 ^ d + 1 := by
  have hb (b : Bool) : b2n b ≤ 1 := by cases b <;> decide
  cases mode with
  | rne =>
    simp only [roundDrop]
    split_ifs
    exacts [⟨Nat.le_succ _, le_rfl⟩, ⟨le_rfl, Nat.le_succ _⟩]
  | rtz => exact ⟨le_rfl, Nat.le_succ _⟩
  | rup => simp only [roundDrop]; split_ifs <;> simp [hb]
  | rdn => simp only [roundDrop]; split_ifs <;> simp [hb]
  | rsr =>
    have hle := Nat.div_mul_le_self n (2 ^ d)
    have hlt := Nat.lt_div_mul_add (a := n) (Nat.two_pow_pos d)
    have hoff : h * 2 ^ d ≤ 2 ^ 16 * 2 ^ d := Nat.mul_le_mul_right _ hh.le
    simp only [roundDrop, pow_add]
    refine ⟨(Nat.le_div_iff_mul_le (by positivity)).2 ?_, Nat.lt_succ_iff.1 ((Nat.div_lt_iff_lt_mul (by positivity)).2 ?_)⟩
    · rw [← mul_assoc]; omega
    · rw [← mul_assoc, Nat.succ_mul, Nat.succ_mul]; omega

/-- R70: the significand has 28 bits, or is 2^28. -/
theorem significand_bounds (mode : Rounding) {h : Nat} (hh : h < 2 ^ 16) (s : Bool) {x : Mag} (hx : x.n ≠ 0) :
    2 ^ 27 ≤ (x.significand mode h s).1 ∧ (x.significand mode h s).1 ≤ 2 ^ 28 := by
  obtain ⟨hlo, hhi⟩ := natLog2_bounds hx
  unfold Mag.significand
  generalize x.n.log2 = l at *
  split_ifs with hl
  · have h27 : 2 ^ l * 2 ^ (27 - l) = 2 ^ 27 := by rw [← Nat.pow_add, Nat.add_sub_cancel' hl]
    have h28 : 2 ^ (l + 1) * 2 ^ (27 - l) = 2 ^ 28 := by rw [pow_succ, mul_right_comm, h27, ← pow_succ]
    exact ⟨h27 ▸ Nat.mul_le_mul_right _ hlo, h28 ▸ Nat.mul_le_mul_right _ (Nat.le_of_succ_le hhi)⟩
  · have h27 : 2 ^ 27 * 2 ^ (l - 27) = 2 ^ l := by rw [← pow_add, Nat.add_sub_cancel' (by omega)]
    have h28 : 2 ^ 28 * 2 ^ (l - 27) = 2 ^ (l + 1) := by rw [pow_succ 2 l, ← h27]; ring
    have hdiv : 2 ^ 27 ≤ x.n / 2 ^ (l - 27) := (Nat.le_div_iff_mul_le (by positivity)).2 (h27 ▸ hlo)
    have hdiv' : x.n / 2 ^ (l - 27) < 2 ^ 28 := (Nat.div_lt_iff_lt_mul (by positivity)).2 (h28 ▸ hhi)
    have := roundDrop_mem mode hh s x.n (l - 27) x.more
    omega

theorem normalised_overflowWord (mode : Rounding) (s : Bool) : normalised (overflowWord mode s) := by
  have hmax := normalised_wMax s
  have hinf := normalised_wInf s
  cases mode <;> cases s <;> assumption

theorem normalised_underflowWord (mode : Rounding) (s : Bool) : normalised (underflowWord mode s) := by
  have hzero := normalised_wZero s
  have hmin := normalised_wMin s
  cases mode <;> cases s <;> assumption

/-- R67, R72, R73: the word of a significand of 28 bits, or of 2^28. -/
theorem normalised_wordW (mode : Rounding) (s : Bool) (E : Int) {n : Nat} (fl : Nat) (hlo : 2 ^ 27 ≤ n) (hhi : n ≤ 2 ^ 28) : normalised (wordW mode s E n fl).val := by
  have hsig : 2 ^ 27 ≤ (if (n : Int) = 2 ^ 28 then 2 ^ 27 else (n : Int)).toNat ∧ (if (n : Int) = 2 ^ 28 then 2 ^ 27 else (n : Int)).toNat < 2 ^ 28 := by split_ifs <;> omega
  unfold wordW
  generalize (if (n : Int) = 2 ^ 28 then E + 1 else E) = e
  generalize (if (n : Int) = 2 ^ 28 then 2 ^ 27 else (n : Int)) = m at hsig
  dsimp only
  by_cases hov : 1023 < e
  · rw [if_pos hov]
    exact normalised_overflowWord mode s
  by_cases hun : e < -1023
  · rw [if_neg hov, if_pos hun]
    exact normalised_underflowWord mode s
  · rw [if_neg hov, if_neg hun]
    have he : (e % 2 ^ 11).toNat < 2 ^ 11 ∧ (e % 2 ^ 11).toNat ≠ 1024 := by omega
    exact normalised_fields s _ _ rfl he.1 hsig.2 (by rw [if_neg he.2]; exact hsig.1)

theorem normalised_roundW (mode : Rounding) {h : Nat} (hh : h < 2 ^ 16) (s : Bool) {x : Mag} (hx : x.n ≠ 0) : normalised (roundW mode h s x).val := by
  obtain ⟨hlo, hhi⟩ := significand_bounds mode hh s hx
  rw [roundW_eq]
  exact normalised_wordW mode s x.exp _ hlo hhi

theorem normalised_roundFin (mode : Rounding) {h : Nat} (hh : h < 2 ^ 16) (s : Bool) (m : Nat) (k : Int) (zs : Bool) : normalised (roundFin mode h s m k zs).val := by
  unfold roundFin
  split_ifs with hm
  · exact normalised_wZero zs
  · exact normalised_roundW mode hh s hm

/-! ### Integer square roots -/

theorem isqrtFrom_eq_sqrt (x n acc : Nat) (hlo : acc * acc ≤ x) (hhi : x < (acc + 2 ^ n) * (acc + 2 ^ n)) : isqrtFrom x n acc = Nat.sqrt x := by
  induction n generalizing acc with
  | zero => exact Nat.eq_sqrt.2 ⟨hlo, hhi⟩
  | succ n ih =>
    have hp : acc + 2 ^ n + 2 ^ n = acc + 2 ^ (n + 1) := by omega
    unfold isqrtFrom
    split_ifs with h
    · exact ih _ h (by rwa [hp])
    · exact ih _ hlo (by omega)

theorem isqrt_eq_sqrt {n x : Nat} (hx : x < 4 ^ n) : isqrt n x = Nat.sqrt x :=
  isqrtFrom_eq_sqrt x n 0 (Nat.zero_le x) (by rwa [Nat.zero_add, ← Nat.mul_pow])

/-! ### What a word reads as (R66) -/

theorem readW_fin_bounds {x : Nat} {s : Bool} {m : Nat} {k : Int} (h : readW x = .fin s m k) : m < 2 ^ 28 ∧ -1050 ≤ k ∧ k ≤ 996 := by
  have hm : bits x 27 0 < 2 ^ 28 := Nat.mod_lt _ (Nat.two_pow_pos 28)
  have he := sext_bounds (bits x 38 28) (Nat.mod_lt _ (Nat.two_pow_pos 11))
  unfold readW at h
  dsimp only at h
  split_ifs at h <;> cases h <;> omega

/-! ### The cases of FEXP2 -/

/-- The exponent of FEXP2 at scale 2^160, as `exp2Real` forms it. -/
def exp2Exponent (s : Bool) (m : Nat) (k : Int) : Int :=
  if 0 ≤ k then scaled s m k 0 * 2 ^ 160 else
    let u : Int := (m * 2 ^ (160 + k).toNat : Nat)
    if s then -u else u

section Exp2Cases
variable (mode : Rounding) (h : Nat) {x : Nat} {s : Bool} {m : Nat} {k : Int} (hw : readW x = .fin s m k)
include hw

theorem exp2Real_of_zero (hm : m = 0) : exp2Real mode h x = { val := wOne } := by
  rw [exp2Real, hw]
  exact if_pos hm

theorem exp2Real_of_big (hm : m ≠ 0) (hbig : ({ n := m, k := k } : Mag).exp ≥ 12) :
    exp2Real mode h x = roundW mode h false { n := 1, k := if s then -5000 else 5000 } := by
  rw [exp2Real, hw]
  exact (if_neg hm).trans (if_pos hbig)

theorem exp2Real_of_small (hm : m ≠ 0) (hsmall : ({ n := m, k := k } : Mag).exp < -60) :
    exp2Real mode h x = if s then roundW mode h false { n := 2 ^ 61 - 1, k := -61, more := true } else roundW mode h false { n := 2 ^ 60, k := -60, more := true } := by
  have hbig : ¬ ({ n := m, k := k } : Mag).exp ≥ 12 := by omega
  rw [exp2Real, hw]
  exact (if_neg hm).trans ((if_neg hbig).trans (if_pos hsmall))

theorem exp2Real_of_mid (hm : m ≠ 0) (hbig : ¬ ({ n := m, k := k } : Mag).exp ≥ 12) (hsmall : ¬ ({ n := m, k := k } : Mag).exp < -60) :
    exp2Real mode h x =
      if (exp2Exponent s m k % 2 ^ 160).toNat = 0 then roundW mode h false { n := 1, k := exp2Exponent s m k / 2 ^ 160 }
      else roundIrrational mode h false (exp2Fix (exp2Exponent s m k % 2 ^ 160).toNat) (2 ^ 12) (exp2Exponent s m k / 2 ^ 160 - 160)
        (exp2Below (scaled s m 0 0) (-k).toNat) := by
  rw [exp2Real, hw]
  exact (if_neg hm).trans ((if_neg hbig).trans (if_neg hsmall))

end Exp2Cases

/-! ### Operations -/

theorem normalised_invalid : normalised invalid.val := normalised_wNaN

theorem normalised_ite {p : Prop} [Decidable p] {f g : Flagged} (hf : normalised f.val) (hg : normalised g.val) : normalised (if p then f else g).val := by
  split_ifs <;> assumption

section Operations
variable (mode : Rounding) {h : Nat} (hh : h < 2 ^ 16) (a b c : Real40)
include hh

theorem normalised_sumFin (s₁ : Bool) (m₁ : Nat) (k₁ : Int) (s₂ : Bool) (m₂ : Nat) (k₂ : Int) : normalised (sumFin mode h s₁ m₁ k₁ s₂ m₂ k₂).val :=
  normalised_ite (normalised_wZero _) (normalised_ite (normalised_roundFin mode hh ..) (normalised_ite (normalised_roundFin mode hh ..) (normalised_roundFin mode hh ..)))

theorem normalised_addReal : normalised (addReal mode h a b).val := by
  cases a with
  | nan s m => exact normalised_normNaN s m
  | inf s =>
    cases b with
    | nan t n => exact normalised_normNaN t n
    | inf t => exact normalised_ite (normalised_wInf s) normalised_invalid
    | fin => exact normalised_wInf s
  | fin =>
    cases b with
    | nan t n => exact normalised_normNaN t n
    | inf t => exact normalised_wInf t
    | fin => exact normalised_sumFin mode hh ..

theorem normalised_mulReal : normalised (mulReal mode h a b).val := by
  cases a with
  | nan s m => exact normalised_normNaN s m
  | inf s =>
    cases b with
    | nan t n => exact normalised_normNaN t n
    | inf => exact normalised_wInf _
    | fin => exact normalised_ite normalised_invalid (normalised_wInf _)
  | fin =>
    cases b with
    | nan t n => exact normalised_normNaN t n
    | inf => exact normalised_ite normalised_invalid (normalised_wInf _)
    | fin => exact normalised_roundFin mode hh ..

theorem normalised_fmaReal (sub : Bool) : normalised (fmaReal mode h sub a b c).val := by
  cases a with
  | nan s m => exact normalised_normNaN s m
  | inf =>
    cases b with
    | nan t n => exact normalised_normNaN t n
    | inf =>
      cases c with
      | nan r l => exact normalised_normNaN r l
      | inf r => exact normalised_ite (normalised_wInf r) normalised_invalid
      | fin => exact normalised_wInf _
    | fin =>
      cases c with
      | nan r l => exact normalised_ite normalised_invalid (normalised_normNaN r l)
      | inf r => exact normalised_ite normalised_invalid (normalised_ite (normalised_wInf r) normalised_invalid)
      | fin => exact normalised_ite normalised_invalid (normalised_wInf _)
  | fin =>
    cases b with
    | nan t n => exact normalised_normNaN t n
    | inf =>
      cases c with
      | nan r l => exact normalised_ite normalised_invalid (normalised_normNaN r l)
      | inf r => exact normalised_ite normalised_invalid (normalised_ite (normalised_wInf r) normalised_invalid)
      | fin => exact normalised_ite normalised_invalid (normalised_wInf _)
    | fin =>
      cases c with
      | nan r l => exact normalised_normNaN r l
      | inf r => exact normalised_wInf r
      | fin => exact normalised_sumFin mode hh ..

theorem normalised_scaleReal (n : Int) : normalised (scaleReal mode h a n).val := by
  cases a with
  | fin s m k => exact normalised_roundFin mode hh ..
  | inf s => exact normalised_wInf s
  | nan s m => exact normalised_normNaN s m

theorem normalised_setExp (n : Int) : normalised (setExp mode h a n).val := by
  cases a with
  | fin s m k =>
    rw [setExp]
    split_ifs with hm
    · exact normalised_wZero s
    · exact normalised_roundW mode hh s (Nat.mul_ne_zero hm (Nat.two_pow_pos _).ne')
  | inf s => exact normalised_wInf s
  | nan s m => exact normalised_normNaN s m

end Operations

theorem normalised_rndReal (mode : Rounding) (h : Nat) (a : Real40) : normalised (rndReal mode h a).val := by
  cases a with
  | fin s m k => exact normalised_ite (normalised_wZero s) (normalised_roundFin .rne (Nat.two_pow_pos 16) ..)
  | inf s => exact normalised_wInf s
  | nan s m => exact normalised_normNaN s m

theorem normalised_normReal (a : Real40) : normalised (normReal a).val := by
  cases a with
  | fin s m k => exact normalised_roundFin .rne (Nat.two_pow_pos 16) ..
  | inf s => exact normalised_wInf s
  | nan s m => exact normalised_normNaN s m

theorem normalised_normQuiet (a : Real40) : normalised (normQuiet a) := by
  cases a with
  | fin s m k => exact normalised_roundFin .rtz (Nat.two_pow_pos 16) ..
  | inf s => exact normalised_wInf s
  | nan s m => exact normalised_normNaN s m

theorem normalised_minmaxReal (mx : Bool) (a b : Real40) : normalised (minmaxReal mx a b) := by
  have ha := normalised_normQuiet a
  have hb := normalised_normQuiet b
  unfold minmaxReal
  dsimp only
  split_ifs <;> assumption

theorem normalised_absReal (a : Real40) : normalised (absReal a) := by
  cases a with
  | fin s m k => exact normalised_normQuiet (.fin false m k)
  | inf s => exact normalised_wInf false
  | nan s m => exact normalised_normNaN false m

theorem normalised_negReal (a : Real40) : normalised (negReal a) := by
  cases a with
  | fin s m k => exact normalised_normQuiet (.fin (!s) m k)
  | inf s => exact normalised_wInf _
  | nan s m => exact normalised_normNaN _ m

theorem normalised_ltofReal (f : LFmt) (x : Nat) : normalised (ltofReal f x) := by
  unfold ltofReal
  split
  · exact normalised_wNaN
  · exact normalised_roundFin .rne (Nat.two_pow_pos 16) ..
  · exact normalised_wInf _

/-- R78: the exponents of the normal values of binary32. -/
theorem wrap_binary32_exponent : ∀ b : Nat, b < 2 ^ 8 → wrap ((b : Int) - 127) 11 < 2 ^ 11 ∧ wrap ((b : Int) - 127) 11 ≠ 1024 := by decide +kernel

theorem normalised_ofBinary32 (x : Nat) : normalised (ofBinary32 x) := by
  have he := wrap_binary32_exponent (bits x 30 23) (Nat.mod_lt _ (Nat.two_pow_pos 8))
  have hf : bits x 22 0 < 2 ^ 23 := Nat.mod_lt _ (Nat.two_pow_pos 23)
  unfold ofBinary32
  dsimp only
  split_ifs with h255 hf0 h0
  · exact normalised_wInf _
  · exact normalised_normNaN _ 2
  · exact normalised_roundFin .rne (Nat.two_pow_pos 16) ..
  · exact normalised_fields _ _ _ rfl he.1 (by omega) (by rw [if_neg he.2]; exact Nat.le_add_right _ _)

/-! ### Quotients, roots, powers and logarithms of words -/

/-- A quotient by a significand is not zero. -/
theorem quotMag_ne_zero {m₁ m₂ : Nat} (k₁ k₂ : Int) (h₁ : m₁ ≠ 0) (h₂ : m₂ ≠ 0) (hm : m₂ < 2 ^ 28) : (quotMag m₁ k₁ m₂ k₂).n ≠ 0 :=
  (Nat.div_pos (hm.le.trans ((by decide : 2 ^ 28 ≤ 2 ^ 92).trans (Nat.le_mul_of_pos_left _ (Nat.pos_of_ne_zero h₁)))) (Nat.pos_of_ne_zero h₂)).ne'

/-- Making the exponent even adds at most one bit. -/
theorem two_pow_odd (k : Int) : 0 < 2 ^ (k % 2).toNat ∧ 2 ^ (k % 2).toNat ≤ 2 := by
  obtain h | h := Int.emod_two_eq_zero_or_one k <;> rw [h] <;> decide

theorem sqrtMag_n {m : Nat} (k : Int) (hm : m < 2 ^ 28) : (sqrtMag m k).n = Nat.sqrt (m * 2 ^ (k % 2).toNat * 2 ^ 100) := by
  have h := two_pow_odd k
  have hlt : m * 2 ^ (k % 2).toNat * 2 ^ 100 < 4 ^ 70 := by
    exact lt_of_le_of_lt (Nat.mul_le_mul_right _ (Nat.mul_le_mul hm.le h.2)) (by decide)
  rw [sqrtMag, isqrt_eq_sqrt hlt]

theorem rsqrtMag_n (m : Nat) (k : Int) : (rsqrtMag m k).n = Nat.sqrt (2 ^ 136 / (m * 2 ^ (k % 2).toNat)) :=
  isqrt_eq_sqrt (lt_of_le_of_lt (Nat.div_le_self _ _) (by norm_num))

theorem sqrtMag_long {m : Nat} (k : Int) (h0 : m ≠ 0) (hm : m < 2 ^ 28) : 2 ^ 50 ≤ (sqrtMag m k).n := by
  rw [sqrtMag_n k hm, Nat.le_sqrt, ← Nat.pow_add]
  exact Nat.le_mul_of_pos_left _ (Nat.mul_pos (Nat.pos_of_ne_zero h0) (two_pow_odd k).1)

theorem rsqrtMag_long {m : Nat} (k : Int) (h0 : m ≠ 0) (hm : m < 2 ^ 28) : 2 ^ 50 ≤ (rsqrtMag m k).n := by
  obtain ⟨h1, h2⟩ := two_pow_odd k
  rw [rsqrtMag_n, Nat.le_sqrt, Nat.le_div_iff_mul_le (Nat.mul_pos (Nat.pos_of_ne_zero h0) h1)]
  exact (Nat.mul_le_mul_left _ (Nat.mul_le_mul hm.le h2)).trans (by decide)

theorem ne_zero_of_long {n : Nat} (h : 2 ^ 50 ≤ n) : n ≠ 0 := (lt_of_lt_of_le (Nat.two_pow_pos 50) h).ne'

section WordOperations
variable (mode : Rounding) {h : Nat} (hh : h < 2 ^ 16) (x y : Nat)
include hh

theorem normalised_divReal : normalised (divReal mode h (readW x) (readW y)).val := by
  cases readW x with
  | nan s m => exact normalised_normNaN s m
  | inf =>
    cases readW y with
    | nan t n => exact normalised_normNaN t n
    | inf => exact normalised_invalid
    | fin => exact normalised_wInf _
  | fin s₁ m₁ k₁ =>
    cases hy : readW y with
    | nan t n => exact normalised_normNaN t n
    | inf => exact normalised_wZero _
    | fin s₂ m₂ k₂ =>
      simp only [divReal, firstNaN]
      split_ifs with h0 h2 h1
      · exact normalised_invalid
      · exact normalised_wInf _
      · exact normalised_wZero _
      · exact normalised_roundW mode hh _ (quotMag_ne_zero k₁ k₂ h1 h2 (readW_fin_bounds hy).1)

theorem normalised_rcpReal : normalised (rcpReal mode h (readW x)).val := by
  cases hx : readW x with
  | nan s m => exact normalised_normNaN s m
  | inf s => exact normalised_wZero s
  | fin s m k =>
    rw [rcpReal]
    split_ifs with h0
    · exact normalised_wInf s
    · exact normalised_roundW mode hh s (quotMag_ne_zero 0 k one_ne_zero h0 (readW_fin_bounds hx).1)

theorem normalised_sqrtReal : normalised (sqrtReal mode h (readW x)).val := by
  cases hx : readW x with
  | nan s m => exact normalised_normNaN s m
  | inf s => exact normalised_ite normalised_invalid (normalised_wInf false)
  | fin s m k =>
    rw [sqrtReal]
    split_ifs with h0
    · exact normalised_wZero s
    · exact normalised_invalid
    · exact normalised_roundW mode hh false (ne_zero_of_long (sqrtMag_long k h0 (readW_fin_bounds hx).1))

theorem normalised_rsqReal : normalised (rsqReal mode h (readW x)).val := by
  cases hx : readW x with
  | nan s m => exact normalised_normNaN s m
  | inf s => exact normalised_ite normalised_invalid (normalised_wZero false)
  | fin s m k =>
    rw [rsqReal]
    split_ifs with h0
    · exact normalised_wInf s
    · exact normalised_invalid
    · exact normalised_roundW mode hh false (ne_zero_of_long (rsqrtMag_long k h0 (readW_fin_bounds hx).1))

theorem normalised_roundIrrational (s : Bool) (n w : Nat) (k : Int) (below : Nat → Int → Bool) : normalised (roundIrrational mode h s n w k below).val :=
  normalised_roundW mode hh s (Nat.pos_iff_ne_zero.1 (lt_of_lt_of_le Nat.one_pos (Nat.le_max_left 1 _)))

theorem normalised_exp2Real : normalised (exp2Real mode h x).val := by
  cases hx : readW x with
  | nan s m => rw [exp2Real, hx]; exact normalised_normNaN s m
  | inf s =>
    rw [exp2Real, hx]
    exact normalised_ite (f := { val := wZero false }) (g := { val := wInf false }) (normalised_wZero false) (normalised_wInf false)
  | fin s m k =>
    rw [exp2Real, hx]
    exact normalised_ite normalised_wOne (normalised_ite (normalised_roundW mode hh false one_ne_zero)
      (normalised_ite (normalised_ite (normalised_roundW mode hh false (by decide)) (normalised_roundW mode hh false (by decide)))
        (normalised_ite (normalised_roundW mode hh false one_ne_zero) (normalised_roundIrrational mode hh ..))))

theorem normalised_log2Real : normalised (log2Real mode h x).val := by
  cases hx : readW x with
  | nan s m => rw [log2Real, hx]; exact normalised_normNaN s m
  | inf s =>
    rw [log2Real, hx]
    exact normalised_ite normalised_invalid (normalised_wInf false)
  | fin s m k =>
    rw [log2Real, hx]
    exact normalised_ite (normalised_wInf true) (normalised_ite normalised_invalid
      (normalised_ite (normalised_roundFin mode hh ..) (normalised_roundIrrational mode hh ..)))

end WordOperations

/-- Settles O52: each operation answers a word with a name, a NaN as R67 writes it, or a rounding, and all of these are normalised. -/
theorem floatResultsAreNormalised : Obligations.FloatResultsAreNormalised := by
  unfold Obligations.FloatResultsAreNormalised
  intro mode h x y z sub mx neg zs n k m f hh a b c
  exact ⟨normalised_addReal mode hh a b, normalised_addReal mode hh a b.neg, normalised_mulReal mode hh a b, normalised_fmaReal mode hh a b c sub,
    normalised_divReal mode hh x y, normalised_sqrtReal mode hh x, normalised_rcpReal mode hh x, normalised_rsqReal mode hh x,
    normalised_exp2Real mode hh x, normalised_log2Real mode hh x, normalised_scaleReal mode hh a n, normalised_minmaxReal mx a b, normalised_absReal a, normalised_negReal a,
    normalised_roundFin mode hh .., normalised_rndReal mode h a, normalised_normReal a, normalised_setExp mode hh a n,
    normalised_ltofReal f _, normalised_ofBinary32 _, normalised_roundFin mode hh neg m k zs⟩

end Sys2Proof.Machine
end

section
/-! SUPPORT. Exact values (R66, R70, O51): what a finite value denotes, the operations whose exact result is rational, and roots. -/
namespace Sys2Proof.Machine
open Sys2Proof.Claims

/-- R66: the number of a sign, a significand and an exponent. -/
def finVal (s : Bool) (m : Nat) (k : Int) : ℚ := (if s then -1 else 1) * (m : ℚ) * (2 : ℚ) ^ k

theorem valueOf_fin (s : Bool) (m : Nat) (k : Int) : valueOf (.fin s m k) = some (finVal s m k) := rfl

theorem eq_fin_of_valueOf {a : Real40} {u : ℚ} (h : valueOf a = some u) : ∃ s m k, a = .fin s m k ∧ u = finVal s m k := by
  cases a with
  | fin s m k => exact ⟨s, m, k, rfl, (Option.some.inj h).symm⟩
  | inf | nan => cases h

theorem finVal_not (s : Bool) (m : Nat) (k : Int) : finVal (!s) m k = -finVal s m k := by
  cases s <;> simp [finVal]

theorem finVal_mul (s t : Bool) (m n : Nat) (k l : Int) : finVal (s != t) (m * n) (k + l) = finVal s m k * finVal t n l := by
  have hsign : (if (s != t) = true then (-1 : ℚ) else 1) = (if s then -1 else 1) * (if t then -1 else 1) := by cases s <;> cases t <;> decide +kernel
  simp only [finVal]
  rw [hsign, Nat.cast_mul, zpow_add₀ two_ne_zero, mul_mul_mul_comm _ _ (m : ℚ), mul_mul_mul_comm _ _ ((2 : ℚ) ^ k)]

theorem finVal_add_exp (s : Bool) (m : Nat) (k n : Int) : finVal s m (k + n) = finVal s m k * (2 : ℚ) ^ n := by
  simp only [finVal, zpow_add₀ (two_ne_zero : (2 : ℚ) ≠ 0), mul_assoc]

theorem abs_finVal (s : Bool) (m : Nat) (k : Int) : |finVal s m k| = (m : ℚ) * (2 : ℚ) ^ k := by
  have : (0 : ℚ) ≤ (m : ℚ) * (2 : ℚ) ^ k := by positivity
  cases s <;> simp [finVal, abs_of_nonneg this]

theorem finVal_ne_zero_iff {s : Bool} {m : Nat} {k : Int} : finVal s m k ≠ 0 ↔ m ≠ 0 := by
  rw [← abs_ne_zero, abs_finVal, mul_ne_zero_iff, Nat.cast_ne_zero, and_iff_left (zpow_ne_zero k two_ne_zero)]

theorem finVal_neg_iff {s : Bool} {m : Nat} {k : Int} (hm : m ≠ 0) : decide (finVal s m k < 0) = s := by
  have : (0 : ℚ) < (m : ℚ) * (2 : ℚ) ^ k := by positivity
  rw [finVal, mul_assoc]
  cases s with
  | true =>
    rw [if_pos rfl, neg_one_mul]
    exact decide_eq_true (neg_lt_zero.2 this)
  | false =>
    rw [if_neg Bool.false_ne_true, one_mul]
    exact decide_eq_false (not_lt.2 this.le)

theorem finVal_of_int (v : Int) (k : Int) : finVal (decide (v < 0)) v.natAbs k = (v : ℚ) * (2 : ℚ) ^ k := by
  rcases lt_or_ge v 0 with hv | hv
  · rw [finVal, decide_eq_true hv, if_pos rfl, Nat.cast_natAbs, abs_of_neg hv]; push_cast; ring
  · rw [finVal, decide_eq_false (not_lt.2 hv), if_neg Bool.false_ne_true, Nat.cast_natAbs, abs_of_nonneg hv, one_mul]

/-- A finite value as an integer at a scale below its own. -/
theorem scaled_mul_zpow (s : Bool) (m : Nat) {k k' : Int} (hk : k' ≤ k) : (scaled s m k k' : ℚ) * (2 : ℚ) ^ k' = finVal s m k := by
  have hp : (2 : ℚ) ^ k = 2 ^ (k - k').toNat * 2 ^ k' := by
    rw [← zpow_natCast, ← zpow_add₀ two_ne_zero, Int.toNat_of_nonneg (by omega), sub_add_cancel]
  have hv : (scaled s m k k' : ℚ) = (if s then -1 else 1) * (m * 2 ^ (k - k').toNat) := by
    rw [← Nat.cast_two, ← Nat.cast_pow, ← Nat.cast_mul, ← Int.cast_natCast (R := ℚ) (_ * _), scaled]
    cases s with
    | true => rw [if_pos rfl, if_pos rfl, neg_one_mul, Int.cast_neg]
    | false => rw [if_neg Bool.false_ne_true, if_neg Bool.false_ne_true, one_mul]
  rw [finVal, hp, hv, mul_assoc, mul_assoc, mul_assoc]

section Exact
variable (mode : Rounding) {h : Nat} (hh : h < 2 ^ 16)
include hh

/-- R70: a finite value is rounded as the number that it denotes. -/
theorem roundFin_eq_roundedTo {s : Bool} (zs : Bool) {m : Nat} {k : Int} (hne : finVal s m k ≠ 0) : roundFin mode h s m k zs = roundedTo mode h (finVal s m k) := by
  have hm := finVal_ne_zero_iff.1 hne
  rw [roundFin_eq_rounded (R := ℚ) mode hh s zs k hm, roundedTo, abs_finVal, finVal_neg_iff hm]

/-- R70, R73: a sum that is not zero is rounded once. -/
theorem sumFin_eq_roundedTo {s₁ s₂ : Bool} {m₁ m₂ : Nat} {k₁ k₂ : Int} (hne : finVal s₁ m₁ k₁ + finVal s₂ m₂ k₂ ≠ 0) :
    sumFin mode h s₁ m₁ k₁ s₂ m₂ k₂ = roundedTo mode h (finVal s₁ m₁ k₁ + finVal s₂ m₂ k₂) := by
  have hzero (s : Bool) (k : Int) : finVal s 0 k = 0 := not_not.1 fun h => finVal_ne_zero_iff.1 h rfl
  unfold sumFin
  by_cases h1 : m₁ = 0
  · subst h1
    rw [hzero, zero_add] at hne ⊢
    have h2 := finVal_ne_zero_iff.1 hne
    rw [if_neg (by simp [h2]), if_pos rfl, roundFin_eq_roundedTo mode hh _ hne]
  rw [if_neg (by simp [h1]), if_neg h1]
  by_cases h2 : m₂ = 0
  · subst h2
    rw [hzero, add_zero] at hne ⊢
    rw [if_pos rfl, roundFin_eq_roundedTo mode hh _ hne]
  rw [if_neg h2]
  have hsum : finVal (decide (scaled s₁ m₁ k₁ (min k₁ k₂) + scaled s₂ m₂ k₂ (min k₁ k₂) < 0)) (scaled s₁ m₁ k₁ (min k₁ k₂) + scaled s₂ m₂ k₂ (min k₁ k₂)).natAbs (min k₁ k₂)
      = finVal s₁ m₁ k₁ + finVal s₂ m₂ k₂ := by
    rw [finVal_of_int, Int.cast_add, add_mul, scaled_mul_zpow _ _ (min_le_left ..), scaled_mul_zpow _ _ (min_le_right ..)]
  dsimp only
  rw [← hsum] at hne ⊢
  exact roundFin_eq_roundedTo mode hh _ hne

variable {a b c : Real40} {u v w : ℚ} (ha : valueOf a = some u) (hb : valueOf b = some v)
include ha

/-- R102: FSCALE. -/
theorem scaleReal_eq_roundedTo (n : Int) (hne : u ≠ 0) : scaleReal mode h a n = roundedTo mode h (u * (2 : ℚ) ^ n) := by
  obtain ⟨s, m, k, rfl, rfl⟩ := eq_fin_of_valueOf ha
  rw [← finVal_add_exp]
  exact roundFin_eq_roundedTo mode hh s (finVal_ne_zero_iff.2 (finVal_ne_zero_iff.1 hne))

include hb

/-- R102: FADD. -/
theorem addReal_eq_roundedTo (hne : u + v ≠ 0) : addReal mode h a b = roundedTo mode h (u + v) := by
  obtain ⟨s₁, m₁, k₁, rfl, rfl⟩ := eq_fin_of_valueOf ha
  obtain ⟨s₂, m₂, k₂, rfl, rfl⟩ := eq_fin_of_valueOf hb
  exact sumFin_eq_roundedTo mode hh hne

/-- R102: FSUB adds the value with its sign changed. -/
theorem addReal_neg_eq_roundedTo (hne : u - v ≠ 0) : addReal mode h a b.neg = roundedTo mode h (u - v) := by
  obtain ⟨s₂, m₂, k₂, rfl, rfl⟩ := eq_fin_of_valueOf hb
  rw [sub_eq_add_neg, ← finVal_not] at hne ⊢
  exact addReal_eq_roundedTo mode hh ha (valueOf_fin (!s₂) m₂ k₂) hne

/-- R102: FMUL. -/
theorem mulReal_eq_roundedTo (hne : u * v ≠ 0) : mulReal mode h a b = roundedTo mode h (u * v) := by
  obtain ⟨s₁, m₁, k₁, rfl, rfl⟩ := eq_fin_of_valueOf ha
  obtain ⟨s₂, m₂, k₂, rfl, rfl⟩ := eq_fin_of_valueOf hb
  rw [← finVal_mul] at hne ⊢
  exact roundFin_eq_roundedTo mode hh _ hne

/-- R102: FMA and FNMA round once. -/
theorem fmaReal_eq_roundedTo (hc : valueOf c = some w) (sub : Bool) (hne : w + (if sub then -(u * v) else u * v) ≠ 0) :
    fmaReal mode h sub a b c = roundedTo mode h (w + if sub then -(u * v) else u * v) := by
  obtain ⟨s₁, m₁, k₁, rfl, rfl⟩ := eq_fin_of_valueOf ha
  obtain ⟨s₂, m₂, k₂, rfl, rfl⟩ := eq_fin_of_valueOf hb
  obtain ⟨s₃, m₃, k₃, rfl, rfl⟩ := eq_fin_of_valueOf hc
  have hp : (if sub then -(finVal s₁ m₁ k₁ * finVal s₂ m₂ k₂) else finVal s₁ m₁ k₁ * finVal s₂ m₂ k₂) = finVal ((s₁ != s₂) != sub) (m₁ * m₂) (k₁ + k₂) := by
    rw [← finVal_mul]
    cases sub
    · rw [Bool.bne_false]; rfl
    · rw [Bool.bne_true, finVal_not]; rfl
  rw [hp, add_comm] at hne ⊢
  rw [← sumFin_eq_roundedTo mode hh hne]
  simp only [fmaReal, firstNaN, zeroTimesInf, Real40.sign, Bool.false_eq_true, if_false]

end Exact

/-- R105: FCVTS and FCVTZ. -/
theorem ofIntReal_eq_roundedTo (mode : Rounding) {h : Nat} (hh : h < 2 ^ 16) {n : Int} (hn : n ≠ 0) : ofIntReal mode h n = roundedTo mode h (n : ℚ) := by
  have hv : finVal (decide (n < 0)) n.natAbs 0 = n := by rw [finVal_of_int, zpow_zero, mul_one]
  rw [← hv]
  exact roundFin_eq_roundedTo mode hh false (hv ▸ Int.cast_ne_zero.2 hn)

/-! ### Quotients -/

/-- A quotient of naturals rounded down. -/
theorem natDiv_bounds {K : Type} [Field K] [LinearOrder K] [IsStrictOrderedRing K] (a : Nat) {b : Nat} (hb : b ≠ 0) :
    ((a / b : Nat) : K) ≤ (a : K) / b ∧ (a : K) / b < (a / b : Nat) + 1 ∧ ((a % b != 0) = true ↔ (a : K) / b ≠ (a / b : Nat)) := by
  have hb' : (0 : K) < b := Nat.cast_pos.2 (Nat.pos_of_ne_zero hb)
  have hdm : (a : K) = b * (a / b : Nat) + (a % b : Nat) := by exact_mod_cast (Nat.div_add_mod a b).symm
  have hr : ((a % b : Nat) : K) < b := by exact_mod_cast Nat.mod_lt a (Nat.pos_of_ne_zero hb)
  have heq : (a : K) / b = (a / b : Nat) + (a % b : Nat) / b := by
    rw [← mul_div_cancel_left₀ ((a / b : Nat) : K) hb'.ne', ← add_div, ← hdm]
  rw [heq]
  refine ⟨le_add_of_nonneg_right (by positivity), by rw [add_lt_add_iff_left, div_lt_one hb']; exact hr, ?_⟩
  rw [bne_iff_ne, Ne, Ne, add_eq_left, div_eq_zero_iff, or_iff_left hb'.ne', Nat.cast_eq_zero]

theorem quotMag_holds {m₁ m₂ : Nat} (k₁ k₂ : Int) (h₁ : m₁ ≠ 0) (h₂ : m₂ ≠ 0) (hm : m₂ < 2 ^ 28) :
    (quotMag m₁ k₁ m₂ k₂).Holds (((m₁ * 2 ^ 92 : Nat) : ℚ) / m₂) := by
  obtain ⟨hlo, hhi, hmore⟩ := natDiv_bounds (K := ℚ) (m₁ * 2 ^ 92) h₂
  refine ⟨quotMag_ne_zero k₁ k₂ h₁ h₂ hm, hlo, hhi, hmore, fun _ => ?_⟩
  exact (Nat.le_div_iff_mul_le (Nat.pos_of_ne_zero h₂)).2
    ((Nat.mul_le_mul_left _ hm.le).trans ((by decide : 2 ^ 43 * 2 ^ 28 ≤ 2 ^ 92).trans (Nat.le_mul_of_pos_left _ (Nat.pos_of_ne_zero h₁))))

section Quotients
variable (mode : Rounding) {h : Nat} (hh : h < 2 ^ 16)
include hh

/-- R70: the quotient of two finite values. -/
theorem roundW_quotMag {s₁ s₂ : Bool} {m₁ m₂ : Nat} {k₁ k₂ : Int} (h₁ : m₁ ≠ 0) (h₂ : m₂ ≠ 0) (hm : m₂ < 2 ^ 28) :
    roundW mode h (s₁ != s₂) (quotMag m₁ k₁ m₂ k₂) = roundedTo mode h (finVal s₁ m₁ k₁ / finVal s₂ m₂ k₂) := by
  refine (quotMag_holds k₁ k₂ h₁ h₂ hm).roundedTo mode hh ?_ ?_
  · have hsign : finVal s₁ m₁ k₁ / finVal s₂ m₂ k₂ < 0 ↔ finVal (s₁ != s₂) (m₁ * m₂) (k₁ + k₂) < 0 := by rw [finVal_mul, div_neg_iff, mul_neg_iff]
    rw [decide_eq_decide.2 hsign, finVal_neg_iff (Nat.mul_ne_zero h₁ h₂)]
  · rw [abs_div, abs_finVal, abs_finVal, quotMag]
    rw [mul_div_mul_comm, Nat.cast_mul, Nat.cast_pow, Nat.cast_ofNat, mul_div_right_comm, zpow_sub₀ two_ne_zero (k₁ - k₂), zpow_sub₀ two_ne_zero, zpow_ofNat, mul_assoc,
      mul_div_cancel₀ _ (pow_ne_zero 92 two_ne_zero)]

variable {x y : Nat} {u v : ℚ} (hx : valueOf (readW x) = some u)
include hx

/-- R102: FRCP. -/
theorem rcpReal_eq_roundedTo (hu : u ≠ 0) : rcpReal mode h (readW x) = roundedTo mode h (1 / u) := by
  obtain ⟨s, m, k, hw, rfl⟩ := eq_fin_of_valueOf hx
  have hm := finVal_ne_zero_iff.1 hu
  have hone : finVal false 1 0 = 1 := by norm_num [finVal]
  rw [hw, ← hone, ← roundW_quotMag mode hh one_ne_zero hm (readW_fin_bounds hw).1, rcpReal, if_neg hm, Bool.false_bne]

/-- R102: FDIV. -/
theorem divReal_eq_roundedTo (hy : valueOf (readW y) = some v) (hu : u ≠ 0) (hv : v ≠ 0) : divReal mode h (readW x) (readW y) = roundedTo mode h (u / v) := by
  obtain ⟨s₁, m₁, k₁, hw₁, rfl⟩ := eq_fin_of_valueOf hx
  obtain ⟨s₂, m₂, k₂, hw₂, rfl⟩ := eq_fin_of_valueOf hy
  have h₁ := finVal_ne_zero_iff.1 hu
  have h₂ := finVal_ne_zero_iff.1 hv
  rw [hw₁, hw₂, ← roundW_quotMag mode hh h₁ h₂ (readW_fin_bounds hw₂).1]
  simp only [divReal, firstNaN, h₁, h₂, Real40.sign, decide_false, Bool.and_false, Bool.false_eq_true, if_false]

end Quotients

/-! ### Roots -/

/-- The square root of a number with the integer part `n`, by the integer square root of `n`. -/
theorem natSqrt_bounds {z : ℝ} {n : Nat} (hlo : (n : ℝ) ≤ z) (hhi : z < n + 1) :
    (Nat.sqrt n : ℝ) ≤ √z ∧ √z < Nat.sqrt n + 1 ∧ (√z = Nat.sqrt n ↔ z = (Nat.sqrt n * Nat.sqrt n : Nat)) := by
  have h1 : ((Nat.sqrt n * Nat.sqrt n : Nat) : ℝ) ≤ n := Nat.cast_le.2 (Nat.sqrt_le n)
  have h2 : (n : ℝ) + 1 ≤ ((Nat.sqrt n + 1) * (Nat.sqrt n + 1) : Nat) := by exact_mod_cast Nat.lt_succ_sqrt n
  push_cast at h1 h2
  refine ⟨Real.le_sqrt_of_sq_le (by rw [sq]; exact h1.trans hlo), (Real.sqrt_lt' (Nat.cast_add_one_pos _)).2 (by rw [sq]; exact hhi.trans_le h2), ?_⟩
  rw [Real.sqrt_eq_iff_mul_self_eq (le_trans (Nat.cast_nonneg n) hlo) (Nat.cast_nonneg _), Nat.cast_mul, eq_comm]

theorem sqrtMag_holds {m : Nat} (k : Int) (h0 : m ≠ 0) (hm : m < 2 ^ 28) : (sqrtMag m k).Holds (√((m * 2 ^ (k % 2).toNat * 2 ^ 100 : Nat) : ℝ)) := by
  have hlong := sqrtMag_long k h0 hm
  have hn := sqrtMag_n k hm
  obtain ⟨hlo, hhi, heq⟩ := natSqrt_bounds (le_refl (((m * 2 ^ (k % 2).toNat * 2 ^ 100 : Nat) : ℝ))) (lt_add_one _)
  rw [← hn] at hlo hhi heq
  refine ⟨ne_zero_of_long hlong, hlo, hhi, ?_, fun _ => le_trans (by decide) hlong⟩
  rw [Ne, heq, Nat.cast_inj]
  exact bne_iff_ne.trans ne_comm

theorem rsqrtMag_holds {m : Nat} (k : Int) (h0 : m ≠ 0) (hm : m < 2 ^ 28) : (rsqrtMag m k).Holds (√(((2 ^ 136 : Nat) : ℝ) / (m * 2 ^ (k % 2).toNat : Nat))) := by
  have hlong := rsqrtMag_long k h0 hm
  have hn := rsqrtMag_n m k
  have hx : m * 2 ^ (k % 2).toNat ≠ 0 := Nat.mul_ne_zero h0 (two_pow_odd k).1.ne'
  have hx' : ((m * 2 ^ (k % 2).toNat : Nat) : ℝ) ≠ 0 := Nat.cast_ne_zero.2 hx
  obtain ⟨hdlo, hdhi, -⟩ := natDiv_bounds (K := ℝ) (2 ^ 136) hx
  obtain ⟨hlo, hhi, heq⟩ := natSqrt_bounds hdlo hdhi
  rw [← hn] at hlo hhi heq
  refine ⟨ne_zero_of_long hlong, hlo, hhi, ?_, fun _ => le_trans (by decide) hlong⟩
  rw [Ne, heq, div_eq_iff hx', ← Nat.cast_mul, Nat.cast_inj]
  exact bne_iff_ne.trans ne_comm

/-- The exponent made even. -/
theorem mul_zpow_eq_odd_mul (m : Nat) (k : Int) : (m : ℝ) * 2 ^ k = (m * 2 ^ (k % 2).toNat : Nat) * ((2 : ℝ) ^ ((k - (k % 2).toNat) / 2)) ^ 2 := by
  have hodd : ((k % 2).toNat : Int) = k % 2 := Int.toNat_of_nonneg (Int.emod_nonneg k two_ne_zero)
  rw [Nat.cast_mul, Nat.cast_pow, Nat.cast_ofNat, mul_assoc, ← zpow_natCast, ← zpow_natCast, ← zpow_mul, ← zpow_add₀ two_ne_zero, hodd, Nat.cast_ofNat,
    Int.ediv_mul_cancel Int.dvd_self_sub_emod, add_sub_cancel]

theorem sqrt_mul_sq (z : ℝ) {y : ℝ} (hy : 0 ≤ y) : √(z * y ^ 2) = √z * y := by
  rw [Real.sqrt_mul' _ (sq_nonneg _), Real.sqrt_sq hy]

theorem cast_finVal_of_pos {s : Bool} {m : Nat} {k : Int} (hu : 0 < finVal s m k) : s = false ∧ m ≠ 0 ∧ ((finVal s m k : ℚ) : ℝ) = (m : ℝ) * (2 : ℝ) ^ k := by
  have hm := finVal_ne_zero_iff.1 hu.ne'
  have hs : s = false := by rw [← finVal_neg_iff (s := s) (k := k) hm, decide_eq_false (not_lt.2 hu.le)]
  refine ⟨hs, hm, ?_⟩
  rw [← abs_of_pos hu, abs_finVal]
  push_cast
  rfl

section Roots
variable (mode : Rounding) {h : Nat} (hh : h < 2 ^ 16) {x : Nat} {u : ℚ} (hx : valueOf (readW x) = some u) (hu : 0 < u)
include hh hx hu

/-- R102: FSQRT. -/
theorem sqrtReal_eq_roundedTo : sqrtReal mode h (readW x) = roundedTo mode h (√(u : ℝ)) := by
  obtain ⟨s, m, k, hw, rfl⟩ := eq_fin_of_valueOf hx
  obtain ⟨rfl, hm, hval⟩ := cast_finVal_of_pos hu
  rw [hw, hval, sqrtReal, if_neg hm, if_neg Bool.false_ne_true]
  refine (sqrtMag_holds k hm (readW_fin_bounds hw).1).roundedTo mode hh (decide_eq_false (not_lt.2 (Real.sqrt_nonneg _))) ?_
  have h100 : ((2 ^ 100 : Nat) : ℝ) = (2 ^ 50) ^ 2 := by norm_num
  rw [abs_of_nonneg (Real.sqrt_nonneg _), sqrtMag, mul_zpow_eq_odd_mul]
  generalize (k - (k % 2).toNat) / 2 = q
  rw [sqrt_mul_sq _ (zpow_nonneg zero_le_two q), Nat.cast_mul _ (2 ^ 100), h100, sqrt_mul_sq _ (pow_nonneg zero_le_two 50), zpow_sub₀ two_ne_zero, zpow_ofNat, mul_assoc,
    mul_div_cancel₀ _ (pow_ne_zero 50 two_ne_zero)]

/-- R102: FRSQ. -/
theorem rsqReal_eq_roundedTo : rsqReal mode h (readW x) = roundedTo mode h (1 / √(u : ℝ)) := by
  obtain ⟨s, m, k, hw, rfl⟩ := eq_fin_of_valueOf hx
  obtain ⟨rfl, hm, hval⟩ := cast_finVal_of_pos hu
  have hnn : 0 ≤ 1 / √((m : ℝ) * (2 : ℝ) ^ k) := one_div_nonneg.2 (Real.sqrt_nonneg _)
  have h136 : ((2 ^ 136 : Nat) : ℝ) = (2 ^ 68) ^ 2 := by norm_num
  rw [hw, hval, rsqReal, if_neg hm, if_neg Bool.false_ne_true]
  refine (rsqrtMag_holds k hm (readW_fin_bounds hw).1).roundedTo mode hh (decide_eq_false (not_lt.2 hnn)) ?_
  rw [abs_of_nonneg hnn, rsqrtMag, mul_zpow_eq_odd_mul]
  generalize (k - (k % 2).toNat) / 2 = q
  rw [sqrt_mul_sq _ (zpow_nonneg zero_le_two q), Real.sqrt_div (Nat.cast_nonneg _), h136, Real.sqrt_sq (pow_nonneg zero_le_two 68), zpow_sub₀ two_ne_zero, zpow_neg, zpow_ofNat,
    div_mul_div_comm, mul_comm ((2 : ℝ) ^ 68), mul_div_mul_right _ _ (pow_ne_zero 68 two_ne_zero), one_div, mul_inv_rev, div_eq_mul_inv]

end Roots

end Sys2Proof.Machine
end

section
/-! SUPPORT. Fixed-point series (R102, O51): ln 2, and `exp2Fix` against the power of two. -/
namespace Sys2Proof.Machine
open Sys2Proof.Claims

/-! ### ln 2 -/

/-- Twice 56 terms of the series of artanh (1/3), which is half of ln 2. -/
def ln2Sum : ℚ := 2 * ∑ i ∈ Finset.range 56, (1 / 3 : ℚ) ^ (2 * i + 1) / (2 * i + 1)

theorem ln2Sum_bounds : (ln2Fix : ℚ) ≤ ln2Sum * 2 ^ 160 ∧ (ln2Sum + 2 * ((1 / 3) ^ (2 * 56 + 1) / (1 - (1 / 3) ^ 2))) * 2 ^ 160 ≤ ln2Fix + 1 := by decide +kernel

theorem log_two_bounds : (ln2Sum : ℝ) ≤ Real.log 2 ∧ Real.log 2 ≤ (ln2Sum + 2 * ((1 / 3) ^ (2 * 56 + 1) / (1 - (1 / 3) ^ 2)) : ℚ) := by
  have hlo := Real.sum_range_le_log_div (x := 1 / 3) (by norm_num) (by norm_num) 56
  have hhi := Real.log_div_le_sum_range_add (x := 1 / 3) (by norm_num) (by norm_num) 56
  rw [show (1 + 1 / 3 : ℝ) / (1 - 1 / 3) = 2 by norm_num, one_div_mul_eq_div] at hlo hhi
  rw [le_div_iff₀' two_pos] at hlo
  rw [div_le_iff₀' two_pos, mul_add] at hhi
  rw [ln2Sum]
  push_cast
  exact ⟨hlo, hhi⟩

/-- `ln2Fix` is ln 2 rounded down. -/
theorem ln2Fix_bounds : (ln2Fix : ℝ) ≤ Real.log 2 * 2 ^ 160 ∧ Real.log 2 * 2 ^ 160 ≤ ln2Fix + 1 := by
  obtain ⟨hlo, hhi⟩ := log_two_bounds
  have h : (0 : ℝ) ≤ 2 ^ 160 := by positivity
  constructor
  · refine le_trans ?_ (mul_le_mul_of_nonneg_right hlo h)
    exact_mod_cast ln2Sum_bounds.1
  · refine (mul_le_mul_of_nonneg_right hhi h).trans ?_
    exact_mod_cast ln2Sum_bounds.2

/-! ### The series of the exponential -/

/-- The term `i` of the series of `e^(z / 2^160)`, at scale 2^160. -/
noncomputable def expTerm (z i : Nat) : ℝ := 2 ^ 160 * (((z : ℝ) / 2 ^ 160) ^ i / (i.factorial : ℝ))

/-- The term `i` as `expTerms` forms it, each rounded down from the one before. -/
def expTermFloor (z : Nat) : Nat → Nat
  | 0 => 2 ^ 160
  | i + 1 => expTermFloor z i * z / (2 ^ 160 * (i + 1))

theorem expTerms_eq_sum (z n i : Nat) :
    expTerms z n (i + 1) (expTermFloor z i) (∑ j ∈ Finset.range (i + 1), expTermFloor z j) = ∑ j ∈ Finset.range (i + 1 + n), expTermFloor z j := by
  induction n generalizing i with
  | zero => rw [expTerms, Nat.add_zero]
  | succ n ih => rw [expTerms, ← Nat.add_assoc (i + 1) n 1, Nat.add_right_comm (i + 1) n 1, ← ih (i + 1), Finset.sum_range_succ _ (i + 1), expTermFloor]

theorem expTerm_succ (z i : Nat) : expTerm z (i + 1) = expTerm z i * (z / (2 ^ 160 * (i + 1) : Nat)) := by
  have hz : ((z : ℝ) / (2 ^ 160 * (i + 1) : Nat)) = z / 2 ^ 160 / (i + 1 : Nat) := by rw [Nat.cast_mul, Nat.cast_pow, Nat.cast_ofNat, div_div]
  rw [hz, expTerm, expTerm, mul_assoc, div_mul_div_comm, ← pow_succ, Nat.factorial_succ, Nat.cast_mul, mul_comm (i.factorial : ℝ)]

/-- Terms rounded down are below the true ones, each by at most 4 units. -/
theorem expTermFloor_bounds {z : Nat} (hz : z ≤ 3 * 2 ^ 158) (i : Nat) : (expTermFloor z i : ℝ) ≤ expTerm z i ∧ expTerm z i ≤ expTermFloor z i + 4 := by
  induction i with
  | zero =>
    have h : expTerm z 0 = expTermFloor z 0 := by rw [expTerm, pow_zero, Nat.factorial_zero, Nat.cast_one, div_one, mul_one, expTermFloor, Nat.cast_pow, Nat.cast_ofNat]
    rw [h]
    exact ⟨le_rfl, le_add_of_nonneg_right zero_le_four⟩
  | succ i ih =>
    have hD : 2 ^ 160 * (i + 1) ≠ 0 := Nat.mul_ne_zero (Nat.two_pow_pos 160).ne' i.succ_ne_zero
    have hc : 4 * ((z : ℝ) / (2 ^ 160 * (i + 1) : Nat)) ≤ 3 := by
      rw [← mul_div_assoc, div_le_iff₀ (Nat.cast_pos.2 (Nat.pos_of_ne_zero hD))]
      exact_mod_cast (Nat.mul_le_mul_left 4 hz).trans (Nat.mul_le_mul_left 3 (Nat.le_mul_of_pos_right (2 ^ 160) i.succ_pos))
    obtain ⟨h1, h2, -⟩ := natDiv_bounds (K := ℝ) (expTermFloor z i * z) hD
    rw [Nat.cast_mul, mul_div_assoc] at h1 h2
    rw [expTermFloor, expTerm_succ]
    have hc0 : 0 ≤ (z : ℝ) / (2 ^ 160 * (i + 1) : Nat) := div_nonneg (Nat.cast_nonneg _) (Nat.cast_nonneg _)
    generalize (z : ℝ) / (2 ^ 160 * (i + 1) : Nat) = c at *
    refine ⟨h1.trans (mul_le_mul_of_nonneg_right ih.1 hc0), (mul_le_mul_of_nonneg_right ih.2 hc0).trans ?_⟩
    have h4 : (4 : ℝ) = 1 + 3 := by norm_num
    rw [add_mul]
    refine (add_le_add h2.le hc).trans_eq ?_
    rw [h4, add_assoc]

/-- The sum of the terms is the exponential, but for what comes after the 49 terms. -/
theorem sum_expTerm_bounds {z : Nat} (hz : z ≤ 3 * 2 ^ 158) :
    ∑ j ∈ Finset.range 49, expTerm z j ≤ 2 ^ 160 * Real.exp (z / 2 ^ 160) ∧ 2 ^ 160 * Real.exp (z / 2 ^ 160) ≤ ∑ j ∈ Finset.range 49, expTerm z j + 1 := by
  have hS : (0 : ℝ) < 2 ^ 160 := pow_pos two_pos 160
  have hz' : (z : ℝ) / 2 ^ 160 ≤ 3 / 4 := by
    rw [div_le_div_iff₀ hS four_pos]
    exact_mod_cast Nat.mul_le_mul_right 4 hz
  have h0 : 0 ≤ (z : ℝ) / 2 ^ 160 := div_nonneg (Nat.cast_nonneg z) hS.le
  simp only [expTerm, ← Finset.mul_sum]
  generalize (z : ℝ) / 2 ^ 160 = a at hz' h0
  have hnum : (3 / 4 : ℝ) ^ 49 * ((49 : Nat) + 1) / (Nat.factorial 49 * (49 : Nat)) ≤ 1 / 2 ^ 160 := by norm_num [Nat.factorial]
  have htail : a ^ 49 * ((49 : Nat) + 1) / (Nat.factorial 49 * (49 : Nat)) ≤ 1 / 2 ^ 160 := le_trans (by gcongr) hnum
  have hhi := (Real.exp_bound' h0 (hz'.trans (by norm_num)) (n := 49) (by decide)).trans (add_le_add_right htail _)
  refine ⟨mul_le_mul_of_nonneg_left (Real.sum_le_exp_of_nonneg h0 49) hS.le, (mul_le_mul_of_nonneg_left hhi hS.le).trans_eq ?_⟩
  rw [mul_add, mul_one_div_cancel hS.ne']

/-! ### The power of two -/

/-- The exponent of `e` that stands for the exponent `f / 2^160` of 2, and how far it is rounded down. -/
theorem ln2_exponent_bounds {f : Nat} (hf : f < 2 ^ 160) :
    ((f * ln2Fix / 2 ^ 160 : Nat) : ℝ) ≤ f * Real.log 2 ∧ f * Real.log 2 ≤ (f * ln2Fix / 2 ^ 160 : Nat) + 2 := by
  have hS : (0 : ℝ) < 2 ^ 160 := pow_pos two_pos 160
  obtain ⟨hl, hu⟩ := ln2Fix_bounds
  obtain ⟨h1, h2, -⟩ := natDiv_bounds (K := ℝ) (f * ln2Fix) (Nat.two_pow_pos 160).ne'
  have hf' : (f : ℝ) ≤ 2 ^ 160 := by exact_mod_cast hf.le
  have hf0 : (0 : ℝ) ≤ f := Nat.cast_nonneg f
  rw [Nat.cast_mul, Nat.cast_pow, Nat.cast_ofNat] at h1 h2
  constructor
  · refine h1.trans ?_
    rw [div_le_iff₀ hS, mul_assoc]
    exact mul_le_mul_of_nonneg_left hl hf0
  · have h3 : f * Real.log 2 ≤ (f : ℝ) * ln2Fix / 2 ^ 160 + 1 := by
      rw [div_add_one hS.ne', le_div_iff₀ hS, mul_assoc]
      refine (mul_le_mul_of_nonneg_left hu hf0).trans ?_
      rw [mul_add, mul_one]
      exact add_le_add_right hf' _
    exact h3.trans ((add_le_add_left h2.le 1).trans_eq (by rw [add_assoc, one_add_one_eq_two]))

/-- The exponential grows by no more than its value at the end. -/
theorem exp_le_exp_add (a b : ℝ) : Real.exp b ≤ Real.exp a + Real.exp b * (b - a) := by
  have h := mul_le_mul_of_nonneg_left (Real.add_one_le_exp (a - b)) (Real.exp_pos b).le
  rw [← Real.exp_add, add_sub_cancel, mul_add, mul_one] at h
  rwa [← neg_sub a b, mul_neg, ← sub_eq_add_neg, le_sub_iff_add_le']

/-- The power of two against the exponential at the rounded exponent. -/
theorem two_rpow_bounds {f z : Nat} (hf : f < 2 ^ 160) (hz1 : z ≤ f * Real.log 2) (hz2 : f * Real.log 2 ≤ z + 2) :
    Real.exp (z / 2 ^ 160) ≤ (2 : ℝ) ^ ((f : ℝ) / 2 ^ 160) ∧ 2 ^ 160 * (2 : ℝ) ^ ((f : ℝ) / 2 ^ 160) ≤ 2 ^ 160 * Real.exp (z / 2 ^ 160) + 4 := by
  have hS : (0 : ℝ) < 2 ^ 160 := pow_pos two_pos 160
  have hpow : (2 : ℝ) ^ ((f : ℝ) / 2 ^ 160) = Real.exp (f * Real.log 2 / 2 ^ 160) := by
    rw [Real.rpow_def_of_pos two_pos, mul_comm, div_mul_eq_mul_div]
  have hpow2 : (2 : ℝ) ^ ((f : ℝ) / 2 ^ 160) ≤ 2 := by
    have h : (f : ℝ) / 2 ^ 160 ≤ 1 := (div_le_one hS).2 (by exact_mod_cast hf.le)
    exact (Real.rpow_le_rpow_of_exponent_le one_le_two h).trans_eq (Real.rpow_one 2)
  have hgap : f * Real.log 2 / 2 ^ 160 - z / 2 ^ 160 ≤ 2 / 2 ^ 160 := by
    rw [← sub_div]
    exact div_le_div_of_nonneg_right (sub_le_iff_le_add'.2 hz2) hS.le
  have hstep := exp_le_exp_add (z / 2 ^ 160) (f * Real.log 2 / 2 ^ 160)
  have hle := div_le_div_of_nonneg_right hz1 hS.le
  rw [← hpow] at hstep
  refine ⟨hpow ▸ Real.exp_le_exp.2 hle, ?_⟩
  have h4 : (2 : ℝ) ^ 160 * (2 * (2 / 2 ^ 160)) = 4 := by rw [mul_left_comm, mul_div_cancel₀ _ hS.ne', two_mul, two_add_two_eq_four]
  rw [← h4, ← mul_add]
  exact mul_le_mul_of_nonneg_left (hstep.trans (add_le_add_right (mul_le_mul hpow2 hgap (sub_nonneg.2 hle) zero_le_two) _)) hS.le

/-- What `exp2Fix` claims: a lower bound of `2^(f / 2^160)` at scale 2^160, less than 2^12 units below. -/
theorem exp2Fix_bounds {f : Nat} (hf : f < 2 ^ 160) :
    (exp2Fix f : ℝ) ≤ 2 ^ 160 * (2 : ℝ) ^ ((f : ℝ) / 2 ^ 160) ∧ 2 ^ 160 * (2 : ℝ) ^ ((f : ℝ) / 2 ^ 160) ≤ exp2Fix f + 2 ^ 12 := by
  obtain ⟨hz1, hz2⟩ := ln2_exponent_bounds hf
  have hz : f * ln2Fix / 2 ^ 160 ≤ 3 * 2 ^ 158 := by
    have h : f * ln2Fix / 2 ^ 160 ≤ ln2Fix := Nat.div_le_of_le_mul (Nat.mul_le_mul_right _ hf.le)
    exact h.trans (by decide)
  have hfix : exp2Fix f = ∑ j ∈ Finset.range 49, expTermFloor (f * ln2Fix / 2 ^ 160) j := by
    have h := expTerms_eq_sum (f * ln2Fix / 2 ^ 160) 48 0
    rwa [Finset.sum_range_one] at h
  rw [hfix, Nat.cast_sum]
  generalize f * ln2Fix / 2 ^ 160 = z at hz hz1 hz2
  obtain ⟨hs1, hs2⟩ := sum_expTerm_bounds hz
  obtain ⟨hp1, hp2⟩ := two_rpow_bounds hf hz1 hz2
  have hlo := Finset.sum_le_sum (s := Finset.range 49) fun j _ => (expTermFloor_bounds hz j).1
  have hhi := Finset.sum_le_sum (s := Finset.range 49) fun j _ => (expTermFloor_bounds hz j).2
  rw [Finset.sum_add_distrib, Finset.sum_const, Finset.card_range] at hhi
  refine ⟨(hlo.trans hs1).trans (mul_le_mul_of_nonneg_left hp1 (pow_nonneg zero_le_two 160)), hp2.trans ((add_le_add_left (hs2.trans (add_le_add_left hhi 1)) 4).trans ?_)⟩
  rw [add_assoc, add_assoc]
  exact add_le_add_right (by norm_num) _

end Sys2Proof.Machine
end

section
/-! SUPPORT. Irrational results (R70, R102, O51): an irrational magnitude is rounded once, and FEXP2. -/
namespace Sys2Proof.Machine
open Sys2Proof.Claims

/-! ### An irrational magnitude between two bounds -/

/-- `floorBetween` rounds down what its bounds and its test tell of a number. -/
theorem floorBetween_bounds {n w d : Nat} {below : Nat → Bool} {t : ℝ} (hlo : (n : ℝ) ≤ t) (hhi : t ≤ n + w) (hw : w ≤ 2 ^ d)
    (hbelow : ∀ v, v ≠ 0 → (below v = true ↔ t < v * 2 ^ d)) :
    n / 2 ^ d ≤ floorBetween n w d below ∧ (floorBetween n w d below : ℝ) ≤ t / 2 ^ d ∧ t / 2 ^ d < floorBetween n w d below + 1 := by
  have hp : (0 : ℝ) < 2 ^ d := by positivity
  have hq : ((n / 2 ^ d : Nat) : ℝ) * 2 ^ d ≤ t := le_trans (by exact_mod_cast Nat.div_mul_le_self n (2 ^ d)) hlo
  have hr : t < (((n + w) / 2 ^ d : Nat) + 1 : ℝ) * 2 ^ d := by
    refine lt_of_le_of_lt hhi ?_
    exact_mod_cast (Nat.add_one_mul ((n + w) / 2 ^ d) (2 ^ d)).symm ▸ Nat.lt_div_mul_add (Nat.two_pow_pos d)
  have hstep : (n + w) / 2 ^ d ≤ n / 2 ^ d + 1 := by
    rw [← Nat.add_div_right n (Nat.two_pow_pos d)]
    exact Nat.div_le_div_right (Nat.add_le_add_left hw n)
  rw [le_div_iff₀ hp, div_lt_iff₀ hp, floorBetween]
  by_cases heq : n / 2 ^ d = (n + w) / 2 ^ d
  · rw [if_pos heq]
    exact ⟨le_rfl, hq, heq ▸ hr⟩
  rw [if_neg heq]
  have hb := hbelow (n / 2 ^ d + 1) (Nat.succ_ne_zero _)
  by_cases hlt : below (n / 2 ^ d + 1) = true
  · rw [if_pos hlt]
    exact ⟨le_rfl, hq, by simpa using hb.1 hlt⟩
  · rw [if_neg hlt]
    have hnext : (n + w) / 2 ^ d = n / 2 ^ d + 1 := le_antisymm hstep (Nat.succ_le_of_lt (lt_of_le_of_ne (Nat.div_le_div_right (Nat.le_add_right n w)) heq))
    rw [hnext] at hr
    exact ⟨Nat.le_succ _, not_lt.1 fun h => hlt (hb.2 h), hr⟩

/-- R70: an irrational magnitude between `n` and `n + w` is rounded once. -/
theorem roundIrrational_eq_rounded (mode : Rounding) {h : Nat} (hh : h < 2 ^ 16) (s : Bool) {n w : Nat} {k : Int} {below : Nat → Int → Bool} {t : ℝ}
    (hn : 2 ^ 60 ≤ n) (hlo : (n : ℝ) ≤ t) (hhi : t ≤ n + w) (hw : w ≤ 2 ^ (n.log2 - 60)) (hirr : Irrational t)
    (hbelow : ∀ v, v ≠ 0 → (below v (k + (n.log2 - 60 : Nat)) = true ↔ t * (2 : ℝ) ^ k < v * (2 : ℝ) ^ (k + (n.log2 - 60 : Nat)))) :
    roundIrrational mode h s n w k below = rounded mode h s (t * (2 : ℝ) ^ k) := by
  have hn0 : n ≠ 0 := by omega
  have hlog : 60 ≤ n.log2 := (Nat.le_log2 hn0).2 hn
  have hk : (0 : ℝ) < 2 ^ k := by positivity
  rw [roundIrrational]
  generalize hd : n.log2 - 60 = d at *
  have hscale : (2 : ℝ) ^ (k + (d : Int)) = 2 ^ d * 2 ^ k := by rw [zpow_add₀ two_ne_zero, zpow_natCast, mul_comm]
  have hbelow' (v : Nat) (hv : v ≠ 0) : below v (k + d) = true ↔ t < v * 2 ^ d := by
    rw [hbelow v hv, hscale, ← mul_assoc, mul_lt_mul_iff_of_pos_right hk]
  obtain ⟨hge, hfl, hlt⟩ := floorBetween_bounds (below := fun v => below v (k + d)) hlo hhi hw hbelow'
  have hbig : 2 ^ 60 ≤ n / 2 ^ d := by
    rw [Nat.le_div_iff_mul_le (Nat.two_pow_pos d), ← pow_add, show 60 + d = n.log2 by omega]
    exact Nat.log2_self_le hn0
  generalize floorBetween n w d (fun v => below v (k + d)) = q at *
  have hq : max 1 q = q := max_eq_right (by omega)
  have hholds : ({ n := max 1 q, k := k + d, more := true } : Mag).Holds (t / 2 ^ d) := by
    rw [hq]
    refine ⟨by dsimp only; omega, hfl, hlt, iff_of_true rfl fun h => ?_, fun _ => by dsimp only; omega⟩
    exact hirr ⟨(q * 2 ^ d : Nat), by rw [div_eq_iff (by positivity)] at h; rw [h]; push_cast; rfl⟩
  rw [hholds.roundW mode hh s]
  dsimp only
  rw [hscale, ← mul_assoc, div_mul_cancel₀ _ (by positivity)]

/-! ### Powers of two -/

/-- A power of two of an exponent between 0 and 1 is irrational. -/
theorem irrational_two_rpow_div {p q : Nat} (hp : 0 < p) (hpq : p < q) : Irrational ((2 : ℝ) ^ ((p : ℝ) / q)) := by
  have hq : (0 : ℝ) < q := Nat.cast_pos.2 (hp.trans hpq)
  refine irrational_nrt_of_notint_nrt q (2 ^ p) ?_ ?_ (hp.trans hpq)
  · rw [← Real.rpow_mul_natCast zero_le_two, div_mul_cancel₀ _ hq.ne', Real.rpow_natCast]
    push_cast; rfl
  · rintro ⟨y, hy⟩
    have h1 : 1 < (2 : ℝ) ^ ((p : ℝ) / q) := Real.one_lt_rpow one_lt_two (div_pos (Nat.cast_pos.2 hp) hq)
    have h2 : (2 : ℝ) ^ ((p : ℝ) / q) < 2 := by
      calc (2 : ℝ) ^ ((p : ℝ) / q) < 2 ^ (1 : ℝ) := Real.rpow_lt_rpow_of_exponent_lt one_lt_two ((div_lt_one hq).2 (Nat.cast_lt.2 hpq))
        _ = 2 := Real.rpow_one 2
    rw [hy] at h1 h2
    have h1' : (1 : Int) < y := by exact_mod_cast h1
    have h2' : y < (2 : Int) := by exact_mod_cast h2
    omega

/-- What `exp2Below` tests. -/
theorem exp2Below_iff (u : Int) (j : Nat) {v : Nat} (c : Int) (hv : v ≠ 0) : exp2Below u j v c = true ↔ (2 : ℝ) ^ ((u : ℝ) / 2 ^ j) < v * (2 : ℝ) ^ c := by
  have hN : 2 ^ j ≠ 0 := (Nat.two_pow_pos j).ne'
  have hNr : ((2 : ℝ) ^ j) = ((2 ^ j : Nat) : ℝ) := by push_cast; rfl
  rw [hNr, exp2Below]
  generalize 2 ^ j = N at hN
  have hN' : (N : ℝ) ≠ 0 := Nat.cast_ne_zero.2 hN
  have hc : (0 : ℝ) < (2 : ℝ) ^ (c * N) := by positivity
  have hpow : (2 : ℝ) ^ ((u : ℝ) / N) < v * (2 : ℝ) ^ c ↔ (2 : ℝ) ^ (u - c * N) < ((v ^ N : Nat) : ℝ) := by
    rw [← pow_lt_pow_iff_left₀ (by positivity) (by positivity) hN, ← Real.rpow_mul_natCast zero_le_two, div_mul_cancel₀ _ hN', Real.rpow_intCast, mul_pow,
      ← zpow_natCast ((2 : ℝ) ^ c) N, ← zpow_mul, zpow_sub₀ two_ne_zero, div_lt_iff₀ hc]
    push_cast; rfl
  rw [hpow]
  generalize u - c * N = e
  rw [Bool.or_eq_true, decide_eq_true_eq, decide_eq_true_eq]
  have hv1 : 1 ≤ v ^ N := Nat.one_le_pow _ _ (Nat.pos_of_ne_zero hv)
  rcases lt_or_ge e 0 with he | he
  · refine iff_of_true (.inl he) (lt_of_lt_of_le (zpow_lt_one_of_neg₀ one_lt_two he) (by exact_mod_cast hv1))
  · rw [or_iff_right (not_lt.2 he)]
    lift e to Nat using he
    rw [Int.toNat_natCast, zpow_natCast]
    exact_mod_cast Iff.rfl

/-! ### FEXP2 -/

/-- The exponent at scale 2^160 is exact. -/
theorem exp2Exponent_eq {s : Bool} {m : Nat} {k : Int} (hk : -160 ≤ k) : ((exp2Exponent s m k : Int) : ℚ) = finVal s m k * 2 ^ 160 := by
  unfold exp2Exponent
  by_cases h0 : 0 ≤ k
  · rw [if_pos h0, Int.cast_mul, ← scaled_mul_zpow s m h0, zpow_zero, mul_one]
    norm_num
  · have hp : (2 : ℚ) ^ k * 2 ^ 160 = 2 ^ (160 + k).toNat := by
      rw [← zpow_natCast, ← zpow_natCast, ← zpow_add₀ two_ne_zero, Int.toNat_of_nonneg (by omega), add_comm k]; rfl
    rw [if_neg h0, finVal, mul_assoc, hp]
    cases s <;> simp

/-- An integer exponent has no fraction at scale 2^160. -/
theorem exp2Exponent_emod_of_nonneg {s : Bool} {m : Nat} {k : Int} (hk : 0 ≤ k) : exp2Exponent s m k % 2 ^ 160 = 0 := by
  rw [exp2Exponent, if_pos hk, Int.mul_emod_left]

/-- A magnitude from 2^−60 on has no bits below 2^−160. -/
theorem neg_160_le_of_exp {m : Nat} {k : Int} (h0 : m ≠ 0) (hm : m < 2 ^ 28) (hsmall : ¬ ({ n := m, k := k } : Mag).exp < -60) : -160 ≤ k := by
  have hlog : m.log2 < 28 := (Nat.log2_lt h0).2 hm
  simp only [Mag.exp] at hsmall
  omega

/-- The integer part and the fraction of an exponent at scale 2^160. -/
theorem finVal_eq_exp2Exponent {s : Bool} {m : Nat} {k : Int} (hk : -160 ≤ k) :
    (finVal s m k : ℝ) = (exp2Exponent s m k / 2 ^ 160 : Int) + ((exp2Exponent s m k % 2 ^ 160).toNat : ℝ) / 2 ^ 160 := by
  have hdm : (exp2Exponent s m k : ℝ) = ((exp2Exponent s m k % 2 ^ 160).toNat : ℝ) + 2 ^ 160 * (exp2Exponent s m k / 2 ^ 160 : Int) := by
    have h1 : ((exp2Exponent s m k % 2 ^ 160).toNat : Int) + 2 ^ 160 * (exp2Exponent s m k / 2 ^ 160) = exp2Exponent s m k := by
      rw [Int.toNat_of_nonneg (Int.emod_nonneg _ (by norm_num)), Int.emod_add_mul_ediv]
    have h2 := congrArg (Int.cast (R := ℝ)) h1
    rw [Int.cast_add, Int.cast_mul, Int.cast_natCast, Int.cast_pow, Int.cast_ofNat] at h2
    exact h2.symm
  have he : (exp2Exponent s m k : ℝ) = (finVal s m k : ℝ) * 2 ^ 160 := by
    have h1 := congrArg (Rat.cast (K := ℝ)) (exp2Exponent_eq (s := s) (m := m) hk)
    rwa [Rat.cast_intCast, Rat.cast_mul, Rat.cast_pow, Rat.cast_ofNat] at h1
  rw [add_div' _ _ _ (by positivity), eq_div_iff (by positivity), ← he, hdm]
  ring

/-- A finite value with a fraction, as the quotient that `exp2Below` takes. -/
theorem scaled_div_two_pow (s : Bool) (m : Nat) {k : Int} (hk : k ≤ 0) : ((scaled s m 0 0 : Int) : ℝ) / 2 ^ (-k).toNat = (finVal s m k : ℝ) := by
  have h2 : finVal s m k = (scaled s m 0 0 : ℚ) / 2 ^ (-k).toNat := by
    rw [← zero_add k, finVal_add_exp, ← scaled_mul_zpow s m le_rfl, zpow_zero, mul_one, zero_add, two_zpow_of_nonpos hk, div_eq_mul_inv]
  rw [h2]; push_cast; rfl

/-- The exponents of the magnitude of a finite value. -/
theorem abs_finVal_bounds {s : Bool} {m : Nat} {k : Int} (hm : m ≠ 0) :
    (2 : ℚ) ^ (({ n := m, k := k } : Mag).exp) ≤ |finVal s m k| ∧ |finVal s m k| < (2 : ℚ) ^ (({ n := m, k := k } : Mag).exp + 1) := by
  have hlog : Int.log 2 |finVal s m k| = ({ n := m, k := k } : Mag).exp := by rw [abs_finVal]; exact (Mag.holds_exact k hm).log
  have hpos : 0 < |finVal s m k| := abs_pos.2 (finVal_ne_zero_iff.2 hm)
  rw [← hlog]
  exact ⟨by exact_mod_cast Int.zpow_log_le_self one_lt_two hpos, by exact_mod_cast Int.lt_zpow_succ_log_self one_lt_two |finVal s m k|⟩

/-- The sign of a finite value, as a real number. -/
theorem cast_finVal_neg_iff {s : Bool} {m : Nat} {k : Int} (hm : m ≠ 0) : decide (((finVal s m k : ℚ) : ℝ) < 0) = s :=
  (decide_eq_decide.2 Rat.cast_lt_zero).trans (finVal_neg_iff hm)

theorem le_abs_finVal_of_exp {s : Bool} {m : Nat} {k : Int} (hm : m ≠ 0) (hbig : ({ n := m, k := k } : Mag).exp ≥ 12) : 4096 ≤ |((finVal s m k : ℚ) : ℝ)| := by
  have h : (4096 : ℚ) ≤ |finVal s m k| :=
    calc (4096 : ℚ) = 2 ^ (12 : Int) := by norm_num
      _ ≤ 2 ^ (({ n := m, k := k } : Mag).exp) := zpow_le_zpow_right₀ one_le_two hbig
      _ ≤ |finVal s m k| := (abs_finVal_bounds hm).1
  exact_mod_cast h

theorem abs_finVal_lt_of_exp {s : Bool} {m : Nat} {k : Int} (hm : m ≠ 0) (hsmall : ({ n := m, k := k } : Mag).exp < -60) : |((finVal s m k : ℚ) : ℝ)| * 2 ^ 60 < 1 := by
  have h : |finVal s m k| * 2 ^ 60 < 1 :=
    calc |finVal s m k| * 2 ^ 60 < 2 ^ (({ n := m, k := k } : Mag).exp + 1) * 2 ^ 60 := mul_lt_mul_of_pos_right (abs_finVal_bounds hm).2 (pow_pos two_pos 60)
      _ ≤ 2 ^ (-60 : Int) * 2 ^ 60 := mul_le_mul_of_nonneg_right (zpow_le_zpow_right₀ one_le_two hsmall) (pow_nonneg zero_le_two 60)
      _ = 1 := by norm_num
  exact_mod_cast h

/-- R70: a rounding of a positive number. -/
theorem roundedTo_of_pos (mode : Rounding) (h : Nat) {y : ℝ} (hy : 0 < y) : roundedTo mode h y = rounded mode h false y := by
  rw [roundedTo, abs_of_pos hy, decide_eq_false (not_lt.2 hy.le)]

/-- Just below 1 the kept bits are all ones, whichever of its last bits a magnitude shows. -/
theorem roundW_below_one (mode : Rounding) (h : Nat) : roundW mode h false { n := 2 ^ 61 - 1, k := -61, more := true } = roundW mode h false { n := 2 ^ 60 - 1, k := -60, more := true } := by
  have hl : (2 ^ 61 - 1).log2 = 60 := by decide
  have hl' : (2 ^ 60 - 1).log2 = 59 := by decide
  have hdrop : roundDrop mode h false (2 ^ 61 - 1) 33 true = roundDrop mode h false (2 ^ 60 - 1) 32 true := by
    cases mode with
    | rsr =>
      have h1 : (2 ^ 61 - 1) * 65536 + h * 2 ^ 33 = 2 ^ 17 * (2 ^ 60 - 1 + h * 2 ^ 16) + 2 ^ 16 := by omega
      have h2 : (2 ^ 60 - 1) * 65536 + h * 2 ^ 32 = 2 ^ 16 * (2 ^ 60 - 1 + h * 2 ^ 16) := by omega
      have h3 : ((2 ^ 61 - 1) * 65536 + h * 2 ^ 33) / 2 ^ (17 + 32) = ((2 ^ 60 - 1) * 65536 + h * 2 ^ 32) / 2 ^ (16 + 32) := by
        rw [h1, h2, pow_add 2 17, pow_add 2 16, ← Nat.div_div_eq_div_mul, ← Nat.div_div_eq_div_mul, Nat.mul_add_div (Nat.two_pow_pos 17), Nat.mul_div_cancel_left _ (Nat.two_pow_pos 16)]
        rfl
      exact congrArg (·, true) h3
    | _ => rfl
  rw [roundW_eq, roundW_eq]
  simp only [Mag.significand, Mag.exp, hl, hl']
  exact congrArg (fun d : Nat × Bool => wordW mode false (-1) d.1 (if d.2 then 1 else 0)) hdrop

section Exp2
variable (mode : Rounding) {h : Nat} (hh : h < 2 ^ 16)
include hh

/-- A power of two that is exact. -/
theorem roundW_two_zpow (i : Int) : roundW mode h false { n := 1, k := i } = rounded mode h false ((2 : ℝ) ^ i) := by
  have := (Mag.holds_exact (R := ℝ) i one_ne_zero).roundW mode hh false
  rwa [Nat.cast_one, one_mul] at this

/-- R72, R73: a power of two beyond the exponents of a word rounds as any other. -/
theorem roundW_two_rpow_large {s : Bool} {u : ℝ} (hs : decide (u < 0) = s) (hu : 4096 ≤ |u|) :
    roundW mode h false { n := 1, k := if s then -5000 else 5000 } = rounded mode h false ((2 : ℝ) ^ u) := by
  have hpos (v : ℝ) : 0 < (2 : ℝ) ^ v := Real.rpow_pos_of_pos two_pos v
  rw [roundW_two_zpow mode hh]
  cases s with
  | true =>
    have hneg := of_decide_eq_true hs
    rw [abs_of_neg hneg] at hu
    have hle : u ≤ ((-1025 : Int) : ℝ) := (le_neg.1 hu).trans (by norm_num)
    refine rounded_of_small (zpow_pos two_pos _) (hpos u) (zpow_lt_zpow_right₀ one_lt_two (by decide)) ?_ ..
    calc (2 : ℝ) ^ u ≤ 2 ^ ((-1025 : Int) : ℝ) := Real.rpow_le_rpow_of_exponent_le one_le_two hle
      _ = 2 ^ (-1025 : Int) := Real.rpow_intCast ..
      _ < 2 ^ (-1024 : Int) := zpow_lt_zpow_right₀ one_lt_two (by decide)
  | false =>
    rw [abs_of_nonneg (not_lt.1 (of_decide_eq_false hs))] at hu
    have hle : ((1024 : Int) : ℝ) ≤ u := le_trans (by norm_num) hu
    refine rounded_of_large (zpow_le_zpow_right₀ one_le_two (by decide)) ?_ ..
    calc (2 : ℝ) ^ (1024 : Int) = 2 ^ ((1024 : Int) : ℝ) := (Real.rpow_intCast ..).symm
      _ ≤ 2 ^ u := Real.rpow_le_rpow_of_exponent_le one_le_two hle

/-- R70: a number strictly between two neighbours at scale 2^60. -/
theorem roundW_of_between {n : Nat} {y : ℝ} (hn : 2 ^ 43 ≤ n) (hlo : n < y * 2 ^ 60) (hhi : y * 2 ^ 60 < n + 1) :
    roundW mode h false { n := n, k := -60, more := true } = rounded mode h false y := by
  have hx : ({ n := n, k := -60, more := true } : Mag).Holds (y * 2 ^ 60) :=
    { ne_zero := (lt_of_lt_of_le (Nat.two_pow_pos 43) hn).ne', lower := hlo.le, upper := hhi, more := iff_of_true rfl hlo.ne', long := fun _ => hn }
  have hunit : (2 : ℝ) ^ 60 * 2 ^ (-60 : Int) = 1 := by norm_num
  rw [hx.roundW mode hh, mul_assoc, hunit, mul_one]

omit hh in
/-- 2^u lies above its tangent at 0, whose slope is at most 1. -/
theorem one_add_le_two_rpow {u : ℝ} (hu : u ≤ 0) : 1 + u ≤ (2 : ℝ) ^ u := by
  have hl : Real.log 2 ≤ 1 := Real.log_two_lt_d9.le.trans (by norm_num)
  have hmul := mul_le_mul_of_nonpos_right hl hu
  rw [one_mul] at hmul
  rw [Real.rpow_def_of_pos two_pos, add_comm]
  exact (add_le_add_left hmul 1).trans (Real.add_one_le_exp _)

omit hh in
/-- 2^u lies below its chord between 0 and 1. -/
theorem two_rpow_le_one_add {u : ℝ} (h0 : 0 ≤ u) (h1 : u ≤ 1) : (2 : ℝ) ^ u ≤ 1 + u := by
  have hb := rpow_one_add_le_one_add_mul_self (s := 1) (p := u) (by norm_num) h0 h1
  rwa [one_add_one_eq_two, mul_one] at hb

/-- A power of two of an exponent below 2^−60 is 1 and a little more, or a little less. -/
theorem roundW_two_rpow_small {s : Bool} {u : ℝ} (hs : decide (u < 0) = s) (hne : u ≠ 0) (hu : |u| * 2 ^ 60 < 1) :
    (if s then roundW mode h false { n := 2 ^ 61 - 1, k := -61, more := true } else roundW mode h false { n := 2 ^ 60, k := -60, more := true })
      = rounded mode h false ((2 : ℝ) ^ u) := by
  have hS : (0 : ℝ) < 2 ^ 60 := pow_pos two_pos 60
  have hcast : ((2 ^ 60 : Nat) : ℝ) = 2 ^ 60 := Nat.cast_pow 2 60
  cases s with
  | true =>
    have hneg := of_decide_eq_true hs
    have hcast1 : ((2 ^ 60 - 1 : Nat) : ℝ) + 1 = 2 ^ 60 := by rw [← Nat.cast_add_one, Nat.sub_add_cancel Nat.one_le_two_pow, hcast]
    rw [abs_of_neg hneg, neg_mul, neg_lt] at hu
    rw [if_pos rfl, roundW_below_one mode h]
    refine roundW_of_between mode hh (by decide) ?_ ?_
    · refine lt_of_lt_of_le ?_ (mul_le_mul_of_nonneg_right (one_add_le_two_rpow hneg.le) hS.le)
      rw [add_mul, one_mul, ← hcast1, add_assoc]
      exact lt_add_of_pos_right _ (neg_lt_iff_pos_add'.1 (hcast1 ▸ hu))
    · rw [hcast1]
      exact mul_lt_of_lt_one_left hS (Real.rpow_lt_one_of_one_lt_of_neg one_lt_two hneg)
  | false =>
    have hpos : 0 < u := lt_of_le_of_ne (not_lt.1 (of_decide_eq_false hs)) hne.symm
    have hle : u ≤ 1 := by
      refine le_of_lt (lt_of_le_of_lt ?_ hu)
      rw [abs_of_pos hpos]
      exact le_mul_of_one_le_right hpos.le (one_le_pow₀ one_le_two)
    rw [abs_of_pos hpos] at hu
    rw [if_neg Bool.false_ne_true]
    refine roundW_of_between mode hh (by decide) ?_ ?_
    · rw [hcast]
      exact lt_mul_of_one_lt_left hS (Real.one_lt_rpow one_lt_two hpos)
    · refine lt_of_le_of_lt (mul_le_mul_of_nonneg_right (two_rpow_le_one_add hpos.le hle) hS.le) ?_
      rw [add_mul, one_mul, hcast]
      exact add_lt_add_right hu _

/-- A power of two whose exponent has a fraction at scale 2^160. -/
theorem exp2_of_fraction {i : Int} {f : Nat} {a : Int} {j : Nat} (hf0 : f ≠ 0) (hf : f < 2 ^ 160) (ha : (a : ℝ) / 2 ^ j = i + (f : ℝ) / 2 ^ 160) :
    roundIrrational mode h false (exp2Fix f) (2 ^ 12) (i - 160) (exp2Below a j) = rounded mode h false ((2 : ℝ) ^ ((a : ℝ) / 2 ^ j)) := by
  obtain ⟨hlo, hhi⟩ := exp2Fix_bounds hf
  have hcast : ((2 ^ 160 : Nat) : ℝ) = 2 ^ 160 := Nat.cast_pow 2 160
  have hone : 1 ≤ (2 : ℝ) ^ ((f : ℝ) / 2 ^ 160) := Real.one_le_rpow one_le_two (div_nonneg (Nat.cast_nonneg f) (pow_nonneg zero_le_two 160))
  have hn : 2 ^ 160 ≤ exp2Fix f + 2 ^ 12 := by
    have h := (le_mul_of_one_le_right (pow_nonneg zero_le_two 160) hone).trans hhi
    exact_mod_cast h
  have hlog : 159 ≤ (exp2Fix f).log2 := (Nat.le_log2 (by omega)).2 (by omega)
  have hirr : Irrational (2 ^ 160 * (2 : ℝ) ^ ((f : ℝ) / 2 ^ 160)) := by
    have := (irrational_two_rpow_div (Nat.pos_of_ne_zero hf0) hf).natCast_mul (Nat.two_pow_pos 160).ne'
    rwa [hcast] at this
  have hpow : 2 ^ 160 * (2 : ℝ) ^ ((f : ℝ) / 2 ^ 160) * (2 : ℝ) ^ (i - 160) = (2 : ℝ) ^ ((a : ℝ) / 2 ^ j) := by
    rw [ha, Real.rpow_add two_pos, Real.rpow_intCast, mul_right_comm, ← zpow_natCast, ← zpow_add₀ two_ne_zero, Nat.cast_ofNat, add_sub_cancel]
  rw [← hpow]
  refine roundIrrational_eq_rounded mode hh false (by omega) hlo (hhi.trans_eq (by rw [Nat.cast_pow, Nat.cast_ofNat])) (Nat.pow_le_pow_right two_pos (by omega)) hirr fun v hv => ?_
  rw [hpow, exp2Below_iff a j _ hv]

/-- R102: FEXP2. -/
theorem exp2Real_eq_roundedTo {x : Nat} {u : ℚ} (hx : valueOf (readW x) = some u) : exp2Real mode h x = roundedTo mode h ((2 : ℝ) ^ (u : ℝ)) := by
  obtain ⟨s, m, k, hw, rfl⟩ := eq_fin_of_valueOf hx
  rw [roundedTo_of_pos mode h (by positivity)]
  by_cases hm : m = 0
  · have hone : (2 : ℝ) ^ ((finVal s m k : ℚ) : ℝ) = 2 ^ (0 : Int) := by simp [finVal, hm]
    rw [hone, ← roundW_two_zpow mode hh, exp2Real_of_zero mode h hw hm]
    rfl
  by_cases hbig : ({ n := m, k := k } : Mag).exp ≥ 12
  · rw [exp2Real_of_big mode h hw hm hbig, roundW_two_rpow_large mode hh (cast_finVal_neg_iff hm) (le_abs_finVal_of_exp hm hbig)]
  by_cases hsmall : ({ n := m, k := k } : Mag).exp < -60
  · have hne : ((finVal s m k : ℚ) : ℝ) ≠ 0 := Rat.cast_ne_zero.2 (finVal_ne_zero_iff.2 hm)
    rw [exp2Real_of_small mode h hw hm hsmall, roundW_two_rpow_small mode hh (cast_finVal_neg_iff hm) hne (abs_finVal_lt_of_exp hm hsmall)]
  have hv := finVal_eq_exp2Exponent (s := s) (m := m) (neg_160_le_of_exp hm (readW_fin_bounds hw).1 hsmall)
  have hf : (exp2Exponent s m k % 2 ^ 160).toNat < 2 ^ 160 := by omega
  have hf0 : (exp2Exponent s m k % 2 ^ 160).toNat ≠ 0 → k ≤ 0 := fun hne => not_lt.1 fun hk => hne (by rw [exp2Exponent_emod_of_nonneg hk.le]; rfl)
  rw [exp2Real_of_mid mode h hw hm hbig hsmall]
  generalize exp2Exponent s m k / 2 ^ 160 = i at hv ⊢
  generalize (exp2Exponent s m k % 2 ^ 160).toNat = f at hv hf hf0 ⊢
  split_ifs with hzero
  · rw [roundW_two_zpow mode hh, hv, hzero, Nat.cast_zero, zero_div, add_zero, Real.rpow_intCast]
  · have hscaled := scaled_div_two_pow s m (hf0 hzero)
    rw [exp2_of_fraction mode hh hzero hf (hscaled.trans hv), hscaled]

end Exp2

end Sys2Proof.Machine
end

section
/-! SUPPORT. Logarithms (R102, O51): the binary digits of a logarithm by repeated squaring, and FLOG2. -/
namespace Sys2Proof.Machine
open Sys2Proof.Claims

/-! ### Digits by repeated squaring -/

/-- The logarithm of `t` at scale 2^256. -/
noncomputable def log2Frac (t : Nat) : ℝ := Real.logb 2 t - 256

theorem logb_two_pow (n : Nat) : Real.logb 2 ((2 ^ n : Nat) : ℝ) = n := by
  rw [Nat.cast_pow, Nat.cast_ofNat, Real.logb_pow, Real.logb_self_eq_one one_lt_two, mul_one]

theorem logb_two_le {a b : Nat} (ha : a ≠ 0) (hab : a ≤ b) : Real.logb 2 a ≤ Real.logb 2 b :=
  Real.logb_le_logb_of_le one_lt_two (Nat.cast_pos.2 (Nat.pos_of_ne_zero ha)) (Nat.cast_le.2 hab)

theorem log2Frac_mem {t : Nat} (hlo : 2 ^ 256 ≤ t) (hhi : t < 2 ^ 257) : 0 ≤ log2Frac t ∧ log2Frac t ≤ 1 := by
  have h1 := logb_two_le (Nat.two_pow_pos 256).ne' hlo
  have h2 := logb_two_le (lt_of_lt_of_le (Nat.two_pow_pos 256) hlo).ne' hhi.le
  rw [logb_two_pow] at h1 h2
  exact ⟨sub_nonneg.2 h1, sub_le_iff_le_add'.2 (h2.trans_eq (by norm_num))⟩

/-- A logarithm to base 2 is at most twice the natural one. -/
theorem logb_le_two_mul {x : ℝ} (hx : 1 ≤ x) : Real.logb 2 x ≤ (x - 1) / (1 / 2) :=
  div_le_div₀ (sub_nonneg.2 hx) (Real.log_le_sub_one_of_pos (lt_of_lt_of_le one_pos hx)) one_half_pos (le_trans (by norm_num) Real.log_two_gt_d9.le)

/-- A number rounded down to an integer from 2^256 on loses little of its logarithm. -/
theorem logb_floor_bounds {q : Nat} {z : ℝ} (hq : 2 ^ 256 ≤ q) (hlo : (q : ℝ) ≤ z) (hhi : z ≤ q + 1) :
    Real.logb 2 q ≤ Real.logb 2 z ∧ Real.logb 2 z ≤ Real.logb 2 q + 1 / 2 ^ 255 := by
  have hS : (0 : ℝ) < 2 ^ 256 := pow_pos two_pos 256
  have hq' : (2 : ℝ) ^ 256 ≤ q := by exact_mod_cast hq
  have hq0 : (0 : ℝ) < q := hS.trans_le hq'
  have hz0 : 0 < z := hq0.trans_le hlo
  refine ⟨Real.logb_le_logb_of_le one_lt_two hq0 hlo, ?_⟩
  have hgap : z / q - 1 ≤ 1 / 2 ^ 256 := by
    rw [div_sub_one hq0.ne']
    exact div_le_div₀ zero_le_one (sub_le_iff_le_add'.2 hhi) hS hq'
  have hdiff : Real.logb 2 (z / q) ≤ 1 / 2 ^ 255 :=
    (logb_le_two_mul ((one_le_div hq0).2 hlo)).trans ((div_le_div_of_nonneg_right hgap one_half_pos.le).trans_eq (by norm_num))
  rw [Real.logb_div hz0.ne' hq0.ne'] at hdiff
  exact sub_le_iff_le_add'.1 hdiff

/-- The next digit of `log2Digits`. -/
def log2Bit (t : Nat) : Nat := if t * t / 2 ^ 256 ≥ 2 ^ 257 then 1 else 0

/-- What `log2Digits` goes on with. -/
def log2Next (t : Nat) : Nat := t * t / (2 ^ 256 * 2 ^ log2Bit t)

theorem log2Digits_succ (n t acc : Nat) : log2Digits (n + 1) t acc = log2Digits n (log2Next t) (2 * acc + log2Bit t) := by
  rw [log2Digits, log2Next, ← Nat.div_div_eq_div_mul, log2Bit]
  split_ifs
  · rfl
  · rw [Nat.pow_zero, Nat.div_one, Nat.add_zero]

theorem log2Next_mem {t : Nat} (hlo : 2 ^ 256 ≤ t) (hhi : t < 2 ^ 257) : 2 ^ 256 ≤ log2Next t ∧ log2Next t < 2 ^ 257 := by
  have hqlo : 2 ^ 256 ≤ t * t / 2 ^ 256 := (Nat.le_div_iff_mul_le (Nat.two_pow_pos 256)).2 (Nat.mul_le_mul hlo hlo)
  have hqhi : t * t / 2 ^ 256 < 2 * 2 ^ 257 := Nat.div_lt_of_lt_mul (lt_of_lt_of_le (Nat.mul_lt_mul'' hhi hhi) (by rw [← pow_succ', ← pow_add, ← pow_add]))
  rw [log2Next, ← Nat.div_div_eq_div_mul, log2Bit]
  split_ifs with h
  · rw [pow_one]
    exact ⟨by omega, Nat.div_lt_of_lt_mul hqhi⟩
  · rw [Nat.pow_zero, Nat.div_one]
    exact ⟨hqlo, not_le.1 h⟩

/-- Squaring doubles a logarithm, and the digit is its integer part, but for the loss of the rounding. -/
theorem log2Frac_next {t : Nat} (hlo : 2 ^ 256 ≤ t) (hhi : t < 2 ^ 257) :
    log2Bit t + log2Frac (log2Next t) ≤ 2 * log2Frac t ∧ 2 * log2Frac t ≤ log2Bit t + log2Frac (log2Next t) + 1 / 2 ^ 255 := by
  have ht : (t : ℝ) ≠ 0 := Nat.cast_ne_zero.2 (lt_of_lt_of_le (Nat.two_pow_pos 256) hlo).ne'
  have hd : 2 ^ 256 * 2 ^ log2Bit t ≠ 0 := (Nat.mul_pos (Nat.two_pow_pos _) (Nat.two_pow_pos _)).ne'
  obtain ⟨h1, h2, -⟩ := natDiv_bounds (K := ℝ) (t * t) hd
  obtain ⟨h3, h4⟩ := logb_floor_bounds (log2Next_mem hlo hhi).1 h1 h2.le
  have hlog : 2 * log2Frac t = log2Bit t + (Real.logb 2 (((t * t : Nat) : ℝ) / (2 ^ 256 * 2 ^ log2Bit t : Nat)) - 256) := by
    rw [Real.logb_div (by rw [Nat.cast_mul]; exact mul_ne_zero ht ht) (Nat.cast_ne_zero.2 hd), Nat.cast_mul, Real.logb_mul ht ht, ← pow_add, logb_two_pow, log2Frac]
    push_cast
    ring
  rw [hlog, add_assoc, log2Frac, sub_add_eq_add_sub]
  exact ⟨add_le_add_right (sub_le_sub_right h3 _) _, add_le_add_right (sub_le_sub_right h4 _) _⟩

/-- The digits that repeated squaring finds are those of the logarithm, but for less than one unit and the losses of the squarings. -/
theorem log2Digits_bounds (n : Nat) {t : Nat} (acc : Nat) (hlo : 2 ^ 256 ≤ t) (hhi : t < 2 ^ 257) :
    (log2Digits n t acc : ℝ) ≤ 2 ^ n * (acc + log2Frac t) ∧ 2 ^ n * (acc + log2Frac t) ≤ log2Digits n t acc + 1 + (2 ^ n - 1) * (1 / 2 ^ 255) := by
  induction n generalizing t acc with
  | zero =>
    obtain ⟨h1, h2⟩ := log2Frac_mem hlo hhi
    rw [log2Digits, pow_zero, one_mul, sub_self, zero_mul, add_zero]
    exact ⟨le_add_of_nonneg_right h1, add_le_add_right h2 _⟩
  | succ n ih =>
    obtain ⟨hnlo, hnhi⟩ := log2Next_mem hlo hhi
    obtain ⟨h1, h2⟩ := log2Frac_next hlo hhi
    obtain ⟨ih1, ih2⟩ := ih (2 * acc + log2Bit t) hnlo hnhi
    have hp : (0 : ℝ) ≤ 2 ^ n := pow_nonneg zero_le_two n
    have hsplit : (2 : ℝ) ^ (n + 1) * (acc + log2Frac t) = 2 ^ n * (2 * acc + 2 * log2Frac t) := by rw [pow_succ, mul_assoc, mul_add]
    rw [Nat.cast_add, Nat.cast_mul, Nat.cast_ofNat, add_assoc] at ih1 ih2
    rw [log2Digits_succ, hsplit]
    constructor
    · exact ih1.trans (mul_le_mul_of_nonneg_left (add_le_add_right h1 _) hp)
    · refine (mul_le_mul_of_nonneg_left (add_le_add_right h2 _) hp).trans ?_
      rw [← add_assoc, mul_add]
      refine (add_le_add_left ih2 _).trans_eq ?_
      rw [pow_succ]
      ring

/-! ### The logarithm of a significand -/

/-- A logarithm to base 2 is at least the natural one. -/
theorem one_sub_inv_le_logb {x : ℝ} (hx : 1 ≤ x) : 1 - x⁻¹ ≤ Real.logb 2 x :=
  (Real.one_sub_inv_le_log_of_pos (lt_of_lt_of_le one_pos hx)).trans
    (le_div_self (Real.log_nonneg hx) (Real.log_pos one_lt_two) (Real.log_two_lt_d9.le.trans (by norm_num)))

/-- The logarithms of different significands differ. -/
theorem le_logb_sub_logb {a b : Nat} (ha : a ≠ 0) (hab : a < b) (hb : b ≤ 2 ^ 28) : 1 / 2 ^ 28 ≤ Real.logb 2 b - Real.logb 2 a := by
  have ha0 : (0 : ℝ) < a := Nat.cast_pos.2 (Nat.pos_of_ne_zero ha)
  have hab' : (a : ℝ) + 1 ≤ b := by exact_mod_cast hab
  have hb' : (b : ℝ) ≤ 2 ^ 28 := by exact_mod_cast hb
  have hb0 : (0 : ℝ) < b := ha0.trans (Nat.cast_lt.2 hab)
  rw [← Real.logb_div hb0.ne' ha0.ne']
  refine le_trans ?_ (one_sub_inv_le_logb ((one_le_div ha0).2 (Nat.cast_le.2 hab.le)))
  rw [inv_div, one_sub_div hb0.ne']
  exact div_le_div₀ (sub_nonneg.2 (Nat.cast_le.2 hab.le)) (le_sub_iff_add_le'.2 hab') hb0 hb'

/-- A significand that is no power of two lies well between two of them. -/
theorem logb_significand_mem {m : Nat} (hm : m < 2 ^ 28) (h0 : m ≠ 0) (hne : m ≠ 2 ^ m.log2) :
    1 / 2 ^ 28 ≤ Real.logb 2 m - m.log2 ∧ Real.logb 2 m - m.log2 ≤ 1 - 1 / 2 ^ 28 := by
  have hlo : 2 ^ m.log2 < m := lt_of_le_of_ne (Nat.log2_self_le h0) hne.symm
  have h1 := le_logb_sub_logb (Nat.two_pow_pos _).ne' hlo hm.le
  have h2 := le_logb_sub_logb h0 Nat.lt_log2_self (Nat.pow_le_pow_right two_pos ((Nat.log2_lt h0).2 hm))
  rw [logb_two_pow] at h1 h2
  refine ⟨h1, le_sub_comm.1 (h2.trans_eq ?_)⟩
  rw [Nat.cast_add_one, sub_sub_eq_add_sub, add_comm]

/-- The logarithm of a natural number that is no power of two is irrational. -/
theorem irrational_logb_two {m : Nat} (h0 : m ≠ 0) (hne : m ≠ 2 ^ m.log2) : Irrational (Real.logb 2 m) := by
  rintro ⟨r, hr⟩
  have hm0 : (0 : ℝ) < m := Nat.cast_pos.2 (Nat.pos_of_ne_zero h0)
  have hr0 : 0 ≤ r := by
    have : (0 : ℝ) ≤ r := hr ▸ Real.logb_nonneg one_lt_two (by exact_mod_cast Nat.one_le_iff_ne_zero.2 h0)
    exact_mod_cast this
  have hden : (r.den : ℝ) ≠ 0 := Nat.cast_ne_zero.2 r.den_nz
  have hnum : (r : ℝ) * r.den = (r.num.toNat : ℝ) := by
    have h1 : (r : ℚ) * r.den = r.num := Rat.mul_den_eq_num r
    have h2 : ((r.num.toNat : Int) : ℚ) = r.num := by rw [Int.toNat_of_nonneg (Rat.num_nonneg.2 hr0)]
    exact_mod_cast h1.trans h2.symm
  -- m to the denominator is 2 to the numerator, so m divides a power of two.
  have hpow : m ^ r.den = 2 ^ r.num.toNat := by
    have : (m : ℝ) ^ r.den = 2 ^ r.num.toNat := by
      rw [← Real.rpow_natCast 2, ← hnum, hr, Real.rpow_mul zero_le_two, Real.rpow_logb two_pos (by norm_num) hm0, Real.rpow_natCast]
    exact_mod_cast this
  obtain ⟨j, -, hj⟩ := (Nat.dvd_prime_pow Nat.prime_two).1 (hpow ▸ dvd_pow_self m r.den_nz)
  exact hne (by rw [hj, Nat.log2_two_pow])

/-! ### The test of `log2Real` -/

/-- A power of two times a natural number against 1, in natural numbers. -/
theorem mul_zpow_lt_one_iff (M : Nat) (e : Int) :
    (M : ℝ) * (2 : ℝ) ^ e < 1 ↔ (if 0 ≤ e then decide (M * 2 ^ e.toNat < 1) else decide (M < 2 ^ (-e).toNat)) = true := by
  split_ifs with he
  · lift e to Nat using he
    rw [decide_eq_true_eq, Int.toNat_natCast, zpow_natCast]
    exact_mod_cast Iff.rfl
  · rw [decide_eq_true_eq, two_zpow_of_nonpos (by omega), ← div_eq_mul_inv, div_lt_one (by positivity)]
    exact_mod_cast Iff.rfl

theorem one_lt_mul_zpow_iff (M : Nat) (e : Int) :
    1 < (M : ℝ) * (2 : ℝ) ^ e ↔ (if 0 ≤ e then decide (1 < M * 2 ^ e.toNat) else decide (2 ^ (-e).toNat < M)) = true := by
  split_ifs with he
  · lift e to Nat using he
    rw [decide_eq_true_eq, Int.toNat_natCast, zpow_natCast]
    exact_mod_cast Iff.rfl
  · rw [decide_eq_true_eq, two_zpow_of_nonpos (by omega), ← div_eq_mul_inv, one_lt_div (by positivity)]
    exact_mod_cast Iff.rfl

/-- The logarithm of a power, shifted. -/
theorem logb_pow_mul_zpow {m : Nat} (h0 : m ≠ 0) (q : Nat) (e : Int) : Real.logb 2 (((m ^ q : Nat) : ℝ) * (2 : ℝ) ^ e) = q * Real.logb 2 m + e := by
  have hm0 : (m : ℝ) ≠ 0 := Nat.cast_ne_zero.2 h0
  rw [Nat.cast_pow, Real.logb_mul (pow_ne_zero _ hm0) (by positivity), Real.logb_pow, ← Real.rpow_intCast, Real.logb_rpow two_pos (by norm_num)]

/-- What `log2Below` tests of a logarithm that is not 0, at a scale of at most 0. -/
theorem log2Below_iff {m : Nat} (h0 : m ≠ 0) (k : Int) {neg : Bool} (hneg : neg = decide (Real.logb 2 m + k < 0)) (v : Nat) {c : Int} (hc : c ≤ 0) :
    log2Below m k neg v c = true ↔ |Real.logb 2 m + k| < v * (2 : ℝ) ^ c := by
  have hp : (2 : ℝ) ^ c = (((2 ^ (-c).toNat : Nat) : ℝ))⁻¹ := by
    rw [Nat.cast_pow, Nat.cast_ofNat, two_zpow_of_nonpos hc]
  have hq : 0 < 2 ^ (-c).toNat := Nat.two_pow_pos _
  have hpos (q : Nat) (e : Int) : (0 : ℝ) < ((m ^ q : Nat) : ℝ) * (2 : ℝ) ^ e := by exact mul_pos (Nat.cast_pos.2 (Nat.pow_pos (Nat.pos_of_ne_zero h0))) (zpow_pos two_pos _)
  rw [hp, log2Below]
  generalize 2 ^ (-c).toNat = q at hq
  have hq' : (0 : ℝ) < q := Nat.cast_pos.2 hq
  rw [← div_eq_mul_inv, lt_div_iff₀ hq']
  cases neg with
  | true =>
    rw [if_pos rfl, if_pos rfl, ← one_lt_mul_zpow_iff, ← Real.logb_pos_iff one_lt_two (hpos ..), logb_pow_mul_zpow h0, abs_of_neg (of_decide_eq_true hneg.symm)]
    have hsum : q * Real.logb 2 m + ((k * (q : Int) + v : Int) : ℝ) = (Real.logb 2 m + k) * q + v := by push_cast; ring
    rw [hsum, neg_mul, neg_lt_iff_pos_add']
  | false =>
    rw [if_neg Bool.false_ne_true, if_neg Bool.false_ne_true, ← mul_zpow_lt_one_iff, ← Real.logb_neg_iff one_lt_two (hpos ..), logb_pow_mul_zpow h0,
      abs_of_nonneg (not_lt.1 (of_decide_eq_false hneg.symm))]
    have hsum : q * Real.logb 2 m + ((k * (q : Int) - v : Int) : ℝ) = (Real.logb 2 m + k) * q - v := by push_cast; ring
    rw [hsum, sub_neg]

/-! ### FLOG2 -/

/-- `e · 2^112` and the first 112 digits stand for the logarithm to less than two units. -/
theorem log2_fixed_bounds {m : Nat} (h0 : m ≠ 0) (hm : m < 2 ^ 28) (e : Int) :
    ((e * 2 ^ 112 + log2Digits 112 (m * 2 ^ (256 - m.log2)) 0 : Int) : ℝ) ≤ (e + (Real.logb 2 m - m.log2)) * 2 ^ 112
      ∧ (e + (Real.logb 2 m - m.log2)) * 2 ^ 112 ≤ ((e * 2 ^ 112 + log2Digits 112 (m * 2 ^ (256 - m.log2)) 0 : Int) : ℝ) + 2 := by
  obtain ⟨hlo, hhi⟩ := natLog2_bounds h0
  have hlog : m.log2 ≤ 256 := ((Nat.log2_lt h0).2 hm).le.trans (by decide)
  have hsplit : 2 ^ m.log2 * 2 ^ (256 - m.log2) = 2 ^ 256 := by rw [← pow_add, Nat.add_sub_cancel' hlog]
  have hfrac : log2Frac (m * 2 ^ (256 - m.log2)) = Real.logb 2 m - m.log2 := by
    rw [log2Frac, Nat.cast_mul, Real.logb_mul (Nat.cast_ne_zero.2 h0) (Nat.cast_ne_zero.2 (Nat.two_pow_pos _).ne'), logb_two_pow, Nat.cast_sub hlog, Nat.cast_ofNat,
      add_sub_assoc, sub_sub_cancel_left, sub_eq_add_neg]
  obtain ⟨h1, h2⟩ := log2Digits_bounds 112 (t := m * 2 ^ (256 - m.log2)) 0 (hsplit ▸ Nat.mul_le_mul_right _ hlo)
    (by rw [pow_succ 2 256, ← hsplit, mul_right_comm, ← pow_succ]; exact Nat.mul_lt_mul_of_pos_right hhi (Nat.two_pow_pos _))
  rw [hfrac, Nat.cast_zero, zero_add, mul_comm (2 ^ 112)] at h1 h2
  generalize log2Digits 112 (m * 2 ^ (256 - m.log2)) 0 = D at *
  have hloss : 1 + ((2 : ℝ) ^ 112 - 1) * (1 / 2 ^ 255) ≤ 2 := by norm_num
  rw [Int.cast_add, Int.cast_mul, Int.cast_pow, Int.cast_ofNat, Int.cast_natCast, add_mul, add_assoc]
  rw [add_assoc] at h2
  exact ⟨add_le_add_right h1 _, add_le_add_right (h2.trans (add_le_add_right hloss _)) _⟩

/-- R102: FLOG2 of a power of two is exact. -/
theorem log2_of_two_pow (mode : Rounding) {h : Nat} (hh : h < 2 ^ 16) {e : Int} (he : e ≠ 0) : roundFin mode h (e < 0) e.natAbs 0 false = roundedTo mode h (e : ℝ) := by
  rw [roundFin_eq_rounded (R := ℝ) mode hh _ _ _ (Int.natAbs_ne_zero.2 he), roundedTo, zpow_zero, mul_one, Nat.cast_natAbs, Int.cast_abs]
  congr 1
  exact decide_eq_decide.2 (by exact_mod_cast Iff.rfl)

/-- An integer and a fraction away from both ends: the sign is the integer's, and the sum stays away from 0. -/
theorem int_add_fraction_bounds (e : Int) {F c : ℝ} (hc : 0 < c) (hF0 : c ≤ F) (hF1 : F ≤ 1 - c) : decide (e < 0) = decide (e + F < 0) ∧ c ≤ |e + F| := by
  rcases lt_or_ge e 0 with hneg | hpos
  · have he : (e : ℝ) ≤ -1 := by exact_mod_cast Int.le_sub_one_of_lt hneg
    have hL : e + F ≤ -c := (add_le_add he hF1).trans_eq (by rw [sub_eq_add_neg, neg_add_cancel_left])
    exact ⟨decide_eq_decide.2 (iff_of_true hneg (hL.trans_lt (neg_lt_zero.2 hc))), le_abs.2 (.inr (le_neg.1 hL))⟩
  · have hL : c ≤ e + F := le_add_of_nonneg_of_le (Int.cast_nonneg hpos) hF0
    exact ⟨decide_eq_decide.2 (iff_of_false (not_lt.2 hpos) (not_lt.2 (hc.le.trans hL))), le_abs.2 (.inl hL)⟩

/-- The magnitude of an integer is as close to the magnitude of a number as the integer is to the number. -/
theorem abs_sub_natAbs_le {v : Int} {y : ℝ} (h1 : v ≤ y) (h2 : y ≤ v + 2) : |y| ≤ v.natAbs + 2 ∧ (v.natAbs : ℝ) ≤ |y| + 2 := by
  have h3 : |y - v| ≤ 2 := (abs_of_nonneg (sub_nonneg.2 h1)).trans_le (sub_le_iff_le_add'.2 h2)
  rw [Nat.cast_natAbs, Int.cast_abs]
  exact ⟨sub_le_iff_le_add'.1 ((abs_sub_abs_le_abs_sub y v).trans h3), sub_le_iff_le_add'.1 ((abs_sub_abs_le_abs_sub _ y).trans (abs_sub_comm y v ▸ h3))⟩

/-- R70: an irrational number of the size of a logarithm, known to two units at scale 2^112, is rounded once. -/
theorem roundIrrational_of_log (mode : Rounding) {h : Nat} (hh : h < 2 ^ 16) {s : Bool} {L : ℝ} {N : Nat} {below : Nat → Int → Bool} (hs : s = decide (L < 0)) (hirr : Irrational L)
    (hmin : 1 / 2 ^ 28 ≤ |L|) (hmax : |L| ≤ 2 ^ 11) (hN : |L| * 2 ^ 112 ≤ N + 2 ∧ (N : ℝ) ≤ |L| * 2 ^ 112 + 2)
    (hbelow : ∀ (v : Nat) {c : Int}, c ≤ 0 → (below v c = true ↔ |L| < v * (2 : ℝ) ^ c)) :
    roundIrrational mode h s (N - 16) 32 (-112) below = roundedTo mode h L := by
  obtain ⟨hlo, hhi⟩ := hN
  have hS : (0 : ℝ) ≤ 2 ^ 112 := pow_nonneg zero_le_two 112
  have hN1 : 2 ^ 84 ≤ N + 2 := by
    have h1 : (2 : ℝ) ^ 84 ≤ |L| * 2 ^ 112 := le_trans (by norm_num) (mul_le_mul_of_nonneg_right hmin hS)
    exact_mod_cast h1.trans hlo
  have hN2 : N ≤ 2 ^ 123 + 2 := by
    have h1 : |L| * 2 ^ 112 ≤ (2 : ℝ) ^ 123 := (mul_le_mul_of_nonneg_right hmax hS).trans (by norm_num)
    exact_mod_cast hhi.trans (add_le_add_left h1 2)
  obtain ⟨n, rfl⟩ : ∃ n, N = n + 16 := ⟨N - 16, by omega⟩
  rw [Nat.add_sub_cancel]
  rw [Nat.cast_add, Nat.cast_ofNat] at hlo hhi
  have hn : 2 ^ 82 ≤ n := by omega
  have hn0 : n ≠ 0 := (lt_of_lt_of_le (Nat.two_pow_pos 82) hn).ne'
  have hn1 : 82 ≤ n.log2 := (Nat.le_log2 hn0).2 hn
  have hn2 : n.log2 < 124 := (Nat.log2_lt hn0).2 (by omega)
  have hw : 32 ≤ 2 ^ (n.log2 - 60) := le_trans (by decide : 32 ≤ 2 ^ 22) (Nat.pow_le_pow_right two_pos (Nat.le_sub_of_add_le hn1))
  have hscale : |L| * 2 ^ 112 * (2 : ℝ) ^ (-112 : Int) = |L| := by
    have : (2 : ℝ) ^ 112 * 2 ^ (-112 : Int) = 1 := by norm_num
    rw [mul_assoc, this, mul_one]
  have hirr' : Irrational (|L| * 2 ^ 112) := by
    have h1 : Irrational |L| := by rcases abs_choice L with h | h <;> rw [h]; exacts [hirr, hirr.neg]
    have h2 := h1.mul_natCast (Nat.two_pow_pos 112).ne'
    rwa [Nat.cast_pow, Nat.cast_ofNat] at h2
  have hlo' : (n : ℝ) ≤ |L| * 2 ^ 112 := le_of_add_le_add_right ((add_le_add_right (by norm_num : (2 : ℝ) ≤ 16) _).trans hhi)
  have hhi' : |L| * 2 ^ 112 ≤ n + (32 : Nat) := hlo.trans (by rw [add_assoc]; exact add_le_add_right (by norm_num) _)
  rw [roundIrrational_eq_rounded mode hh s (le_trans (by decide) hn) hlo' hhi' hw hirr' fun v _ => ?_, hscale, roundedTo, hs]
  rw [hscale, hbelow v (by omega)]

/-- R102: FLOG2 of a significand that is no power of two, at an exponent of a word. -/
theorem log2_of_irrational (mode : Rounding) {h : Nat} (hh : h < 2 ^ 16) {m : Nat} {k : Int} (h0 : m ≠ 0) (hm : m < 2 ^ 28) (hk : -1050 ≤ k ∧ k ≤ 996) (hne : m ≠ 2 ^ m.log2) :
    let e := (m.log2 : Int) + k
    let v := e * 2 ^ 112 + log2Digits 112 (m * 2 ^ (256 - m.log2)) 0
    roundIrrational mode h (e < 0) (v.natAbs - 16) 32 (-112) (log2Below m k (e < 0)) = roundedTo mode h (Real.logb 2 m + k) := by
  intro e v
  obtain ⟨hF0, hF1⟩ := logb_significand_mem hm h0 hne
  obtain ⟨hsign, hmin⟩ := int_add_fraction_bounds e (by norm_num) hF0 hF1
  obtain ⟨hv1, hv2⟩ := log2_fixed_bounds h0 hm e
  have hL : (e : ℝ) + (Real.logb 2 m - m.log2) = Real.logb 2 m + k := by rw [show (e : ℝ) = m.log2 + k by push_cast [e]; rfl]; ring
  have hmax : |(e : ℝ) + (Real.logb 2 m - m.log2)| ≤ 2 ^ 11 := by
    have he : -1050 ≤ e ∧ e ≤ 1023 := by have := (Nat.log2_lt h0).2 hm; omega
    have he1 : ((-1050 : Int) : ℝ) ≤ e := Int.cast_le.2 he.1
    have he2 : (e : ℝ) ≤ ((1023 : Int) : ℝ) := Int.cast_le.2 he.2
    have hF : 0 ≤ Real.logb 2 m - m.log2 := le_trans (by norm_num) hF0
    exact abs_le.2 ⟨le_trans (by norm_num) (he1.trans (le_add_of_nonneg_right hF)), (add_le_add he2 hF1).trans (by norm_num)⟩
  have hN := abs_sub_natAbs_le hv1 hv2
  rw [abs_mul, abs_of_pos (pow_pos two_pos 112 : (0 : ℝ) < 2 ^ 112)] at hN
  rw [hL] at hsign hmin hmax hN
  exact roundIrrational_of_log mode hh hsign ((irrational_logb_two h0 hne).add_intCast k) hmin hmax hN (log2Below_iff h0 k hsign)

/-- R102: FLOG2. -/
theorem log2Real_eq_roundedTo (mode : Rounding) {h : Nat} (hh : h < 2 ^ 16) {x : Nat} {u : ℚ} (hx : valueOf (readW x) = some u) (hu : 0 < u) (hne : u ≠ 1) :
    log2Real mode h x = roundedTo mode h (Real.logb 2 (u : ℝ)) := by
  obtain ⟨s, m, k, hw, rfl⟩ := eq_fin_of_valueOf hx
  obtain ⟨rfl, hm, hval⟩ := cast_finVal_of_pos hu
  obtain ⟨hm28, hk⟩ := readW_fin_bounds hw
  have hlog : Real.logb 2 ((finVal false m k : ℚ) : ℝ) = Real.logb 2 m + k := by
    have := logb_pow_mul_zpow hm 1 k
    rwa [pow_one, Nat.cast_one, one_mul, ← hval] at this
  rw [hlog, log2Real, hw]
  dsimp only
  rw [if_neg hm, if_neg Bool.false_ne_true]
  by_cases hpow : m = 2 ^ m.log2
  · have hsum : Real.logb 2 m + k = (((m.log2 : Int) + k : Int) : ℝ) := by
      have : Real.logb 2 m = m.log2 := by conv_lhs => rw [hpow, logb_two_pow]
      rw [this]; push_cast; rfl
    have he : (m.log2 : Int) + k ≠ 0 := fun h => hne <| by
      have hm' : (m : ℚ) = 2 ^ (m.log2 : Int) := by rw [zpow_natCast]; exact_mod_cast hpow
      rw [finVal, if_neg Bool.false_ne_true, one_mul, hm', ← zpow_add₀ two_ne_zero, h, zpow_zero]
    rw [if_pos hpow, hsum]
    exact log2_of_two_pow mode hh he
  · rw [if_neg hpow]
    exact log2_of_irrational mode hh hm hm28 hk hpow

/-- Settles O51: a value read from a word is exact, and each operation either rounds an exact magnitude once, or rounds one that it bounds so closely that the rounding is the same. -/
theorem roundingFollowsR70 : Obligations.RoundingFollowsR70 := by
  unfold Obligations.RoundingFollowsR70
  intro mode h hh
  refine ⟨fun s zs m k hm => roundFin_eq_rounded mode hh s zs k hm, fun x y z u v w n hx hy hz => ?_⟩
  have hfnma := fmaReal_eq_roundedTo mode hh hx hy hz true
  rw [if_pos rfl, ← sub_eq_add_neg] at hfnma
  exact ⟨addReal_eq_roundedTo mode hh hx hy, addReal_neg_eq_roundedTo mode hh hx hy, mulReal_eq_roundedTo mode hh hx hy,
    fmaReal_eq_roundedTo mode hh hx hy hz false, hfnma, divReal_eq_roundedTo mode hh hx hy, rcpReal_eq_roundedTo mode hh hx,
    scaleReal_eq_roundedTo mode hh hx n, ofIntReal_eq_roundedTo mode hh, fun hu => ⟨sqrtReal_eq_roundedTo mode hh hx hu, rsqReal_eq_roundedTo mode hh hx hu⟩,
    exp2Real_eq_roundedTo mode hh hx, log2Real_eq_roundedTo mode hh hx⟩

end Sys2Proof.Machine
end

section
/-! SUPPORT. Sums, differences, minima and maxima (O1), and the carry chain (O2): `int2` and `int1` as the result of an exact integer. -/
open Sys2Proof Sys2Proof.Machine Sys2Proof.Claims

namespace Sys2Proof.Laws

/-- R61, R82: a saturating member writes `v`, to which its exact result is clamped. -/
theorem completes_saturating {i : Instr} {g : Sgn} {f : Nat → Int → Int → Int} {d a b : Operand} {v : State → Int}
    (hx : ∀ s, exec i s = run i (int2 g true f d a b) s)
    (hv : ∀ s, narrow true g (f (destWidth d) ((s.src a).val g (destWidth d)) ((s.src b).val g (destWidth d))) (destWidth d)
      = (v s % ((2 ^ destWidth d : Nat) : Int)).toNat) : completes i (result d v) :=
  completes_of hx (funext fun s => by rw [int2, hv, result])

/-- R82: a member of one source writes what its operation gives, modulo 2^w. -/
theorem completes_int1 {i : Instr} {f : Int → Int} {d a : Operand} {v : State → Int} (hx : ∀ s, exec i s = run i (int1 .s f d a) s)
    (hv : ∀ s, f (sv s a (destWidth d)) = v s) : completes i (result d v) :=
  completes_of hx (funext fun s => by rw [result, ← hv]; rfl)

theorem ite_neg_eq_abs (x : Int) : (if x < 0 then -x else x) = |x| := by
  split
  · next h => exact (abs_of_neg h).symm
  · next h => exact (abs_of_nonneg (not_lt.mp h)).symm

/-- Settles O1: a saturating member clamps its exact result, every other one writes the same integer modulo 2^w. -/
theorem addFamilyResults : Obligations.AddFamilyResults := by
  unfold Obligations.AddFamilyResults
  intro g d a b
  refine ⟨?add, ?sub, ?adds, ?subs, ?addz, ?subz, ?neg, ?abs, ?mins, ?minz, ?maxs, ?maxz⟩
  case add | sub => exact completes_int2 (fun _ => rfl) fun _ => rfl
  case adds | subs => exact completes_saturating (fun _ => rfl) fun _ => narrow_sat_s _ _
  case addz | subz => exact completes_saturating (fun _ => rfl) fun _ => narrow_sat_z _ _
  case neg => exact completes_int1 (fun _ => rfl) fun _ => rfl
  case abs => exact completes_int1 (fun _ => rfl) fun _ => ite_neg_eq_abs _
  case mins | minz => exact completes_int2 (fun _ => rfl) fun _ => congrArg (· % _) (min_def _ _).symm
  case maxs | maxz => exact completes_int2 (fun _ => rfl) fun _ => congrArg (· % _) (max_def' _ _).symm

theorem b2n_cast (c : Bool) : ((b2n c : Nat) : Int) = if c then 1 else 0 := by cases c <;> rfl

/-- R83, R42: a carry instruction writes the carry to its predicate, then the result modulo 2^w through its dest field. -/
theorem completes_carryOp {i : Instr} {f : Nat → Int → Int → Int → Int × Bool} {d a b : Operand} {p : Nat} {x : State → Int} {out : State → Bool}
    (hx : ∀ s, exec i s = run i (carryOp f d a b p) s)
    (hf : ∀ s, f (destWidth d) (zv s a (destWidth d)) (zv s b (destWidth d)) (if s.regs.preds.getLsbD p then 1 else 0) = (x s, out s)) :
    completes i fun s => (({} : Eff).pred p (out s)).put s.ctxNo d (x s % (2 ^ destWidth d : Nat)).toNat :=
  completes_of hx (funext fun s => by
    have hs := hf s
    simp only [zv] at hs
    simp only [carryOp, b2n_cast, hs, wrap])

/-- Settles O2: the carry is out where the exact sum reaches 2^w, the borrow where the exact difference is negative. -/
theorem carryResults : Obligations.CarryResults := by
  unfold Obligations.CarryResults
  intro g d a b p
  refine ⟨completes_carryOp (fun _ => rfl) fun _ => rfl, completes_carryOp (fun _ => rfl) fun s => Prod.ext rfl ?_⟩
  exact decide_eq_decide.mpr (by rw [sub_sub, sub_neg])

end Sys2Proof.Laws
end

section
/-! SUPPORT. Logic, shifts, counts and bit reversal (O4): numbers by their bits. -/
open Sys2Proof Sys2Proof.Machine Sys2Proof.Claims

namespace Sys2Proof.Laws

/-! ### Bits of numbers -/

theorem bit_eq_testBit (x i : Nat) : bit x i = x.testBit i := by
  rw [Nat.testBit_eq_decide_div_mod_eq]; rfl

/-- A number of `w` bits is the pattern of its bits. -/
theorem eq_toNat_ofFnLE {n w : Nat} {f : Nat → Bool} (hn : n < 2 ^ w) (hf : ∀ j < w, n.testBit j = f j) : n = (BitVec.ofFnLE fun j : Fin w => f j).toNat := by
  have hbits : (fun j : Fin w => f j) = fun j : Fin w => n.testBit j := funext fun j => (hf j j.isLt).symm
  rw [BitVec.toNat_ofFnLE, hbits, Nat.ofBits_testBit, Nat.mod_eq_of_lt hn]

theorem reverseBits_lt (x n : Nat) : reverseBits x n < 2 ^ n := by
  induction n generalizing x with
  | zero => exact Nat.one_pos
  | succ n ih =>
    have hb : b2n (bit x 0) ≤ 1 := by cases bit x 0 <;> decide
    rw [reverseBits, pow_succ, mul_two]
    exact Nat.add_lt_add_of_lt_of_le (ih _) ((Nat.mul_le_mul_right _ hb).trans_eq (one_mul _))

/-- R88: bit reversal takes bit `n − 1 − j` to bit `j`. -/
theorem testBit_reverseBits (x : Nat) {n j : Nat} (hj : j < n) : (reverseBits x n).testBit j = x.testBit (n - 1 - j) := by
  induction n generalizing x with
  | zero => exact absurd hj (Nat.not_lt_zero j)
  | succ n ih =>
    rw [reverseBits, add_comm, mul_comm, Nat.testBit_two_pow_mul_add _ (reverseBits_lt _ _), Nat.add_sub_cancel]
    split
    · next h => rw [ih _ h, Nat.testBit_div_two, Nat.sub_right_comm, Nat.sub_add_cancel (Nat.sub_pos_of_lt h)]
    · next h =>
      obtain rfl := Nat.eq_of_lt_succ_of_not_lt hj h
      rw [Nat.sub_self, bit_eq_testBit]
      cases x.testBit 0 <;> rfl

/-- R88: CLZ counts down from the leading one, if there is one. -/
theorem leadingZeros_eq {x n : Nat} (hx : x < 2 ^ n) : leadingZeros x n = if x = 0 then n else n - 1 - x.log2 := by
  induction n with
  | zero => rw [leadingZeros, if_pos (Nat.lt_one_iff.mp hx)]
  | succ n ih =>
    rw [leadingZeros, bit_eq_testBit, Nat.add_sub_cancel]
    by_cases hn : x < 2 ^ n
    · have hlog (h0 : x ≠ 0) : x.log2 < n := (Nat.log2_lt h0).mpr hn
      rw [Nat.testBit_lt_two_pow hn, if_neg Bool.false_ne_true, ih hn]
      split
      · exact Nat.add_comm 1 n
      · next h0 => rw [Nat.sub_right_comm, Nat.add_sub_of_le (Nat.sub_pos_of_lt (hlog h0))]
    · have h0 : x ≠ 0 := by rintro rfl; exact hn (Nat.two_pow_pos n)
      have hlog : x.log2 = n := (Nat.log2_eq_iff h0).mpr ⟨not_lt.mp hn, hx⟩
      have hbit : x.testBit n = true := hlog ▸ Nat.testBit_log2 h0
      rw [hbit, if_pos rfl, if_neg h0, hlog, Nat.sub_self]

/-- R88: POPC counts the places that hold a one. -/
theorem popCount_eq_countP (x n : Nat) : popCount x n = (List.range n).countP fun j => x.testBit j := by
  induction n with
  | zero => rfl
  | succ n ih =>
    rw [popCount, ih, List.range_succ, List.countP_append, List.countP_singleton, bit_eq_testBit, add_comm]
    rfl

/-! ### The instructions -/

theorem wrap_lt (x : Int) (w : Nat) : wrap x w < 2 ^ w := by
  have hp : (0 : Int) < ((2 ^ w : Nat) : Int) := by exact_mod_cast Nat.two_pow_pos w
  exact (Int.toNat_lt (Int.emod_nonneg x hp.ne')).mpr (Int.emod_lt_of_pos x hp)

theorem zext_lt (x w : Nat) : zext x w < 2 ^ w := Nat.mod_lt _ (Nat.two_pow_pos w)

/-- R40: a source brought to width `w` is a pattern of `w` bits. -/
theorem src_to_lt (x : Src) (g : Sgn) (w : Nat) : x.to g w < 2 ^ w := by
  unfold Src.to
  cases x.ext with
  | zero => exact zext_lt _ _
  | imm => exact wrap_lt _ _
  | own =>
    cases g with
    | z => exact zext_lt _ _
    | s => exact wrap_lt _ _

/-- R86: a bitwise member, given by the bit of its result at every place. -/
theorem completes_bitwise {i : Instr} {op : Nat → Nat → Nat → Nat} {f : Nat → Nat → Nat → Bool} {d a b : Operand}
    (hx : ∀ s, exec i s = run i (bitwise op d a b) s)
    (hop : ∀ x y, x < 2 ^ destWidth d → y < 2 ^ destWidth d →
      op (destWidth d) x y < 2 ^ destWidth d ∧ ∀ j < destWidth d, (op (destWidth d) x y).testBit j = f x y j) :
    completes i fun s => quietOf s d (BitVec.ofFnLE fun j : Fin (destWidth d) => f (zn s a (destWidth d)) (zn s b (destWidth d)) j).toNat :=
  completes_of hx (funext fun s => by
    obtain ⟨hlt, hbit⟩ := hop _ _ (src_to_lt (s.src a) .z (destWidth d)) (src_to_lt (s.src b) .z (destWidth d))
    exact congrArg (quietOf s d) (eq_toNat_ofFnLE hlt hbit))

/-- R86: the complement of a pattern. -/
theorem complement_lt (x w : Nat) : 2 ^ w - 1 - x < 2 ^ w :=
  (Nat.sub_le _ _).trans_lt (Nat.sub_lt (Nat.two_pow_pos w) Nat.one_pos)

theorem testBit_complement {x w j : Nat} (hx : x < 2 ^ w) (hj : j < w) : (2 ^ w - 1 - x).testBit j = !x.testBit j := by
  rw [Nat.sub_sub, Nat.add_comm, Nat.testBit_two_pow_sub_succ hx, decide_eq_true hj, Bool.true_and]

/-- R63, R87: a shift or rotate writes its exact value modulo 2^w. -/
theorem completes_shiftOp {i : Instr} {g : Sgn} {f : Nat → Int → Nat → Int} {d a b : Operand} {v : State → Int}
    (hx : ∀ s, exec i s = run i (shiftOp g f d a b) s)
    (hv : ∀ s, f (destWidth d) ((s.src a).val g (destWidth d)) ((s.src b).to g (destWidth d)) = v s) : completes i (result d v) :=
  completes_of hx (funext fun s => by rw [shiftOp, hv, wrap, result])

/-- R88: a count is taken over the source's own width. -/
theorem completes_countOp {i : Instr} {f : Nat → Nat → Nat} {d a : Operand} {v : State → Nat} (hx : ∀ s, exec i s = run i (countOp f d a) s)
    (hv : ∀ s, f (s.src a).ownZ (s.src a).width = v s) : completes i fun s => quietOf s d (v s) :=
  completes_of hx (funext fun s => congrArg (quietOf s d) (hv s))

/-- Settles O4: the bitwise members and BREV by the bits of their results, the shifts as exact integers, CLZ by the leading one and POPC by counting places. -/
theorem logicAndShiftResults : Obligations.LogicAndShiftResults := by
  unfold Obligations.LogicAndShiftResults
  intro g d a b
  refine ⟨?and, ?or, ?xor, ?andn, ?not, ?brev, ?shl, ?shrz, ?shrs, ?rotl, ?clz, ?popc⟩
  case and =>
    exact completes_bitwise (f := fun x y j => x.testBit j && y.testBit j) (fun _ => rfl) fun x y _ hy =>
      ⟨Nat.and_lt_two_pow x hy, fun j _ => Nat.testBit_and x y j⟩
  case or =>
    exact completes_bitwise (f := fun x y j => x.testBit j || y.testBit j) (fun _ => rfl) fun x y hx hy =>
      ⟨Nat.or_lt_two_pow hx hy, fun j _ => Nat.testBit_or x y j⟩
  case xor =>
    exact completes_bitwise (f := fun x y j => x.testBit j != y.testBit j) (fun _ => rfl) fun x y hx hy =>
      ⟨Nat.xor_lt_two_pow hx hy, fun j _ => Nat.testBit_xor x y j⟩
  case andn =>
    exact completes_bitwise (f := fun x y j => x.testBit j && !y.testBit j) (fun _ => rfl) fun x y _ hy =>
      ⟨Nat.and_lt_two_pow x (complement_lt y _), fun j hj => by rw [Nat.testBit_and, testBit_complement hy hj]⟩
  case not =>
    exact completes_bitwise (b := a) (f := fun x _ j => !x.testBit j) (fun _ => rfl) fun x _ hx _ =>
      ⟨complement_lt x _, fun j hj => testBit_complement hx hj⟩
  case brev =>
    exact completes_bitwise (b := a) (f := fun x _ j => x.testBit (destWidth d - 1 - j)) (fun _ => rfl) fun x _ _ _ =>
      ⟨reverseBits_lt x _, fun j hj => testBit_reverseBits x hj⟩
  case shl | shrz | shrs | rotl => exact completes_shiftOp (fun _ => rfl) fun _ => rfl
  case clz => exact completes_countOp (fun _ => rfl) fun _ => leadingZeros_eq (zext_lt _ _)
  case popc => exact completes_countOp (fun _ => rfl) fun _ => popCount_eq_countP _ _

end Sys2Proof.Laws
end

section
/-! SUPPORT. Moves, immediates, extensions and the slice instructions (O5): the two instructions that may wait for more than R13 and R144 name, and run-time fields. -/
open Sys2Proof Sys2Proof.Machine Sys2Proof.Claims

namespace Sys2Proof.Laws

/-- R145: a firing judges and applies the instruction's own rule in one state. -/
theorem runElem_eff (i : Instr) (eff : State → Option (Eff × State)) (k e c slot : Nat) (s : State) :
    runElem i eff k e c slot s = runElem i (fun _ => eff (s.beginThread k e c i.shape.guard)) k e c slot s := rfl

/-- R13: so does an issue. -/
theorem runCc_eff (i : Instr) (eff : State → Option (Eff × Flow × State)) (k : Nat) (s : State) : runCc i eff k s = runCc i (fun _ => eff s) k s := rfl

/-- R13, R144: an instruction of both sites that may act goes through `runBoth` with the effect that both of its rules answer. -/
theorem runBoth_next {i : Instr} {f : Eff} {effE : State → Option (Eff × State)} {effC : State → Option (Eff × Flow × State)} {s : State} (h : mayAct i s = true)
    (hE : effE (reads i s) = some (f, reads i s)) (hC : effC (reads i s) = some (f, .next, reads i s)) :
    runBoth i effE effC s = .next (afterAct i f s (reads i s)) := by
  rw [← run_next i (fun _ => f) s h]
  unfold run runBoth
  unfold reads at hE hC
  cases hs : s.site with
  | cc k =>
    rw [hs] at hC
    dsimp only at hC ⊢
    rw [runCc_eff, hC]
    rfl
  | ctx k e c slot =>
    rw [hs] at hE
    dsimp only at hE ⊢
    rw [runElem_eff, hE]
    rfl

/-! ### Immediates and fields -/

/-- R10: the two readings of a pattern as a signed integer. -/
theorem sext_toNat {w : Nat} (x : BitVec w) : sext x.toNat w = x.toInt := by
  unfold sext
  rw [BitVec.toInt_eq_toNat_cond, Nat.mod_eq_of_lt x.isLt]
  cases w with
  | zero => simp [BitVec.of_length_zero]
  | succ n =>
    rw [if_neg n.succ_ne_zero, Nat.add_sub_cancel]
    have : x.toNat < 2 ^ n ↔ 2 * x.toNat < 2 ^ (n + 1) := by rw [pow_succ', Nat.mul_lt_mul_left two_pos]
    simp only [this]

theorem sext_zero_width (x : Nat) : sext x 0 = 0 := if_pos rfl
theorem zext_zero_width (x : Nat) : zext x 0 = 0 := Nat.mod_one x

/-- R92: a field of width 0 reads as 0 in either signedness. -/
theorem ite_readAs (g : Sgn) (x m : Nat) : (if m = 0 then 0 else readAs g x m) = readAs g x m :=
  ite_eq_right_iff.mpr fun h => by
    subst h
    cases g with
    | s => exact (sext_zero_width x).symm
    | z => exact congrArg Nat.cast (zext_zero_width x).symm

/-- R92: SEXT and ZEXT write the field of A that B measures. -/
theorem extendOp_eq (g : Sgn) (d a b : Operand) :
    extendOp (g == .s) d a b = result d fun s => readAs g (s.src a).raw (min (s.src b).count (s.src a).width) :=
  funext fun s => by
    have h := congrArg (fun v => quietOf s d (wrap v (destWidth d))) (ite_readAs g (s.src a).raw (min (s.src b).count (s.src a).width))
    cases g <;> exact h

/-! ### Addressed slices -/

/-- R93: the slices that base `p`, size `c` and index `n` address. -/
theorem addressed_slice (p : BitVec 7) (c : BitVec 4) (n : Nat) :
    addressed (.slice p c) n
      = if p.toNat + n * (c.toNat + 1) + c.toNat + 1 ≤ 128 then some (p.toNat + n * (c.toNat + 1), c.toNat + 1) else none := rfl

/-- R93: what SLEXT writes where no addressed slice is pending. -/
theorem slextEff_slice {d b : Operand} {p : BitVec 7} {c : BitVec 4} {s : State} {q : Nat} (hq : p.toNat + (s.src b).count * (c.toNat + 1) = q)
    (hfree : q + c.toNat + 1 ≤ 128 → sliceMask q (c.toNat + 1) &&& s.regs.pending = 0) :
    slextEff d (.slice p c) b s
      = some (quietOf s d (if q + c.toNat + 1 ≤ 128 then s.regs.slices q (c.toNat + 1) % 2 ^ min (4 * (c.toNat + 1)) (destWidth d) else 0)) := by
  rw [slextEff, addressed_slice, hq]
  by_cases h : q + c.toNat + 1 ≤ 128
  · rw [if_pos h, if_pos h]
    dsimp only
    rw [hfree h, bne_self_eq_false, if_neg Bool.false_ne_true, zext]
  · rw [if_neg h, if_neg h]

/-- R93: a SLEXT that may act, none of whose addressed slices is pending, is not held back. -/
theorem execSlext_of_free {g : BitVec 16} {d a b : Operand} {s : State} (h : (slextEff d a b (reads (.slext g d a b) s)).isSome = true) :
    exec (.slext g d a b) s
      = runBoth (.slext g d a b) (fun s => (slextEff d a b s).map fun e => (e, s)) (fun s => (slextEff d a b s).map fun e => (e, .next, s)) s := by
  have hw : slextWaits d a b s = false := by
    unfold slextWaits
    cases hs : s.site with
    | cc k =>
      have hr : reads (.slext g d a b) s = s := by simp only [reads, hs]
      simpa [hr, Option.isSome_iff_ne_none] using h
    | ctx => rfl
  change execSlext g d a b s = _
  rw [execSlext, hw, Bool.and_false, if_neg Bool.false_ne_true]

/-- R75, R89: MOV of $FFLAGS waits for nothing where every flight of the context is owed. -/
theorem movEff_of_owed {d a : Operand} {s : State} (h : (isFflags d || isFflags a) = true → ∀ f ∈ s.regs.flights, f.owed = true) :
    movEff d a s = some (quietOf s d ((s.src a).to .z (destWidth d)), s) := by
  refine if_neg fun hc => ?_
  obtain ⟨hf, ho⟩ := Bool.and_eq_true_iff.mp hc
  rw [List.all_eq_true.mpr (h hf)] at ho
  cases ho

/-- Settles O5: MOV and SLEXT by the conditions under which their rules answer, every other member by the effect that it is run with. -/
theorem sliceResults : Obligations.SliceResults := by
  unfold Obligations.SliceResults
  intro g d a b p p' c c' imm
  refine ⟨?mov, ?movi, ?movhi, ?sext, ?zext, ?slext, ?slins, ?pack, ?unpk, ?swap, ?slclr⟩
  case mov => exact fun s hs hp => runBoth_next hs (movEff_of_owed hp) rfl
  case slext =>
    intro q s hs hp
    have he := slextEff_slice (d := d) rfl hp
    rw [execSlext_of_free (by rw [he]; rfl)]
    exact runBoth_next hs (by rw [he]; rfl) (by rw [he]; rfl)
  case movi => exact completes_of (fun _ => rfl) (funext fun s => by rw [sext_toNat]; rfl)
  case sext => exact completes_of (fun _ => rfl) (extendOp_eq .s d a b)
  case zext => exact completes_of (fun _ => rfl) (extendOp_eq .z d a b)
  case slins =>
    refine completes_of (fun _ => rfl) (funext fun s => ?_)
    rw [addressed_slice]
    by_cases h : p.toNat + (s.src b).count * (c.toNat + 1) + c.toNat + 1 ≤ 128
    · simp only [if_pos h]; rfl
    · simp only [if_neg h]
  case movhi | pack | unpk | swap | slclr => exact completes_of (fun _ => rfl) rfl

end Sys2Proof.Laws
end

section
/-! SUPPORT. Compares, predicate logic and SELP (O6), and the order of W40 values (R98). -/
open Sys2Proof Sys2Proof.Machine Sys2Proof.Claims

namespace Sys2Proof.Laws

/-! ### The order of W40 values -/

/-- R98: at a common scale, two finite values order as the numbers that they denote. -/
theorem scaled_lt_scaled_iff {s t : Bool} {m n : Nat} {k l j : Int} (hk : j ≤ k) (hl : j ≤ l) : scaled s m k j < scaled t n l j ↔ finVal s m k < finVal t n l := by
  rw [← scaled_mul_zpow s m hk, ← scaled_mul_zpow t n hl, mul_lt_mul_iff_left₀ (zpow_pos two_pos j), Int.cast_lt]

theorem scaled_eq_scaled_iff {s t : Bool} {m n : Nat} {k l j : Int} (hk : j ≤ k) (hl : j ≤ l) : scaled s m k j = scaled t n l j ↔ finVal s m k = finVal t n l := by
  rw [← scaled_mul_zpow s m hk, ← scaled_mul_zpow t n hl, mul_left_inj' (zpow_ne_zero j two_ne_zero), Int.cast_inj]

theorem cmpReal_fin (s t : Bool) (m n : Nat) (k l : Int) :
    (cmpReal (.fin s m k) (.fin t n l) < 0 ↔ finVal s m k < finVal t n l) ∧ (cmpReal (.fin s m k) (.fin t n l) = 0 ↔ finVal s m k = finVal t n l) := by
  have hk := min_le_left k l
  have hl := min_le_right k l
  constructor
  · exact Int.sign_neg_iff.trans (sub_neg.trans (scaled_lt_scaled_iff hk hl))
  · exact Int.sign_eq_zero_iff_zero.trans (sub_eq_zero.trans (scaled_eq_scaled_iff hk hl))

/-- `c` is the comparison of `a` and `b`: negative where `a` is less, zero where they are equal. -/
def Compares {α : Type} [LT α] (c : Int) (a b : α) : Prop := (c < 0 ↔ a < b) ∧ (c = 0 ↔ a = b)

theorem compares_of_lt {α : Type} [Preorder α] {c : Int} {a b : α} (hc : c < 0) (h : a < b) : Compares c a b := ⟨iff_of_true hc h, iff_of_false hc.ne h.ne⟩
theorem compares_of_gt {α : Type} [Preorder α] {c : Int} {a b : α} (hc : 0 < c) (h : b < a) : Compares c a b :=
  ⟨iff_of_false hc.not_gt h.not_gt, iff_of_false hc.ne' h.ne'⟩
theorem compares_self {α : Type} [Preorder α] (a : α) : Compares 0 a a := ⟨iff_of_false (lt_irrefl 0) (lt_irrefl a), iff_of_true rfl rfl⟩

theorem bot_lt_number_fin (s : Bool) (m : Nat) (k : Int) : ⊥ < number (.fin s m k) := WithBot.bot_lt_coe _
theorem number_fin_lt_top (s : Bool) (m : Nat) (k : Int) : number (.fin s m k) < ((⊤ : WithTop ℚ) : WithBot (WithTop ℚ)) :=
  WithBot.coe_lt_coe.mpr (WithTop.coe_lt_top _)

/-- R98: `cmpReal` orders the numbers that two values denote, the infinities at the ends. -/
theorem cmpReal_compares {x y : Real40} (hx : x.isNaN = false) (hy : y.isNaN = false) : Compares (cmpReal x y) (number x) (number y) := by
  cases x with
  | nan => cases hx
  | fin s m k =>
    cases y with
    | nan => cases hy
    | fin t n l =>
      obtain ⟨hlt, heq⟩ := cmpReal_fin s t m n k l
      exact ⟨hlt.trans (WithTop.coe_lt_coe.symm.trans WithBot.coe_lt_coe.symm), heq.trans (WithTop.coe_inj.symm.trans WithBot.coe_inj.symm)⟩
    | inf t =>
      cases t with
      | false => exact compares_of_lt neg_one_lt_zero (number_fin_lt_top s m k)
      | true => exact compares_of_gt zero_lt_one (bot_lt_number_fin s m k)
  | inf s =>
    cases y with
    | nan => cases hy
    | fin t n l =>
      cases s with
      | false => exact compares_of_gt zero_lt_one (number_fin_lt_top t n l)
      | true => exact compares_of_lt neg_one_lt_zero (bot_lt_number_fin t n l)
    | inf t =>
      cases s with
      | false =>
        cases t with
        | false => exact compares_self _
        | true => exact compares_of_gt zero_lt_one (WithBot.bot_lt_coe _)
      | true =>
        cases t with
        | false => exact compares_of_lt neg_one_lt_zero (WithBot.bot_lt_coe _)
        | true => exact compares_self _

/-! ### The instructions -/

/-- R97: an integer compare writes its truth value, judged at the width of the wider source. -/
theorem completes_cmpInt {i : Instr} {g : Sgn} {f : Int → Int → Bool} {d a b : Operand} {v : State → Bool} (hx : ∀ s, exec i s = run i (cmpInt g f d a b) s)
    (hv : ∀ s, f ((s.src a).val g (max (s.src a).width (s.src b).width)) ((s.src b).val g (max (s.src a).width (s.src b).width)) = v s) :
    completes i fun s => quietOf s d (truthOf (v s)) :=
  completes_of hx (funext fun s => congrArg (fun c => quietOf s d (b2n c)) (hv s))

/-- R99: predicate logic writes what its operation gives on the truth values of its sources. -/
theorem completes_logic2 {i : Instr} {f : Bool → Bool → Bool} {d a b : Operand} {v : State → Bool} (hx : ∀ s, exec i s = run i (logic2 f d a b) s)
    (hv : ∀ s, f ((s.src a).ownZ != 0) ((s.src b).ownZ != 0) = v s) : completes i fun s => quietOf s d (truthOf (v s)) :=
  completes_of hx (funext fun s => congrArg (fun c => quietOf s d (b2n c)) (hv s))

/-- No operand field writes flags by itself. -/
theorem quietOf_flags (s : State) (d : Operand) (v : Nat) : (quietOf s d v).flags = 0 := by cases d <;> rfl

theorem quietOf_raiseFlags (s : State) (d : Operand) (v fl : Nat) : (quietOf s d v).raiseFlags fl = { quietOf s d v with flags := fl } := by
  rw [Eff.raiseFlags, quietOf_flags, Nat.zero_or]

theorem quietOf_raiseFlags_zero (s : State) (d : Operand) (v : Nat) : (quietOf s d v).raiseFlags 0 = quietOf s d v := by
  rw [Eff.raiseFlags, Nat.or_zero]

/-- R98: a quiet W40 compare writes its truth value and raises nothing. -/
theorem completes_cmpFloat_quiet {i : Instr} {f : Real40 → Real40 → Bool} {d a b : Operand} {v : State → Bool} (hx : ∀ s, exec i s = run i (cmpFloat false f d a b) s)
    (hv : ∀ s, f (rl s a) (rl s b) = v s) : completes i fun s => quietOf s d (truthOf (v s)) :=
  completes_of hx (funext fun s => (quietOf_raiseFlags_zero s d _).trans (congrArg (fun c => quietOf s d (b2n c)) (hv s)))

/-- R98: a signalling W40 compare raises NV besides where a source is a NaN. -/
theorem completes_cmpFloat_signalling {i : Instr} {f : Real40 → Real40 → Bool} {d a b : Operand} {v : State → Bool}
    (hx : ∀ s, exec i s = run i (cmpFloat true f d a b) s) (hv : ∀ s, f (rl s a) (rl s b) = v s) :
    completes i fun s => { quietOf s d (truthOf (v s)) with flags := if ((rl s a).isNaN || (rl s b).isNaN) = true then fNV else 0 } :=
  completes_of hx (funext fun s => by rw [← hv]; exact quietOf_raiseFlags s d _ _)

/-- R98: an ordered compare is false on a NaN. -/
theorem ordered_eq (f : Int → Bool) (x y : Real40) : ordered f x y = (!(x.isNaN || y.isNaN) && f (cmpReal x y)) := by
  rw [ordered, Bool.not_or]

/-- Settles O6: each family by its own rule, and the order of W40 values by the numbers that they denote. -/
theorem compareResults : Obligations.CompareResults := by
  unfold Obligations.CompareResults
  intro g d a b p
  refine ⟨?ceq, ?cne, ?clts, ?cltz, ?cles, ?clez, ?fceq, ?fclt, ?fcle, ?fcun, ?pmov, ?pand, ?por, ?pxor, ?pnot, ?selp, ?order⟩
  case ceq | clts | cltz | cles | clez => exact completes_cmpInt (fun _ => rfl) fun _ => rfl
  case cne => exact completes_cmpInt (fun _ => rfl) fun _ => (decide_not ..).symm
  case fceq => exact completes_cmpFloat_quiet (fun _ => rfl) fun _ => ordered_eq ..
  case fcun => exact completes_cmpFloat_quiet (fun _ => rfl) fun _ => rfl
  case fclt | fcle => exact completes_cmpFloat_signalling (fun _ => rfl) fun _ => ordered_eq ..
  case pmov | pand | por | pxor | pnot => exact completes_logic2 (fun _ => rfl) fun _ => rfl
  case selp => exact completes_of (fun _ => rfl) rfl
  case order => exact fun x y => cmpReal_compares

end Sys2Proof.Laws
end

section
/-! SUPPORT. Transfers of control (O9), waits (O10) and trap instructions (O12): the issue rule of the control core, by what the instruction's own rule answers. -/
open Sys2Proof Sys2Proof.Machine Sys2Proof.Claims

namespace Sys2Proof.Laws

section IssueRule
variable {i : Instr} {eff : Nat → State → Option (Eff × Flow × State)} {k : Nat} {s s' : State} {f : Eff}
  (hs : s.site = .cc k) (h : mayIssue i k s = true)
include hs h

/-- R13: an instruction that completes. -/
theorem runControl_completes (he : eff k s = some (f, .next, s')) : runControl i eff s = .next (afterAct i f s s') := by
  rw [ctl_next i eff k s hs h, he, afterAct, hs]

/-- R114: an instruction that sets the PC, or keeps it. -/
theorem runControl_jumps {t d : Nat} (he : eff k s = some (f, .jump t d, s')) : runControl i eff s = .next (afterJump i f t d k s s') := by
  rw [ctl_next i eff k s hs h, he]

/-- R18: an instruction that traps. -/
theorem runControl_traps {cause v : Nat} (he : eff k s = some (f, .trap cause v, s')) :
    runControl i eff s = .next (s'.raise k cause (BitVec.ofNat 64 v) (s.cc k).pc) := by
  rw [ctl_next i eff k s hs h, he]

/-- R20, R110: an instruction that transfers control. -/
theorem runControl_transfers {t d : Nat} (hx : exec i s = runControl i eff s) (he : eff k s = some (jumpTo f t d s s')) : transfers i f t d k s s' :=
  hx.trans (jump_next i eff k s hs h f t d s' he)

end IssueRule

/-! ### Transfers -/

/-- R110: the link value is the address of the next instruction. -/
theorem linkOf_eq (s : State) (k : Nat) (d : Operand) : linkOf s k d = link s k d :=
  congrArg (fun v => quietOf s d (v % 2 ^ destWidth d)) (BitVec.toNat_add ..)

/-- R27: JALR pushes the return PC where it writes the link operand, and pops one where it reads the target from it. A return to another address than the one popped costs two cycles more. -/
theorem predict_eq (d a : Operand) (t : Nat) (c : ControlCore) : predict c d a t =
    (if d = .slice 120 7 then { c with ras := ((c.pc + 8) :: c.ras).take 8 } else if a = .slice 120 7 then { c with ras := c.ras.drop 1 } else c,
     if d = .slice 120 7 then 2 else if a = .slice 120 7 then
       (match c.ras.head? with
        | some p => if p.toNat = t then 2 else 4
        | none => 2) else 2) := by
  have hpop : (match c.ras with
      | p :: r => ({ c with ras := r }, if p.toNat = t then 2 else 4)
      | [] => (c, 2)) = ({ c with ras := c.ras.drop 1 }, match c.ras.head? with
        | some p => if p.toNat = t then 2 else 4
        | none => 2) := by
    cases hr : c.ras with
    | nil => exact congrArg (fun r => ({ c with ras := r }, 2)) hr
    | cons p r => rfl
  exact (if_congr beq_iff_eq rfl ((if_congr beq_iff_eq hpop rfl).trans (apply_ite₂ Prod.mk ..).symm)).trans (apply_ite₂ Prod.mk ..).symm

/-- Settles O9: each member goes to the target that its rule forms; LOOP goes on where its count ends. -/
theorem transferResults : Obligations.TransferResults := by
  unfold Obligations.TransferResults
  intro g d a off36 off24 k s hs
  refine ⟨fun h => runControl_transfers hs h rfl rfl, fun h => runControl_transfers hs h rfl rfl, fun h => ?jal, fun h => ?jalr, fun h => ?loop⟩
  case jal =>
    exact runControl_transfers hs h rfl (congrArg₂ (fun f s' => some (jumpTo f _ 2 s s')) (linkOf_eq s k d) (if_congr beq_iff_eq rfl rfl))
  case jalr =>
    exact runControl_transfers hs h rfl (congrArg₂ (fun f (p : ControlCore × Nat) => some (jumpTo f _ p.2 s (s.modCc k fun _ => p.1))) (linkOf_eq s k d) (predict_eq d a _ (s.cc k)))
  case loop =>
    exact iteInduction (motive := fun P : Prop => P) (fun hn => runControl_completes hs h ((if_pos hn).trans (congrArg (fun c => some (quietOf s d c, Flow.next, s)) hn))) fun hn => runControl_transfers hs h rfl (if_neg hn)

/-! ### Waits -/

/-- R112: whether WAITP waits for slices. -/
theorem anyPending_slices {r : Regs} {m : BitVec 512} : r.anyPending m 0 = true ↔ ¬ r.pending &&& m = 0 := by simp [Regs.anyPending]

/-- R112: whether WAITP waits for predicates. -/
theorem anyPending_preds {r : Regs} {p : BitVec 8} : r.anyPending 0 p = true ↔ ¬ r.pendingPreds &&& p = 0 := by simp [Regs.anyPending]

/-- Settles O10: NOP on both sites; on the control core each wait completes where what it waits for is there, and otherwise keeps the PC. -/
theorem waitResults : Obligations.WaitResults := by
  unfold Obligations.WaitResults
  refine ⟨fun g => completes_of (fun _ => rfl) rfl, fun g d a b p c q k s hs => ⟨fun h => ?slices, fun h => ?preds,
    fun h => runControl_completes hs h rfl, fun h => runControl_completes hs h rfl, fun h => ?wfe⟩⟩
  case slices =>
    exact iteInduction (motive := (exec _ s = .next ·)) (fun hm => runControl_completes hs h (if_neg fun hp => anyPending_slices.mp hp hm))
      fun hm => runControl_jumps hs h (if_pos (anyPending_slices.mpr hm))
  case preds =>
    exact iteInduction (motive := (exec _ s = .next ·)) (fun hm => runControl_completes hs h (if_neg fun hp => anyPending_preds.mp hp hm))
      fun hm => runControl_jumps hs h (if_pos (anyPending_preds.mpr hm))
  case wfe =>
    exact iteInduction (motive := (exec _ s = .next ·)) (fun hm => runControl_jumps hs h (if_neg fun hp => bne_iff_ne.mp hp hm))
      fun hm => runControl_completes hs h (if_pos (bne_iff_ne.mpr hm))

/-! ### Trap instructions -/

/-- Settles O12: TRAP traps at once; BKPT and ERET by the state that decides what they do. -/
theorem trapInstructionResults : Obligations.TrapInstructionResults := by
  unfold Obligations.TrapInstructionResults
  refine fun g a b k s hs => ⟨fun h => runControl_traps hs h rfl, fun h => ?bkpt, fun h => ?eret⟩
  case bkpt =>
    exact iteInduction (motive := (exec _ s = .next ·)) (fun hd => runControl_jumps hs h (if_pos hd)) fun hd => runControl_traps hs h (if_neg hd)
  case eret =>
    have he : (s.cc k).leaveTrap.pc.toNat = (s.cc k).epc.toNat % 2 ^ 32 := BitVec.toNat_setWidth ..
    rw [← he]
    refine iteInduction (motive := (exec _ s = .next ·)) (fun hc => ?inside) fun hc => ?outside
    case inside =>
      have hin : ¬ (!causeIntrap (s.cc k).cause) = true := Bool.eq_false_iff.mp (congrArg not hc)
      exact iteInduction (motive := (exec _ s = .next ·)) (fun ha => runControl_jumps hs h ((if_neg hin).trans (if_pos ha)))
        fun ha => runControl_traps hs h ((if_neg hin).trans (if_neg ha))
    case outside =>
      exact (runControl_traps hs h (if_pos (congrArg not (Bool.eq_false_iff.mpr hc)))).trans
        (congrArg (fun v => Host.Outcome.next (s.raise k 0x001 v (s.cc k).pc)) ((BitVec.ofNat_toNat ..).trans (BitVec.setWidth_eq _)))

end Sys2Proof.Laws
end

section
/-! SUPPORT. Leases, power, time and tests (O31, O32): the tests of the model's rules in the statements' words, and the tokens. -/
open Sys2Proof Sys2Proof.Machine Sys2Proof.Claims

namespace Sys2Proof.Laws

/-! ### Leases -/

/-- R186: the answers of a request for a lease, in their order. -/
theorem askLease_eq (s : State) (p dur pct : Nat) (l : Option Nat) :
    s.askLease p dur pct l =
      if dur = 0 then (3, s)
      else if (s.part p).lease ≠ none ∨ (s.part p).suspendedIn = some (s.cycle / 128) then (2, s)
      else if s.boost p pct ≤ ((s.parts.get? p).map Part.pboost).getD 300 ∧ s.avgW + s.boost p pct + s.otherBoosts p ≤ 2200 then
        (0, (s.modPart p fun x => { x with lease := some { pct := pct, left := dur, launch := l, boost := s.boost p pct } }).postPart p 0x05 pct dur)
      else (1, s) := by
  have hheld {x : Option Lease} {b : Bool} {P : Prop} (hb : b = true ↔ P) : (x.isSome || b) = true ↔ x ≠ none ∨ P := by
    rw [Bool.or_eq_true, Option.isSome_iff_ne_none, hb]
  have hfits {x y u v : Nat} : (!(decide (x ≤ y) && decide (u ≤ v))) = true ↔ ¬ (x ≤ y ∧ u ≤ v) := by
    rw [Bool.not_eq_true', ← Bool.not_eq_true, Bool.and_eq_true, decide_eq_true_eq, decide_eq_true_eq]
  exact if_congr Iff.rfl rfl (if_congr (hheld beq_iff_eq) rfl ((if_congr hfits rfl rfl).trans (ite_not ..)))

/-- R120: a LEASE within a partition writes its answer in the token. -/
theorem leaseEff_of_part {p : BitVec 7} {a b : Operand} {k q : Nat} {s : State} (hq : (s.core k).part = some q) :
    let dur := min (zn s a 64) 50000
    let pct := max 71 (min (zn s b 64) 100)
    let ask := s.askLease q dur pct ((s.launchOf k).map fun x => x.1)
    leaseEff (.slice p 15) a b k s = (tokenOf p (if ask.1 = 0 then pct * 2 ^ 32 + dur else ask.1 * 2 ^ 40), ask.2) := by
  intro dur pct ask
  unfold leaseEff
  rw [hq]
  exact congrArg (·, ask.2) (tokenOf_eq p _)

/-- Settles O31: a request for a lease by its tests in their order, the instructions by the issue rule. -/
theorem powerInstructionResults : Obligations.PowerInstructionResults := by
  unfold Obligations.PowerInstructionResults
  refine ⟨askLease_eq, fun g d a b p k q s hs => ⟨fun h hq => ?lease, fun h hq => ?lrel, fun h => ?pwrq, fun h => ?tstamp, fun h => ?mark⟩⟩
  case lease => exact runControl_completes hs h (congrArg (fun r : Eff × State => some (r.1, Flow.next, r.2)) (leaseEff_of_part hq))
  case lrel => exact runControl_completes hs h (by rw [hq])
  case pwrq | tstamp | mark => exact runControl_completes hs h rfl

/-! ### Stops, scans and the logical map -/

/-- R123: DSTOP asks for a stop of a region that exists, where the launch has the right. -/
theorem dstopEff_eq (p : BitVec 7) (a : Operand) (k : Nat) (s : State) :
    dstopEff (.slice p 15) a k s =
      if s.region? k (zn s a 64) = none then (tokenOf p 1, s)
      else if s.holds k Launch.debug = false then (tokenOf p 2, s)
      else (token p, s.modRegion k (zn s a 64) fun r => { r with stopReqs := r.stopReqs ++ [0], stopToks := r.stopToks ++ [(s.nextId, p.toNat)] }) := by
  rw [← tokenOf_eq, ← tokenOf_eq, ← token_eq]
  have hmatch {o : Option Region} {x y : Eff × State} : (match o with | none => x | some _ => y) = if o = none then x else y := by cases o <;> rfl
  exact hmatch.trans (if_congr Iff.rfl rfl (if_congr (Bool.not_eq_true' _).to_iff rfl rfl))

/-- R394: SCANT, with no scan running, gives the status of a refusal. -/
theorem scantEff_of_refusal {p : BitVec 7} {a : Operand} {k x : Nat} {s : State} (hf : (s.core k).scan = none) (hr : scanRefusal s k (s.src a).wide (s.wanted k) = some x) :
    scantEff (.slice p 15) a k s = some (tokenOf p (x * 2 ^ 32), .next, s) := by
  simp only [scantEff, hf, hr, tokenOf_eq]
  rfl

/-- R124: an accepted SCANT leaves the run with its token, and starts in the next cycle. -/
theorem scantEff_of_pattern {p : BitVec 7} {a : Operand} {k : Nat} {pat : ScanPattern} {s : State} (hf : (s.core k).scan = none)
    (hr : scanRefusal s k (s.src a).wide (s.wanted k) = none) (hp : s.pattern (s.src a).wide = some pat) :
    scantEff (.slice p 15) a k s = some (token p, .next,
      s.modCore k fun c => { c with scan := some { pattern := (s.src a).wide, start := s.cycle + 1, finish := s.cycle + 1 + pat.runUs * 1000, tok := s.nextId, dst := p.toNat
                                                   launch := ((s.launchOf k).map fun x => x.1).getD 0, runUs := pat.runUs, expected := pat.expected } }) := by
  simp only [scantEff, hf, hr, hp, token_eq]
  rfl

/-- R125: the bit of LCMAP's token that says that a core is on the logical map. -/
theorem mapped_bit {y st : Nat} {gone : Bool} : b2n (y == 1 && st == 0 && !gone) * 2 ^ 8 = if y = 1 ∧ st = 0 ∧ gone = false then 2 ^ 8 else 0 := by
  have hiff : (y == 1 && st == 0 && !gone) = true ↔ y = 1 ∧ st = 0 ∧ gone = false := by simp [and_assoc]
  exact (ite_mul ..).trans ((if_congr hiff rfl rfl).trans rfl)

/-- R125: LCMAP within a partition removes a core or reports, by its status. -/
theorem lcmapEff_of_part {p : BitVec 7} {a b : Operand} {k q : Nat} {s : State} (hq : (s.core k).part = some q) :
    let n := zn s a 64
    let here := zn s b 64
    let st := lcmapStatus s k q n here
    lcmapEff (.slice p 15) a b k s =
      if st = 0 ∧ here = 0 then
        if (s.core k).lcore = n then some (token p, .next, s.removeCore q n) else some (tokenOf p 0, .next, s.removeCore q n)
      else some (tokenOf p (st * 2 ^ 32 + if here = 1 ∧ st = 0 ∧ (s.part q).removed.contains n = false then 2 ^ 8 else 0), .next, s) := by
  intro n here st
  have hrem : (decide (st = 0) && decide (here = 0)) = true ↔ st = 0 ∧ here = 0 := by rw [Bool.and_eq_true, decide_eq_true_eq, decide_eq_true_eq]
  rw [← tokenOf_eq, ← tokenOf_eq, ← token_eq, ← mapped_bit]
  unfold lcmapEff
  rw [hq]
  exact if_congr hrem rfl rfl

/-- Settles O32: DSTOP and LCMAP by their own rules, SCANT refused or accepted, and SCANQ by the pattern that it names. -/
theorem testInstructionResults : Obligations.TestInstructionResults := by
  unfold Obligations.TestInstructionResults
  intro g d a b p k q pat s hs n here st
  refine ⟨fun h => ?dstop, fun h hf _ hr => runControl_completes hs h (scantEff_of_refusal hf hr), fun h hf hr hp => runControl_completes hs h (scantEff_of_pattern hf hr hp),
    fun h => runControl_completes hs h rfl, fun h hq => ?lcmap⟩
  case dstop =>
    refine (runControl_completes hs h rfl).trans (congrArg Host.Outcome.next ?_)
    rw [dstopEff_eq]
    exact (apply_ite (fun r : Eff × State => afterAct _ r.1 s r.2) ..).trans (congrArg _ (apply_ite (fun r : Eff × State => afterAct _ r.1 s r.2) ..))
  case lcmap =>
    have he := lcmapEff_of_part (p := p) (a := a) (b := b) hq
    exact iteInduction (motive := (exec _ s = .next ·))
      (fun hc => iteInduction (motive := (exec _ s = .next ·)) (fun hl => runControl_completes hs h (he.trans ((if_pos hc).trans (if_pos hl))))
        fun hl => runControl_completes hs h (he.trans ((if_pos hc).trans (if_neg hl))))
      fun hc => runControl_completes hs h (he.trans (if_neg hc))

end Sys2Proof.Laws
end

section
/-! SUPPORT. The retiring of a record (O43): what DONE, the latches and the vector leave. -/
namespace Sys2Proof.Machine

/-! ### Latches -/

/-- R117: one control core's turn in `latchAll`. -/
theorem latchAll_step {P : State → Prop} {n : Nat} (hP : ∀ (t : State) j, P t → P (t.setLatch j n)) (t : State) (h : P t) (j : Nat) :
    P (if (t.cc j).run == .off then t else t.setLatch j n) :=
  iteInduction (fun _ => h) fun _ => hP t j h

/-- What setting a latch keeps, setting the latches of a partition keeps too. -/
theorem State.latchAll_keeps {P : State → Prop} {n : Nat} (hP : ∀ (t : State) j, P t → P (t.setLatch j n)) {s : State} (p : Nat) (h : P s) : P (s.latchAll p n) :=
  List.foldlRecOn _ _ h fun t ht j _ => latchAll_step hP t ht j

/-- R117: a control core that is on has the latch after its turn, and keeps it. -/
theorem State.latchAll_sets {P Q : State → Prop} {n k : Nat} (hP : ∀ (t : State) j, P t → P (t.setLatch j n)) (hQ : ∀ (t : State) j, Q t → Q (t.setLatch j n))
    (hset : ∀ t, Q t → P (if (t.cc k).run == .off then t else t.setLatch k n)) {s : State} {p : Nat} (hk : k ∈ (s.part p).cores) (h : Q s) : P (s.latchAll p n) := by
  unfold State.latchAll
  generalize (s.part p).cores = l at hk
  induction l generalizing s with
  | nil => cases hk
  | cons j l ih =>
    rcases List.mem_cons.mp hk with rfl | hk
    · exact List.foldlRecOn l _ (hset s h) fun t ht j _ => latchAll_step hP t ht j
    · exact ih (latchAll_step hQ s h j) hk

/-- R117: setting latch `n` of core `j` is one update of its control core. -/
theorem State.setLatch_cases {P : ControlCore → Prop} {s : State} {j n k : Nat} (hj : k = j → P { s.cc j with latches := (s.cc j).latches ||| BitVec.ofNat 4 (2 ^ n) })
    (hk : P (s.cc k)) : P ((s.setLatch j n).cc k) :=
  (s.cc_modCc j k _).symm ▸ iteInduction (motive := P) hj fun _ => hk

theorem State.latch_setLatch {s : State} {k i : Nat} (j n : Nat) (h : (s.cc k).latches.getLsbD i = true) : ((s.setLatch j n).cc k).latches.getLsbD i = true :=
  State.setLatch_cases (P := fun c => c.latches.getLsbD i = true) (fun e => BitVec.getLsbD_or.trans (by rw [← e, h, Bool.true_or])) h

/-- R117, R240: latch E2 in every control core of the partition that is on. -/
theorem State.latchAll_two {s : State} {p k : Nat} (hk : k ∈ (s.part p).cores) (hrun : (s.cc k).run ≠ .off) : ((s.latchAll p 2).cc k).latches.getLsbD 2 = true :=
  State.latchAll_sets (P := fun t => (t.cc k).latches.getLsbD 2 = true) (Q := fun t => (t.cc k).run ≠ .off) (fun _ j h => State.latch_setLatch j 2 h)
    (fun _ _ h => State.setLatch_cases (P := fun c => c.run ≠ .off) (fun e => e ▸ h) h)
    (fun t h => by
      rw [if_neg (mt eq_of_beq h), State.setLatch, State.cc_modCc, if_pos rfl, BitVec.getLsbD_or]
      exact Bool.or_true _) hk hrun

/-! ### Queues -/

theorem State.queue_modQueue (s : State) (p q i : Nat) (f : Queue → Queue) : (s.modQueue p q f).queue p i = if i = q then f (s.queue p q) else s.queue p i := by
  rw [State.queue, State.modQueue, State.part_modPart, if_pos rfl]
  exact SMap.getD_set ..

theorem State.cores_modQueue (s : State) (p q : Nat) (f : Queue → Queue) : ((s.modQueue p q f).part p).cores = (s.part p).cores := by
  rw [State.modQueue, State.part_modPart, if_pos rfl]

/-- Settles O43: of the partitions only the queue changes; the latches and the vector change no partition, and the vector no latch. -/
theorem retiringAdvancesDone : Obligations.RetiringAdvancesDone := by
  unfold Obligations.RetiringAdvancesDone
  intro p q s t
  have hparts : t.parts = (s.modQueue p q _).parts := State.latchAll_keeps (P := fun t => t.parts = _) (fun _ _ h => h) p rfl
  have hqueue (i : Nat) : t.queue p i = _ := (congrArg (fun ps : SMap Part => (ps.getD p {}).queues.getD i {}) hparts).trans (s.queue_modQueue p q i _)
  have hq := (hqueue q).trans (if_pos rfl)
  have hpart (o : Nat) (ho : o ≠ p) : t.part o = s.part o := (congrArg (fun ps : SMap Part => ps.getD o {}) hparts).trans ((s.part_modPart p o _).trans (if_neg ho))
  have hmsix : t.msix = s.msix ++ [(p, q + 1)] := congrArg (· ++ [(p, q + 1)]) (State.latchAll_keeps (P := fun t => t.msix = _) (fun _ _ h => h) p rfl)
  have htags : t.tags = s.tags := State.latchAll_keeps (P := fun t => t.tags = _) (fun _ _ h => h) p rfl
  exact ⟨congrArg Queue.done hq, congrArg Queue.recs hq, congrArg Queue.launch hq, congrArg Queue.checked hq, congrArg Queue.cause hq, congrArg Queue.st hq,
    fun i hi => (hqueue i).trans (if_neg hi), hpart, hmsix, State.advanceDone_mem .., htags, fun k hk hrun => State.latchAll_two ((s.cores_modQueue p q _).symm ▸ hk) hrun⟩

end Sys2Proof.Machine
end

section
/-! SUPPORT. Passes, entry tokens, initial records and the wrap buffer (O37): what each step answers for a region once the step's conditions hold. -/
namespace Sys2Proof.Machine

/-! ### Reports keep the cycle -/

@[simp] theorem State.postCore_cycle (s : State) (k type arg0 arg1 : Nat) : (s.postCore k type arg0 arg1).cycle = s.cycle := by
  unfold State.postCore
  split <;> rfl

@[simp] theorem State.addFault_cycle (s : State) (k rn node st cause arg0 pick : Nat) : (s.addFault k rn node st cause arg0 pick).cycle = s.cycle := rfl

@[simp] theorem State.regionFault_cycle (s : State) (k rn cause arg0 pick : Nat) : (s.regionFault k rn cause arg0 pick).cycle = s.cycle := by
  unfold State.regionFault
  split
  · rfl
  · dsimp only
    split
    · split <;> exact s.postCore_cycle ..
    · exact s.postCore_cycle ..

section PassSteps
variable {k rn b e : Nat} {r : Region} {blk : Block} {t : Token} {rest : List Token} {s : State} (hr : s.region? k rn = some r)
include hr

/-! ### Passes -/

/-- R161, R162: the block already chosen begins its pass once every row is Empty and no pick is left. -/
theorem execPassStart_begins (hb : r.nextBlock = some b) (hg : r.going = true) (he : r.allEmpty s.cycle = true) (hp : r.npick ≤ r.nextPick) :
    exec (.passStart k rn) s = .next (s.beginPass k rn r b false) := by
  simp [exec, execPassStart, hr, hb, hg, he, hp]

/-- R161, R162: with no block in progress, the block that is chosen begins its pass, and the skip counts follow the choice. -/
theorem execPassStart_chooses (hn : r.nextBlock = none) (hs : r.canStart s.cycle = true) (hd : r.det = false)
    (hb : chooseBlock ((upFrom 0 r.blocks.length).zip r.blocks) = some b) (hc : r.cur = none) (he : r.allEmpty s.cycle = true) :
    exec (.passStart k rn) s = .next
      ((s.modRegion k rn fun z => { z with blocks := skipCounts b ((upFrom 0 r.blocks.length).zip r.blocks) }).beginPass k rn r b false) := by
  simp [exec, execPassStart, hr, hn, hs, hd, hb, hc, he]

/-! ### Entry tokens and initial records -/

/-- R160: the next entry token enters the entry channel, which has room, once row 0 holds pick 0. -/
theorem execEntryTokenSend_sends (hg : r.going = true) (hn : r.nextBlock = none) (hw : r.eowSent = false) (ha : r.sendAt ≤ s.cycle)
    (hx : (r.row 0).st = .active) (hp : (r.row 0).pick = 0) (hb : (r.cur.bind fun b => r.blocks[b]?) = some blk) (hf : r.fillEntry.entry = t :: rest)
    (hl : ((s.core k).link (r.elemAt 0 blk.entcol * 8 + blk.entch)).held 0 s.cycle < 2) :
    let key := r.elemAt 0 blk.entcol * 8 + blk.entch
    exec (.entryTokenSend k rn) s = .next
      (((s.modCore k fun c => { c with links := c.links.set key ((c.link key).push 0 { t with arrived := s.cycle }) }).modRegion k rn fun _ =>
        { r.fillEntry with entry := rest, eowSent := t.kind == 1 && rest.isEmpty }).passRows k rn) := by
  simp [exec, execEntryTokenSend, hr, hg, hn, hw, hx, hp, hb, hf, not_lt.mpr ha, not_le.mpr hl]

/-- R247: the record of the next thread enters block 0's queue, which has room beside the places that EXITs reserve (R199). -/
theorem execInitialRecordAppend_appends (hb : r.blocks[0]? = some blk) (hd : 0 < r.due) (hs : r.started = true) (he : r.ended = false) (hf : r.frozen = false)
    (hq : blk.count + (s.core k).recordsReserved r 0 < blk.qcap) :
    exec (.initialRecordAppend k rn) s = .next ((s.appendRecord k rn 0 (entryRecord r.nextThread [])).modRegion k rn fun r =>
      { r with due := r.due - 1, nextThread := (r.nextThread + 1) % 2 ^ 32 }) := by
  simp [exec, execInitialRecordAppend, hr, hb, hd.ne', hs, he, hf, not_le.mpr hq]

/-! ### The wrap buffer -/

/-- R166: a region that runs delivers its entries from the oldest on. -/
theorem execWrapDelivery_delivers (he : r.ended = false) (hf : r.frozen = false) (hz : r.freeze = .none) :
    exec (.wrapDelivery k rn) s = .next (s.deliverWraps k rn r [] r.wrap) := by
  simp [exec, execWrapDelivery, hr, he, hf, hz]

/-- R166, R375, R376: the fault of a wrap buffer that nothing can free is posted, the region freezes in the same cycle, and its drain is due. -/
theorem execWrapOverflow_freezes (hf : r.frozen = false) (hw : (s.core k).wrapStuck e = true) :
    let arg := faultArg 0 0x104 2 0 (r.colOf e) 0 (e % 16 / 8) (r.rowOf e) rn
    let p := (r.row (r.rowOf e)).pick
    let t := ((s.addFault k rn 33 0 0x104 arg p).regionFault k rn 0x104 arg p).modRegion k rn fun r => { r with frozen := true, drainAt := some s.cycle }
    exec (.wrapOverflow k rn e) s = .next { t with todo := .ev (.drain k rn) :: t.todo } := by
  simp [exec, execWrapOverflow, hr, hf, hw]

end PassSteps

/-- Settles O37: one clause for each step, by what it answers for the region under the clause's conditions. -/
theorem passEvents : Obligations.PassEvents := fun _ _ _ _ _ _ _ _ _ hr =>
  ⟨execPassStart_begins hr, execPassStart_chooses hr, execEntryTokenSend_sends hr, execInitialRecordAppend_appends hr, execWrapDelivery_delivers hr,
    execWrapOverflow_freezes hr⟩

end Sys2Proof.Machine
end

section
/-! SUPPORT. Rows (O38): what a pick load, an eviction, a spill and a restore answer once the controller's conditions hold, and the controller's read of a record (R255). -/
namespace Sys2Proof.Machine

/-- R255: a record whose bytes can all be read raises nothing, whether or not the launch has control cores. -/
theorem State.unitCheck_of_readable {s : State} {a n : Nat} (h : s.unreadable a n = none) (k : Nat) (ctrl : Bool) : s.unitCheck k a n ctrl = s := by
  rw [State.unitCheck, h]

theorem State.ctlCheck_of_readable {s : State} {a n : Nat} (h : s.unreadable a n = none) (k rn : Nat) : s.ctlCheck k rn a n = s :=
  State.unitCheck_of_readable h k _

/-- R156, R157, R164: the pick that may load now is placed as its checks answer it, or rejected with the reason that they give. Its routes may bind neither what the pick before
binds nor the entry channel (assumption 62). -/
theorem execPickLoad_loads {k rn row pick : Nat} {r : Region} {l : Launch} {blk : Block} {h : ImageHdr} {s : State} (hr : s.region? k rn = some r)
    (hn : r.nextLoad s.cycle = some (row, pick)) (hl : s.launches.get? r.launch = some l) (hb : (r.cur.bind fun b => r.blocks[b]?) = some blk) (hh : l.hdr = some h) :
    let place : PickPlace := { last := pick + 1 == blk.npick, ent := if pick = 0 then some (blk.entcol * 8 + blk.entch) else none
                               prev := (s.core k).boundNext r pick false, prevK := (s.core k).boundNext r pick true }
    let t := s.modCore k fun c => { c with loadPtr := (rn + 1) % 8 }
    exec (.pickLoad k rn row pick) s = .next (
      match t.loadPick k rn l.part r.image (blk.pickoff + pick * pickLen r.wide) l.stageEnd h r.wide place (l.placed.get? (r.cur.getD 0 * 256 + pick)) with
      | (.error x, t) => t.rejectPick k rn row pick x
      | (.ok (b, cards), t) => t.placePick k rn row pick b cards) := by
  simp only [exec, execPickLoad, hr, hn, hl, hb, hh, bne_self_eq_false, Bool.false_eq_true, if_false] <;> rfl

section Evictions
variable {k rn row : Nat} {r : Region} {s t : State} (ht : s.passRows k rn = t) (hr : t.region? k rn = some r) (he : t.evictable k r row = true)
include ht hr he

/-- R165: a pick without a spill record leaves its row at once. -/
theorem execEviction_empties (hs : t.slotOf r.launch (r.cur.getD 0) (r.row row).pick = none) : exec (.eviction k rn row) s = .next (t.emptyRow k rn row) := by
  simp only [exec, execEviction, ht, hr, he, hs, Bool.not_true, Bool.false_eq_true, if_false]

/-- R165, R167: a pick with a spill record is noted as saved, and its row is Evicting until the record's bytes have moved. -/
theorem execEviction_spills {o n : Nat} (hs : t.slotOf r.launch (r.cur.getD 0) (r.row row).pick = some (o, n)) (hn : n ≠ 0) :
    let key := (r.cur.getD 0, (r.row row).pick)
    exec (.eviction k rn row) s = .next (((t.modRegion k rn fun r => { r with saved := if r.saved.contains key then r.saved else key :: r.saved }).modRow k rn row fun x =>
      { x with st := .evicting, since := t.cycle, bytes := n }).layers k r row 1 (t.cycle + 1)) := by
  simp only [exec, execEviction, ht, hr, he, hs, hn, State.modRegion_cycle, Bool.not_true, Bool.false_eq_true, if_false]

end Evictions

section Moves
variable {k rn row o n : Nat} {r : Region} {s : State} (hr : s.region? k rn = some r) (hb : (r.row row).bytes = 0)
  (hs : s.slotOf r.launch (r.cur.getD 0) (r.row row).pick = some (o, n))
include hr hb hs

/-- R167: once its bytes have moved, the record of an Evicting row stands in its slot, and the row is Empty. -/
theorem execSpillComplete_writes (hx : (r.row row).st = .evicting) :
    exec (.spillComplete k rn row) s = .next (((s.put (tileLoc k (r.spillBase + o)) ((s.spillRecord k r row).take n)).emptyRow k rn row).passRows k rn) := by
  simp [exec, execSpillComplete, hr, hb, hs, hx]

/-- R168: once its bytes have moved, a Loading row is Active with the elements of its record, unless an accumulator image breaks R221. -/
theorem execRestoreComplete_restores {t : State} (hx : (r.row row).st = .loading)
    (ht : (s.ctlCheck k rn (tileLoc k (r.spillBase + o)) n).restoreElems k r row (s.ctlBytes (tileLoc k (r.spillBase + o)) n) (upFrom 0 (pickCols r.wide)) = some t) :
    exec (.restoreComplete k rn row) s = .next
      ((((t.modRow k rn row fun x => { x with st := .active, since := t.cycle }).layers k r row (r.row row).div (t.cycle + 1)).loadDone k rn row).passRows k rn) := by
  simp only [exec, execRestoreComplete, hr, hb, hs, hx, Option.getD_some, ht, bne_self_eq_false, Bool.or_self, Bool.false_eq_true, if_false]

end Moves

/-- Settles O38: one clause for each step, by what it answers for the row under the clause's conditions. -/
theorem rowEvents : Obligations.RowEvents := by
  unfold Obligations.RowEvents
  intro k rn row pick part r s hr
  refine ⟨fun l blk h hn hl hb hh hp => ?_, fun t r' ht hr' he => execEviction_empties ht hr' he, fun t r' o n ht hr' he => execEviction_spills ht hr' he,
    fun hx hb o n hs => execSpillComplete_writes hr hb hs hx, fun a n h => State.ctlCheck_of_readable h k rn, fun hx hb o n t hs ht => execRestoreComplete_restores hr hb hs hx ht⟩
  rw [← hp]
  exact execPickLoad_loads hr hn hl hb hh

end Sys2Proof.Machine
end

section
/-! SUPPORT. Power and temperature (O41): what the steps of an interval leave in each string, a lease through suspensions and resumptions, and the readings of a die through what follows on them. -/
namespace Sys2Proof.Machine

/-! ### Rising numbers, and folds that visit each entry once -/

theorem upFrom_eq_range' (lo n : Nat) : upFrom lo n = List.range' lo n := by
  induction n generalizing lo with
  | zero => rfl
  | succ n ih => rw [upFrom, ih, List.range'_succ]

theorem getD_map_upFrom {α : Type} (f : Nat → α) {n i : Nat} (h : i < n) (d : α) : ((upFrom 0 n).map f).getD i d = f i := by
  simp [upFrom_eq_range', h]

/-- Of a fold that meets `a` once, what `a`'s step makes true is true at the end: the steps before it keep `R`, which it needs, and those after it keep `P`. -/
theorem foldl_reaches {α β : Type} {f : β → α → β} {R P : β → Prop} {a : α} {l : List α} {b : β} (hl : l.Nodup) (ha : a ∈ l) (hR : ∀ t x, x ≠ a → R t → R (f t x))
    (hat : ∀ t, R t → P (f t a)) (hP : ∀ t x, x ≠ a → P t → P (f t x)) (h : R b) : P (l.foldl f b) := by
  obtain ⟨u, v, rfl⟩ := List.append_of_mem ha
  obtain ⟨-, hv, huv⟩ := List.nodup_append.mp hl
  have hu := List.foldlRecOn u f h fun t ht x hx => hR t x (huv x hx a List.mem_cons_self) ht
  rw [List.foldl_append, List.foldl_cons]
  exact List.foldlRecOn v f (hat _ hu) fun t ht x hx => hP t x (fun e => (List.nodup_cons.mp hv).1 (e ▸ hx)) ht

/-- A view of the state that no step of a fold changes, the fold does not change. -/
theorem foldl_view {α β : Type} {f : State → α → State} (v : State → β) (hf : ∀ s x, v (f s x) = v s) (l : List α) (s : State) : v (l.foldl f s) = v s :=
  List.foldlRecOn l f (motive := fun t => v t = v s) rfl fun t ht x _ => (hf t x).trans ht

/-! ### Steps of one string (R179 to R183) -/

/-- What a string's step at the end or at the start of an interval reads besides the string itself. -/
structure StringFrame (s t : State) : Prop where
  cycle : t.cycle = s.cycle
  scale : t.scale = s.scale
  thermal : t.thermal = s.thermal
  parts : t.parts = s.parts
  part : ∀ k, (t.core k).part = (s.core k).part
  regions : ∀ k, (t.core k).regions = (s.core k).regions

theorem StringFrame.refl (s : State) : StringFrame s s := ⟨rfl, rfl, rfl, rfl, fun _ => rfl, fun _ => rfl⟩

theorem StringFrame.trans {s t u : State} (h : StringFrame s t) (g : StringFrame t u) : StringFrame s u :=
  ⟨g.cycle.trans h.cycle, g.scale.trans h.scale, g.thermal.trans h.thermal, g.parts.trans h.parts, fun k => (g.part k).trans (h.part k),
    fun k => (g.regions k).trans (h.regions k)⟩

/-- The step from `s` to `t` leaves string `m` of core `j` as `y`, and keeps the other strings and what their steps read. -/
structure SetsString (j m : Nat) (y : Str) (s t : State) : Prop extends StringFrame s t where
  str : ∀ k n, (t.core k).str n = if k = j ∧ n = m then y else (s.core k).str n

theorem setsString_modCore {j m : Nat} {y : Str} {s : State} {f : Core → Core} (hs : (f (s.core j)).strings = (s.core j).strings.set m y)
    (hp : (f (s.core j)).part = (s.core j).part) (hr : (f (s.core j)).regions = (s.core j).regions) : SetsString j m y s (s.modCore j f) where
  cycle := rfl
  scale := rfl
  thermal := rfl
  parts := rfl
  part k := by
    rw [State.core_modCore]
    split_ifs with h
    · rw [hp, h]
    · rfl
  regions k := by
    rw [State.core_modCore]
    split_ifs with h
    · rw [hr, h]
    · rfl
  str k n := by
    rw [State.core_modCore]
    by_cases h : k = j
    · subst h
      simp [Core.str, hs]
    · simp [h]

theorem SetsString.postStr {j m : Nat} {y : Str} {s t : State} (h : SetsString j m y s t) (k n type arg0 arg1 : Nat) :
    SetsString j m y s (t.postStr k n type arg0 arg1) := by
  unfold State.postStr
  split
  · exact ⟨⟨h.cycle, h.scale, h.thermal, h.parts, h.part, h.regions⟩, h.str⟩
  · exact h

theorem SetsString.throtRecord {j m : Nat} {y : Str} {s t : State} (h : SetsString j m y s t) (k n : Nat) (old new : Str) (l : List (Option (Nat × Nat))) :
    SetsString j m y s (t.throtRecord k n old new l) := by
  unfold State.throtRecord
  exact iteInduction (fun _ => h.postStr ..) fun _ => iteInduction (fun _ => h.postStr ..) fun _ => h

theorem SetsString.str_other {j m k n : Nat} {y : Str} {s t : State} (h : SetsString j m y s t) (hne : ¬ (k = j ∧ n = m)) : (t.core k).str n = (s.core k).str n :=
  (h.str k n).trans (if_neg hne)

/-- String `n` of core `k` has yet to take its step: it stands in `t` as in `s`, with what the step reads. -/
structure StringPending (k n : Nat) (s t : State) : Prop extends StringFrame s t where
  str : (t.core k).str n = (s.core k).str n

theorem StringPending.other {j m k n : Nat} {y : Str} {s t u : State} (ht : StringPending k n s t) (h : SetsString j m y t u) (hne : ¬ (k = j ∧ n = m)) :
    StringPending k n s u :=
  ⟨ht.trans h.toStringFrame, (h.str_other hne).trans ht.str⟩

section EachString
variable {s : State} {k n : Nat} {f : State → Nat → Nat → State} {g : State → Nat → Nat → Str} (hf : ∀ t j m, SetsString j m (g t j m) t (f t j m))
  (hg : ∀ t, StringFrame s t → (t.core k).str n = (s.core k).str n → g t k n = g s k n) (hn : n < 8)
include hf hg hn

/-- The turns of the strings of a core leave in each of them what its step makes of the state before the first turn of all. -/
theorem State.str_coreStrings {t : State} (ht : StringPending k n s t) : (((upFrom 0 8).foldl (fun s m => f s k m) t).core k).str n = g s k n := by
  refine foldl_reaches (R := StringPending k n s) (P := fun t => (t.core k).str n = g s k n) (upFrom_eq_range' 0 8 ▸ List.nodup_range') ?_
    (fun t m hm ht => ht.other (hf t k m) fun h => hm h.2.symm) (fun t ht => ?_) (fun t m hm ht => ((hf t k m).str_other fun h => hm h.2.symm).trans ht) ht
  · rw [upFrom_eq_range', List.mem_range'_1]
    omega
  · rw [(hf t k n).str, if_pos ⟨rfl, rfl⟩, hg t ht.toStringFrame ht.str]

/-- A step that is taken once for every string of every core of a partition leaves in each string what it makes of the state before the first of them. -/
theorem State.str_eachString (hhomes : s.homes.Nodup) (hk : k ∈ s.homes) : ((s.eachString f).core k).str n = g s k n :=
  foldl_reaches (R := StringPending k n s) (P := fun t => (t.core k).str n = g s k n) hhomes hk
    (fun _ j hj ht => List.foldlRecOn _ _ ht fun t ht m _ => ht.other (hf t j m) fun h => hj h.1.symm)
    (fun _ ht => State.str_coreStrings hf hg hn ht)
    (fun _ j hj ht => List.foldlRecOn (motive := fun t => (t.core k).str n = g s k n) _ _ ht fun t ht m _ => ((hf t j m).str_other fun h => hj h.1.symm).trans ht)
    ⟨.refl s, rfl⟩

end EachString

/-! ### INTERVAL_START, TOKEN_INSTALMENT and INTERVAL_END -/

/-- R184: P_p for a core; 70 outside a partition. -/
def State.corePercent (s : State) (k : Nat) : Nat :=
  match (s.core k).part with
  | some p => s.percent p
  | none => 70

theorem Core.layerPick_congr {c d : Core} (h : c.regions = d.regions) : c.layerPick = d.layerPick := by
  funext n i
  rw [Core.layerPick, Core.layerPick, Core.regionOf, Core.regionOf, h]

theorem Core.stringEmpty_congr {c d : Core} (h : c.regions = d.regions) : c.stringEmpty = d.stringEmpty := by
  funext n
  simp only [Core.stringEmpty, Core.regionOf, h]

theorem StringFrame.corePercent {s t : State} (h : StringFrame s t) (k : Nat) : t.corePercent k = s.corePercent k := by
  simp only [State.corePercent, State.percent, State.part, h.part, h.parts]

/-- R179, R181, R183: string `n` of core `k` at the start of an interval. -/
def State.startedString (s : State) (k n : Nat) : Str :=
  ((s.core k).str n).start ((upFrom 0 4).map ((s.core k).layerPick n)) (s.thermal.contains (dieOf k)) (s.corePercent k) s.scale s.cycle

theorem State.startString_sets (s : State) (k n : Nat) : SetsString k n (s.startedString k n) s (s.startString k n) :=
  (setsString_modCore rfl rfl rfl).throtRecord ..

/-- R181: a layer at its boundary takes the divisor of the new interval; any other keeps the one that it runs at. -/
theorem Str.divide_div (x : Str) (ds : List Nat) (now : Nat) {i : Nat} (hi : i < 4) :
    (x.divide ds now).div.getD i 0 = if x.next.getD i 0 = now + x.div.getD i 1 then ds.getD i 1 else x.div.getD i 1 := by
  simp only [Str.divide, getD_map_upFrom _ hi, beq_iff_eq]

/-- R180, R182: the string with the mean currents of its layers at the end of an interval. -/
def Str.ended (x : Str) (empty : Bool) (mean : List Nat) : Str :=
  { x with imbalance := if empty then 0 else imbalanceOf mean, react := reactNext x.react mean, unmet := x.starved.any fun j => 0 < x.short.getD j 0
           lastMet := x.short.all fun v => v == 0 }

theorem State.endString_sets (s : State) (k n : Nat) (mean : List Nat) :
    SetsString k n (((s.core k).str n).ended ((s.core k).stringEmpty n) mean) s (s.endString k n mean) := by
  unfold State.endString
  exact iteInduction (fun _ => (setsString_modCore rfl rfl rfl).postStr ..) fun _ => setsString_modCore rfl rfl rfl

section Interval
variable {s : State} {k n : Nat} (hhomes : s.homes.Nodup) (hk : k ∈ s.homes) (hn : n < 8)
include hhomes hk hn

theorem State.str_intervalStart : ((s.eachString State.startString).core k).str n = s.startedString k n :=
  State.str_eachString (g := State.startedString) State.startString_sets (fun t h hx => by
    simp only [State.startedString, hx, Core.layerPick_congr (h.regions k), h.thermal, h.corePercent, h.scale, h.cycle]) hn hhomes hk

theorem State.str_tokenInstalment :
    ((s.eachString fun s k n => s.modCore k fun c => { c with strings := c.strings.set n ((c.str n).instalment s.cycle) }).core k).str n
      = ((s.core k).str n).instalment s.cycle :=
  State.str_eachString (g := fun t j m => ((t.core j).str m).instalment t.cycle) (fun _ _ _ => setsString_modCore rfl rfl rfl)
    (fun t h hx => by simp only [hx, h.cycle]) hn hhomes hk

theorem State.str_intervalEnd (mean : Nat → Nat → List Nat) :
    ((s.eachString fun s k n => s.endString k n (mean k n)).core k).str n = ((s.core k).str n).ended ((s.core k).stringEmpty n) (mean k n) :=
  State.str_eachString (g := fun t j m => ((t.core j).str m).ended ((t.core j).stringEmpty m) (mean j m)) (fun t j m => t.endString_sets j m _)
    (fun t h hx => by simp only [hx, Core.stringEmpty_congr (h.regions k)]) hn hhomes hk

end Interval

/-! ### Leases under POWER_CAP_ACTION (R185) -/

/-- A lease changed: nothing where there is none; else the partition takes the new lease, and a record may follow. -/
theorem State.setLease_cases {P : State → Prop} (hpost : ∀ t r, P t → P (t.post r)) {s : State} {p : Nat} {f : Lease → Lease} (hnone : (s.part p).lease = none → P s)
    (hsome : ∀ l, (s.part p).lease = some l → ∀ i : Part → Option Nat, P (s.modPart p fun x => { x with lease := some (f l), suspendedIn := i x })) : P (s.setLease p f) := by
  unfold State.setLease
  split
  next h => exact hnone h
  next l h =>
    have hset := hsome l h
    exact iteInduction (fun _ => hpost _ _ (hset _)) fun _ => iteInduction (fun _ => hpost _ _ (hset _)) fun _ => hset _

section Views
variable {β : Type} (v : State → β) (hpost : ∀ s r, v (s.post r) = v s)
include hpost

theorem State.postDie_view (s : State) (ps : List Nat) (die type arg0 arg1 : Nat) : v (s.postDie ps die type arg0 arg1) = v s :=
  foldl_view v (fun _ _ => hpost ..) ps s

variable (hpart : ∀ s p f, v (s.modPart p f) = v s)
include hpart

/-- A change of a lease shows only in its partition and in the records. -/
theorem State.setLease_view (s : State) (p : Nat) (f : Lease → Lease) : v (s.setLease p f) = v s :=
  State.setLease_cases (P := fun t => v t = v s) (fun t r h => (hpost t r).trans h) (fun _ => rfl) fun _ _ _ => hpart ..

theorem State.heatLeases_view (s : State) (die : Nat) : v (s.heatLeases die) = v s :=
  foldl_view v (fun _ _ => State.setLease_view v hpost hpart ..) _ s

end Views

@[simp] theorem State.setLease_suspended (s : State) (p : Nat) (f : Lease → Lease) : (s.setLease p f).suspended = s.suspended :=
  State.setLease_view State.suspended (fun _ _ => rfl) (fun _ _ _ => rfl) s p f

@[simp] theorem State.setLease_avgW (s : State) (p : Nat) (f : Lease → Lease) : (s.setLease p f).avgW = s.avgW :=
  State.setLease_view State.avgW (fun _ _ => rfl) (fun _ _ _ => rfl) s p f

@[simp] theorem State.setLease_scale (s : State) (p : Nat) (f : Lease → Lease) : (s.setLease p f).scale = s.scale :=
  State.setLease_view State.scale (fun _ _ => rfl) (fun _ _ _ => rfl) s p f

@[simp] theorem State.lease_setLease (s : State) (p q : Nat) (f : Lease → Lease) :
    ((s.setLease p f).part q).lease = if q = p then (s.part p).lease.map f else (s.part q).lease := by
  refine State.setLease_cases (P := fun t => (t.part q).lease = _) (fun _ _ h => h) (fun h => ?_) fun l h i => ?_
  · split_ifs with hq
    · rw [hq, h]
      rfl
    · rfl
  · rw [State.part_modPart, h]
    split_ifs <;> rfl

/-- The lease of partition `p` is suspended for the power cap, under the power measured. -/
structure CappedLease (p avg : Nat) (s : State) : Prop where
  lease : (s.part p).lease.map Lease.capped = some true
  listed : p ∈ s.suspended
  avgW : s.avgW = avg

/-- R185: one lease suspended. -/
def State.suspendLease (s : State) (p : Nat) : State := ({ s with suspended := s.suspended ++ [p] }).setLease p fun l => { l with capped := true }

theorem State.suspendLease_caps {s : State} {p : Nat} {le : Lease} (h : (s.part p).lease = some le) : CappedLease p s.avgW (s.suspendLease p) where
  lease := by
    rw [State.suspendLease, State.lease_setLease, if_pos rfl]
    exact congrArg (Option.map Lease.capped ∘ Option.map _) h
  listed := by simp [State.suspendLease]
  avgW := State.setLease_avgW ..

/-- A suspended lease stays so while others are suspended. -/
theorem CappedLease.suspendLease {p avg : Nat} {s : State} (h : CappedLease p avg s) (q : Nat) : CappedLease p avg (s.suspendLease q) where
  lease := by
    rw [State.suspendLease, State.lease_setLease]
    split_ifs with hq
    · obtain ⟨l, hl, -⟩ := Option.map_eq_some_iff.mp h.lease
      exact congrArg (Option.map Lease.capped ∘ Option.map _) (hq ▸ hl)
    · exact h.lease
  listed := by simp [State.suspendLease, h.listed]
  avgW := (State.setLease_avgW ..).trans h.avgW

theorem CappedLease.suspendLeases {p avg : Nat} (l : List Nat) {s : State} (h : CappedLease p avg s) : CappedLease p avg (suspendLeases l s) := by
  induction l generalizing s with
  | nil => exact h
  | cons q l ih =>
    obtain ⟨hlease, hlisted, havg⟩ := h.suspendLease q
    have hdrawn : CappedLease p avg (s.suspendLease q).draw.2 := ⟨hlease, hlisted, havg⟩
    exact iteInduction (fun _ => hdrawn) fun _ => ih hdrawn

theorem suspendLeases_cons_caps {p : Nat} {le : Lease} {s : State} (h : (s.part p).lease = some le) (l : List Nat) : CappedLease p s.avgW (suspendLeases (p :: l) s) := by
  obtain ⟨hlease, hlisted, havg⟩ := State.suspendLease_caps h
  have hdrawn : CappedLease p s.avgW (s.suspendLease p).draw.2 := ⟨hlease, hlisted, havg⟩
  exact iteInduction (fun _ => hdrawn) fun _ => hdrawn.suspendLeases l

theorem CappedLease.lowerScale {p avg : Nat} {s : State} (h : CappedLease p avg s) : CappedLease p avg s.lowerScale :=
  iteInduction (fun _ => ⟨h.lease, h.listed, h.avgW⟩) fun _ => h

/-- The order of suspension depends on the partitions alone (R185). -/
theorem State.suspendOrder_congr {s t : State} (h : t.parts = s.parts) : t.suspendOrder = s.suspendOrder := by
  have hpart (p : Nat) : t.part p = s.part p := congrArg (fun ps : SMap Part => ps.getD p {}) h
  have hinsert (p : Nat) (l : List Nat) : insertWeight t p l = insertWeight s p l := by
    induction l with
    | nil => rfl
    | cons q l ih => exact if_congr (by rw [hpart, hpart]) rfl (congrArg _ ih)
  simp only [State.suspendOrder, hinsert, h]

/-! ### POWER_CAP_ACTION -/

/-- R185: the state with the power measured, and the time for which it has stood above the limit. -/
def State.measured (s : State) (avg : Nat) : State := { s with avgW := avg, overMs := if 2200 < avg then s.overMs + 128 else 0 }

theorem State.suspendOrder_measured (s : State) (avg : Nat) : (s.measured avg).suspendOrder = s.suspendOrder :=
  State.suspendOrder_congr (s := s) (t := s.measured avg) rfl

theorem State.measured_of_le {s : State} {avg : Nat} (h : avg ≤ 2200) : s.measured avg = { s with avgW := avg, overMs := 0 } := by
  rw [State.measured, if_neg (not_lt.mpr h)]

section PowerCap
variable {avg peak : Nat} {s : State}

theorem execPowerCapAction_eq : exec (.powerCapAction avg peak) s = .next (
    let u := s.measured avg
    if 10000000 ≤ u.overMs || 2400 < peak then (suspendLeases u.suspendOrder u).lowerScale else if avg < 2100 then u.raiseScale else u) := rfl

theorem execPowerCapAction_over (hp : 2400 < peak) :
    exec (.powerCapAction avg peak) s = .next (suspendLeases s.suspendOrder (s.measured avg)).lowerScale := by
  rw [execPowerCapAction_eq, ← s.suspendOrder_measured avg]
  exact congrArg _ (if_pos (by simp [hp]))

theorem execPowerCapAction_within (hp : peak ≤ 2400) (ha : avg ≤ 2200) :
    exec (.powerCapAction avg peak) s = .next (if avg < 2100 then (s.measured avg).raiseScale else s.measured avg) :=
  congrArg _ (if_neg (by simp [not_lt.mpr ha, hp]))

end PowerCap

/-- R185: k falls by 1, down to 16, once no active lease is left. -/
theorem State.lowerScale_of_none {s : State} (h : s.suspendOrder = []) : s.lowerScale = { s with scale := if 16 < s.scale then s.scale - 1 else s.scale } := by
  rw [State.lowerScale, h]
  by_cases hk : 16 < s.scale <;> simp [hk]

/-- R185: the one suspended lease resumes once k is back at 64. -/
theorem State.raiseScale_resumes {s : State} {p : Nat} {le : Lease} (hk : 63 ≤ s.scale) (hs : s.suspended = [p]) (hl : (s.part p).lease = some le) :
    (s.raiseScale.part p).lease = some { le with capped := false } ∧ s.raiseScale.suspended = [] ∧ s.raiseScale.scale = 64 := by
  have hmin : min 64 (s.scale + 1) = 64 := by omega
  have hraise : s.raiseScale = ({ s with scale := 64 } : State).resumeLeases := by
    rw [State.raiseScale, hmin]
    exact if_pos rfl
  have hresume : s.raiseScale = { ({ s with scale := 64 } : State).setLease p fun l => { l with capped := false } with suspended := [] } := by
    rw [hraise, State.resumeLeases, hs]
    rfl
  refine ⟨?_, congrArg State.suspended hresume, (congrArg State.scale hresume).trans (State.setLease_scale ..)⟩
  rw [hresume]
  exact (State.lease_setLease ..).trans ((if_pos rfl).trans (congrArg (Option.map _) hl))

/-! ### SENSOR_SAMPLE (R187, R189) -/

/-- The readings of the sensors, and what the package holds of them. -/
def State.thermalView (s : State) : SMap Int × SMap Nat × List Nat × Bool := (s.sensors, s.above, s.thermal, s.tripped)

/-- R187: the state with the readings of a die. -/
def State.readSensors (s : State) (die : Nat) (rd : List Int) : State := ((upFrom 0 48).zip rd).foldl (fun s p => s.readSensor die p.1 p.2) s

theorem sensors_readings (die : Nat) {m i : Nat} (hi : i < m) (lo : Nat) {rd : List Int} {r : Int} (hr : rd[i]? = some r) (s : State) :
    (((upFrom lo m).zip rd).foldl (fun s p => s.readSensor die p.1 p.2) s).sensors.get? (die * 48 + (lo + i)) = some r := by
  induction m generalizing lo rd i s with
  | zero => exact absurd hi (Nat.not_lt_zero i)
  | succ m ih =>
    cases rd with
    | nil => simp at hr
    | cons v rd =>
      rw [upFrom, List.zip_cons_cons, List.foldl_cons]
      cases i with
      | zero =>
        refine List.foldlRecOn (motive := fun t : State => t.sensors.get? (die * 48 + lo) = some r) _ _ ?_ fun t ht p hp => ?_
        · simpa [State.readSensor] using hr
        · have hlo : lo + 1 ≤ p.1 := (List.mem_range'_1.mp (upFrom_eq_range' .. ▸ (List.of_mem_zip hp).1)).1
          rw [State.readSensor, SMap.get?_set, if_neg (by omega)]
          exact ht
      | succ i =>
        rw [show lo + (i + 1) = lo + 1 + i by omega]
        exact ih (by omega) (lo + 1) (by simpa using hr) _

theorem State.readSensors_keeps (s : State) (die : Nat) (rd : List Int) :
    ((s.readSensors die rd).above, (s.readSensors die rd).thermal, (s.readSensors die rd).tripped) = (s.above, s.thermal, s.tripped) :=
  foldl_view (f := fun t (p : Nat × Int) => t.readSensor die p.1 p.2) (fun t => (t.above, t.thermal, t.tripped)) (fun _ _ => rfl) _ s

theorem State.hottest_congr {s t : State} (h : t.sensors = s.sensors) (die : Nat) : t.hottest die = s.hottest die := by
  simp only [State.hottest, State.sensor, h]

/-- R189: the thresholds that the hottest sensor of a die stands above, as bits. -/
def State.standing (s : State) (die : Nat) : Nat :=
  thresholds.foldl (fun v p => v + b2n (standsAbove (bit (s.above.getD die 0) p.1) p.2 (s.hottest die)) * 2 ^ p.1) 0

/-- A number of three bits, read bit by bit. -/
theorem bit_of_three (a b c : Bool) :
    let v := 0 + b2n a * 2 ^ 0 + b2n b * 2 ^ 1 + b2n c * 2 ^ 2
    bit v 0 = a ∧ bit v 1 = b ∧ bit v 2 = c := by
  revert a b c
  decide

theorem State.bit_standing (s : State) (die : Nat) :
    ∀ p ∈ thresholds, bit (s.standing die) p.1 = standsAbove (bit (s.above.getD die 0) p.1) p.2 (s.hottest die) := by
  obtain ⟨h0, h1, h2⟩ := bit_of_three (standsAbove (bit (s.above.getD die 0) 0) 95 (s.hottest die)) (standsAbove (bit (s.above.getD die 0) 1) 105 (s.hottest die))
    (standsAbove (bit (s.above.getD die 0) 2) 115 (s.hottest die))
  exact List.forall_mem_cons.mpr ⟨h0, List.forall_mem_cons.mpr ⟨h1, List.forall_mem_cons.mpr ⟨h2, fun _ h => absurd h List.not_mem_nil⟩⟩⟩

/-- R189: the hot dies once a die's hottest sensor has been read: it joins them at 115 °C and leaves them below 112 °C. -/
def State.hotDies (s : State) (die : Nat) : List Nat :=
  if s.thermal.contains die then if s.hottest die < 112 * 16 then removeNum s.thermal die else s.thermal
  else if 115 * 16 ≤ s.hottest die then insertNum s.thermal die else s.thermal

theorem contains_insertNum (l : List Nat) (n : Nat) : (insertNum l n).contains n = true := by
  induction l with
  | nil => simp [insertNum]
  | cons m l ih =>
    unfold insertNum
    split_ifs <;> simp_all

theorem contains_removeNum (l : List Nat) (n : Nat) : (removeNum l n).contains n = false := by
  simp [removeNum]

theorem State.contains_hotDies (s : State) (die : Nat) : (s.hotDies die).contains die
    = if s.thermal.contains die then decide (112 * 16 ≤ s.hottest die) else decide (115 * 16 ≤ s.hottest die) := by
  unfold State.hotDies
  split_ifs with hin hcool hhot
  · rw [contains_removeNum, decide_eq_false (not_le.mpr hcool)]
  · rw [hin, decide_eq_true (not_lt.mp hcool)]
  · rw [contains_insertNum, decide_eq_true hhot]
  · rw [decide_eq_false hhot, Bool.eq_false_iff.mpr hin]

theorem State.crossings_view (s : State) (die : Nat) :
    (s.crossings die).thermalView = (s.sensors, s.above.set die (s.standing die), s.thermal, s.tripped) := by
  unfold State.crossings
  refine foldl_view State.thermalView (fun t p => ?_) _ _
  split_ifs
  · rfl
  · exact State.postDie_view _ (fun _ _ => rfl) ..

theorem State.heatStep_view (s : State) (die : Nat) : (s.heatStep die).thermalView = (s.sensors, s.above, s.hotDies die, s.tripped) := by
  have hleases (t : State) : (t.heatLeases die).thermalView = t.thermalView := State.heatLeases_view _ (fun _ _ => rfl) (fun _ _ _ => rfl) t die
  have hposted (t : State) (ps : List Nat) (n a b c : Nat) : ((t.postDie ps n a b c).heatLeases die).thermalView = t.thermalView :=
    (hleases _).trans (State.postDie_view _ (fun _ _ => rfl) ..)
  unfold State.heatStep State.hotDies
  dsimp only
  split_ifs
  · exact hposted ..
  · exact hleases s
  · exact hposted ..
  · rfl

theorem State.rebin_view (s : State) (die : Nat) : (s.rebin die).thermalView = s.thermalView := by
  unfold State.rebin
  refine foldl_view State.thermalView (fun t p => foldl_view State.thermalView (fun u n => ?_) _ t) _ s
  split
  · rfl
  · dsimp only
    split_ifs <;> rfl

/-- R187 to R189: a die's readings taken, with the records, the leases and the bins that follow on them. -/
def State.sampled (s : State) (die : Nat) (rd : List Int) : State := (((s.readSensors die rd).crossings die).heatStep die).rebin die

theorem State.sampled_view (s : State) (die : Nat) (rd : List Int) :
    let u := s.readSensors die rd
    (s.sampled die rd).thermalView = (u.sensors, u.above.set die (u.standing die), u.hotDies die, u.tripped) := by
  intro u
  obtain ⟨hsensors, habove, hthermal, htripped⟩ : _ ∧ _ ∧ _ ∧ _ := by simpa only [State.thermalView, Prod.mk.injEq] using u.crossings_view die
  rw [State.sampled, State.rebin_view, State.heatStep_view]
  simp only [hsensors, habove, htripped, State.hotDies, State.hottest_congr hsensors, hthermal, u]

/-- R187, R189: what a sample leaves of the readings, the thresholds and the hot dies; the package has not tripped by it yet. -/
theorem State.sampled_spec (s : State) (die : Nat) (rd : List Int) :
    let u := s.sampled die rd
    (∀ i < 48, ∀ r, rd[i]? = some r → u.sensors.get? (die * 48 + i) = some r)
    ∧ (∀ p ∈ thresholds, bit (u.above.getD die 0) p.1 = standsAbove (bit (s.above.getD die 0) p.1) p.2 (u.hottest die))
    ∧ u.thermal.contains die = (if s.thermal.contains die then decide (112 * 16 ≤ u.hottest die) else decide (115 * 16 ≤ u.hottest die))
    ∧ u.tripped = s.tripped := by
  intro u
  obtain ⟨hsensors, habove, hthermal, htripped⟩ : _ ∧ _ ∧ _ ∧ _ := by simpa only [State.thermalView, Prod.mk.injEq] using s.sampled_view die rd
  obtain ⟨habove0, hthermal0, htripped0⟩ : _ ∧ _ ∧ _ := by simpa only [Prod.mk.injEq] using s.readSensors_keeps die rd
  have hhottest : u.hottest die = (s.readSensors die rd).hottest die := State.hottest_congr hsensors die
  refine ⟨fun i hi r hr => ?_, fun p hp => ?_, ?_, htripped.trans htripped0⟩
  · have hread := sensors_readings die hi 0 hr s
    rw [Nat.zero_add] at hread
    exact hsensors ▸ hread
  · rw [habove, SMap.getD_set, if_pos rfl, hhottest, State.bit_standing _ _ p hp, habove0]
  · rw [hthermal, State.contains_hotDies, hthermal0, hhottest]

/-- R189: the state in which the package has tripped on a die, with the fatal dump to come. -/
def State.trip (s : State) (die : Nat) : State :=
  let t := ({ s with tripped := true } : State).postDie (s.parts.map fun x => x.1) die 0x0D (s.hottestSensor die) (wrap (s.hottest die) 64)
  { t with todo := t.todo ++ [.dump 0x3C0 die] }

theorem State.trip_view (s : State) (die : Nat) : (s.trip die).thermalView = (s.sensors, s.above, s.thermal, true) :=
  State.postDie_view State.thermalView (fun _ _ => rfl) ..

/-- R189: at 125 °C the package trips, once. -/
theorem State.tripped_of_hot (s : State) (die : Nat) :
    let t := if 125 * 16 ≤ s.hottest die && !s.tripped then s.trip die else s
    t.thermalView = (s.sensors, s.above, s.thermal, s.tripped || decide (125 * 16 ≤ s.hottest die))
    ∧ (125 * 16 ≤ s.hottest die → s.tripped = false → .dump 0x3C0 die ∈ t.todo) := by
  intro t
  by_cases h : 125 * 16 ≤ s.hottest die ∧ s.tripped = false
  · have ht : t = s.trip die := if_pos (by simpa using h)
    refine ⟨?_, fun _ _ => ht ▸ List.mem_append_right _ (List.mem_singleton.mpr rfl)⟩
    rw [ht, State.trip_view, decide_eq_true h.1, Bool.or_true]
  · have ht : t = s := if_neg (by simpa using h)
    refine ⟨?_, fun hhot hfirst => absurd ⟨hhot, hfirst⟩ h⟩
    have htripped : (s.tripped || decide (125 * 16 ≤ s.hottest die)) = s.tripped := by
      cases hs : s.tripped
      · exact decide_eq_false fun hhot => h ⟨hhot, hs⟩
      · rfl
    rw [ht, htripped]
    rfl

theorem execSensorSample_eq (s : State) (die : Nat) (rd : List Int) :
    exec (.sensorSample die rd) s = .next (let u := s.sampled die rd; if 125 * 16 ≤ u.hottest die && !u.tripped then u.trip die else u) := rfl

/-! ### LEASE_EXPIRY and OPPOINT -/

/-- R186: a lease whose time has run out ends with reason 1, and is suspended no longer. -/
theorem execLeaseExpiry_ends {s : State} {p : Nat} {le : Lease} (hl : (s.part p).lease = some le) (h0 : le.left = 0) : exec (.leaseExpiry p) s = .next
    ((({ s with suspended := s.suspended.filter (· != p) } : State).modPart p fun x => { x with lease := none }).post { part := p, type := 0x09, arg0 := 1, arg1 := 0 }) := by
  simp only [exec, execLeaseExpiry, State.endLease, State.postPart, hl, h0, if_true]

/-- Settles O41: a string's step by what it reads of the state before the interval's first one, a lease through the suspensions, and a die by its readings. -/
theorem powerEvents : Obligations.PowerEvents := by
  unfold Obligations.PowerEvents
  intro avg peak p die k n mA ms rd le s x mean home capped
  refine ⟨⟨_, rfl, fun ⟨hhomes, hk, hn⟩ => ?_⟩, ⟨_, rfl, fun ⟨hhomes, hk, hn⟩ => ?_⟩, ⟨_, rfl, fun ⟨hhomes, hk, hn⟩ => ?_⟩, fun hp ha ho => ?_, fun hp more ho hl => ?_,
    fun hp ha hs => ?_, fun hp ha hs hsus hl => ?_, fun hp hlo ha => ?_, execLeaseExpiry_ends, ?_, fun hfire => congrArg _ (if_neg (not_lt.mpr hfire)), fun o ho => ?_⟩
  · rw [State.str_intervalStart hhomes hk hn]
    exact ⟨rfl, rfl, rfl, rfl, rfl, rfl, rfl, rfl, rfl, rfl, fun i hi => Str.divide_div _ _ _ hi, rfl⟩
  · rw [State.str_tokenInstalment hhomes hk hn]
    exact ⟨rfl, rfl, rfl, rfl, rfl⟩
  · rw [State.str_intervalEnd hhomes hk hn fun k n => ((ms.find? fun m => m.core == k && m.str == n).map Meas.mA).getD [0, 0, 0, 0]]
    exact ⟨rfl, rfl, rfl, rfl⟩
  · rw [execPowerCapAction_over hp, ho, suspendLeases, State.lowerScale_of_none ((s.suspendOrder_measured avg).trans ho), State.measured_of_le ha]
  · rw [execPowerCapAction_over hp, ho]
    obtain ⟨hlease, hlisted, havg⟩ := (suspendLeases_cons_caps (s := s.measured avg) hl more).lowerScale
    exact ⟨_, rfl, hlease, hlisted, havg⟩
  · have hmin : min 64 (s.scale + 1) = s.scale + 1 := by omega
    rw [execPowerCapAction_within hp (by omega), if_pos ha, State.measured_of_le (by omega), State.raiseScale]
    exact congrArg _ ((if_neg (by dsimp only; omega)).trans (by dsimp only; rw [hmin]))
  · rw [execPowerCapAction_within hp (by omega), if_pos ha]
    exact ⟨_, rfl, State.raiseScale_resumes hs hsus hl⟩
  · rw [execPowerCapAction_within hp ha, if_neg (not_lt.mpr hlo), State.measured_of_le ha]
  · obtain ⟨hsensors, habove, hthermal, htripped⟩ := s.sampled_spec die rd
    obtain ⟨hview, hdump⟩ := (s.sampled die rd).tripped_of_hot die
    obtain ⟨hsensors', habove', hthermal', htripped'⟩ : _ ∧ _ ∧ _ ∧ _ := by simpa only [State.thermalView, Prod.mk.injEq] using hview
    refine ⟨_, execSensorSample_eq s die rd, ?_⟩
    rw [State.hottest_congr hsensors', hsensors', habove', hthermal', htripped', htripped]
    exact ⟨hsensors, habove, hthermal, rfl, fun hhot hs => hdump hhot (htripped.trans hs)⟩
  · simp only [exec, execOppoint, ho]
    exact ⟨fun hv => congrArg _ (if_pos hv), fun hv => congrArg _ (if_neg hv)⟩

end Sys2Proof.Machine
end
